-- ==== Sys2Proof/Word.lean ====
section
/-! DEFINITION. The word types of the SPX-9192 and their plainest conversions. -/

namespace Sys2Proof

/-- A byte of memory or of a message. -/
abbrev Byte := BitVec 8

/-- A 64-bit register value (general, system or register-space register). -/
abbrev Word := BitVec 64

/-- A 512-bit vector register, which is also the data of one 64-byte line. -/
abbrev Line := BitVec 512

/-- A 52-bit system physical address (R305). -/
abbrev PAddr := BitVec 52

end Sys2Proof
end

