-- ==== Sys2Proof/Syntax.lean ====
section
/-! DEFINITION. The commands of the block, one constructor per row of spec/opcode_table.json, in the table's order,
and the operand types they carry. What the outside world answers (a sensor reading, a training result, a partner's
identity) is an operand of the command that meets it (assumption log 1). -/

namespace Sys2Proof

/-- A socket's position in the cube, which is its socket ID (R11). -/
abbrev Sock := Fin 16

/-- One core: 0 to 207 are the Z64 server cores (R5), 208 to 211 the Wheelhouse management cores 0xF00 to 0xF03
(assumption log 10). -/
structure Hart where
  sock : Sock
  core : Fin 212
  deriving DecidableEq, Repr

/-- A general register number (R54). -/
abbrev GReg := BitVec 5

/-- A vector register number (R54). -/
abbrev VReg := BitVec 5

/-- A predicate register number: the low three bits of its five-bit field (R54). -/
abbrev PReg := BitVec 3

/-- The V-format operands (R54): registers, governing predicate, element width code and Z. -/
structure VOp where
  vd : VReg
  va : VReg
  vb : VReg
  pg : PReg
  w : Fin 4
  z : Bool
  deriving DecidableEq, Repr

/-- An atomic's operands (R65): registers, size (doubleword or word) and order annotation (R89). -/
structure AOp where
  rd : GReg
  ra : GReg
  rb : GReg
  dword : Bool
  order : Fin 4
  deriving DecidableEq, Repr

/-- Who makes a register or memory request: master ID (R5), berth ID (R23), and whether it comes from a core at level
H or W (R32). -/
structure Requester where
  master : BitVec 16
  berth : BitVec 6
  high : Bool
  deriving DecidableEq, Repr

/-- An agent that sends or receives mesh messages (R257). `target` is a socket's device target: its register-space
decoder, interrupt router, root ports and device-mapped memory. -/
inductive Node where
  | core (s : Sock) (c : Fin 212)
  | slice (s : Sock) (pod : Fin 104)
  | home (s : Sock) (hub : Fin 2)
  | ferry (s : Sock) (e : Fin 4) (f : Fin 256)
  | port (s : Sock) (p : Fin 32)
  | wheel (s : Sock)
  | target (s : Sock)
  deriving DecidableEq, Repr

/-- The message types of R257. -/
inductive MsgType where
  | rds | rdc | rdm | upg | evs | evc | nrd | drd | hrds | hrdm | hupg | hevs
  | fwds | fwdm | fwdr | inv | binv | hprs | hprm | hprr | ack | fack | pack | cmpack | grant | wback | retry
  | dats | date | datm | wbm | wbs | nwr | pwr | atm | atr | dwr | drsp
  deriving DecidableEq, Repr

/-- A message: the header fields of R256 with the agents in place of landings, and the 64-byte payload with its poison
bit (R208). `len` is the number of bytes of a device access. -/
structure Msg where
  ty : MsgType
  src : Node
  dst : Node
  berth : BitVec 6
  master : BitVec 16
  txn : BitVec 12
  age : BitVec 20
  aux : Bool
  addr : PAddr
  len : BitVec 7
  data : Line
  poison : Bool
  deriving DecidableEq, Repr

/-- A crossing flit (R283): header, slots 0 to 14 (slot 0 lowest) and CRC. -/
structure Flit where
  hdr : Word
  slots : BitVec 1920
  crc : Word
  deriving DecidableEq, Repr

/-- What a DIMM's SPD shows (R309): RDIMM or 3DS RDIMM with ECC or another module, device width, density in Gb, stack
height, physical ranks, and rated speed in MT/s. -/
structure Dimm where
  rdimm : Bool
  ecc : Bool
  width : Nat
  density : Nat
  stack : Nat
  ranks : Nat
  mtps : Nat
  deriving DecidableEq, Repr

/-- The fuses of a part (R485, R487, R495): four key-hash slots, their revoke fuses, the blown SVN bits, the unique
secret, the pods that passed test and the stepping. -/
structure Fuses where
  hash0 : BitVec 256
  hash1 : BitVec 256
  hash2 : BitVec 256
  hash3 : BitVec 256
  revoked : BitVec 4
  svn : Nat
  secret : BitVec 256
  pods : BitVec 8
  step : BitVec 8
  deriving DecidableEq, Repr

/-- What a cold start finds outside the socket's logic: straps (R520), clock locks (R460), the flash device (R477) with
its contents when they were reprogrammed and its read errors (bits 0 and 1: the headers of copies A and B cannot be read;
bits 2 and 3: their bodies), the fuses when they differ, DIMMs by slot (R311), the channels that train in
time (R327), and the volatile capacity in GiB of each expander on the CXL ports (R319). -/
structure Board where
  sockId : BitVec 4
  role : BitVec 2
  autoOn : Bool
  testEn : Bool
  rootLock : Bool
  timeLock : Bool
  flashOk : Bool
  flash : Option (List (Nat × BitVec 8))
  flashBad : BitVec 4
  fuses : Option Fuses
  dimms : List (Fin 12 × Fin 2 × Dimm)
  farTrained : BitVec 12
  nearTrained : BitVec 16
  expanders : List (Fin 4 × Nat)
  deriving DecidableEq, Repr

/-- The outcome of a controller's read of a line of DRAM (R353, R357): clean, correctable (in a device, marked or not)
or uncorrectable. -/
inductive ReadResult where
  | clean
  | correctable (device : Fin 10)
  | uncorrectable
  deriving DecidableEq, Repr

/-- A trap cause of R99 other than FRAME, which the entry itself makes. -/
inductive Cause where
  | il | pv | al | mt | trFetch | trLoad | trStore | ow | ra | pc | trap | brk | bus | tr2
  deriving DecidableEq, Repr

/-- A device request (R422 to R427): port, bus address, length, whether its address is translated, whether it has a PASID prefix, and
whether it has the Relaxed Ordering attribute. -/
structure DmaReq where
  sock : Sock
  port : Fin 32
  addr : BitVec 64
  len : Nat
  translated : Bool
  pasid : Bool
  relaxed : Bool
  deriving DecidableEq, Repr

/-- The commands. -/
inductive Instr where
  -- register space and resets
  | registerWrite (q : Requester) (s : Sock) (off : BitVec 32) (size : Fin 4) (v : Word)
  | coldReset (s : Sock) (b : Board)
  | warmReset (s : Sock) (farTrained : BitVec 12) (nearTrained : BitVec 16)
  | berthReset (b : BitVec 6)
  | podReset (s : Sock) (pod : Fin 104)
  | coreReset (h : Hart)
  | whr (s : Sock) (reverified : Bool)
  | flr (s : Sock) (e : Fin 4) (f : Fin 256)
  | standbyBootTimeout (s : Sock) (flashOk : Bool)
  -- change orders
  | submit (s : Sock) (slip : BitVec 8)
  | removalAck (s : Sock) (slip : BitVec 8)
  | drainTimeout
  | epochBoundary (s : Sock)
  -- Z64 integer instructions (R57)
  | add (h : Hart) (rd ra rb : GReg) | sub (h : Hart) (rd ra rb : GReg)
  | and (h : Hart) (rd ra rb : GReg) | or (h : Hart) (rd ra rb : GReg) | xor (h : Hart) (rd ra rb : GReg)
  | andn (h : Hart) (rd ra rb : GReg)
  | sll (h : Hart) (rd ra rb : GReg) | srl (h : Hart) (rd ra rb : GReg) | sra (h : Hart) (rd ra rb : GReg)
  | rotr (h : Hart) (rd ra rb : GReg)
  | slt (h : Hart) (rd ra rb : GReg) | sltu (h : Hart) (rd ra rb : GReg)
  | min (h : Hart) (rd ra rb : GReg) | max (h : Hart) (rd ra rb : GReg)
  | minu (h : Hart) (rd ra rb : GReg) | maxu (h : Hart) (rd ra rb : GReg)
  | mul (h : Hart) (rd ra rb : GReg) | mulh (h : Hart) (rd ra rb : GReg) | mulhu (h : Hart) (rd ra rb : GReg)
  | div (h : Hart) (rd ra rb : GReg) | divu (h : Hart) (rd ra rb : GReg)
  | rem (h : Hart) (rd ra rb : GReg) | remu (h : Hart) (rd ra rb : GReg)
  | sextb (h : Hart) (rd ra : GReg) | sexth (h : Hart) (rd ra : GReg) | sextw (h : Hart) (rd ra : GReg)
  | zextw (h : Hart) (rd ra : GReg)
  | addi (h : Hart) (rd ra : GReg) (imm : BitVec 16) | andi (h : Hart) (rd ra : GReg) (imm : BitVec 16)
  | ori (h : Hart) (rd ra : GReg) (imm : BitVec 16) | xori (h : Hart) (rd ra : GReg) (imm : BitVec 16)
  | slti (h : Hart) (rd ra : GReg) (imm : BitVec 16) | sltiu (h : Hart) (rd ra : GReg) (imm : BitVec 16)
  | slli (h : Hart) (rd ra : GReg) (sh : BitVec 6) | srli (h : Hart) (rd ra : GReg) (sh : BitVec 6)
  | srai (h : Hart) (rd ra : GReg) (sh : BitVec 6) | rori (h : Hart) (rd ra : GReg) (sh : BitVec 6)
  | setq (h : Hart) (rd : GReg) (q : Fin 4) (imm : BitVec 16)
  | insq (h : Hart) (rd : GReg) (q : Fin 4) (imm : BitVec 16)
  -- scalar floating point (R59); `d` selects binary64
  | fadd (h : Hart) (d : Bool) (rd ra rb : GReg) | fsub (h : Hart) (d : Bool) (rd ra rb : GReg)
  | fmul (h : Hart) (d : Bool) (rd ra rb : GReg) | fdiv (h : Hart) (d : Bool) (rd ra rb : GReg)
  | fsqrt (h : Hart) (d : Bool) (rd ra : GReg)
  | fmin (h : Hart) (d : Bool) (rd ra rb : GReg) | fmax (h : Hart) (d : Bool) (rd ra rb : GReg)
  | feq (h : Hart) (d : Bool) (rd ra rb : GReg) | flt (h : Hart) (d : Bool) (rd ra rb : GReg)
  | fle (h : Hart) (d : Bool) (rd ra rb : GReg)
  | fcvtI (h : Hart) (d : Bool) (rd ra : GReg) | fcvtF (h : Hart) (d : Bool) (rd ra : GReg)
  | fcvtW (h : Hart) (d : Bool) (rd ra : GReg)
  | fma (h : Hart) (d : Bool) (rd ra rb rc : GReg) | fms (h : Hart) (d : Bool) (rd ra rb rc : GReg)
  | fnma (h : Hart) (d : Bool) (rd ra rb rc : GReg) | fnms (h : Hart) (d : Bool) (rd ra rb rc : GReg)
  -- loads and stores (R61)
  | lb (h : Hart) (rd ra : GReg) (imm : BitVec 16) | lbu (h : Hart) (rd ra : GReg) (imm : BitVec 16)
  | lh (h : Hart) (rd ra : GReg) (imm : BitVec 16) | lhu (h : Hart) (rd ra : GReg) (imm : BitVec 16)
  | lw (h : Hart) (rd ra : GReg) (imm : BitVec 16) | lwu (h : Hart) (rd ra : GReg) (imm : BitVec 16)
  | ld (h : Hart) (rd ra : GReg) (imm : BitVec 16)
  | sb (h : Hart) (rs ra : GReg) (imm : BitVec 16) | sh (h : Hart) (rs ra : GReg) (imm : BitVec 16)
  | sw (h : Hart) (rs ra : GReg) (imm : BitVec 16) | sd (h : Hart) (rs ra : GReg) (imm : BitVec 16)
  | vl (h : Hart) (vd : VReg) (ra : GReg) (imm : BitVec 16) | vs (h : Hart) (vs : VReg) (ra : GReg) (imm : BitVec 16)
  | ldx (h : Hart) (rd ra rb : GReg) (size : Fin 4) (zext : Bool) (scale : Fin 4) (vector : Bool)
  | stx (h : Hart) (rs ra rb : GReg) (size : Fin 4) (scale : Fin 4) (vector : Bool)
  -- atomics (R65)
  | aadd (h : Hart) (o : AOp) | aand (h : Hart) (o : AOp) | aor (h : Hart) (o : AOp) | axor (h : Hart) (o : AOp)
  | amin (h : Hart) (o : AOp) | amax (h : Hart) (o : AOp) | aminu (h : Hart) (o : AOp) | amaxu (h : Hart) (o : AOp)
  | aswap (h : Hart) (o : AOp) | cas (h : Hart) (o : AOp)
  -- vector arithmetic (R67)
  | vadd (h : Hart) (o : VOp) | vsub (h : Hart) (o : VOp) | vmul (h : Hart) (o : VOp)
  | vand (h : Hart) (o : VOp) | vor (h : Hart) (o : VOp) | vxor (h : Hart) (o : VOp)
  | vshl (h : Hart) (o : VOp) | vshr (h : Hart) (o : VOp) | vsra (h : Hart) (o : VOp)
  | vmin (h : Hart) (o : VOp) | vmax (h : Hart) (o : VOp) | vminu (h : Hart) (o : VOp) | vmaxu (h : Hart) (o : VOp)
  | vsel (h : Hart) (o : VOp) | vpopc (h : Hart) (o : VOp)
  | vfadd (h : Hart) (o : VOp) | vfsub (h : Hart) (o : VOp) | vfmul (h : Hart) (o : VOp) | vfdiv (h : Hart) (o : VOp)
  | vfmin (h : Hart) (o : VOp) | vfmax (h : Hart) (o : VOp)
  -- vector compare, gather, scatter, unpack, moves (R68, R69, R74)
  | vcmp (h : Hart) (o : VOp) (d : Bool) (cond : Fin 8)
  | vgath (h : Hart) (vd : VReg) (ra : GReg) (vb : VReg) (pg : PReg) (w : Fin 4) (scale : Fin 4)
  | vscatt (h : Hart) (vd : VReg) (ra : GReg) (vb : VReg) (pg : PReg) (w : Fin 4) (scale : Fin 4)
  | vunpk (h : Hart) (vd : VReg) (ra rb : GReg) (k : Fin 32)
  | vbcast (h : Hart) (w : Fin 4) (vd : VReg) (ga : GReg)
  | vext (h : Hart) (w : Fin 4) (gd : GReg) (va : VReg) (gb : GReg)
  | vins (h : Hart) (w : Fin 4) (vd : VReg) (ga gb : GReg)
  | vcomp (h : Hart) (w : Fin 4) (vd va : VReg) (pb : PReg)
  | pand (h : Hart) (pd pa pb : PReg) | por (h : Hart) (pd pa pb : PReg) | pxor (h : Hart) (pd pa pb : PReg)
  | pnot (h : Hart) (pd pa : PReg)
  | pmov (h : Hart) (pd : PReg) (ga : GReg) | pget (h : Hart) (gd : GReg) (pa : PReg)
  | pcnt (h : Hart) (w : Fin 4) (gd : GReg) (pa : PReg)
  -- database instructions (R71 to R73)
  | crc32cB (h : Hart) (rd ra rb : GReg) | crc32cH (h : Hart) (rd ra rb : GReg)
  | crc32cW (h : Hart) (rd ra rb : GReg) | crc32cD (h : Hart) (rd ra rb : GReg)
  | crc64B (h : Hart) (rd ra rb : GReg) | crc64H (h : Hart) (rd ra rb : GReg)
  | crc64W (h : Hart) (rd ra rb : GReg) | crc64D (h : Hart) (rd ra rb : GReg)
  | hmix (h : Hart) (rd ra rb : GReg) | popc (h : Hart) (rd ra : GReg) | selb (h : Hart) (rd ra rb : GReg)
  | clz (h : Hart) (rd ra : GReg) | ctz (h : Hart) (rd ra : GReg) | bswap (h : Hart) (rd ra : GReg)
  -- control transfer (R76 to R79); `n` of SKIP is the field n - 1
  | bc (h : Hart) (ra rb : GReg) (cond : Fin 8) (a : Bool) (off : BitVec 12)
  | bz (h : Hart) (ra : GReg) (cond : Fin 8) (a : Bool) (off : BitVec 17)
  | skip (h : Hart) (ra rb : GReg) (cond : Fin 8) (n : Fin 4)
  | j (h : Hart) (off : BitVec 26) | jal (h : Hart) (off : BitVec 26)
  | jalr (h : Hart) (rd ra : GReg) (imm : BitVec 16)
  -- system instructions (R82)
  | sysr (h : Hart) (rd : GReg) (n : BitVec 12) | sysw (h : Hart) (n : BitVec 12) (rs : GReg)
  | trap (h : Hart) (imm : BitVec 16)
  | fence (h : Hart) | fenceIo (h : Hart) | fenceI (h : Hart) | tret (h : Hart) | wfi (h : Hart) | brk (h : Hart)
  | tlbi (h : Hart) (ra : GReg)
  | illegalInstruction (h : Hart) (word : BitVec 32)
  -- traps and interrupts (R103 to R118)
  | trapEntry (h : Hart) (cause : Cause) (tval : Word)
  | interruptMessage (q : Requester) (s : Sock) (off : BitVec 20) (len : Nat) (data : BitVec 32) (poisoned : Bool)
  | interruptEntry (h : Hart) (late : Option (Fin 1024))
  | sTimer (h : Hart) | hTimer (h : Hart)
  | deviceStoreBusError (h : Hart) (va : Word)
  -- pipeline events (R120 to R160)
  | fetchGroup (h : Hart) | memoryOrderKill (h : Hart) | dependenceKill (h : Hart) | loadReissue (h : Hart)
  | storeBufferWrite (h : Hart) | mdpClear (h : Hart) | usefulShift (h : Hart)
  -- coherence messages (R257)
  | rds (m : Msg) | rdc (m : Msg) | rdm (m : Msg) | upg (m : Msg) | evs (m : Msg) | evc (m : Msg) | nrd (m : Msg)
  | drd (m : Msg) | hrds (m : Msg) | hrdm (m : Msg) | hupg (m : Msg) | hevs (m : Msg)
  | fwds (m : Msg) | fwdm (m : Msg) | fwdr (m : Msg) | inv (m : Msg) | binv (m : Msg)
  | hprs (m : Msg) | hprm (m : Msg) | hprr (m : Msg) | ack (m : Msg) | fack (m : Msg) | pack (m : Msg)
  | cmpack (m : Msg) | grant (m : Msg) | wback (m : Msg) | retry (m : Msg)
  | requestReplay (n : Node) (la : PAddr) | reservationTimeout (s : Sock) (pod : Fin 104) (i : Fin 8)
  | dats (m : Msg) | date (m : Msg) | datm (m : Msg) | wbm (m : Msg) | wbs (m : Msg) | nwr (m : Msg) | pwr (m : Msg)
  | atm (m : Msg) | atr (m : Msg) | dwr (m : Msg) | drsp (m : Msg)
  | unknownMessageType (s : Sock) (landing : Fin 128) (ty : BitVec 6) (master : BitVec 16) (berth : BitVec 6) (addr : PAddr)
  | delayedForwardAnswer (h : Hart)
  | meshHeaderError (s : Sock) (landing : Fin 128) (port : Fin 4) (plane : Fin 3)
  | linkRestart (q : Requester) (s : Sock) (landing : Fin 128) (mask : BitVec 4)
  | lockFill (q : Requester) (s : Sock) (v : Word) | rangeInvalidation (q : Requester) (s : Sock) (v : Word)
  | wayLockWrite (q : Requester) (s : Sock) (lock : BitVec 16)
  | hmapWrite (q : Requester) (s : Sock) (e : Fin 4096) (v : Word)
  -- crossing links and the system (R280 to R302)
  | linkDetect (s : Sock) (k : Fin 8) (lanes : BitVec 17) | linkEqualize (s : Sock) (k : Fin 8) (lanes : BitVec 17)
  | identify (s : Sock) (k : Fin 8) (peer : BitVec 4) (peerLink : BitVec 3)
  | trainingTimeout (s : Sock) (k : Fin 8)
  | linkRetrain (q : Requester) (s : Sock) (k : Fin 8) | linkDisable (q : Requester) (s : Sock) (k : Fin 8) (v : Bool)
  | flit (s : Sock) (k : Fin 8) (f : Flit) | nak (s : Sock) (k : Fin 8) (ack : BitVec 10)
  | laneCheck (s : Sock) (k : Fin 8) (failed : BitVec 17)
  | routeSwitch (at_ : Word) | switchTime (s : Sock)
  | join (s : Sock) (via : Sock) (verified : Bool) | leave (s : Sock) | heartbeat (s : Sock)
  | socketSilent (s silent : Sock) | crossingTimeout (n : Node) (txn : BitVec 12)
  | timeSync (s : Sock) (offset : BitVec 8) | stopMessage (s from_ : Sock)
  -- memory (R319 to R372)
  | channelRetrain (s : Sock) (far : Bool) (ch : Fin 16) (ok : Bool) (ns : BitVec 16)
  | cxlMemTimeout (s : Sock) (port : Fin 4)
  | cxlHotAdd (s : Sock) (port : Fin 4) (gib : Nat) | cxlSurpriseRemoval (s : Sock) (port : Fin 4)
  | scrubRead (s : Sock) (far : Bool) (ch : Fin 16) (r : ReadResult)
  | gddr6CrcRetry (s : Sock) (ch : Fin 16) (write : Bool) (la : PAddr) (retries : Fin 5)
  | uncorrectableReread (s : Sock) (far : Bool) (ch : Fin 16) (la : PAddr) (second : ReadResult)
  | softPpr (s : Sock) (ch : Fin 12) (rank : Fin 16) (sub : Fin 2) (bg : Fin 8) (bank : Fin 4) (row : BitVec 18)
  | softRepair (q : Requester) (s : Sock) (v : Word)
  -- tiering (R340 to R348)
  | copyStart (s : Sock) (hub : Fin 2) | copyWritePhase (s : Sock) (hub : Fin 2) (slot : Fin 8)
  | copyAbandon (s : Sock) (hub : Fin 2) (slot : Fin 8) | tieringEpochEnd (s : Sock)
  | remapCacheFill (s : Sock) (hub : Fin 2) (set : Nat)
  | drain (q : Requester) (s : Sock) (hub : Fin 2) (b : BitVec 6) (v : Bool)
  | modeWrite (q : Requester) (s : Sock) (b : BitVec 6) (mode : BitVec 2)
  | evacuationRun (q : Requester) (s : Sock) (hub : Fin 2) (r : Fin 32) | revert (q : Requester) (s : Sock) (hub : Fin 2) (r : Fin 32)
  -- fault collection (R374 to R391, R543)
  | faultMessage (s : Sock) | force (q : Requester) (s : Sock) (src : BitVec 12) (v : Word)
  | pop (q : Requester) (s : Sock) | firstRearm (q : Requester) (s : Sock)
  | errLogRearm (q : Requester) (s : Sock) (src : BitVec 12)
  | fenceStateWrite (q : Requester) (s : Sock) (n : Fin 512) (st : BitVec 2)
  | quietPeriodEnd (s : Sock) (n : Fin 512) (passed : Bool)
  | xdirClr (q : Requester) (s : Sock) (hub : Fin 2)
  -- ferry engines and the host bus (R394 to R428); a descriptor operation runs the descriptor at a queue's HEAD
  | feDb (q : Requester) (s : Sock) (e : Fin 4) (f : Fin 256) (i : Fin 4096) (tail : BitVec 16)
  | nop (s : Sock) (e : Fin 4) (f : Fin 256) (i : Fin 4096) | copy (s : Sock) (e : Fin 4) (f : Fin 256) (i : Fin 4096)
  | fill (s : Sock) (e : Fin 4) (f : Fin 256) (i : Fin 4096) | compare (s : Sock) (e : Fin 4) (f : Fin 256) (i : Fin 4096)
  | comparePat (s : Sock) (e : Fin 4) (f : Fin 256) (i : Fin 4096) | crc32c (s : Sock) (e : Fin 4) (f : Fin 256) (i : Fin 4096)
  | crc64 (s : Sock) (e : Fin 4) (f : Fin 256) (i : Fin 4096) | copyCrc32c (s : Sock) (e : Fin 4) (f : Fin 256) (i : Fin 4096)
  | copyCrc64 (s : Sock) (e : Fin 4) (f : Fin 256) (i : Fin 4096) | deflateC (s : Sock) (e : Fin 4) (f : Fin 256) (i : Fin 4096)
  | deflateD (s : Sock) (e : Fin 4) (f : Fin 256) (i : Fin 4096) | lz4C (s : Sock) (e : Fin 4) (f : Fin 256) (i : Fin 4096)
  | lz4D (s : Sock) (e : Fin 4) (f : Fin 256) (i : Fin 4096)
  | descriptorCompletion (s : Sock) (e : Fin 4) (f : Fin 256) (i : Fin 4096)
  | bmeClear (q : Requester) (s : Sock) (e : Fin 4) (f : Fin 256) | bmeSet (q : Requester) (s : Sock) (e : Fin 4) (f : Fin 256)
  | engineReset (q : Requester) (s : Sock) (e : Fin 4)
  | commit (q : Requester) (s : Sock) (e : Fin 4) (f : Fin 256)
  | cplTimeout (n : Node) (txn : BitVec 12) | tagQuarantineEnd (s : Sock) (e : Fin 4) (f : Fin 256) (tag : BitVec 14)
  | msiXMessage (s : Sock) (e : Fin 4) (f : Fin 256) (vec : Fin 2048)
  | dmaRead (r : DmaReq) | dmaWrite (r : DmaReq) (bytes : List Byte) (poisoned : Bool)
  | peerRequest (r : DmaReq) (write : Bool) (bytes : List Byte)
  | surpriseRemoval (s : Sock) (port : Fin 32) (dpc : Bool)
  | configAccess (q : Requester) (s : Sock) (off : BitVec 30) (size : Fin 4) (write : Bool) (v : Word)
  | pxIdeKey (q : Requester) (s : Sock) (port : Fin 32) (slot : Fin 8) (i : Fin 8) (v : Word)
  -- slips, doorbells, bollards (R433 to R443)
  | post (q : Requester) (s : Sock) (slip : BitVec 8) (len : BitVec 5)
  | mbDone (q : Requester) (s : Sock) (slip : BitVec 8)
  | mbCfgWrite (q : Requester) (s : Sock) (slip : BitVec 8) (v : Word)
  | dbPendClear (q : Requester) (s : Sock) (r : Fin 256) (mask : BitVec 32)
  | bollardRead (q : Requester) (s : Sock) (b : Fin 64) | bollardRelease (q : Requester) (s : Sock) (b : Fin 64) (v : Word)
  | bollardForce (q : Requester) (s : Sock) (b : Fin 64)
  -- counters (R449 to R455)
  | sampleCountZero (h : Hart) (ip : Word) (killed : Bool)
  | snapshot (s : Sock) (b : BitVec 6) | snapshotRecordDone (s : Sock) (b : BitVec 6)
  | uncBerthWrite (q : Requester) (s : Sock) (unit : Fin 256) (i : Fin 4) (b : BitVec 6)
  -- clocks and power (R461 to R474, R529)
  | supplyDip (s : Sock) (rail : Fin 14) | dipEnd (s : Sock) | railResetThreshold (s : Sock) (rail : Fin 14) (b : Board)
  | powerSample (s : Sock) (millivolts milliamperes : List Nat) (answered : BitVec 14)
  | thermalSample (s : Sock) (tiles hubs : List Int)
  | stepChange (s : Sock) (pod : Fin 104) (railReady : Bool)
  | enterMaintain (q : Requester) (s : Sock) | leaveMaintain (q : Requester) (s : Sock)
  | domainSet (q : Requester) (s : Sock) (set : BitVec 28)
  | power (s : Sock) (req : Byte) (b : Board) | service (s : Sock) (op : BitVec 4) (arg : BitVec 16)
  | status (s : Sock) | faults (s : Sock) | identity (s : Sock) | training (s : Sock) (unit : BitVec 12)
  -- start-up and live service (R490 to R512)
  | joinWaitExpiry (s : Sock) | berthRelease (b : BitVec 6)
  | attestation (q : Requester) (s : Sock) (b : BitVec 6) (v : Word)
  | firmwareUpdate (s : Sock) (image : List Byte) | activate (s : Sock)
  | microcodeRollOut (s : Sock) | podQuiesce (s : Sock) (pod : Fin 104)
  | sparePodSubstitution (s : Sock) (pod : Fin 104)
  | channelRemoval (s : Sock) (ch : Fin 12) | channelReturn (s : Sock) (ch : Fin 12) (dimms : List Dimm) (trained : Bool)
  | expanderRemoval (s : Sock) (port : Fin 4) | reAdmission (s : Sock) (n : Fin 512) (passed : Bool)
  | coreCtlReset (q : Requester) (h : Hart) | coreCtlGo (q : Requester) (h : Hart)
  | atomicopRequest (r : DmaReq) (op : Fin 3) (size : Fin 3) (a b : BitVec 128)
  | hotPlugInsertion (s : Sock) (port : Fin 32) (speed : BitVec 4) (width : BitVec 5)
  | flrReadEnd (s : Sock) (e : Fin 4) (f : Fin 256)
  | queueEnable (q : Requester) (s : Sock) (e : Fin 4) (f : Fin 256) (i : Fin 4096) (v : Word)
  | mbDataWrite (q : Requester) (s : Sock) (slip : BitVec 8) (i : Fin 16) (v : Word)
  | jtagTestRequest (s : Sock) | timeBaseLockLoss (s : Sock)
  deriving DecidableEq, Repr

end Sys2Proof
end

