-- ==== Sys2Proof/Decode.lean ====
section
/-! DEFINITION. The words of the opcode table: no row of spec/opcode_table.json gives a command any bits, so no word
spells one. Which 32-bit words are listed encodings of Z64 (R54, R55): the others are illegal instructions. -/

namespace Sys2Proof

/-! ### Listed encodings of Z64 -/

/-- The Z64 words that are listed in R55's groups. -/
def majorListed (m : Nat) : Bool :=
  (1 ≤ m && m ≤ 0x0A) || m = 0x0C || m = 0x0D || (0x10 ≤ m && m ≤ 0x16) || (0x18 ≤ m && m ≤ 0x1E) || m = 0x20 ||
    m = 0x24 || (0x28 ≤ m && m ≤ 0x2C) || (0x30 ≤ m && m ≤ 0x32) || (0x34 ≤ m && m ≤ 0x36) || (0x38 ≤ m && m ≤ 0x3B)

/-- A field of an instruction word. -/
def wfield (w : BitVec 32) (hi lo : Nat) : Nat := (w.toNat >>> lo) % 2 ^ (hi + 1 - lo)

/-- A p register's field has zero upper bits (R54). -/
def pOk (w : BitVec 32) (lo : Nat) : Bool := wfield w (lo + 4) (lo + 3) = 0

/-- Whether a word is a listed encoding (R54, R55): its major opcode and func are listed and its zero fields are
zero. -/
def legalWord (w : BitVec 32) : Bool :=
  let m := wfield w 31 26
  let func := wfield w 10 0
  let rd := wfield w 25 21
  let ra := wfield w 20 16
  let rb := wfield w 15 11
  if m = 0x01 then
    func ≤ 0x00E || (0x010 ≤ func && func ≤ 0x012) || (0x014 ≤ func && func ≤ 0x018) ||
      (0x020 ≤ func && func ≤ 0x023 && rb = 0)
  else if m = 0x08 then wfield w 13 6 = 0
  else if m = 0x09 || m = 0x0A then wfield w 20 18 = 0
  else if m = 0x0C then
    let f := func % 1024
    f ≤ 3 || (f = 4 && rb = 0) || f = 5 || f = 6 || (8 ≤ f && f ≤ 10) || (0x0C ≤ f && f ≤ 0x0E)
  else if m = 0x0D then wfield w 5 3 = 0
  else if m = 0x1E then wfield w 3 0 = 0 && !(func ≥ 1024 && wfield w 7 7 = 1)
  else if m = 0x20 then
    wfield w 3 0 = 0 && (wfield w 7 7 = 0 || wfield w 10 8 = 4 || wfield w 10 8 = 5)
  else if m = 0x24 then func ≤ 0x00D && (!(func = 0x009 || func = 0x00B || func = 0x00C || func = 0x00D) || rb = 0)
  else if m = 0x28 then
    let f := wfield w 4 0
    f ≤ 21 && f ≠ 15 && (f ≠ 13 || wfield w 5 5 = 0) && (f < 16 || 2 ≤ wfield w 7 6)
  else if m = 0x29 then wfield w 5 5 = 0 && wfield w 0 0 = 0 && (wfield w 4 4 = 1 || pOk w 21)
  else if m = 0x2A then wfield w 2 0 = 0 && 2 ≤ wfield w 7 6
  else if m = 0x2B then wfield w 5 0 = 0
  else if m = 0x2C then
    let f := wfield w 8 0
    let wd := wfield w 10 9
    (f = 0 && rb = 0) || f = 1 || f = 2 || (f = 3 && pOk w 11) ||
      (8 ≤ f && f ≤ 10 && wd = 0 && pOk w 11 && pOk w 16 && pOk w 21) ||
      (f = 11 && wd = 0 && rb = 0 && pOk w 16 && pOk w 21) || (f = 12 && wd = 0 && rb = 0 && pOk w 21) ||
      (f = 13 && wd = 0 && rb = 0 && pOk w 16) || (f = 14 && rb = 0 && pOk w 16)
  else if m = 0x32 then wfield w 10 0 = 0
  else if m = 0x38 || m = 0x39 then wfield w 20 12 = 0
  else if m = 0x3A then
    (func = 0x020 && rd = 0 && rb = 0) ||
      (rd = 0 && ra = 0 && rb = 0 && (func ≤ 2 || (0x010 ≤ func && func ≤ 0x012)))
  else if m = 0x3B then rd = 0 && ra = 0
  else majorListed m

/-! ### The opcode table's words -/

/-- The command that a word spells by the table's bits: none, since the table gives no row bits (assumption log 6). -/
def decodeTableWord (_nbits _w : Nat) : Option Instr := none

end Sys2Proof
end

