-- ==== Sys2Proof/Config.lean ====
section
/-! DEFINITION. What the spec leaves open: constants without a body, so that nothing in Lean can evaluate them or prove a
value of them (assumption log 5). -/

namespace Sys2Proof

/-- The free value taken at a point of the run: State.fresh counts the ones already taken. -/
opaque Config.freeValue : Nat → BitVec 64

/-- Free bytes: a compressor's stream, an identity certificate, a training seed record (R400, R495, R480). The first
argument is the point of the run, the second the byte's index. -/
opaque Config.freeByte : Nat → Nat → BitVec 8

/-- The length in bytes of a compressed stream, which the spec bounds only by the formats of R400. -/
opaque Config.freeLength : Nat → Nat

/-- Whether the part detects tininess before rounding: IEEE 754-2019, which R59 follows, lets the implementation choose,
and the spec does not say which. -/
opaque Config.tinyBefore : Bool

/-- Whether a fused multiply-add of zero by infinity with a quiet NaN addend signals invalid: IEEE 754-2019 leaves it to
the implementation. -/
opaque Config.fmaInvalidNan : Bool

/-- Whether a row or column (array code, subarray, row or column, index) of an SRAM array holds a set: the spec gives the
arrays no such geometry. -/
opaque Config.repairHolds : Nat → Nat → Bool → Nat → Nat → Bool

/-- The Device ID of the root ports, which the spec does not give. -/
opaque Config.portDevice : BitVec 16

end Sys2Proof
end

