-- ==== Sys2Proof/Machine/State.lean ====
section
/-! DEFINITION. The state of a Solpex system of sixteen socket positions: plain data, holding every piece of state the
spec names (INVENTORY.md, State), and the queue of waiting commands. -/

namespace Sys2Proof.Machine

/-- A sparse table: rising keys, no entry equal to the table's default. -/
abbrev Tbl (α : Type) := List (Nat × α)

/-- No command of this block ends in a fault: an error of the hardware is a next state (a trap, a log entry, a fault
message, a status), so the type has no constructor and is safe. -/
inductive Fault where
  deriving DecidableEq, Repr

/-- Why a command has no meaning. -/
inductive Refusal where
  /-- Raised by Dispatch.lean for a command whose meaning is not written; safe: the machine stops. -/
  | notModelled (mnemonic : String)
  deriving DecidableEq, Repr

/-- A line with its poison mark. -/
structure PLine where
  data : Line
  poison : Bool
  deriving DecidableEq, Repr

/-- A line of a private cache (R170, R253): physical line address [51:6], owned (E or M) or shared, dirty (M), RRPV of
L2, and its data. -/
structure CLine where
  la : Nat
  own : Bool
  dirty : Bool
  rrpv : Nat
  line : PLine
  deriving DecidableEq, Repr

/-- A miss register (R175): line, whether ownership is wanted, whether a copy is held (UPG), whether it is an L1I or a
prefetch request, refused and to be replayed (R236), invalidated while pending (R182), sent, transaction ID; of an L1I register
the virtual address fetched, of an L1D register which it is (0 one of the 30 for any access, 1 the oldest load's or atomic's, 2
the oldest store-buffer entry's: R177). The loads that wait in an L1D register are the entries of `lq` with a part in its line. -/
structure Miss where
  la : Nat
  own : Bool
  upg : Bool
  fetch : Bool
  prefetch : Bool
  retry : Bool
  killed : Bool
  sent : Bool
  txn : Nat
  age : BitVec 20
  va : Nat
  slot : Nat
  deriving DecidableEq, Repr

/-- A victim-buffer entry (R180, R264, R265): line, whether it still holds it, notice sent. -/
structure Victim where
  la : Nat
  holds : Bool
  dirty : Bool
  sent : Bool
  line : PLine
  deriving DecidableEq, Repr

/-- A store-buffer entry (R133): of cacheable stores the line's first byte, the line's data and the byte masks of the stores
merged in it, oldest first; of a device store the address, its length and its data in the low bytes; the virtual address for
SYS_BERR; `first` marks one that takes no more stores: a split store's first part (R134), or one that has been sent (R250). -/
structure SbEntry where
  pa : Nat
  len : Nat
  stores : List (BitVec 64)
  data : Line
  dev : Bool
  va : Word
  first : Bool
  deriving DecidableEq, Repr

/-- What fetch keeps of the predictor before a branch's own update (R163): the head of the global history, the path history, the
return stack's top pointer and its top entry. -/
structure Checkpoint where
  head : BitVec 11
  path : BitVec 32
  top : BitVec 6
  topVal : Word
  deriving DecidableEq, Repr

/-- A fetched instruction (R120) with its prediction, the address of its fetch group, the checkpoint of R163 of a BC, BZ or JALR
(R122), whether it entered the histories (R157), and the return stack's top pointer and top entry after it. -/
structure Fetched where
  pc : Word
  word : BitVec 32
  taken : Bool
  target : Word
  group : Word
  chk : Option Checkpoint
  enters : Bool
  rtop : BitVec 6
  rtopVal : Word
  poison : Bool
  deriving DecidableEq, Repr

/-- A store in the store queue, before it retires (R132): its address registers (the second with its scale) and offset, its data
register, and its size in bytes. -/
structure StForm where
  ra : Nat
  rb : Option (Nat × Fin 4)
  imm : BitVec 16
  rs : Nat
  vec : Bool
  n : Nat
  deriving DecidableEq, Repr

/-- What an entry of the window is (R119, R127 to R132, R142): a load, a store, a FENCE, or a BC, BZ or JALR that has resolved
(kind code, outcome, direct target, next address, and what was fetched for it). -/
inductive WKind where
  | load
  | store (f : StForm)
  | fence
  | branch (kind : Nat) (taken : Bool) (target npc : Word) (f : Option Fetched)
  deriving DecidableEq, Repr

/-- An unretired instruction that waits behind an older one (R127, R132, R142), or a device load or far atomic that has been
sent: instruction and access address, destination and how the value is written, its parts (physical address and length) and,
once performed, its value, the first poisoned part (virtual and physical address), where it came from (1 L2, 2 beyond) and
whether it made a partial-overlap wait; the kill marks of R128 and R129; the transaction ID of what was sent, and whether that is
an atomic, and one that orders younger loads (R141); its number in the window; of a store, whether its address has been generated
(R129) and whether it is a device store; of a performed load, for each part, the number of the store in the queue that it was forwarded from, or 0; the lines that
a killed fill has delivered to it (R182). -/
structure LqEntry where
  pc : Word
  va : Word
  rd : Nat
  vec : Bool
  signed : Bool
  size : Nat
  parts : List (Nat × Nat)
  value : Option Line
  poison : Option (Word × Nat)
  lvl : Nat
  waited : Bool
  orderKill : Bool
  depKill : Bool
  txn : Nat
  atom : Bool
  acq : Bool
  kind : WKind
  id : Nat
  gen : Bool
  dev : Bool
  src : List Nat
  given : List (Nat × PLine)
  deriving DecidableEq, Repr

/-- A TLB entry (R95, R545): regime H or S, page, size in address bits, output page, permissions, device, global, ASID,
second stage and VMID. -/
structure TlbEntry where
  hreg : Bool
  s2 : Bool
  vpn : Nat
  bits : Nat
  ppn : Nat
  rd : Bool
  wr : Bool
  ex : Bool
  ua : Bool
  dev : Bool
  glob : Bool
  raw : Bool
  asid : BitVec 16
  vmid : BitVec 12
  deriving DecidableEq, Repr

/-- One entry of a tagged table (R156). -/
structure TagEntry where
  tag : Nat
  ctr : Int
  useful : Nat
  deriving DecidableEq, Repr

/-- The branch predictor (R156). Tagged tables are keyed by table × 2048 + index; BTB and L0 by address. `hist` is the circular
buffer of outcomes and `head` its head pointer: outcome i, newest 0, is bit head + i of it, modulo 2048. `rHead`, `rPath` and
`rTop` are the retired copy. -/
structure Predictor where
  base : Tbl Nat
  tagged : Tbl TagEntry
  hist : BitVec 2048
  head : BitVec 11
  path : BitVec 32
  l0 : Tbl (Nat × Word)
  btb : Tbl (Nat × Word)
  indirect : Tbl (Nat × Word)
  ras : Tbl Word
  top : BitVec 6
  rHead : BitVec 11
  rPath : BitVec 32
  rTop : BitVec 6
  resolved : Nat
  deriving DecidableEq, Repr

/-- Why a core executes nothing (R508, R474, R384, R105, R112, R386); `resetting` is a CORE reset whose store buffer has not
drained (R135). -/
inductive RunState where
  | resetting
  | held
  | running
  | waiting
  | parked
  | stopped
  | entryFailed
  | fenced
  deriving DecidableEq, Repr

/-- One core with its private caches and its pipeline's state. `delayed` are the forwards that wait under R260 for the lines
of `recent`, installed within the last 16 core cycles; `far` is the answer of a far atomic: old value, poisoned, and the
slice's report of another holder (R273); `newD` the lines installed in L1D within the last 16 core cycles, oldest first (R183);
`lq` the unretired instructions that wait behind an older one, oldest first; `devOut` the device stores that their targets have not acknowledged (R143), as
transaction ID and virtual address; `was` is what a fenced core returns to (R386, R391); `fillFwd` whether the last fill came from another core or socket (R273). -/
structure Core where
  g : Tbl Word
  v : Tbl Line
  p : Tbl Word
  pc : Word
  sys : Tbl Word
  iv : Tbl Word
  run : RunState
  was : RunState
  annul : Nat
  lq : List LqEntry
  sb : List SbEntry
  mdp : Tbl Bool
  fetchPc : Word
  fetchQ : List Fetched
  devLoad : Option LqEntry
  tlb : List TlbEntry
  l1i : Tbl CLine
  l1d : Tbl CLine
  l2 : Tbl CLine
  plruI : Tbl (BitVec 7)
  plruD : Tbl (BitVec 7)
  missD : List Miss
  missI : List Miss
  missL2 : List Miss
  vic : List Victim
  streams : List (Nat × Nat × Bool × Bool)
  delayed : List Msg
  pred : Predictor
  cont : Tbl (Nat × Nat)
  txn : Nat
  recent : List Nat
  newD : List Nat
  far : Option (Word × Bool × Bool)
  devOut : List (Nat × Word)
  fillFwd : Bool
  deriving DecidableEq, Repr

/-- A directory pointer (R228): pod (or socket) and core mask. -/
structure Ptr where
  who : Nat
  mask : BitVec 2
  deriving DecidableEq, Repr

/-- A slice entry (R228), keyed by set × 16 + way. DSTATE is 0, 1 shared or 2 owned; a pointer slot with mask 0 is
free. -/
structure SEntry where
  la : Nat
  d : Bool
  rrpv : Nat
  dstate : Fin 3
  hail : Bool
  p0 : Ptr
  p1 : Ptr
  p2 : Ptr
  busy : Bool
  line : PLine
  deriving DecidableEq, Repr

/-- A transaction of a slice or home agent on one line (R258, R259, R269): the request; its stage (0 exclusivity wanted
for a line that the entry holds, 3 the line itself wanted, 1 copies being removed, 2 last responses awaited; at a home
agent 9 after a directory hit and 10 plus the summary code after a miss); the pods whose ACK (or sockets whose probe answer) it awaits; whether
it awaits an owner's FACK, the home agent's answer, the requester's CMPACK, or an eviction notice (R266); the data that
memory or a supplier gave; whether another agent supplied the requester; the sockets that answered as sharers. -/
structure Txn where
  la : Nat
  req : Msg
  stage : Nat
  acks : List Nat
  fack : Bool
  home : Bool
  cmp : Bool
  notice : Bool
  data : Option PLine
  supplied : Bool
  holders : List Nat
  deriving DecidableEq, Repr

/-- A reservation register (R238): the request and what it lacked (0 a set, 1 transaction slots, 2 eviction buffers); of a set, the
ways that its berth may use there; kept resource or not. -/
structure Resv where
  req : Msg
  what : Nat
  set : Nat
  ways : BitVec 16
  kept : Bool
  deriving DecidableEq, Repr

/-- An eviction buffer (R233): the entry it back-invalidates and writes back, and the pods it awaits. -/
structure EvBuf where
  ent : SEntry
  acks : List Nat
  deriving DecidableEq, Repr

/-- One LLC slice and its directory (R225). `waiting` are requests for busy lines, `held` the ordered writes
absorbed and not yet released, each with whether its CMPACK has come (R410), `atomics` the lines of far atomics with
the time of the last (R273); `walk` the entries that a range invalidation has still to finish (R243 to R246), as key, line and
whether it has been handled and only its eviction buffer is left; `fencing` the ways whose FENCE bit waits for such a walk (R249). -/
structure Slice where
  ents : Tbl SEntry
  txns : List Txn
  waiting : List Msg
  ev : List EvBuf
  rsv : List Resv
  held : List (Msg × Bool)
  atomics : List (Nat × Nat)
  walk : List (Nat × Nat × Bool)
  fencing : BitVec 16
  deriving DecidableEq, Repr

/-- A crossing-directory entry (R270), keyed by set × 16 + way; sp holds socket IDs. -/
structure XEntry where
  la : Nat
  own : Bool
  sp : List Nat
  hail : Bool
  sumw : Bool
  busy : Bool
  rrpv : Nat
  deriving DecidableEq, Repr

/-- A tiering candidate or a copy in a slot (R340, R342): berth, kind, the page address that enters a frame, the frame's
page address, the page displaced, the heat, whether its pages have been read, the pages it blocks, and the buffer's lines. -/
structure TCopy where
  berth : Nat
  page : Nat
  frame : Nat
  heat : Nat
  read : Bool
  locs : List Nat
  buf : List (Nat × PLine × BitVec 2)
  deriving DecidableEq, Repr

/-- One hub's home agent, crossing directory and tiering engine. Remap-cache lines are keyed by frame and hold the whole
table entry; `queued` are requests whose map entry is held (R247); heat-cache entries are keyed by set × 16 + way as (page, stamp, heat);
`warmed` says that a WARM reset has come since COLD reset (R335). -/
structure Hub where
  txns : List Txn
  waiting : List Msg
  held : List (Msg × Bool)
  rsv : List Resv
  queued : List Msg
  xdir : Tbl XEntry
  unknown : List Nat
  badWays : Tbl Nat
  remap : Tbl (BitVec 32)
  cached : Tbl Bool
  heat : Tbl (Nat × Nat × Nat)
  samples : Nat
  queue : List TCopy
  slots : Tbl TCopy
  done : Tbl Nat
  refused : Tbl Nat
  blocked : List Msg
  warmed : Bool
  deriving DecidableEq, Repr

/-- A blackout that waits until R325 lets it begin: a retraining, which reaches its targets or not, of so many nanoseconds (R323), or
the soft repair of a row (R372). -/
inductive Blackout where
  | retrain (ok : Bool) (ns : Nat)
  | repair (rank sub bg bank row : Nat)
  deriving DecidableEq, Repr

/-- A far or near channel's controller beyond its registers: device error counts by rank × 10 + device, marked devices by
rank, row error counts, soft repairs by rank × 8 + bank group, scrub position, check-line cache, the DIMMs found, self-refresh, CXL
timeouts in a row, and the blackouts that are due and wait (R325). -/
structure Chan where
  devErr : Tbl Nat
  marked : Tbl Nat
  rowErr : Tbl Nat
  sppr : Tbl Nat
  scrub : Nat
  checks : List Nat
  dimms : List Dimm
  selfRefresh : Bool
  cxlTimeouts : Nat
  due : List Blackout
  deriving DecidableEq, Repr

/-- A crossing link beyond its registers (R280 to R290): next SEQ to send, last good SEQ received, NAK to send, replay
buffer, NAKs in a row for one ACK, failed attempts, credits held by plane × 2 + class, credits to return by the same key, slots of a
partly received message, received messages (as slots) that wait for a way on, send hold of a route switch, whether the spare lane has
failed, and whether the lanes have equalized again in RETRAIN. -/
structure XLink where
  seq : Nat
  good : Nat
  nakDue : Bool
  replay : List Flit
  naks : Nat
  nakAck : Nat
  fails : Nat
  credits : Tbl Nat
  owed : Tbl Nat
  part : List (BitVec 128 × Nat)
  rx : List (List (BitVec 128 × Nat))
  hold : Bool
  spareBad : Bool
  equalized : Bool
  deriving DecidableEq, Repr

/-- A fault message of R376 as its 128 bits. -/
abbrev FMsg := BitVec 128

/-- Fault collection beyond its registers (R374 to R389): logs keyed by source × 4 + (INFO, ADDR, TIME, SRC), send
queues by source, the collector queue, running quiet periods (fence-table entries), and the units fenced without an
entry (R388), as source × 256 + sub-unit. -/
structure Faults where
  log : Tbl Word
  send : Tbl (List FMsg)
  queue : List FMsg
  quiet : List Nat
  extra : List Nat
  deriving DecidableEq, Repr

/-- A descriptor in progress (R403): the 64 bytes read, and, once it has ended, its record (status, bytes, result). -/
structure Desc where
  bytes : Line
  ended : Option (BitVec 8 × BitVec 32 × Word)
  deriving DecidableEq, Repr

/-- One ferry function beyond its BAR registers: configuration-space words, MSI-X table and PBA, active peer windows
(base, limit, read, write), descriptors in progress by local queue, held records (queue, entry), tags outstanding and
quarantined, FLR in progress. -/
structure Fn where
  cfg : Tbl (BitVec 32)
  msix : Tbl Word
  pba : Tbl Bool
  active : List (Nat × Nat × Bool × Bool)
  run : Tbl Desc
  heldRec : List (Nat × Desc)
  tags : List (Nat × Bool)
  flr : Bool
  writes : List (Msg × Bool)
  deriving DecidableEq, Repr

/-- One root port beyond its registers: configuration words, outstanding core loads (requester, txn), DPC containment,
presence, PERST_N, IDE keys by slot × 8 + i, IDE keys loaded, outstanding reads, writes awaiting release, expanders with
their capacity in GiB, lost expanders, and CXL.mem requests that will have no response (`due`). -/
structure Port where
  cfg : Tbl (BitVec 32)
  loads : List (Node × Nat)
  present : Bool
  perstLow : Bool
  ide : Tbl Word
  ideLoaded : Tbl Bool
  tags : List (Nat × Bool)
  writes : List (Msg × Bool)
  expanders : List Nat
  lost : Bool
  hotplug : Bool
  sent : List (Nat × Bool × List Byte)
  due : Nat
  deriving DecidableEq, Repr

/-- A snapshot in progress (R451 to R454): due count, shadows, record words, lost since the last record. -/
structure Snap where
  seq : Nat
  lostSince : Nat
  record : List Word
  lines : List Nat
  deriving DecidableEq, Repr

/-- What the Wheelhouse keeps beyond registers: the straps and fuses, flash (unlisted bytes 0xFF), kept and staged
manifest and the journal copy in SRAM, power and thermal history, service and roll-out position, messages waiting behind
each KIND 0 slip, snapshots, route tables awaiting their switch time, heartbeats heard, repairs. `joinDue` is a JOIN
that waits for the end of a change order (R295), with the neighbour that relays it and whether the joiner's check passes; `unreached` says that no manager is
left (R19); `replacing` is the pod whose substitution waits for its slice (R247), `writes` the Wheelhouse's ordered writes without
CMPACK, each with whether its WBACK has come (R410); `reports` are the reports that wait on the management port (R14, R19, R526; assumption log 30); `temps` the last
reading of the four sensors of each tile and hub (R529), `coolSamples` the samples in a row below 100 °C, `watts` the last
100 power samples, newest first, `lowSamples` those in a row with a mean below 95 % of LIMIT (R465). -/
structure Wheel where
  board : Board
  fuses : Fuses
  flash : Tbl (BitVec 8)
  kept : List Byte
  staged : List Byte
  journal : List (List Byte)
  keptSource : Nat
  role : BitVec 2
  joinWaiting : Bool
  joinDue : Option (Nat × Bool)
  released : List Nat
  zeroed : List Nat
  ucode : Word
  slipWait : Tbl (List (Bool × List Word))
  snaps : Tbl Snap
  routes : Option (Word × Tbl Word)
  heard : Tbl Word
  sleeping : Bool
  fatal : Nat
  thermtrip : Bool
  thermDemand : Nat
  tdpDemand : Nat
  thermRaised : Word
  tdpRaised : Word
  dipDeferred : List (Bool × Nat)
  dipStart : Word
  resetPending : Bool
  repairs : Tbl Nat
  hepinRecord : List (Nat × Nat)
  spares : List Nat
  enabled : List Nat
  unreached : Bool
  replacing : Option Nat
  writes : List (Msg × Bool)
  reports : List Word
  temps : List Int
  coolSamples : Nat
  watts : List Nat
  lowSamples : Nat
  deriving DecidableEq, Repr

/-- One socket: register space by offset, BAR0 space by offset from the ferry BARs' base, cores, and its units; `slots` are the
berths that hold the slots of the epoch at a mesh arbiter (R37); `meshDown` the mesh links that R222 has stopped, as landing, output
port and plane; `meshQ` the messages that wait in router inputs (R217), keyed by (landing × 6 + input port) × 4 + plane, where DAT's
second lane is 3. -/
structure Socket where
  regs : Tbl Word
  bar : Tbl Word
  cores : Tbl Core
  slices : Tbl Slice
  hubs : Tbl Hub
  chans : Tbl Chan
  links : Tbl XLink
  faults : Faults
  fns : Tbl Fn
  ports : Tbl Port
  wheel : Wheel
  shares : Tbl (Nat × Nat)
  epoch : Nat
  slots : List Nat
  meshDown : List (Nat × Nat × Nat)
  meshQ : Tbl (List Msg)
  deriving DecidableEq, Repr

/-- Everything but the berth tables and the queue. Memory is a canonical list of bytes by physical address; `meta_` holds
summary [1:0] and poison [2] of each line (R314, R316); `net` the messages in flight, oldest first; `inbox` data that
has arrived for a ferry function or port (or a core without L2); `asked` the reads, writes and atomics of agents that have no miss
register for them (R237, R250), each until its answer comes, with whether RETRY has refused it; `again` the requests whose line has
just stopped being busy; `out` the answer of the last command to its sender. -/
structure Dev where
  now : Word
  fresh : Nat
  mem : List Host.Cell
  meta_ : Tbl (BitVec 3)
  net : List Msg
  inbox : List Msg
  asked : List (Msg × Bool)
  again : List Msg
  socks : Tbl Socket
  out : List Word
  deriving DecidableEq, Repr

/-- A range of the range table (R29): first byte, one past the last byte, kind code, berth. -/
structure Range where
  base : Nat
  limit : Nat
  kind : Nat
  berth : Nat
  deriving DecidableEq, Repr

/-- STATE of BT_CTRL (R50). -/
inductive BState where
  | free | building | run | draining | stopped
  deriving DecidableEq, Repr

/-- One operation of a change order (R41). -/
structure COp where
  opcode : Nat
  berth : Nat
  socket : Nat
  cls : Nat
  arg0 : Word
  arg1 : Word
  arg2 : Word
  reserved : BitVec 32
  deriving DecidableEq, Repr

/-- The berth tables of the system (R26, R49): state by berth; way masks by socket × 64 + berth; shares and caps by
(socket × 64 + berth) × 3 + class; owner berth of each pod (socket × 128 + pod), root port (socket × 32 + port) and VF
((socket × 4 + engine) × 256 + VF); queue contexts by (socket × 4 + engine) × 64 + berth; slip owners and kinds are in
MB_CFG. -/
structure Tables where
  state : Tbl BState
  ways : Tbl (BitVec 16)
  shares : Tbl (Nat × Nat)
  pods : Tbl Nat
  ports : Tbl Nat
  vfs : Tbl Nat
  ctxs : Tbl Nat
  ranges : List Range
  admin : Nat
  drain : Nat
  deriving DecidableEq, Repr

/-- A change order being applied (R43, R44): its operations, the index being applied, its bytes, SEQ, the socket and slip
that submitted it, whether the berth's acknowledgement of the present removal is awaited (R44), and whether the slices have still to
finish the invalidations of the present operation (R31, R234). -/
structure Order where
  ops : List COp
  idx : Nat
  bytes : List Byte
  seq : Word
  sock : Nat
  berth : Nat
  waiting : Bool
  settling : Bool
  deriving DecidableEq, Repr

/-- The administration of berths by the manager (R17, R43, R46): the tables in force, the mirrored tables of the last
acknowledged order, the order in progress, the last SEQ, and the sockets present when an order was last acknowledged (R301). -/
structure Admin where
  tab : Tables
  mirror : Tables
  order : Option Order
  seq : Word
  ackPresent : Option (BitVec 16)
  deriving DecidableEq, Repr

/-- The state of the system: the waiting commands, the berth tables, and everything else. -/
structure State where
  pending : List Instr
  adm : Admin
  dev : Dev
  deriving DecidableEq, Repr

/-- A predictor after CORE reset (R155). -/
def Predictor.reset : Predictor :=
  { base := [], tagged := [], hist := 0, head := 0, path := 0, l0 := [], btb := [], indirect := [], ras := [], top := 0,
    rHead := 0, rPath := 0, rTop := 0, resolved := 0 }

/-- A core after CORE reset (R53, R91, R98, R190, R508): held, registers zero, caches empty. -/
def Core.reset : Core :=
  { g := [], v := [], p := [], pc := 0, sys := [], iv := [], run := .held, was := .held, annul := 0, lq := [], sb := [], mdp := [],
    fetchPc := 0, fetchQ := [], devLoad := none, tlb := [], l1i := [], l1d := [], l2 := [], plruI := [], plruD := [],
    missD := [], missI := [], missL2 := [], vic := [], streams := [], delayed := [], pred := Predictor.reset,
    cont := [], txn := 0, recent := [], newD := [], far := none, devOut := [], fillFwd := false }

/-- An empty slice (R251). -/
def Slice.reset : Slice :=
  { ents := [], txns := [], waiting := [], ev := [], rsv := [], held := [], atomics := [], walk := [], fencing := 0 }

/-- An idle hub (R350). -/
def Hub.reset : Hub :=
  { txns := [], waiting := [], held := [], rsv := [], queued := [], xdir := [], unknown := [], badWays := [], remap := [], cached := [], heat := [],
    samples := 0, queue := [], slots := [], done := [], refused := [], blocked := [], warmed := false }

/-- A channel before training. -/
def Chan.reset : Chan :=
  { devErr := [], marked := [], rowErr := [], sppr := [], scrub := 0, checks := [], dimms := [], selfRefresh := false,
    cxlTimeouts := 0, due := [] }

/-- A link before training: the last good SEQ is the one before 0 (assumption log 8). -/
def XLink.reset : XLink :=
  { seq := 0, good := 1023, nakDue := false, replay := [], naks := 0, nakAck := 0, fails := 0, credits := [], owed := [],
    part := [], rx := [], hold := false, spareBad := false, equalized := false }

/-- Fault collection after COLD reset (R392). -/
def Faults.reset : Faults := { log := [], send := [], queue := [], quiet := [], extra := [] }

/-- A ferry function after FLR (R418). -/
def Fn.reset : Fn :=
  { cfg := [], msix := [], pba := [], active := [], run := [], heldRec := [], tags := [], flr := false, writes := [] }

/-- A root port before training. -/
def Port.reset : Port :=
  { cfg := [], loads := [], present := false, perstLow := true, ide := [], ideLoaded := [], tags := [],
    writes := [], expanders := [], lost := false, hotplug := false, sent := [], due := 0 }

/-- A part with no fuse blown but the test results of every A0 part (R1, R8, R22; assumption log 9). -/
def Fuses.blank : Fuses :=
  { hash0 := 0, hash1 := 0, hash2 := 0, hash3 := 0, revoked := 0, svn := 0, secret := 0, pods := 104, step := 0 }

/-- Straps open (0, R520), nothing fitted: the board of a socket no COLD reset has sampled (assumption log 9). -/
def Board.open_ (id : Nat) : Board :=
  { sockId := BitVec.ofNat 4 id, role := 0, autoOn := false, testEn := false, rootLock := false, timeLock := false,
    flashOk := false, flash := none, flashBad := 0, fuses := none, dimms := [], farTrained := 0, nearTrained := 0, expanders := [] }

/-- The Wheelhouse in STANDBY entered from OFF (R471). -/
def Wheel.reset (id : Nat) : Wheel :=
  { board := Board.open_ id, fuses := Fuses.blank, flash := [], kept := [], staged := [], journal := [], keptSource := 0,
    role := 0, joinWaiting := false, joinDue := none, released := [], zeroed := [], ucode := 0, slipWait := [],
    snaps := [], routes := none, heard := [], sleeping := false, fatal := 0, thermtrip := false, thermDemand := 0,
    tdpDemand := 0, thermRaised := 0, tdpRaised := 0, dipDeferred := [], dipStart := 0, resetPending := false, repairs := [], hepinRecord := [], spares := [],
    enabled := [], unreached := false, replacing := none, writes := [], reports := [], temps := [], coolSamples := 0, watts := [], lowSamples := 0 }

/-- A socket in STANDBY, every register at its reset value (unlisted registers read the value of their field map). -/
def Socket.reset (id : Nat) : Socket :=
  { regs := [], bar := [], cores := [], slices := [], hubs := [], chans := [], links := [], faults := Faults.reset,
    fns := [], ports := [], wheel := Wheel.reset id, shares := [], epoch := 0, slots := [], meshDown := [], meshQ := [] }

/-- No berth built; the drain timeout is 100 ms (R44). -/
def Tables.reset : Tables :=
  { state := [], ways := [], shares := [], pods := [], ports := [], vfs := [], ctxs := [], ranges := [], admin := 0,
    drain := 100000 }

/-- No order acknowledged, SEQ 0 (R46). -/
def Admin.reset : Admin :=
  { tab := Tables.reset, mirror := Tables.reset, order := none, seq := 0,
    ackPresent := none }

/-- The machine right after reset: every socket position in STANDBY (PW_MODE.MODE resets to 1), memory with nothing
listed, no command waiting. A position whose COLD_RESET has not run holds no present socket (WH_SYSTEM.PRESENT 0). -/
def State.reset : State :=
  { pending := [], adm := Admin.reset,
    dev := { now := 0, fresh := 0, mem := [], meta_ := [], net := [], inbox := [], asked := [], again := [], socks := [], out := [] } }

end Sys2Proof.Machine
end

