-- ==== Sys2Proof/Machine/Ops.lean ====
section
/-! DEFINITION. The named operations over tables, bit fields, memory and the parts of the state. -/

namespace Sys2Proof.Machine

/-! ### Tables -/

/-- The entry of key `k`, or the table's default. -/
def Tbl.get {α : Type} (dflt : α) (t : Tbl α) (k : Nat) : α :=
  match t with
  | [] => dflt
  | (k', v) :: r => if k' = k then v else Tbl.get dflt r k

/-- Put `v` at `k` in a table whose entries have no default, keeping rising keys rising. -/
def Tbl.put {α : Type} (t : Tbl α) (k : Nat) (v : α) : Tbl α :=
  match t with
  | [] => [(k, v)]
  | (k', v') :: r =>
    if k' = k then (k, v) :: r else if k < k' then (k, v) :: (k', v') :: r else (k', v') :: Tbl.put r k v

/-- Remove the entry of key `k`. -/
def Tbl.erase {α : Type} (t : Tbl α) (k : Nat) : Tbl α :=
  t.filter fun e => e.1 ≠ k

/-- Put `v` at `k`; the default is not listed. -/
def Tbl.set {α : Type} [DecidableEq α] (dflt : α) (t : Tbl α) (k : Nat) (v : α) : Tbl α :=
  if v = dflt then Tbl.erase t k else Tbl.put t k v

/-- Remove every entry whose key satisfies `p`. -/
def Tbl.drop {α : Type} (t : Tbl α) (p : Nat → Bool) : Tbl α :=
  t.filter fun e => !p e.1

/-- The entry of key `k`, if listed. -/
def Tbl.find {α : Type} (t : Tbl α) (k : Nat) : Option α :=
  match t with
  | [] => none
  | (k', v) :: r => if k' = k then some v else Tbl.find r k

/-- Apply `f` to every listed entry. -/
def Tbl.mapV {α : Type} (t : Tbl α) (f : Nat → α → α) : Tbl α :=
  t.map fun e => (e.1, f e.1 e.2)

/-! ### Bit fields, widths, byte order -/

/-- Put a run of entries with rising keys from `lo` to below `hi` in place of what a table holds there. -/
def Tbl.putRun {α : Type} (t : Tbl α) (lo hi : Nat) (run : Tbl α) : Tbl α :=
  (t.filter fun e => e.1 < lo) ++ run ++ t.filter fun e => hi ≤ e.1

/-- Bits [hi:lo] of a number. -/
def nbits (w hi lo : Nat) : Nat := (w >>> lo) % 2 ^ (hi + 1 - lo)

/-- Bits [hi:lo] of a register value. -/
def bits (w : Word) (hi lo : Nat) : Nat := nbits w.toNat hi lo

/-- One bit of a register value. -/
def bit (w : Word) (i : Nat) : Bool := w.getLsbD i

/-- The value with bits [hi:lo] replaced by the low bits of `v`. -/
def putBits (w : Word) (hi lo v : Nat) : Word :=
  let mask : Word := BitVec.ofNat 64 ((2 ^ (hi + 1 - lo) - 1) * 2 ^ lo)
  (w &&& ~~~ mask) ||| (BitVec.ofNat 64 (v * 2 ^ lo) &&& mask)

/-- The value with one bit replaced. -/
def putBit (w : Word) (i : Nat) (b : Bool) : Word := putBits w i i b.toNat

/-- A 64-bit value of a number. -/
def word (n : Nat) : Word := BitVec.ofNat 64 n

/-- Sign-extend the low `n` bits of a value to 64 bits. -/
def sext (n : Nat) (v : Word) : Word := (BitVec.setWidth n v).signExtend 64

/-- Byte `i` of a line, byte 0 lowest (R52: little-endian). -/
def lineByte (l : Line) (i : Nat) : Byte := l.extractLsb' (8 * i) 8

/-- The line of a list of bytes, byte 0 first; missing bytes are zero. -/
def lineOfBytes (bs : List Byte) : Line :=
  match bs with
  | [] => 0
  | b :: r => (lineOfBytes r <<< 8) ||| b.setWidth 512

/-- The first `n` bytes of a line. -/
def lineBytes (l : Line) (n : Nat) : List Byte := (List.range n).map (lineByte l)

/-- The bytes of `l` from `off` on, `n` of them, as the low bytes of a line. -/
def lineSlice (l : Line) (off n : Nat) : Line :=
  (l >>> (8 * off)) &&& (BitVec.ofNat 512 (2 ^ (8 * n) - 1))

/-- `l` with `n` bytes from `off` on replaced by the low bytes of `v`. -/
def lineMerge (l : Line) (off n : Nat) (v : Line) : Line :=
  let mask : Line := BitVec.ofNat 512 ((2 ^ (8 * n) - 1) * 2 ^ (8 * off))
  (l &&& ~~~ mask) ||| ((v <<< (8 * off)) &&& mask)

/-- The bits of a line's bytes that a byte mask selects. -/
def byteMask (m : BitVec 64) : Line :=
  (List.range 64).foldl (fun acc i => if m.getLsbD i then acc ||| (0xFF : Line) <<< (8 * i) else acc) 0

/-- `l` with the bytes that a mask selects taken from `v`. -/
def maskMerge (l v : Line) (m : BitVec 64) : Line := (l &&& ~~~ byteMask m) ||| (v &&& byteMask m)

/-- The mask of `n` bytes from `off` on. -/
def maskOf (off n : Nat) : BitVec 64 := BitVec.ofNat 64 ((2 ^ n - 1) * 2 ^ off)

/-- The number a list of bytes spells, least significant first. -/
def leNat (bs : List Byte) : Nat :=
  match bs with
  | [] => 0
  | b :: r => b.toNat + 256 * leNat r

/-- `n` bytes of a number, least significant first. -/
def leBytes (n v : Nat) : List Byte :=
  match n with
  | 0 => []
  | n + 1 => BitVec.ofNat 8 v :: leBytes n (v / 256)

/-- Take a number's field from a list of bytes at an offset. -/
def leAt (bs : List Byte) (off n : Nat) : Nat := leNat ((bs.drop off).take n)

/-- Set bit positions of a number below `n`, lowest first. -/
def setBitsOf (v n : Nat) : List Nat := (List.range n).filter v.testBit

/-- Split a list into lists of `n`, `fuel` at most. -/
def chunks {α : Type} (fuel n : Nat) (l : List α) : List (List α) :=
  match fuel with
  | 0 => []
  | fuel + 1 => if l.isEmpty then [] else l.take n :: chunks fuel n (l.drop n)

/-- Saturating count of a `w`-bit counter. -/
def satAdd (w v n : Nat) : Nat := Nat.min (2 ^ w - 1) (v + n)

/-! ### Memory: bytes by physical address -/

/-- What a byte nothing has written reads as (assumption log 3). -/
def Memory.unlisted : BitVec 8 := 0

/-- Read one byte. -/
def Memory.read (m : List Host.Cell) (a : Nat) : BitVec 8 := Tbl.get Memory.unlisted m a

/-- Write one byte. -/
def Memory.write (m : List Host.Cell) (a : Nat) (b : BitVec 8) : List Host.Cell := Tbl.set Memory.unlisted m a b

/-- Read `n` bytes from `a` on. -/
def Memory.readN (m : List Host.Cell) (a n : Nat) : List Byte := (List.range n).map fun i => Memory.read m (a + i)

/-- Write bytes from `a` on. -/
def Memory.writeN (m : List Host.Cell) (a : Nat) (bs : List Byte) : List Host.Cell :=
  match bs with
  | [] => m
  | b :: r => Memory.writeN (Memory.write m a b) (a + 1) r

/-- The canonical form: keys rise and no listed byte is the unlisted value. -/
def Memory.wf (m : List Host.Cell) : Bool :=
  match m with
  | [] => true
  | [(_, b)] => decide (b ≠ Memory.unlisted)
  | (a, b) :: (a', b') :: r => decide (b ≠ Memory.unlisted) && decide (a < a') && Memory.wf ((a', b') :: r)

/-! ### Parts of the state -/

/-- A socket. -/
def Dev.sock (d : Dev) (s : Nat) : Socket := (Tbl.find d.socks s).getD (Socket.reset s)

/-- Replace a socket. -/
def Dev.setSock (d : Dev) (s : Nat) (k : Socket) : Dev := { d with socks := Tbl.put d.socks s k }

/-- Change a socket. -/
def Dev.onSock (d : Dev) (s : Nat) (f : Socket → Socket) : Dev := d.setSock s (f (d.sock s))

/-- A core. -/
def Dev.core (d : Dev) (h : Hart) : Core := Tbl.get Core.reset (d.sock h.sock).cores h.core

/-- Change a core. -/
def Dev.onCore (d : Dev) (h : Hart) (f : Core → Core) : Dev :=
  d.onSock h.sock fun k => { k with cores := Tbl.set Core.reset k.cores h.core (f (Tbl.get Core.reset k.cores h.core)) }

/-- A slice. -/
def Dev.slice (d : Dev) (s p : Nat) : Slice := Tbl.get Slice.reset (d.sock s).slices p

/-- Change a slice. -/
def Dev.onSlice (d : Dev) (s p : Nat) (f : Slice → Slice) : Dev :=
  d.onSock s fun k => { k with slices := Tbl.set Slice.reset k.slices p (f (Tbl.get Slice.reset k.slices p)) }

/-- A hub. -/
def Dev.hub (d : Dev) (s u : Nat) : Hub := Tbl.get Hub.reset (d.sock s).hubs u

/-- Change a hub. -/
def Dev.onHub (d : Dev) (s u : Nat) (f : Hub → Hub) : Dev :=
  d.onSock s fun k => { k with hubs := Tbl.set Hub.reset k.hubs u (f (Tbl.get Hub.reset k.hubs u)) }

/-- A memory channel: far channels are 0 to 11, near channels 16 to 31. -/
def Dev.chan (d : Dev) (s c : Nat) : Chan := Tbl.get Chan.reset (d.sock s).chans c

/-- Change a memory channel. -/
def Dev.onChan (d : Dev) (s c : Nat) (f : Chan → Chan) : Dev :=
  d.onSock s fun k => { k with chans := Tbl.set Chan.reset k.chans c (f (Tbl.get Chan.reset k.chans c)) }

/-- A crossing link. -/
def Dev.link (d : Dev) (s k : Nat) : XLink := Tbl.get XLink.reset (d.sock s).links k

/-- Change a crossing link. -/
def Dev.onLink (d : Dev) (s k : Nat) (f : XLink → XLink) : Dev :=
  d.onSock s fun x => { x with links := Tbl.set XLink.reset x.links k (f (Tbl.get XLink.reset x.links k)) }

/-- A ferry function, keyed by engine × 256 + function. -/
def Dev.fn (d : Dev) (s f : Nat) : Fn := Tbl.get Fn.reset (d.sock s).fns f

/-- Change a ferry function. -/
def Dev.onFn (d : Dev) (s f : Nat) (g : Fn → Fn) : Dev :=
  d.onSock s fun x => { x with fns := Tbl.set Fn.reset x.fns f (g (Tbl.get Fn.reset x.fns f)) }

/-- A root port. -/
def Dev.port (d : Dev) (s p : Nat) : Port := Tbl.get Port.reset (d.sock s).ports p

/-- Change a root port. -/
def Dev.onPort (d : Dev) (s p : Nat) (f : Port → Port) : Dev :=
  d.onSock s fun x => { x with ports := Tbl.set Port.reset x.ports p (f (Tbl.get Port.reset x.ports p)) }

/-- The Wheelhouse of a socket. -/
def Dev.wheel (d : Dev) (s : Nat) : Wheel := (d.sock s).wheel

/-- Change the Wheelhouse of a socket. -/
def Dev.onWheel (d : Dev) (s : Nat) (f : Wheel → Wheel) : Dev :=
  d.onSock s fun x => { x with wheel := f x.wheel }

/-- Put a report on the management port of a socket (R14, R19, R460, R492, R526): 1 a strap error, 2 no manager is left, 3 and 4
the stop of a Fatal-socket and a Fatal-system report (R384), 5 a root PLL that does not lock, 6 a journal record that fails,
0x100 and a status the end of a SERVICE operation, 0x200 and a status a failed verification (assumption log 30). -/
def Dev.tellPort (d : Dev) (s : Nat) (w : Word) : Dev := d.onWheel s fun x => { x with reports := x.reports ++ [w] }

/-- Apply `f` for each number of a list. -/
def Dev.each {α : Type} (d : Dev) (l : List α) (f : Dev → α → Dev) : Dev := l.foldl f d

/-- The answer of the command to its sender. -/
def Dev.answer (d : Dev) (ws : List Word) : Dev := { d with out := ws }

/-- Take one free value (assumption log 5). -/
def Dev.free (d : Dev) : Word × Dev := (Config.freeValue d.fresh, { d with fresh := d.fresh + 1 })

/-- Put a message in flight, behind those already in flight (R214). -/
def Dev.send (d : Dev) (m : Msg) : Dev := { d with net := d.net ++ [m] }

/-- Put messages in flight in order. -/
def Dev.sendAll (d : Dev) (ms : List Msg) : Dev := { d with net := d.net ++ ms }

/-- Change everything but the berth tables and the queue. -/
def State.onDev (s : State) (f : Admin → Dev → Dev) : State := { s with dev := f s.adm s.dev }

/-- Change the berth tables and the rest, never the queue. -/
def State.onBoth (s : State) (f : Admin → Dev → Admin × Dev) : State :=
  { s with adm := (f s.adm s.dev).1, dev := (f s.adm s.dev).2 }

end Sys2Proof.Machine
end

