-- ==== Sys2Proof/Machine/Crc.lean ====
section
/-! DEFINITION. The CRC steps of R71, as the instructions, ferry operations, flits and flash records use them. -/

namespace Sys2Proof.Machine

/-- The reflected Castagnoli polynomial. -/
def polyC : Nat := 0x82F63B78

/-- The reflected ECMA-182 polynomial. -/
def poly64 : Nat := 0xC96C5795D7870F42

/-- One bit's step. -/
def crcBit (poly c : Nat) : Nat := if c % 2 = 1 then (c / 2) ^^^ poly else c / 2

/-- One byte's step. -/
def crcByte (poly c : Nat) (b : Byte) : Nat :=
  (List.range 8).foldl (fun c _ => crcBit poly c) (c ^^^ b.toNat)

/-- The steps of a list of bytes. -/
def crcRun (poly c : Nat) (bs : List Byte) : Nat := bs.foldl (crcByte poly) c

/-- CRC-64 from all ones, inverted at the end (R286). -/
def crc64Of (bs : List Byte) : Nat := (2 ^ 64 - 1) ^^^ crcRun poly64 (2 ^ 64 - 1) bs

end Sys2Proof.Machine
end

