-- ==== Sys2Proof/Machine/RegMap.lean ====
section
/-! DEFINITION. The register space of a socket (R534) and the ferry functions' BAR0 (R406): every register's place,
stride and fields, as the spec's field maps give them. A field that start-up loads has here the value it takes when no
manifest names it (R481, R482), or 0 (assumption log 4). -/

namespace Sys2Proof.Machine

/-- The resets of R4, weakest last, and `never` for a field no reset changes. -/
inductive Reset where
  | cold | warm | berth | pod | whr | core | flr | never
  deriving DecidableEq, Repr

/-- The access codes of field maps (00_scope.md, Access codes). -/
inductive Acc where
  | ro | rw | w1c | w1s | rwl | wo
  deriving DecidableEq, Repr

/-- One field of a field map: bits, access, whether the berth view has it, reset value, and the weakest reset that
returns it (R4). -/
structure Fld where
  hi : Nat
  lo : Nat
  acc : Acc
  viewB : Bool
  reset : Nat
  clr : Reset
  deriving DecidableEq, Repr

/-- The registers, by the names of their field maps. -/
inductive Reg where
  | whId | whSystem | whBoot | whSerial | whDevid | whRepair | whSvc | whAttestNonce
  | whAttestCmd | fcCtl | fcStat | fcFirstHi | fcFirstLo | fcFirstTime | fcFirstCtl | fcCnt
  | fcQheadHi | fcQheadLo | fcQstat | fcQctl | fcReadmit | fcInjAddr | fcSrcSev | fcFenceA
  | fcFenceB | btCtrl | btPods0 | btPods1 | btWays | btShare | btRangeBase | btRangeLimit
  | btSelf | btCoStatus | ckStat | ckPod | pwMode | pwDom | pwTdp | pwRail
  | pwDip | mbData | mbCtl | mbDone | mbStat | mbDrop | mbCfg | dbPend
  | dbMask | bl | blRel | blCfg | blMine | ldId | ldMeshCtl | ldSliceWays
  | ldSliceStat | ldLockBase | ldLockLimit | ldLockCmd | ldLockCount | ldRinvBase | ldRinvLimit | ldRinvCmd
  | ldPodUcode | ldCoreCtl | ldHmap | fmChCfg | fmChStat | fmRetrain | fmScrub | fmScrubCnt
  | fmRas | nmChCfg | nmChStat | nmRetrain | nmScrub | nmScrubCnt | fmSet | fmCxl
  | fmGlobal | teHubCfg | teHubStat | teRunA | teRunB | tePolicy | teState | xlLinkStat
  | xlLinkCtl | xlLinkCnt | xlXdirStat | xlXdirBcast | xlXdirCtl | xlRoute | xlHb | xlTime
  | xlJoin | pxPortCfg | pxPortStat | pxIdeKey | feEngCtl | feEngStat | feMyfn | feFnMap
  | pcUncCfgSlice | pcUncCntSlice | pcUncCfgFar | pcUncCntFar | pcUncCfgNear | pcUncCntNear | pcUncCfgLink | pcUncCntLink
  | pcUncCfgEng | pcUncCntEng | pcSnapCfg | pcSnapBase | pcSnapPtr | pcSnapStat | pcCore | feFnInfo
  | feFnCtl | feFnStat | fePwBase | fePwLimit | fePwCtl | feDb | feQcBase | feQcCtl
  | feQcStat
  deriving DecidableEq, Repr

/-- Where a register's instances lie: base, stride and count of the outer index, stride and count of the inner. -/
structure Place where
  base : Nat
  s1 : Nat
  c1 : Nat
  s2 : Nat
  c2 : Nat
  bar : Bool
  deriving DecidableEq, Repr

/-- The place of each register (R534, R406). -/
def Reg.place : Reg → Place
  | .whId => ⟨0x0, 0x0, 1, 0x0, 1, false⟩
  | .whSystem => ⟨0x8, 0x0, 1, 0x0, 1, false⟩
  | .whBoot => ⟨0x10, 0x0, 1, 0x0, 1, false⟩
  | .whSerial => ⟨0x18, 0x0, 1, 0x0, 1, false⟩
  | .whDevid => ⟨0x40, 0x8, 4, 0x0, 1, false⟩
  | .whRepair => ⟨0x100, 0x0, 1, 0x0, 1, false⟩
  | .whSvc => ⟨0x200, 0x0, 1, 0x0, 1, false⟩
  | .whAttestNonce => ⟨0x1000, 0x40, 64, 0x8, 4, false⟩
  | .whAttestCmd => ⟨0x1020, 0x40, 64, 0x0, 1, false⟩
  | .fcCtl => ⟨0x1000000, 0x0, 1, 0x0, 1, false⟩
  | .fcStat => ⟨0x1000008, 0x0, 1, 0x0, 1, false⟩
  | .fcFirstHi => ⟨0x1000010, 0x0, 1, 0x0, 1, false⟩
  | .fcFirstLo => ⟨0x1000018, 0x0, 1, 0x0, 1, false⟩
  | .fcFirstTime => ⟨0x1000020, 0x0, 1, 0x0, 1, false⟩
  | .fcFirstCtl => ⟨0x1000028, 0x0, 1, 0x0, 1, false⟩
  | .fcCnt => ⟨0x1000048, 0x8, 7, 0x0, 1, false⟩
  | .fcQheadHi => ⟨0x1000080, 0x0, 1, 0x0, 1, false⟩
  | .fcQheadLo => ⟨0x1000088, 0x0, 1, 0x0, 1, false⟩
  | .fcQstat => ⟨0x1000090, 0x0, 1, 0x0, 1, false⟩
  | .fcQctl => ⟨0x1000098, 0x0, 1, 0x0, 1, false⟩
  | .fcReadmit => ⟨0x10000A0, 0x0, 1, 0x0, 1, false⟩
  | .fcInjAddr => ⟨0x10000B0, 0x0, 1, 0x0, 1, false⟩
  | .fcSrcSev => ⟨0x1010000, 0x8, 4096, 0x0, 1, false⟩
  | .fcFenceA => ⟨0x1020000, 0x10, 512, 0x0, 1, false⟩
  | .fcFenceB => ⟨0x1020008, 0x10, 512, 0x0, 1, false⟩
  | .btCtrl => ⟨0x2000000, 0x100, 64, 0x0, 1, false⟩
  | .btPods0 => ⟨0x2000008, 0x100, 64, 0x0, 1, false⟩
  | .btPods1 => ⟨0x2000010, 0x100, 64, 0x0, 1, false⟩
  | .btWays => ⟨0x2000018, 0x100, 64, 0x0, 1, false⟩
  | .btShare => ⟨0x2000020, 0x100, 64, 0x0, 1, false⟩
  | .btRangeBase => ⟨0x2008000, 0x10, 1024, 0x0, 1, false⟩
  | .btRangeLimit => ⟨0x2008008, 0x10, 1024, 0x0, 1, false⟩
  | .btSelf => ⟨0x2010000, 0x0, 1, 0x0, 1, false⟩
  | .btCoStatus => ⟨0x2010008, 0x0, 1, 0x0, 1, false⟩
  | .ckStat => ⟨0x3000000, 0x0, 1, 0x0, 1, false⟩
  | .ckPod => ⟨0x3001000, 0x8, 104, 0x0, 1, false⟩
  | .pwMode => ⟨0x3002000, 0x0, 1, 0x0, 1, false⟩
  | .pwDom => ⟨0x3002008, 0x0, 1, 0x0, 1, false⟩
  | .pwTdp => ⟨0x3002010, 0x0, 1, 0x0, 1, false⟩
  | .pwRail => ⟨0x3002100, 0x8, 14, 0x0, 1, false⟩
  | .pwDip => ⟨0x3002200, 0x0, 1, 0x0, 1, false⟩
  | .mbData => ⟨0x4000000, 0x100, 256, 0x8, 16, false⟩
  | .mbCtl => ⟨0x4000080, 0x100, 256, 0x0, 1, false⟩
  | .mbDone => ⟨0x4000088, 0x100, 256, 0x0, 1, false⟩
  | .mbStat => ⟨0x4000090, 0x100, 256, 0x0, 1, false⟩
  | .mbDrop => ⟨0x4000098, 0x100, 256, 0x0, 1, false⟩
  | .mbCfg => ⟨0x40000A0, 0x100, 256, 0x0, 1, false⟩
  | .dbPend => ⟨0x4020000, 0x10, 256, 0x0, 1, false⟩
  | .dbMask => ⟨0x4020008, 0x10, 256, 0x0, 1, false⟩
  | .bl => ⟨0x4030000, 0x8, 64, 0x0, 1, false⟩
  | .blRel => ⟨0x4030200, 0x8, 64, 0x0, 1, false⟩
  | .blCfg => ⟨0x4030400, 0x8, 64, 0x0, 1, false⟩
  | .blMine => ⟨0x4030600, 0x0, 1, 0x0, 1, false⟩
  | .ldId => ⟨0x10000000, 0x100000, 128, 0x0, 1, false⟩
  | .ldMeshCtl => ⟨0x10000008, 0x100000, 128, 0x0, 1, false⟩
  | .ldSliceWays => ⟨0x10000100, 0x100000, 128, 0x0, 1, false⟩
  | .ldSliceStat => ⟨0x10000108, 0x100000, 128, 0x0, 1, false⟩
  | .ldLockBase => ⟨0x10000110, 0x100000, 128, 0x0, 1, false⟩
  | .ldLockLimit => ⟨0x10000118, 0x100000, 128, 0x0, 1, false⟩
  | .ldLockCmd => ⟨0x10000120, 0x100000, 128, 0x0, 1, false⟩
  | .ldLockCount => ⟨0x10000128, 0x100000, 128, 0x0, 1, false⟩
  | .ldRinvBase => ⟨0x10000130, 0x100000, 128, 0x0, 1, false⟩
  | .ldRinvLimit => ⟨0x10000138, 0x100000, 128, 0x0, 1, false⟩
  | .ldRinvCmd => ⟨0x10000140, 0x100000, 128, 0x0, 1, false⟩
  | .ldPodUcode => ⟨0x10000180, 0x100000, 128, 0x0, 1, false⟩
  | .ldCoreCtl => ⟨0x10000188, 0x100000, 128, 0x8, 2, false⟩
  | .ldHmap => ⟨0x1F100000, 0x8, 4096, 0x0, 1, false⟩
  | .fmChCfg => ⟨0x20000000, 0x1000, 12, 0x0, 1, false⟩
  | .fmChStat => ⟨0x20000008, 0x1000, 12, 0x0, 1, false⟩
  | .fmRetrain => ⟨0x20000040, 0x1000, 12, 0x0, 1, false⟩
  | .fmScrub => ⟨0x20000048, 0x1000, 12, 0x0, 1, false⟩
  | .fmScrubCnt => ⟨0x20000050, 0x1000, 12, 0x0, 1, false⟩
  | .fmRas => ⟨0x20000058, 0x1000, 12, 0x0, 1, false⟩
  | .nmChCfg => ⟨0x20010000, 0x1000, 16, 0x0, 1, false⟩
  | .nmChStat => ⟨0x20010008, 0x1000, 16, 0x0, 1, false⟩
  | .nmRetrain => ⟨0x20010040, 0x1000, 16, 0x0, 1, false⟩
  | .nmScrub => ⟨0x20010048, 0x1000, 16, 0x0, 1, false⟩
  | .nmScrubCnt => ⟨0x20010050, 0x1000, 16, 0x0, 1, false⟩
  | .fmSet => ⟨0x20020000, 0x1000, 2, 0x8, 4, false⟩
  | .fmCxl => ⟨0x20020040, 0x1000, 2, 0x8, 2, false⟩
  | .fmGlobal => ⟨0x20030000, 0x0, 1, 0x0, 1, false⟩
  | .teHubCfg => ⟨0x20040000, 0x1000, 2, 0x0, 1, false⟩
  | .teHubStat => ⟨0x20040008, 0x1000, 2, 0x0, 1, false⟩
  | .teRunA => ⟨0x20040100, 0x1000, 2, 0x10, 32, false⟩
  | .teRunB => ⟨0x20040108, 0x1000, 2, 0x10, 32, false⟩
  | .tePolicy => ⟨0x20050000, 0x10, 64, 0x0, 1, false⟩
  | .teState => ⟨0x20060000, 0x1000, 2, 0x8, 64, false⟩
  | .xlLinkStat => ⟨0x30000000, 0x1000, 8, 0x0, 1, false⟩
  | .xlLinkCtl => ⟨0x30000008, 0x1000, 8, 0x0, 1, false⟩
  | .xlLinkCnt => ⟨0x30000010, 0x1000, 8, 0x0, 1, false⟩
  | .xlXdirStat => ⟨0x30008000, 0x1000, 2, 0x0, 1, false⟩
  | .xlXdirBcast => ⟨0x30008008, 0x1000, 2, 0x0, 1, false⟩
  | .xlXdirCtl => ⟨0x30008010, 0x1000, 2, 0x0, 1, false⟩
  | .xlRoute => ⟨0x3000A000, 0x8, 16, 0x0, 1, false⟩
  | .xlHb => ⟨0x3000A100, 0x0, 1, 0x0, 1, false⟩
  | .xlTime => ⟨0x3000A108, 0x0, 1, 0x0, 1, false⟩
  | .xlJoin => ⟨0x3000A110, 0x0, 1, 0x0, 1, false⟩
  | .pxPortCfg => ⟨0x40000000, 0x1000, 32, 0x0, 1, false⟩
  | .pxPortStat => ⟨0x40000008, 0x1000, 32, 0x0, 1, false⟩
  | .pxIdeKey => ⟨0x40000200, 0x1000, 32, 0x8, 64, false⟩
  | .feEngCtl => ⟨0x40020008, 0x10000, 4, 0x0, 1, false⟩
  | .feEngStat => ⟨0x40020010, 0x10000, 4, 0x0, 1, false⟩
  | .feMyfn => ⟨0x40020080, 0x10000, 4, 0x8, 4, false⟩
  | .feFnMap => ⟨0x40020100, 0x10000, 4, 0x8, 256, false⟩
  | .pcUncCfgSlice => ⟨0x50000000, 0x100, 104, 0x8, 4, false⟩
  | .pcUncCntSlice => ⟨0x50000040, 0x100, 104, 0x8, 4, false⟩
  | .pcUncCfgFar => ⟨0x50010000, 0x100, 12, 0x8, 4, false⟩
  | .pcUncCntFar => ⟨0x50010040, 0x100, 12, 0x8, 4, false⟩
  | .pcUncCfgNear => ⟨0x50011000, 0x100, 16, 0x8, 4, false⟩
  | .pcUncCntNear => ⟨0x50011040, 0x100, 16, 0x8, 4, false⟩
  | .pcUncCfgLink => ⟨0x50012000, 0x100, 8, 0x8, 4, false⟩
  | .pcUncCntLink => ⟨0x50012040, 0x100, 8, 0x8, 4, false⟩
  | .pcUncCfgEng => ⟨0x50013000, 0x100, 4, 0x8, 4, false⟩
  | .pcUncCntEng => ⟨0x50013040, 0x100, 4, 0x8, 4, false⟩
  | .pcSnapCfg => ⟨0x50020000, 0x40, 64, 0x0, 1, false⟩
  | .pcSnapBase => ⟨0x50020008, 0x40, 64, 0x0, 1, false⟩
  | .pcSnapPtr => ⟨0x50020010, 0x40, 64, 0x0, 1, false⟩
  | .pcSnapStat => ⟨0x50020018, 0x40, 64, 0x0, 1, false⟩
  | .pcCore => ⟨0x50030000, 0x80, 208, 0x8, 11, false⟩
  | .feFnInfo => ⟨0x0, 0x80000, 1024, 0x0, 1, true⟩
  | .feFnCtl => ⟨0x8, 0x80000, 1024, 0x0, 1, true⟩
  | .feFnStat => ⟨0x10, 0x80000, 1024, 0x0, 1, true⟩
  | .fePwBase => ⟨0x100, 0x80000, 1024, 0x10, 4, true⟩
  | .fePwLimit => ⟨0x108, 0x80000, 1024, 0x10, 4, true⟩
  | .fePwCtl => ⟨0x140, 0x80000, 1024, 0x0, 1, true⟩
  | .feDb => ⟨0x10000, 0x80000, 1024, 0x8, 4096, true⟩
  | .feQcBase => ⟨0x40000, 0x80000, 1024, 0x40, 4096, true⟩
  | .feQcCtl => ⟨0x40008, 0x80000, 1024, 0x40, 4096, true⟩
  | .feQcStat => ⟨0x40010, 0x80000, 1024, 0x40, 4096, true⟩

/-- The fields of each register, from its field map. -/
def Reg.fields : Reg → List Fld
  -- WH_ID, R22: VENDOR, PART, SOCK, PODS, STEP
  | .whId => [⟨63, 48, .ro, true, 21593, .cold⟩, ⟨47, 32, .ro, true, 37266, .cold⟩, ⟨31, 16, .ro, true, 0, .cold⟩,
      ⟨15, 8, .ro, true, 104, .cold⟩, ⟨7, 0, .ro, true, 0, .cold⟩]
  -- WH_SYSTEM, R22: SPARES, ENABLED, MANAGER, CUBE_DIM, ROLE, STANDBY, PRESENT
  | .whSystem => [⟨63, 56, .ro, false, 0, .warm⟩, ⟨55, 48, .ro, true, 0, .warm⟩, ⟨47, 44, .ro, true, 0, .warm⟩,
      ⟨43, 41, .ro, true, 0, .warm⟩, ⟨40, 39, .ro, false, 0, .warm⟩, ⟨31, 16, .ro, false, 0, .warm⟩,
      ⟨15, 0, .ro, true, 0, .warm⟩]
  -- WH_BOOT, R498: LOCKED, SOURCE, COPY, KEYSLOT, FUSED_SVN, REVOKED, STATUS
  | .whBoot => [⟨63, 63, .ro, false, 0, .warm⟩, ⟨50, 48, .ro, false, 0, .warm⟩, ⟨44, 44, .ro, false, 0, .warm⟩,
      ⟨41, 40, .ro, false, 0, .warm⟩, ⟨39, 32, .ro, false, 0, .cold⟩, ⟨19, 16, .ro, false, 0, .cold⟩,
      ⟨3, 0, .ro, false, 0, .warm⟩]
  -- WH_SERIAL, R498: SERIAL
  | .whSerial => [⟨63, 0, .ro, true, 0, .warm⟩]
  -- WH_DEVID, R498: KEY
  | .whDevid => [⟨63, 0, .ro, true, 0, .cold⟩]
  -- WH_REPAIR, R373: GO, STATUS, ARRAY, KIND, SUBARRAY, INDEX, AGENT
  | .whRepair => [⟨63, 63, .w1s, false, 0, .whr⟩, ⟨58, 56, .ro, false, 0, .whr⟩, ⟨52, 48, .rw, false, 0, .whr⟩,
      ⟨44, 44, .rw, false, 0, .whr⟩, ⟨43, 36, .rw, false, 0, .whr⟩, ⟨25, 16, .rw, false, 0, .whr⟩,
      ⟨11, 0, .rw, false, 0, .whr⟩]
  -- WH_SVC, R517: OP, STATUS, DONE, ARG
  | .whSvc => [⟨63, 60, .ro, false, 0, .warm⟩, ⟨58, 56, .ro, false, 0, .warm⟩, ⟨54, 48, .ro, false, 0, .warm⟩,
      ⟨47, 32, .ro, false, 0, .warm⟩]
  -- WH_ATTEST_NONCE, R498: NONCE
  | .whAttestNonce => [⟨63, 0, .rw, true, 0, .berth⟩]
  -- WH_ATTEST_CMD, R498: GO, STATUS, ADDR
  | .whAttestCmd => [⟨63, 63, .w1s, true, 0, .berth⟩, ⟨61, 60, .ro, true, 0, .berth⟩, ⟨51, 8, .rw, true, 0, .berth⟩]
  -- FC_CTL, R393: AUTO_WARM, NOTIFY, LATCH_MIN
  | .fcCtl => [⟨9, 9, .rwl, false, 0, .warm⟩, ⟨8, 8, .rw, false, 1, .warm⟩, ⟨2, 0, .rw, false, 4, .warm⟩]
  -- FC_STAT, R393: FENCE_FULL, FENCED
  | .fcStat => [⟨63, 63, .w1c, false, 0, .cold⟩, ⟨9, 0, .ro, false, 0, .cold⟩]
  -- FC_FIRST_HI, R393: MSG_HI
  | .fcFirstHi => [⟨63, 0, .ro, false, 0, .cold⟩]
  -- FC_FIRST_LO, R393: MSG_LO
  | .fcFirstLo => [⟨63, 0, .ro, false, 0, .cold⟩]
  -- FC_FIRST_TIME, R393: TIME
  | .fcFirstTime => [⟨63, 0, .ro, false, 0, .cold⟩]
  -- FC_FIRST_CTL, R393: VALID, OVF
  | .fcFirstCtl => [⟨63, 63, .w1c, false, 0, .cold⟩, ⟨62, 62, .ro, false, 0, .cold⟩]
  -- FC_CNT, R393: COUNT
  | .fcCnt => [⟨47, 0, .ro, false, 0, .cold⟩]
  -- FC_QHEAD_HI, R393: MSG
  | .fcQheadHi => [⟨63, 0, .ro, false, 0, .warm⟩]
  -- FC_QHEAD_LO, R393: MSG
  | .fcQheadLo => [⟨63, 0, .ro, false, 0, .warm⟩]
  -- FC_QSTAT, R393: LOST, COUNT
  | .fcQstat => [⟨63, 32, .ro, false, 0, .warm⟩, ⟨10, 0, .ro, false, 0, .warm⟩]
  -- FC_QCTL, R393: POP
  | .fcQctl => [⟨0, 0, .wo, false, 0, .warm⟩]
  -- FC_READMIT, R393: LIMIT, WINDOW, QUIET
  | .fcReadmit => [⟨63, 56, .rw, false, 3, .warm⟩, ⟨55, 32, .rw, false, 60000, .warm⟩,
      ⟨15, 0, .rw, false, 1000, .warm⟩]
  -- FC_INJ_ADDR, R393: ADDR
  | .fcInjAddr => [⟨51, 0, .rw, false, 0, .warm⟩]
  -- FC_SRC_SEV, R393: FORCE, FORCE_CLASS, FORCE_SUB, SEV
  | .fcSrcSev => [⟨63, 63, .w1s, false, 0, .warm⟩, ⟨59, 56, .rw, false, 0, .warm⟩, ⟨55, 48, .rw, false, 255, .warm⟩,
      ⟨47, 0, .rw, false, 32623341639378, .warm⟩]
  -- FC_FENCE_A, R393: STATE, SOURCE, SUB, FAULTS, RECOVER
  | .fcFenceA => [⟨63, 62, .rw, false, 0, .cold⟩, ⟨47, 36, .ro, false, 0, .cold⟩, ⟨35, 28, .ro, false, 0, .cold⟩,
      ⟨23, 16, .ro, false, 0, .cold⟩, ⟨15, 0, .ro, false, 0, .cold⟩]
  -- FC_FENCE_B, R393: WSTART, LAST
  | .fcFenceB => [⟨63, 32, .ro, false, 0, .cold⟩, ⟨31, 0, .ro, false, 0, .cold⟩]
  -- BT_CTRL, R49: STATE, ADMIN, SLIPS, PORTS, PODS
  | .btCtrl => [⟨63, 61, .ro, true, 0, .warm⟩, ⟨60, 60, .ro, true, 0, .warm⟩, ⟨47, 32, .ro, true, 0, .warm⟩,
      ⟨23, 16, .ro, true, 0, .warm⟩, ⟨6, 0, .ro, true, 0, .warm⟩]
  -- BT_PODS0, R50: MAP
  | .btPods0 => [⟨63, 0, .ro, true, 0, .warm⟩]
  -- BT_PODS1, R50: MAP
  | .btPods1 => [⟨63, 0, .ro, true, 0, .warm⟩]
  -- BT_WAYS, R50: MASK
  | .btWays => [⟨15, 0, .ro, true, 0, .warm⟩]
  -- BT_SHARE, R50: XING_CAP, XING_SHARE, MEM_CAP, MEM_SHARE, MESH_CAP, MESH_SHARE
  | .btShare => [⟨47, 40, .ro, true, 255, .warm⟩, ⟨39, 32, .ro, true, 0, .warm⟩, ⟨31, 24, .ro, true, 255, .warm⟩,
      ⟨23, 16, .ro, true, 0, .warm⟩, ⟨15, 8, .ro, true, 255, .warm⟩, ⟨7, 0, .ro, true, 0, .warm⟩]
  -- BT_RANGE_BASE, R50: VALID, KIND, BERTH, BASE
  | .btRangeBase => [⟨63, 63, .ro, true, 0, .warm⟩, ⟨62, 61, .ro, true, 0, .warm⟩, ⟨57, 52, .ro, true, 0, .warm⟩,
      ⟨51, 26, .ro, true, 0, .warm⟩]
  -- BT_RANGE_LIMIT, R50: LIMIT, BASE_LO
  | .btRangeLimit => [⟨51, 26, .ro, true, 0, .warm⟩, ⟨25, 0, .ro, true, 0, .warm⟩]
  -- BT_SELF, R49: ADMIN, BERTH
  | .btSelf => [⟨63, 63, .ro, true, 0, .warm⟩, ⟨5, 0, .ro, true, 0, .cold⟩]
  -- BT_CO_STATUS, R50: SEQ, OP, STATUS
  | .btCoStatus => [⟨63, 32, .ro, false, 0, .cold⟩, ⟨31, 16, .ro, false, 65535, .whr⟩, ⟨3, 0, .ro, false, 0, .whr⟩]
  -- CK_STAT, R476: ROOT_LOCK, TIME_LOCK, DIP, SERDES_LOCK
  | .ckStat => [⟨63, 63, .ro, false, 0, .cold⟩, ⟨62, 62, .ro, false, 0, .cold⟩, ⟨56, 56, .ro, true, 0, .warm⟩,
      ⟨15, 0, .ro, false, 0, .warm⟩]
  -- CK_POD, R476: CUR, FLOOR, REQ
  | .ckPod => [⟨10, 8, .ro, true, 7, .warm⟩, ⟨5, 4, .rwl, false, 0, .warm⟩, ⟨1, 0, .rw, true, 0, .berth⟩]
  -- PW_MODE, R476: REQ, MODE
  | .pwMode => [⟨10, 8, .wo, false, 0, .whr⟩, ⟨2, 0, .ro, true, 1, .cold⟩]
  -- PW_DOM, R476: ON, SET
  | .pwDom => [⟨59, 32, .ro, false, 65536, .cold⟩, ⟨27, 0, .rw, false, 65536, .cold⟩]
  -- PW_TDP, R476: LIMIT, CAP, POWER
  | .pwTdp => [⟨41, 32, .rwl, false, 600, .warm⟩, ⟨25, 24, .ro, true, 0, .warm⟩, ⟨15, 0, .ro, false, 0, .warm⟩]
  -- PW_RAIL, R476: SETPT, READ, WARN, RESET
  | .pwRail => [⟨63, 48, .ro, false, 0, .warm⟩, ⟨47, 32, .ro, false, 0, .warm⟩, ⟨23, 16, .rwl, false, 40, .warm⟩,
      ⟨7, 0, .rwl, false, 80, .warm⟩]
  -- PW_DIP, R476: COUNT, LONGEST
  | .pwDip => [⟨63, 32, .ro, false, 0, .cold⟩, ⟨31, 0, .ro, false, 0, .cold⟩]
  -- MB_DATA, R444: DATA
  | .mbData => [⟨63, 0, .rw, true, 0, .core⟩]
  -- MB_CTL, R444: GO, LEN
  | .mbCtl => [⟨63, 63, .w1s, true, 0, .core⟩, ⟨4, 0, .rw, true, 8, .core⟩]
  -- MB_DONE, R444: DONE
  | .mbDone => [⟨0, 0, .wo, true, 0, .core⟩]
  -- MB_STAT, R444: DROPPED, RRST, SRST, ERR_LEN
  | .mbStat => [⟨3, 3, .w1c, true, 0, .warm⟩, ⟨2, 2, .w1c, true, 0, .warm⟩, ⟨1, 1, .ro, true, 0, .warm⟩,
      ⟨0, 0, .w1c, true, 0, .warm⟩]
  -- MB_DROP, R444: COUNT
  | .mbDrop => [⟨31, 0, .ro, true, 0, .warm⟩]
  -- MB_CFG, R444: KIND, BERTH, DB_BIT, SENDER, RECEIVER
  | .mbCfg => [⟨63, 62, .ro, true, 0, .warm⟩, ⟨53, 48, .ro, true, 0, .warm⟩, ⟨44, 40, .rw, true, 0, .warm⟩,
      ⟨31, 16, .rw, true, 0, .warm⟩, ⟨7, 0, .rw, true, 0, .warm⟩]
  -- DB_PEND, R444: PEND
  | .dbPend => [⟨31, 0, .w1c, true, 0, .core⟩]
  -- DB_MASK, R444: MASK
  | .dbMask => [⟨31, 0, .rw, true, 4294967295, .core⟩]
  -- BL, R444: HELD, HOLDER
  | .bl => [⟨16, 16, .ro, true, 0, .berth⟩, ⟨15, 0, .ro, true, 0, .berth⟩]
  -- BL_REL, R444: HOLDER
  | .blRel => [⟨15, 0, .wo, true, 0, .berth⟩]
  -- BL_CFG, R444: FORCE, BERTH
  | .blCfg => [⟨63, 63, .wo, false, 0, .warm⟩, ⟨5, 0, .rwl, false, 0, .warm⟩]
  -- BL_MINE, R444: MAP
  | .blMine => [⟨63, 0, .ro, true, 0, .warm⟩]
  -- LD_ID, R224: LANDING, TILE, KIND, POD
  | .ldId => [⟨22, 16, .ro, true, 0, .cold⟩, ⟨14, 12, .ro, true, 0, .cold⟩, ⟨9, 8, .ro, true, 0, .cold⟩,
      ⟨6, 0, .ro, true, 0, .cold⟩]
  -- LD_MESH_CTL, R224: SHARE_OFF, INJ_STOP, LINK_DOWN
  | .ldMeshCtl => [⟨8, 8, .rwl, false, 0, .warm⟩, ⟨4, 4, .rw, false, 0, .warm⟩, ⟨3, 0, .w1c, false, 0, .warm⟩]
  -- LD_SLICE_WAYS, R252: LOCK, FENCE
  | .ldSliceWays => [⟨31, 16, .rw, false, 0, .warm⟩, ⟨15, 0, .ro, false, 0, .warm⟩]
  -- LD_SLICE_STAT, R252: MAPPED, RSV, EVB, OPEN
  | .ldSliceStat => [⟨63, 63, .ro, false, 0, .warm⟩, ⟨19, 16, .ro, false, 0, .warm⟩, ⟨12, 8, .ro, false, 0, .warm⟩,
      ⟨6, 0, .ro, false, 0, .warm⟩]
  -- LD_LOCK_BASE, R252: ADDR
  | .ldLockBase => [⟨51, 6, .rw, false, 0, .warm⟩]
  -- LD_LOCK_LIMIT, R252: ADDR
  | .ldLockLimit => [⟨51, 6, .rw, false, 0, .warm⟩]
  -- LD_LOCK_CMD, R252: GO, STATUS, BERTH, WAY
  | .ldLockCmd => [⟨63, 63, .w1s, false, 0, .warm⟩, ⟨58, 56, .ro, false, 0, .warm⟩, ⟨53, 48, .rw, false, 0, .warm⟩,
      ⟨43, 40, .rw, false, 0, .warm⟩]
  -- LD_LOCK_COUNT, R252: MISSED, PLACED
  | .ldLockCount => [⟨47, 24, .ro, false, 0, .warm⟩, ⟨23, 0, .ro, false, 0, .warm⟩]
  -- LD_RINV_BASE, R252: ADDR
  | .ldRinvBase => [⟨51, 12, .rw, false, 0, .warm⟩]
  -- LD_RINV_LIMIT, R252: ADDR
  | .ldRinvLimit => [⟨51, 12, .rw, false, 0, .warm⟩]
  -- LD_RINV_CMD, R252: GO, STATUS, WAY_ONLY, WAY
  | .ldRinvCmd => [⟨63, 63, .w1s, false, 0, .warm⟩, ⟨57, 56, .ro, false, 0, .warm⟩, ⟨8, 8, .rw, false, 0, .warm⟩,
      ⟨3, 0, .rw, false, 0, .warm⟩]
  -- LD_POD_UCODE, R517: VER
  | .ldPodUcode => [⟨63, 0, .ro, true, 0, .warm⟩]
  -- LD_CORE_CTL, R517: RESET, HELD, GO, ENTRY
  | .ldCoreCtl => [⟨63, 63, .wo, true, 0, .core⟩, ⟨62, 62, .ro, true, 1, .core⟩, ⟨61, 61, .w1s, true, 0, .core⟩,
      ⟨51, 2, .rw, true, 0, .berth⟩]
  -- LD_HMAP, R252: HOLD, POD
  | .ldHmap => [⟨7, 7, .rw, false, 0, .warm⟩, ⟨6, 0, .rw, false, 0, .warm⟩]
  -- FM_CH_CFG, R328: STATE, SET, CAP, RANKS, DENSITY, STACK, DPC
  | .fmChCfg => [⟨63, 60, .ro, false, 0, .warm⟩, ⟨50, 48, .rwl, false, 0, .warm⟩, ⟨42, 32, .ro, false, 0, .cold⟩,
      ⟨18, 16, .ro, false, 0, .cold⟩, ⟨8, 8, .ro, false, 0, .cold⟩, ⟨3, 2, .ro, false, 0, .cold⟩,
      ⟨1, 0, .ro, false, 0, .cold⟩]
  -- FM_CH_STAT, R328: RETRY, RETRAINS, MAX_BLACKOUT
  | .fmChStat => [⟨63, 32, .ro, false, 0, .warm⟩, ⟨31, 16, .ro, false, 0, .warm⟩, ⟨15, 0, .ro, false, 0, .warm⟩]
  -- FM_RETRAIN, R328: EN, INTERVAL, FAILS
  | .fmRetrain => [⟨63, 63, .rwl, false, 1, .warm⟩, ⟨44, 32, .rwl, false, 256, .warm⟩, ⟨1, 0, .ro, false, 0, .warm⟩]
  -- FM_SCRUB, R373: EN, PASSES, PERIOD
  | .fmScrub => [⟨63, 63, .rwl, false, 1, .warm⟩, ⟨47, 32, .ro, false, 0, .warm⟩, ⟨31, 0, .rwl, false, 0, .warm⟩]
  -- FM_SCRUB_CNT, R373: UNCORR, CORR
  | .fmScrubCnt => [⟨63, 32, .ro, false, 0, .warm⟩, ⟨31, 0, .ro, false, 0, .warm⟩]
  -- FM_RAS, R373: DEV_LIMIT, ROW_LIMIT, MARKED, SPPR
  | .fmRas => [⟨47, 40, .rwl, false, 64, .warm⟩, ⟨35, 32, .rwl, false, 4, .warm⟩, ⟨31, 16, .ro, false, 0, .cold⟩,
      ⟨7, 0, .ro, false, 0, .cold⟩]
  -- NM_CH_CFG, R328: STATE, GRANULES
  | .nmChCfg => [⟨63, 60, .ro, false, 0, .warm⟩, ⟨5, 0, .ro, false, 0, .warm⟩]
  -- NM_CH_STAT, R328: RETRY, RETRAINS, MAX_BLACKOUT
  | .nmChStat => [⟨63, 32, .ro, false, 0, .warm⟩, ⟨31, 16, .ro, false, 0, .warm⟩, ⟨15, 0, .ro, false, 0, .warm⟩]
  -- NM_RETRAIN, R328: EN, INTERVAL, FAILS
  | .nmRetrain => [⟨63, 63, .rwl, false, 1, .warm⟩, ⟨44, 32, .rwl, false, 32, .warm⟩, ⟨1, 0, .ro, false, 0, .warm⟩]
  -- NM_SCRUB, R373: EN, PASSES, PERIOD
  | .nmScrub => [⟨63, 63, .rwl, false, 1, .warm⟩, ⟨47, 32, .ro, false, 0, .warm⟩, ⟨31, 0, .rwl, false, 0, .warm⟩]
  -- NM_SCRUB_CNT, R373: UNCORR, CORR
  | .nmScrubCnt => [⟨63, 32, .ro, false, 0, .warm⟩, ⟨31, 0, .ro, false, 0, .warm⟩]
  -- FM_SET, R328: VALID, WAYS, CHANNELS, BASE, SIZE
  | .fmSet => [⟨63, 63, .rwl, false, 0, .warm⟩, ⟨58, 56, .rwl, false, 0, .warm⟩, ⟨53, 48, .rwl, false, 0, .warm⟩,
      ⟨46, 32, .ro, false, 0, .warm⟩, ⟨14, 0, .ro, false, 0, .warm⟩]
  -- FM_CXL, R328: STATE, DEVICES, CAP, TIMEOUT
  | .fmCxl => [⟨63, 60, .ro, false, 0, .warm⟩, ⟨51, 48, .ro, false, 0, .warm⟩, ⟨44, 32, .ro, false, 0, .warm⟩,
      ⟨13, 0, .rwl, false, 10, .warm⟩]
  -- FM_GLOBAL, R328: HOLD, DDIV
  | .fmGlobal => [⟨8, 8, .rw, false, 0, .warm⟩, ⟨0, 0, .ro, false, 0, .warm⟩]
  -- TE_HUB_CFG, R351: EN, TABLE, SAMPLE, EPOCH
  | .teHubCfg => [⟨63, 63, .rwl, false, 0, .warm⟩, ⟨51, 30, .rwl, false, 0, .warm⟩, ⟨27, 24, .rwl, false, 4, .warm⟩,
      ⟨16, 0, .rwl, false, 1000, .warm⟩]
  -- TE_HUB_STAT, R351: SLOTS, QUEUE, ABANDONED, DROPPED
  | .teHubStat => [⟨63, 60, .ro, false, 0, .warm⟩, ⟨55, 48, .ro, false, 0, .warm⟩, ⟨47, 24, .ro, false, 0, .warm⟩,
      ⟨23, 0, .ro, false, 0, .warm⟩]
  -- TE_RUN_A, R351: VALID, SRC, DST, LEN
  | .teRunA => [⟨63, 63, .rw, false, 0, .cold⟩, ⟨60, 43, .rw, false, 0, .cold⟩, ⟨42, 25, .rw, false, 0, .cold⟩,
      ⟨12, 0, .rw, false, 0, .cold⟩]
  -- TE_RUN_B, R351: GO, REVERT, STATE, PROGRESS
  | .teRunB => [⟨63, 63, .w1s, false, 0, .cold⟩, ⟨62, 62, .rw, false, 0, .cold⟩, ⟨58, 56, .ro, false, 0, .cold⟩,
      ⟨32, 0, .ro, false, 0, .cold⟩]
  -- TE_POLICY, R351: MODE, HYST, T_MIN, BUDGET
  | .tePolicy => [⟨61, 60, .rw, true, 0, .cold⟩, ⟨47, 40, .rw, true, 4, .warm⟩, ⟨39, 32, .rw, true, 8, .warm⟩,
      ⟨11, 0, .rw, true, 0, .warm⟩]
  -- TE_STATE, R351: DRAIN, DRAINED, THRESH, REFUSED, DONE
  | .teState => [⟨63, 63, .rw, false, 0, .warm⟩, ⟨62, 62, .ro, true, 0, .warm⟩, ⟨55, 48, .ro, true, 8, .warm⟩,
      ⟨35, 24, .ro, true, 0, .warm⟩, ⟨11, 0, .ro, true, 0, .warm⟩]
  -- XL_LINK_STAT, R304: PEER, STATE, WIDTH, SPARED, FAILED
  | .xlLinkStat => [⟨47, 44, .ro, false, 0, .warm⟩, ⟨34, 32, .ro, false, 0, .warm⟩, ⟨31, 30, .ro, false, 0, .warm⟩,
      ⟨20, 16, .ro, false, 31, .warm⟩, ⟨15, 0, .ro, false, 0, .warm⟩]
  -- XL_LINK_CTL, R304: RETRAIN, DISABLE, EQ_PRESET
  | .xlLinkCtl => [⟨12, 12, .wo, false, 0, .warm⟩, ⟨8, 8, .rw, false, 0, .warm⟩, ⟨3, 0, .rwl, false, 0, .warm⟩]
  -- XL_LINK_CNT, R304: RESEND, CRCERR
  | .xlLinkCnt => [⟨63, 32, .ro, false, 0, .warm⟩, ⟨31, 0, .ro, false, 0, .warm⟩]
  -- XL_XDIR_STAT, R278: VALID, EVICT
  | .xlXdirStat => [⟨63, 42, .ro, false, 0, .warm⟩, ⟨41, 0, .ro, false, 0, .warm⟩]
  -- XL_XDIR_BCAST, R278: HAIL, SUMMARY
  | .xlXdirBcast => [⟨63, 32, .ro, false, 0, .warm⟩, ⟨31, 0, .ro, false, 0, .warm⟩]
  -- XL_XDIR_CTL, R278: CLR
  | .xlXdirCtl => [⟨0, 0, .wo, false, 0, .warm⟩]
  -- XL_ROUTE, R304: VALID, CLASS, UNEXT, DVALID, DNEXT
  | .xlRoute => [⟨15, 15, .ro, false, 0, .warm⟩, ⟨14, 14, .ro, false, 0, .warm⟩, ⟨12, 11, .ro, false, 0, .warm⟩,
      ⟨10, 10, .ro, false, 0, .warm⟩, ⟨9, 8, .ro, false, 0, .warm⟩]
  -- XL_HB, R304: SILENT, PERIOD
  | .xlHb => [⟨47, 32, .rwl, false, 1000, .warm⟩, ⟨15, 0, .rwl, false, 100, .warm⟩]
  -- XL_TIME, R304: LOCKED, PARENT, OFFSET
  | .xlTime => [⟨63, 63, .ro, false, 0, .warm⟩, ⟨51, 48, .ro, false, 0, .warm⟩, ⟨7, 0, .ro, false, 0, .warm⟩]
  -- XL_JOIN, R304: STATUS
  | .xlJoin => [⟨2, 0, .ro, false, 0, .warm⟩]
  -- PX_PORT_CFG, R429: EN, CXL, BIFUR, BERTH, BUS_FIRST, BUS_LAST, CPL_TO
  | .pxPortCfg => [⟨63, 63, .rwl, false, 0, .warm⟩, ⟨62, 62, .rwl, false, 0, .warm⟩, ⟨58, 56, .rwl, false, 0, .warm⟩,
      ⟨53, 48, .ro, false, 0, .warm⟩, ⟨39, 32, .rwl, false, 0, .warm⟩, ⟨31, 24, .rwl, false, 0, .warm⟩,
      ⟨15, 0, .rw, true, 1000, .warm⟩]
  -- PX_PORT_STAT, R429: STATE, SPEED, FLIT, WIDTH
  | .pxPortStat => [⟨63, 60, .ro, false, 0, .warm⟩, ⟨51, 48, .ro, true, 0, .warm⟩, ⟨44, 44, .ro, true, 0, .warm⟩,
      ⟨36, 32, .ro, true, 0, .warm⟩]
  -- PX_IDE_KEY, R429: KEY
  | .pxIdeKey => [⟨63, 0, .wo, true, 0, .warm⟩]
  -- FE_ENG_CTL, R429: RESET
  | .feEngCtl => [⟨63, 63, .wo, false, 0, .warm⟩]
  -- FE_ENG_STAT, R429: STATE, SLOTS, VFS
  | .feEngStat => [⟨63, 60, .ro, false, 0, .warm⟩, ⟨53, 48, .ro, false, 0, .warm⟩, ⟨8, 0, .ro, false, 0, .warm⟩]
  -- FE_MYFN, R429: MAP
  | .feMyfn => [⟨63, 0, .ro, true, 0, .warm⟩]
  -- FE_FN_MAP, R429: EN, BERTH, QBASE, QCOUNT
  | .feFnMap => [⟨63, 63, .ro, false, 0, .warm⟩, ⟨53, 48, .ro, false, 0, .warm⟩, ⟨28, 16, .ro, false, 0, .warm⟩,
      ⟨12, 0, .ro, false, 0, .warm⟩]
  -- PC_UNC_CFG of a slice, R457: EN, BERTH, EVENT
  | .pcUncCfgSlice => [⟨63, 63, .rw, true, 0, .berth⟩, ⟨53, 48, .rw, false, 0, .warm⟩, ⟨7, 0, .rw, true, 0, .berth⟩]
  -- PC_UNC_CNT of a slice, R457: COUNT
  | .pcUncCntSlice => [⟨47, 0, .rw, true, 0, .berth⟩]
  -- PC_UNC_CFG, R457: EN, BERTH, EVENT
  | .pcUncCfgFar => [⟨63, 63, .rw, true, 0, .berth⟩, ⟨53, 48, .rw, false, 0, .warm⟩, ⟨7, 0, .rw, true, 0, .berth⟩]
  -- PC_UNC_CNT, R457: COUNT
  | .pcUncCntFar => [⟨47, 0, .rw, true, 0, .berth⟩]
  -- PC_UNC_CFG, R457: EN, BERTH, EVENT
  | .pcUncCfgNear => [⟨63, 63, .rw, true, 0, .berth⟩, ⟨53, 48, .rw, false, 0, .warm⟩, ⟨7, 0, .rw, true, 0, .berth⟩]
  -- PC_UNC_CNT, R457: COUNT
  | .pcUncCntNear => [⟨47, 0, .rw, true, 0, .berth⟩]
  -- PC_UNC_CFG, R457: EN, BERTH, EVENT
  | .pcUncCfgLink => [⟨63, 63, .rw, true, 0, .berth⟩, ⟨53, 48, .rw, false, 0, .warm⟩, ⟨7, 0, .rw, true, 0, .berth⟩]
  -- PC_UNC_CNT, R457: COUNT
  | .pcUncCntLink => [⟨47, 0, .rw, true, 0, .berth⟩]
  -- PC_UNC_CFG, R457: EN, BERTH, EVENT
  | .pcUncCfgEng => [⟨63, 63, .rw, true, 0, .berth⟩, ⟨53, 48, .rw, false, 0, .warm⟩, ⟨7, 0, .rw, true, 0, .berth⟩]
  -- PC_UNC_CNT, R457: COUNT
  | .pcUncCntEng => [⟨47, 0, .rw, true, 0, .berth⟩]
  -- PC_SNAP_CFG, R457: EN, K, DB_CORE, RING, DB_BIT, LOG2SIZE
  | .pcSnapCfg => [⟨63, 63, .rw, true, 0, .berth⟩, ⟨60, 56, .rw, true, 20, .berth⟩, ⟨47, 40, .rw, true, 0, .berth⟩,
      ⟨39, 39, .rw, true, 0, .berth⟩, ⟨36, 32, .rw, true, 0, .berth⟩, ⟨4, 0, .rw, true, 12, .berth⟩]
  -- PC_SNAP_BASE, R457: ADDR
  | .pcSnapBase => [⟨51, 12, .rw, true, 0, .berth⟩]
  -- PC_SNAP_PTR, R457: RP, WP
  | .pcSnapPtr => [⟨63, 32, .rw, true, 0, .berth⟩, ⟨31, 0, .ro, true, 0, .berth⟩]
  -- PC_SNAP_STAT, R457: FAULT, BUSY, LOST
  | .pcSnapStat => [⟨63, 63, .w1c, true, 0, .berth⟩, ⟨62, 62, .ro, true, 0, .berth⟩, ⟨31, 0, .ro, true, 0, .berth⟩]
  -- core counter copy, R457: COUNT
  | .pcCore => [⟨47, 0, .ro, true, 0, .core⟩]
  -- FE_FN_INFO, R429: DEVICE, ENGINE, SOCKET, BERTH, FUNCTION, VECTORS
  | .feFnInfo => [⟨63, 48, .ro, true, 0, .cold⟩, ⟨41, 40, .ro, true, 0, .cold⟩, ⟨35, 32, .ro, true, 0, .cold⟩,
      ⟨29, 24, .ro, true, 0, .warm⟩, ⟨23, 16, .ro, true, 0, .cold⟩, ⟨10, 0, .ro, true, 2047, .cold⟩]
  -- FE_FN_CTL, R429: CPL_TO
  | .feFnCtl => [⟨1, 0, .rw, true, 0, .flr⟩]
  -- FE_FN_STAT, R429: HELD, QCOUNT, TAGS
  | .feFnStat => [⟨63, 63, .ro, true, 0, .flr⟩, ⟨44, 32, .ro, true, 0, .warm⟩, ⟨12, 0, .ro, true, 0, .flr⟩]
  -- FE_PW_BASE, R429: ADDR, WR, RD
  | .fePwBase => [⟨51, 12, .rw, true, 0, .flr⟩, ⟨1, 1, .rw, true, 0, .flr⟩, ⟨0, 0, .rw, true, 0, .flr⟩]
  -- FE_PW_LIMIT, R429: ADDR
  | .fePwLimit => [⟨51, 12, .rw, true, 0, .flr⟩]
  -- FE_PW_CTL, R429: COMMIT, ERR, OLD_BUSY, GEN
  | .fePwCtl => [⟨63, 63, .wo, true, 0, .flr⟩, ⟨62, 62, .ro, true, 0, .flr⟩, ⟨61, 61, .ro, true, 0, .flr⟩,
      ⟨31, 0, .ro, true, 0, .flr⟩]
  -- FE_DB, R429: TAIL
  | .feDb => [⟨15, 0, .wo, true, 0, .flr⟩]
  -- FE_QC_BASE, R429: RING, LOG2SIZE
  | .feQcBase => [⟨51, 12, .rw, true, 0, .flr⟩, ⟨4, 0, .rw, true, 4, .flr⟩]
  -- FE_QC_CTL, R429: ENABLE, VECTOR
  | .feQcCtl => [⟨63, 63, .rw, true, 0, .flr⟩, ⟨42, 32, .rw, true, 0, .flr⟩]
  -- FE_QC_STAT, R429: STATE, STATUS, TAIL, HEAD
  | .feQcStat => [⟨63, 61, .ro, true, 0, .flr⟩, ⟨55, 48, .ro, true, 0, .flr⟩, ⟨31, 16, .ro, true, 0, .flr⟩,
      ⟨15, 0, .ro, true, 0, .flr⟩]

/-- The register-space registers, in the order of the index. -/
def Reg.all : List Reg := [
  .whId, .whSystem, .whBoot, .whSerial, .whDevid, .whRepair, .whSvc, .whAttestNonce,
  .whAttestCmd, .fcCtl, .fcStat, .fcFirstHi, .fcFirstLo, .fcFirstTime, .fcFirstCtl, .fcCnt,
  .fcQheadHi, .fcQheadLo, .fcQstat, .fcQctl, .fcReadmit, .fcInjAddr, .fcSrcSev, .fcFenceA,
  .fcFenceB, .btCtrl, .btPods0, .btPods1, .btWays, .btShare, .btRangeBase, .btRangeLimit,
  .btSelf, .btCoStatus, .ckStat, .ckPod, .pwMode, .pwDom, .pwTdp, .pwRail,
  .pwDip, .mbData, .mbCtl, .mbDone, .mbStat, .mbDrop, .mbCfg, .dbPend,
  .dbMask, .bl, .blRel, .blCfg, .blMine, .ldId, .ldMeshCtl, .ldSliceWays,
  .ldSliceStat, .ldLockBase, .ldLockLimit, .ldLockCmd, .ldLockCount, .ldRinvBase, .ldRinvLimit, .ldRinvCmd,
  .ldPodUcode, .ldCoreCtl, .ldHmap, .fmChCfg, .fmChStat, .fmRetrain, .fmScrub, .fmScrubCnt,
  .fmRas, .nmChCfg, .nmChStat, .nmRetrain, .nmScrub, .nmScrubCnt, .fmSet, .fmCxl,
  .fmGlobal, .teHubCfg, .teHubStat, .teRunA, .teRunB, .tePolicy, .teState, .xlLinkStat,
  .xlLinkCtl, .xlLinkCnt, .xlXdirStat, .xlXdirBcast, .xlXdirCtl, .xlRoute, .xlHb, .xlTime,
  .xlJoin, .pxPortCfg, .pxPortStat, .pxIdeKey, .feEngCtl, .feEngStat, .feMyfn, .feFnMap,
  .pcUncCfgSlice, .pcUncCntSlice, .pcUncCfgFar, .pcUncCntFar, .pcUncCfgNear, .pcUncCntNear, .pcUncCfgLink, .pcUncCntLink,
  .pcUncCfgEng, .pcUncCntEng, .pcSnapCfg, .pcSnapBase, .pcSnapPtr, .pcSnapStat, .pcCore, .feFnInfo,
  .feFnCtl, .feFnStat, .fePwBase, .fePwLimit, .fePwCtl, .feDb, .feQcBase, .feQcCtl,
  .feQcStat]

/-- The register-space (or BAR) offset of instance (i, j). -/
def Reg.at (r : Reg) (i j : Nat) : Nat := r.place.base + i * r.place.s1 + j * r.place.s2

/-- The indices of an offset in a register's array, if it is one of its instances. -/
def Reg.index (r : Reg) (off : Nat) : Option (Nat × Nat) :=
  let p := r.place
  if off < p.base then none
  else
    let o := off - p.base
    let i := if p.s1 = 0 then 0 else o / p.s1
    let o' := if p.s1 = 0 then o else o % p.s1
    let j := if p.s2 = 0 then 0 else o' / p.s2
    let rest := if p.s2 = 0 then o' else o' % p.s2
    if rest = 0 ∧ i < p.c1 ∧ j < p.c2 then some (i, j) else none

/-- The register at an offset of the register space (`bar` false) or of the BAR space (`bar` true), with its indices. -/
def Reg.find (bar : Bool) (off : Nat) : Option (Reg × Nat × Nat) :=
  Reg.all.findSome? fun r =>
    if r.place.bar = bar then (r.index off).map fun ij => (r, ij.1, ij.2) else none

/-- The reset word of a register: its fields at their reset values. -/
def Reg.resetWord (r : Reg) : Word :=
  r.fields.foldl (fun w f => putBits w f.hi f.lo f.reset) 0

/-- Whether a reset of kind `r` returns a field cleared by `c` (R4). -/
def Reset.clears (r c : Reset) : Bool :=
  match r, c with
  | _, .never => false
  | .cold, _ => true
  | .warm, .cold => false
  | .warm, _ => true
  | .berth, c => c = .berth || c = .pod || c = .core || c = .flr
  | .pod, c => c = .pod || c = .core
  | .whr, c => c = .whr
  | .core, c => c = .core
  | .flr, c => c = .flr
  | .never, _ => false

/-- A register's word after a reset of kind `k`: the fields it clears at their reset values, the others kept. -/
def Reg.cleared (r : Reg) (k : Reset) (w : Word) : Word :=
  r.fields.foldl (fun w f => if k.clears f.clr then putBits w f.hi f.lo f.reset else w) w

/-- A register of a socket. -/
def Dev.reg (d : Dev) (s : Nat) (r : Reg) (i j : Nat) : Word :=
  Tbl.get r.resetWord (if r.place.bar then (d.sock s).bar else (d.sock s).regs) (r.at i j)

/-- Put a register's word; hardware writes every field. -/
def Dev.setReg (d : Dev) (s : Nat) (r : Reg) (i j : Nat) (v : Word) : Dev :=
  d.onSock s fun k =>
    if r.place.bar then { k with bar := Tbl.set r.resetWord k.bar (r.at i j) v }
    else { k with regs := Tbl.set r.resetWord k.regs (r.at i j) v }

/-- Bits [hi:lo] of a register. -/
def Dev.fld (d : Dev) (s : Nat) (r : Reg) (i j hi lo : Nat) : Nat := bits (d.reg s r i j) hi lo

/-- Put bits [hi:lo] of a register. -/
def Dev.setFld (d : Dev) (s : Nat) (r : Reg) (i j hi lo v : Nat) : Dev :=
  d.setReg s r i j (putBits (d.reg s r i j) hi lo v)

/-- Add to a saturating count in bits [hi:lo] of a register. -/
def Dev.bump (d : Dev) (s : Nat) (r : Reg) (i j hi lo n : Nat) : Dev :=
  d.setFld s r i j hi lo (satAdd (hi + 1 - lo) (d.fld s r i j hi lo) n)

/-- What a read returns: write-only fields and reserved bits read zero (R3, R536), and in the berth view fields whose
View is W as well (R33). -/
def Reg.visible (r : Reg) (berthView : Bool) (w : Word) : Word :=
  r.fields.foldl (fun acc f =>
    if f.acc = .wo || (berthView && !f.viewB) then acc else putBits acc f.hi f.lo (bits w f.hi f.lo)) 0

/-- A plain write (R536): RW fields take the value, W1C bits clear, W1S bits set, RWL fields take it until the manifest
lock, RO and WO fields keep theirs; a berth-view write leaves the fields whose View is W. -/
def Reg.written (r : Reg) (berthView locked : Bool) (old v : Word) : Word :=
  r.fields.foldl (fun acc f =>
    if berthView && !f.viewB then acc
    else
      let o := bits old f.hi f.lo
      let n := bits v f.hi f.lo
      match f.acc with
      | .ro | .wo => acc
      | .rw => putBits acc f.hi f.lo n
      | .rwl => if locked then acc else putBits acc f.hi f.lo n
      | .w1c => putBits acc f.hi f.lo (o &&& (2 ^ (f.hi + 1 - f.lo) - 1 - n))
      | .w1s => putBits acc f.hi f.lo (o ||| n)) old

/-- The fields of one instance: PX_IDE_KEY's control word (i = 6) has its own, and its word i = 7 has none (R429); every
other register has the fields of its map at each instance. -/
def Reg.fieldsAt (r : Reg) (j : Nat) : List Fld :=
  match r with
  | .pxIdeKey =>
    if j % 8 = 6 then [⟨63, 63, .wo, true, 0, .warm⟩, ⟨3, 3, .wo, true, 0, .warm⟩, ⟨2, 0, .wo, true, 0, .warm⟩]
    else if j % 8 = 7 then [] else r.fields
  | _ => r.fields

/-- A value without the bits that a list of fields does not name for a view (R3, R33). -/
def Reg.named (fs : List Fld) (berthView : Bool) (v : Word) : Word :=
  fs.foldl (fun acc f => if berthView && !f.viewB then acc else putBits acc f.hi f.lo (bits v f.hi f.lo)) 0

/-- Whether a value writes a one to a bit that no field of the view has (R3, R33). -/
def Reg.badBits (r : Reg) (j : Nat) (berthView : Bool) (v : Word) : Bool := Reg.named (r.fieldsAt j) berthView v ≠ v

end Sys2Proof.Machine
end

