-- ==== Sys2Proof/Machine/Operands.lean ====
section
/-! DEFINITION. Operand forms: registers of a core, effective addresses, instruction words, and how an instruction
retires. -/

namespace Sys2Proof.Machine

/-! ### Registers -/

/-- Read a g register: g0 reads as zero (R51). -/
def Core.getG (c : Core) (r : GReg) : Word := if r = 0 then 0 else Tbl.get 0 c.g r.toNat

/-- Write a g register: a write to g0 is discarded (R51). -/
def Core.setG (c : Core) (r : GReg) (v : Word) : Core :=
  if r = 0 then c else { c with g := Tbl.set 0 c.g r.toNat v }

/-- Read a v register. -/
def Core.getV (c : Core) (r : VReg) : Line := Tbl.get 0 c.v r.toNat

/-- Write a v register. -/
def Core.setV (c : Core) (r : VReg) (v : Line) : Core := { c with v := Tbl.set 0 c.v r.toNat v }

/-- Read a p register: p0 reads as all ones (R51). -/
def Core.getP (c : Core) (r : PReg) : Word := if r = 0 then BitVec.allOnes 64 else Tbl.get 0 c.p r.toNat

/-- Write a p register: a write to p0 is discarded (R51). -/
def Core.setP (c : Core) (r : PReg) (v : Word) : Core :=
  if r = 0 then c else { c with p := Tbl.set 0 c.p r.toNat v }

/-- The value of a system register after CORE reset (R98, R192). -/
def sysReset (n : Nat) : Word :=
  if n = 0x100 ∨ n = 0x200 then 2 else if n = 0x105 ∨ n = 0x205 then 8 else if n = 0x20D then 7 else 0

/-- A system register's stored value. -/
def Core.sysGet (c : Core) (n : Nat) : Word := Tbl.get (sysReset n) c.sys n

/-- Store a system register's value. -/
def Core.sysSet (c : Core) (n : Nat) (v : Word) : Core := { c with sys := Tbl.set (sysReset n) c.sys n v }

/-- SYS_IVCFG of a vector after CORE reset: PEND 0, EN 0, TGT 1, PRIO 7 (R98). -/
def ivReset : Word := 0x4700

/-- SYS_IVCFG of a vector. -/
def Core.ivGet (c : Core) (n : Nat) : Word := Tbl.get ivReset c.iv n

/-- Store SYS_IVCFG of a vector. -/
def Core.ivSet (c : Core) (n : Nat) (v : Word) : Core := { c with iv := Tbl.set ivReset c.iv n v }

/-- Set a vector's PEND bit; set already, the message merges with it (R108). -/
def Core.raise (c : Core) (n : Nat) : Core := c.ivSet n (putBit (c.ivGet n) 63 true)

/-- A core's current level (SYS_SSTATUS.PL): 0 U, 1 S, 2 H, 3 W. -/
def Core.level (c : Core) : Nat := bits (c.sysGet 0x100) 1 0

/-- Set the current level: SYS_SSTATUS.PL and SYS_HSTATUS.PL both show it. -/
def Core.setLevel (c : Core) (l : Nat) : Core :=
  (c.sysSet 0x100 (putBits (c.sysGet 0x100) 1 0 l)).sysSet 0x200 (putBits (c.sysGet 0x200) 1 0 l)

/-- A Wheelhouse management core as its boot ROM starts: level W (R90); its PC is the model's (assumption log 9). -/
def Core.wheelStart : Core := { Core.reset.setLevel 3 with run := .running }

/-- A Wheelhouse management core (R90). -/
def isWheel (h : Hart) : Bool := 208 ≤ h.core.val

/-- The pod of a server core (R5). -/
def podOf (h : Hart) : Nat := h.core.val / 2

/-- A core's master ID (R5). -/
def masterOf (h : Hart) : BitVec 16 :=
  BitVec.ofNat 16 (h.sock.val * 4096 + (if isWheel h then 0xF00 + (h.core.val - 208) else h.core.val))

/-! ### Operands -/

/-- ra plus the sign-extended imm16, modulo 2^64 (R61). -/
def effAddr (a : Word) (imm : BitVec 16) : Word := a + imm.signExtend 64

/-- ra plus rb shifted by the scale (R61). -/
def idxAddr (a b : Word) (scale : Fin 4) : Word := a + (b <<< scale.val)

/-- A branch target: the branch's address plus 4 times the signed offset (R76). -/
def branchTarget {n : Nat} (pc : Word) (off : BitVec n) : Word := pc + 4 * off.signExtend 64

/-- The condition codes (R75). -/
def condHolds (c : Fin 8) (a b : Word) : Bool :=
  match c with
  | 0 => a = b
  | 1 => a ≠ b
  | 2 => a.slt b
  | 3 => !a.slt b
  | 4 => a.ult b
  | 5 => !a.ult b
  | 6 => (a &&& b) ≠ 0
  | 7 => (a &&& b) = 0

/-- An access's size in bytes from its size code. -/
def sizeOf' (c : Fin 4) : Nat := 2 ^ c.val

/-! ### Instruction words, which the save frame records for IL and PV (R54, R99) -/

/-- The RR format. -/
def wordRR (major : Nat) (rd ra rb : GReg) (func : Nat) : Word :=
  word (major * 2 ^ 26 + rd.toNat * 2 ^ 21 + ra.toNat * 2 ^ 16 + rb.toNat * 2 ^ 11 + func)

/-- The X format. -/
def wordX (major : Nat) (r : GReg) (n : BitVec 12) : Word := word (major * 2 ^ 26 + r.toNat * 2 ^ 21 + n.toNat)

/-- The V format. -/
def wordV (major : Nat) (vd va vb : BitVec 5) (pg : PReg) (w : Fin 4) (low : Nat) : Word :=
  word (major * 2 ^ 26 + vd.toNat * 2 ^ 21 + va.toNat * 2 ^ 16 + vb.toNat * 2 ^ 11 + pg.toNat * 2 ^ 8 + w.val * 64 + low)

/-! ### Events and retirement -/

/-- Whether an event of code `ev` at level `l` is selected by a SYS_PMEVn or SYS_PCSCFG word (R448). -/
def evSelected (cfg : Word) (evHi : Nat) (ev l : Nat) : Bool :=
  bit cfg 63 && bits cfg (evHi + 7) evHi = ev && l < 3 && bit cfg (60 + l)

/-- The sample of R449: raise vector 3, reload the count, record the address unless one is held. -/
def Core.sample (c : Core) (ip : Word) (killed : Bool) : Core :=
  let c := c.raise 3
  let c := c.sysSet 0x212 (putBits (c.sysGet 0x212) 47 0 (bits (c.sysGet 0x211) 47 0))
  if bit (c.sysGet 0x213) 0 then c
  else c.sysSet 0x213 (putBit (putBit (ip &&& ~~~ (3 : Word)) 1 killed) 0 true)

/-- Count `n` occurrences of an event (R446, R448, R449) caused by the instruction at `ip`, unless FREEZE is set. -/
def Core.event (c : Core) (ev n : Nat) (ip : Word) : Core :=
  if bit (c.sysGet 0x210) 0 || n = 0 then c
  else
    let l := c.level
    let c := (List.range 8).foldl (fun c i =>
      if evSelected (c.sysGet (0x130 + i)) 0 ev l then
        c.sysSet (0x120 + i) (putBits (c.sysGet (0x120 + i)) 47 0 (satAdd 48 (bits (c.sysGet (0x120 + i)) 47 0) n))
      else c) c
    let cfg := c.sysGet 0x211
    if evSelected cfg 48 ev l && bits cfg 47 0 ≠ 0 then
      let cnt := bits (c.sysGet 0x212) 47 0
      if cnt ≤ n then c.sample ip false else c.sysSet 0x212 (putBits (c.sysGet 0x212) 47 0 (cnt - n))
    else c

/-- Count one retired instruction: FINST and the event INST (R445, R448); at level W, on a management core, nothing counts. -/
def Core.countInst (c : Core) : Core :=
  let c' := if bit (c.sysGet 0x210) 0 || c.level = 3 then c
    else c.sysSet 0x129 (putBits (c.sysGet 0x129) 47 0 (satAdd 48 (bits (c.sysGet 0x129) 47 0) 1))
  c'.event 0x01 1 c.pc

/-- Restart fetch at `npc` with the histories of the retired copy (R165). -/
def Core.refetch (c : Core) (npc : Word) : Core :=
  { c with
    fetchPc := npc
    fetchQ := []
    pred := { c.pred with head := c.pred.rHead, path := c.pred.rPath, top := c.pred.rTop } }

/-- The fetched entry of the instruction at the PC. -/
def Core.fetchedHere (c : Core) : Option Fetched :=
  match c.fetchQ with
  | e :: _ => if e.pc = c.pc then some e else none
  | [] => none

/-- A path history after one more branch (R156, R157). -/
def pathPush (p : BitVec 32) (pc : Word) : BitVec 32 := (p <<< 2) ||| BitVec.ofNat 32 (bits pc 3 2)

/-- Move to `npc`: the fetched instruction just executed leaves the fetch queue, and fetch goes on unless it was
following another path. -/
def Core.moveTo (c : Core) (npc : Word) : Core :=
  match c.fetchQ with
  | e :: r =>
    let follows := match r with
      | [] => c.fetchPc
      | e' :: _ => e'.pc
    if e.pc = c.pc ∧ follows = npc then { c with pc := npc, fetchQ := r }
    else { c.refetch npc with pc := npc }
  | [] => { c with pc := npc, fetchPc := npc }

/-- Retire the instruction at the PC and go on at `npc`. -/
def Core.retire (c : Core) (npc : Word) : Core := c.countInst.moveTo npc

/-- Retire the instruction at the PC and go on at the next one. -/
def Core.next (c : Core) : Core := c.retire (c.pc + 4)

/-- The retired copy after an annulled jump: what it entered in the histories and on the return stack at F4 stays, and is entered
again where the front end had followed it (R157, R164). -/
def Predictor.annulledJump (p : Predictor) (e : Fetched) : Predictor :=
  let p := match e.taken, e.chk with
    | true, some k => { p with ras := Tbl.set 0 (Tbl.set 0 p.ras k.top.toNat k.topVal) e.rtop.toNat e.rtopVal }
    | _, _ => p
  { p with rHead := p.rHead - 1, rPath := pathPush p.rPath e.pc, rTop := e.rtop }

/-- Retire an annulled instruction (R80). -/
def Core.annulOne (c : Core) : Core :=
  let c := match c.fetchedHere with
    | some e => if e.enters then { c with pred := c.pred.annulledJump e } else c
    | none => c
  { (c.event 0x05 1 c.pc).next with annul := c.annul - 1 }

/-- Whether the core is ready to execute an instruction: running, no window being annulled, no older instruction unretired, no
device load outstanding. -/
def Core.ready (c : Core) : Bool :=
  c.run = .running && c.annul = 0 && c.lq.isEmpty && c.devLoad.isNone

/-- Whether some vector is pending and enabled with PRIO below its target's running priority (R112). -/
def Core.wfiDone (c : Core) (pend : Nat → Bool) : Bool :=
  (c.iv.map Prod.fst).any fun n =>
    let v := c.ivGet n
    pend n && bit v 15 && bits v 10 8 < bits (c.sysGet (if bit v 14 then 0x205 else 0x105)) 3 0

end Sys2Proof.Machine
end

