-- ==== Sys2Proof/Machine/Flags.lean ====
section
/-! DEFINITION. The floating-point exception flags and rounding modes (R59, R60). -/

namespace Sys2Proof.Machine

/-- NV, invalid: SYS_FCSR.FLAGS bit 4 (R60). -/
def flagNV : BitVec 5 := 0b10000
/-- DZ, divide by zero: bit 3 (R60). -/
def flagDZ : BitVec 5 := 0b01000
/-- OF, overflow: bit 2 (R60). -/
def flagOF : BitVec 5 := 0b00100
/-- UF, underflow: bit 1 (R60). -/
def flagUF : BitVec 5 := 0b00010
/-- NX, inexact: bit 0 (R60). -/
def flagNX : BitVec 5 := 0b00001

/-- The rounding modes of SYS_FCSR.RM (R60). -/
inductive Rm where
  | nearestEven | towardZero | down | up
  deriving DecidableEq, Repr

/-- SYS_FCSR.RM of a core. -/
def Core.rm (c : Core) : Rm :=
  match bits (c.sysGet 0x010) 9 8 with
  | 0 => .nearestEven
  | 1 => .towardZero
  | 2 => .down
  | _ => .up

/-- Set sticky flags: SYS_FCSR.FLAGS is never cleared by hardware (R60). -/
def Core.setFlags (c : Core) (f : BitVec 5) : Core := c.sysSet 0x010 (c.sysGet 0x010 ||| f.setWidth 64)

end Sys2Proof.Machine
end

