-- ==== Sys2Proof/Machine/Softfloat.lean ====
section
/-! DEFINITION. IEEE 754-2019 binary32 and binary64 arithmetic (R59): operands are taken apart into exact integers times
powers of two, each operation is exact, and one rounding makes the result and its flags. -/

namespace Sys2Proof.Machine

/-- A binary format: precision with the hidden bit, exponent width. -/
structure Fmt where
  p : Nat
  ew : Nat
  deriving DecidableEq, Repr

/-- binary32 or binary64. -/
def fmtOf (d : Bool) : Fmt := if d then ⟨53, 11⟩ else ⟨24, 8⟩

/-- The exponent bias. -/
def Fmt.bias (f : Fmt) : Int := 2 ^ (f.ew - 1) - 1

/-- Every exponent bit set. -/
def Fmt.expMax (f : Fmt) : Nat := 2 ^ f.ew - 1

/-- The exponent of the last place of subnormal numbers. -/
def Fmt.eMin (f : Fmt) : Int := 2 - f.bias - f.p

/-- An operand: a NaN (signalling or quiet), an infinity, or sign, integer and power of two. -/
inductive FVal where
  | nan (signalling : Bool)
  | inf (neg : Bool)
  | fin (neg : Bool) (m : Nat) (e : Int)
  deriving DecidableEq, Repr

/-- A result: its encoding and the flags it sets. -/
abbrev FRes := Nat × BitVec 5

/-- Take an encoding apart. -/
def Fmt.unpack (f : Fmt) (w : Word) : FVal :=
  let v := w.toNat % 2 ^ (f.p + f.ew)
  let frac := v % 2 ^ (f.p - 1)
  let ex := v / 2 ^ (f.p - 1) % 2 ^ f.ew
  let neg := v.testBit (f.p + f.ew - 1)
  if ex = f.expMax then (if frac = 0 then .inf neg else .nan (!frac.testBit (f.p - 2)))
  else if ex = 0 then .fin neg frac f.eMin
  else .fin neg (frac + 2 ^ (f.p - 1)) (ex - 1 + f.eMin)

/-- The encoding of a sign, an exponent field and a fraction. -/
def Fmt.enc (f : Fmt) (neg : Bool) (ex frac : Nat) : Nat :=
  neg.toNat * 2 ^ (f.p + f.ew - 1) + ex * 2 ^ (f.p - 1) + frac

/-- The canonical NaN (R59). -/
def Fmt.qnan (f : Fmt) : Nat := f.enc false f.expMax (2 ^ (f.p - 2))

/-- The encoding of infinity. -/
def Fmt.infEnc (f : Fmt) (neg : Bool) : Nat := f.enc neg f.expMax 0

/-- Whether to round the magnitude up: `odd` last kept bit, `cmp` the discarded part against half (0 none, 1 below, 2
half, 3 above). -/
def roundsUp (rm : Rm) (neg odd : Bool) (cmp : Nat) : Bool :=
  match rm with
  | .nearestEven => cmp = 3 || (cmp = 2 && odd)
  | .towardZero => false
  | .down => neg && cmp ≠ 0
  | .up => !neg && cmp ≠ 0

/-- Round m × 2^e (and a nonzero part below it when `sticky`) to a multiple of 2^t: the multiple and whether it is
inexact. -/
def roundTo (rm : Rm) (neg : Bool) (m : Nat) (e t : Int) (sticky : Bool) : Nat × Bool :=
  if t ≤ e then (m * 2 ^ (e - t).toNat, sticky)
  else
    let sh := (t - e).toNat
    let q := m / 2 ^ sh
    let r := m % 2 ^ sh
    let h := 2 ^ (sh - 1)
    let cmp := if r = 0 ∧ !sticky then 0 else if r < h then 1 else if r = h ∧ !sticky then 2 else 3
    (q + (roundsUp rm neg (q % 2 = 1) cmp).toNat, cmp ≠ 0)

/-- Round a nonzero magnitude into the format, with overflow, underflow and inexact (IEEE 754-2019, 7.4 to 7.6). -/
def Fmt.round (f : Fmt) (rm : Rm) (neg : Bool) (m : Nat) (e : Int) (sticky : Bool) : FRes :=
  if m = 0 then (f.enc neg 0 0, 0)
  else
    let top := e + Nat.log2 m
    let t0 := top - (f.p - 1)
    let t := max t0 f.eMin
    let (q, inexact) := roundTo rm neg m e t sticky
    let carry := q = 2 ^ f.p
    let q := if carry then 2 ^ (f.p - 1) else q
    let t := if carry then t + 1 else t
    let ex : Int := if q < 2 ^ (f.p - 1) then 0 else t - f.eMin + 1
    if ex ≥ f.expMax then
      let toInf := match rm with
        | .nearestEven => true
        | .towardZero => false
        | .down => neg
        | .up => !neg
      (if toInf then f.infEnc neg else f.enc neg (f.expMax - 1) (2 ^ (f.p - 1) - 1), flagOF ||| flagNX)
    else
      let before := top < 1 - f.bias
      let corner := (roundTo rm neg m e t0 sticky).1 = 2 ^ f.p && top = -f.bias
      let tiny := before && (Config.tinyBefore || !corner)
      (f.enc neg ex.toNat (q % 2 ^ (f.p - 1)),
        (if inexact then flagNX else 0) ||| (if inexact && tiny then flagUF else 0))

/-- The flag of an operand that is a signalling NaN. -/
def FVal.snan : FVal → Bool
  | .nan s => s
  | _ => false

/-- Whether an operand is a NaN. -/
def FVal.isNan : FVal → Bool
  | .nan _ => true
  | _ => false

/-- The same operand with its sign changed; a NaN stays. -/
def FVal.neg : FVal → FVal
  | .nan s => .nan s
  | .inf s => .inf (!s)
  | .fin s m e => .fin (!s) m e

/-- A NaN result with the invalid flag when a signalling NaN came in. -/
def Fmt.nanOf (f : Fmt) (s : Bool) : FRes := (f.qnan, if s then flagNV else 0)

/-- The invalid operation's result. -/
def Fmt.invalid (f : Fmt) : FRes := (f.qnan, flagNV)

/-- The exact sum of two finite operands, rounded; an exact zero sum of opposite signs is +0, or -0 toward −∞. -/
def Fmt.sum (f : Fmt) (rm : Rm) (s1 : Bool) (m1 : Nat) (e1 : Int) (s2 : Bool) (m2 : Nat) (e2 : Int) : FRes :=
  let e := min e1 e2
  let a : Int := (m1 * 2 ^ (e1 - e).toNat : Nat)
  let b : Int := (m2 * 2 ^ (e2 - e).toNat : Nat)
  let v : Int := (if s1 then -a else a) + (if s2 then -b else b)
  if v = 0 then (f.enc (if s1 = s2 then s1 else rm = .down) 0 0, 0)
  else f.round rm (v < 0) v.natAbs e false

/-- Addition. -/
def Fmt.add (f : Fmt) (rm : Rm) (a b : FVal) : FRes :=
  if a.isNan || b.isNan then f.nanOf (a.snan || b.snan)
  else
    match a, b with
    | .inf s, .inf t => if s = t then (f.infEnc s, 0) else f.invalid
    | .inf s, _ => (f.infEnc s, 0)
    | _, .inf t => (f.infEnc t, 0)
    | .fin s1 m1 e1, .fin s2 m2 e2 => f.sum rm s1 m1 e1 s2 m2 e2
    | _, _ => f.invalid

/-- Subtraction. -/
def Fmt.sub (f : Fmt) (rm : Rm) (a b : FVal) : FRes := f.add rm a b.neg

/-- Multiplication. -/
def Fmt.mul (f : Fmt) (rm : Rm) (a b : FVal) : FRes :=
  if a.isNan || b.isNan then f.nanOf (a.snan || b.snan)
  else
    match a, b with
    | .inf s, .inf t => (f.infEnc (s != t), 0)
    | .inf s, .fin t m _ => if m = 0 then f.invalid else (f.infEnc (s != t), 0)
    | .fin s m _, .inf t => if m = 0 then f.invalid else (f.infEnc (s != t), 0)
    | .fin s1 m1 e1, .fin s2 m2 e2 => f.round rm (s1 != s2) (m1 * m2) (e1 + e2) false
    | _, _ => f.invalid

/-- Division. -/
def Fmt.div (f : Fmt) (rm : Rm) (a b : FVal) : FRes :=
  if a.isNan || b.isNan then f.nanOf (a.snan || b.snan)
  else
    match a, b with
    | .inf _, .inf _ => f.invalid
    | .inf s, .fin t _ _ => (f.infEnc (s != t), 0)
    | .fin s _ _, .inf t => (f.enc (s != t) 0 0, 0)
    | .fin s1 m1 e1, .fin s2 m2 e2 =>
      if m2 = 0 then (if m1 = 0 then f.invalid else (f.infEnc (s1 != s2), flagDZ))
      else
        let k := 2 * f.p + 4
        f.round rm (s1 != s2) (m1 * 2 ^ k / m2) (e1 - e2 - k) (m1 * 2 ^ k % m2 ≠ 0)
    | _, _ => f.invalid

/-- Integer square root, bit by bit from bit `n` down. -/
def isqrt (n m acc : Nat) : Nat :=
  match n with
  | 0 => if (acc + 1) * (acc + 1) ≤ m then acc + 1 else acc
  | k + 1 => let c := acc + 2 ^ (k + 1); isqrt k m (if c * c ≤ m then c else acc)

/-- Square root. -/
def Fmt.sqrt (f : Fmt) (rm : Rm) (a : FVal) : FRes :=
  match a with
  | .nan s => f.nanOf s
  | .inf s => if s then f.invalid else (f.infEnc false, 0)
  | .fin s m e =>
    if m = 0 then (f.enc s 0 0, 0)
    else if s then f.invalid
    else
      let k : Nat := 2 * f.p + 2 + (if (e - (2 * f.p + 2)) % 2 = 0 then 0 else 1)
      let x := m * 2 ^ k
      let r := isqrt (Nat.log2 x / 2 + 1) x 0
      f.round rm false r ((e - k) / 2) (r * r ≠ x)

/-- The order of two operands that are not NaN: less, equal, greater as -1, 0, 1. -/
def FVal.cmp (a b : FVal) : Int :=
  match a, b with
  | .inf s, .inf t => if s = t then 0 else if s then -1 else 1
  | .inf s, _ => if s then -1 else 1
  | _, .inf t => if t then 1 else -1
  | .fin s1 m1 e1, .fin s2 m2 e2 =>
    let e := min e1 e2
    let x : Int := (m1 * 2 ^ (e1 - e).toNat : Nat)
    let y : Int := (m2 * 2 ^ (e2 - e).toNat : Nat)
    ((if s1 then -x else x) - (if s2 then -y else y)).sign
  | _, _ => 0

/-- Whether an operand's sign is negative. -/
def FVal.negative : FVal → Bool
  | .nan _ => false
  | .inf s => s
  | .fin s _ _ => s

/-- minimumNumber or maximumNumber of two encodings (IEEE 754-2019, 9.6): a NaN loses to a number, -0 is below +0. -/
def Fmt.minmax (f : Fmt) (isMax : Bool) (x y : Word) : FRes :=
  let a := f.unpack x
  let b := f.unpack y
  let ex := x.toNat % 2 ^ (f.p + f.ew)
  let ey := y.toNat % 2 ^ (f.p + f.ew)
  let fl := if a.snan || b.snan then flagNV else 0
  if a.isNan && b.isNan then (f.qnan, fl)
  else if a.isNan then (ey, fl)
  else if b.isNan then (ex, fl)
  else
    let less := a.cmp b < 0 || (a.cmp b = 0 && a.negative)
    (if less = isMax then ey else ex, fl)

/-- FEQ (0), FLT (1), FLE (2): the relation, and NV on a signalling NaN (FEQ) or any NaN (FLT, FLE). -/
def Fmt.rel (f : Fmt) (k : Nat) (x y : Word) : Bool × BitVec 5 :=
  let a := f.unpack x
  let b := f.unpack y
  if a.isNan || b.isNan then (false, if k ≠ 0 || a.snan || b.snan then flagNV else 0)
  else
    let c := a.cmp b
    (if k = 0 then c = 0 else if k = 1 then c < 0 else c ≤ 0, 0)

/-- FCVT.I: to a signed 64-bit integer by the rounding mode; out of range or NaN as R59 says, with NV alone. -/
def Fmt.toInt (f : Fmt) (rm : Rm) (x : Word) : Word × BitVec 5 :=
  match f.unpack x with
  | .nan _ => (0x7FFFFFFFFFFFFFFF, flagNV)
  | .inf s => (if s then 0x8000000000000000 else 0x7FFFFFFFFFFFFFFF, flagNV)
  | .fin s m e =>
    let (q, inexact) := roundTo rm s m e 0 false
    if s then (if 2 ^ 63 < q then (0x8000000000000000, flagNV) else (BitVec.ofInt 64 (-q), if inexact then flagNX else 0))
    else if 2 ^ 63 ≤ q then (0x7FFFFFFFFFFFFFFF, flagNV)
    else (BitVec.ofNat 64 q, if inexact then flagNX else 0)

/-- FCVT.F: from a signed 64-bit integer. -/
def Fmt.ofInt (f : Fmt) (rm : Rm) (x : Word) : FRes :=
  if x = 0 then (0, 0) else f.round rm (x.toInt < 0) x.toInt.natAbs 0 false

/-- FCVT.W: into the format from the other one. -/
def Fmt.ofFmt (f g : Fmt) (rm : Rm) (x : Word) : FRes :=
  match g.unpack x with
  | .nan s => f.nanOf s
  | .inf s => (f.infEnc s, 0)
  | .fin s m e => f.round rm s m e false

/-- Fused multiply-add: a × b + c with one rounding. -/
def Fmt.fma (f : Fmt) (rm : Rm) (a b c : FVal) : FRes :=
  let zeroInf := match a, b with
    | .inf _, .fin _ 0 _ => true
    | .fin _ 0 _, .inf _ => true
    | _, _ => false
  if a.snan || b.snan || c.snan then f.invalid
  else if a.isNan || b.isNan then f.nanOf false
  else if zeroInf then (f.qnan, if c.isNan && !Config.fmaInvalidNan then 0 else flagNV)
  else if c.isNan then f.nanOf false
  else
    let ps := a.negative != b.negative
    match a, b, c with
    | .fin _ m1 e1, .fin _ m2 e2, .fin s m e => f.sum rm ps (m1 * m2) (e1 + e2) s m e
    | .fin _ _ _, .fin _ _ _, .inf s => (f.infEnc s, 0)
    | _, _, .inf s => if s = ps then (f.infEnc s, 0) else f.invalid
    | _, _, _ => (f.infEnc ps, 0)

end Sys2Proof.Machine
end

