-- ==== Sys2Proof/Machine/Lanes.lean ====
section
/-! DEFINITION. Vector elements and predicates (R67, R68), and the database scalar functions (R71 to R73). -/

namespace Sys2Proof.Machine

/-- The element width in bits of a width code (R54). -/
def ewBits (w : Fin 4) : Nat := 8 * 2 ^ w.val

/-- The number of elements of a width. -/
def elems (w : Fin 4) : Nat := 64 / 2 ^ w.val

/-- Element i of a vector register, zero-extended. -/
def elem (w : Fin 4) (v : Line) (i : Nat) : Word := (v >>> (i * ewBits w)).setWidth 64 &&& word (2 ^ ewBits w - 1)

/-- A vector register from its elements, element 0 first. -/
def ofElems (w : Fin 4) (es : List Word) : Line :=
  match es with
  | [] => 0
  | e :: r => (ofElems w r <<< ewBits w) ||| (e &&& word (2 ^ ewBits w - 1)).setWidth 512

/-- All elements of a vector register. -/
def elemList (w : Fin 4) (v : Line) : List Word := (List.range (elems w)).map (elem w v)

/-- An element as a signed number. -/
def sElem (w : Fin 4) (x : Word) : Int := (sext (ewBits w) x).toInt

/-- The result of an operation on active elements: inactive ones keep the old value or, with Z, become zero (R67). -/
def lanes (w : Fin 4) (p : Word) (z : Bool) (old : Line) (f : Nat → Word) : Line :=
  ofElems w ((List.range (elems w)).map fun i => if bit p i then f i else if z then 0 else elem w old i)

/-- An integer operation element by element. -/
def lanes2 (w : Fin 4) (p : Word) (z : Bool) (old a b : Line) (f : Word → Word → Word) : Line :=
  lanes w p z old fun i => f (elem w a i) (elem w b i)

/-- The number of set bits of a value. -/
def popcount (v : Word) : Nat := (List.range 64).countP fun i => bit v i

/-- Combined flags of the active elements (R67). -/
def lanesFlags (w : Fin 4) (p : Word) (f : Nat → BitVec 5) : BitVec 5 :=
  (List.range (elems w)).foldl (fun acc i => if bit p i then acc ||| f i else acc) 0

/-- A predicate with bit i as `f i` says; the bits above the elements are zero (R67). -/
def predOf (w : Fin 4) (f : Nat → Bool) : Word :=
  (List.range (elems w)).foldl (fun acc i => if f i then acc ||| word (2 ^ i) else acc) 0

/-- The compare of R68 on element values of a width. -/
def condElem (w : Fin 4) (c : Fin 8) (a b : Word) : Bool := condHolds c (sext (ewBits w) a) (sext (ewBits w) b)

/-- VCOMP: the active elements in order at the lowest places, the rest zero (R68). -/
def compress (w : Fin 4) (p : Word) (v : Line) : Line :=
  ofElems w (((List.range (elems w)).filter fun i => bit p i).map (elem w v))

/-- A CRC instruction: the steps over the low `n` bytes of rb, first byte lowest (R71). -/
def crcStep (poly width n : Nat) (a b : Word) : Word := word (crcRun poly (a.toNat % 2 ^ width) (leBytes n b.toNat))

/-- HMIX (R72). -/
def hmix (a b : Word) : Word :=
  let t := a ^^^ b.rotateRight 23
  let t := t * 0x9E3779B97F4A7C15
  let t := t ^^^ (t >>> 29)
  let t := t * 0xA5C396E14B27D8F3
  t ^^^ (t >>> 32)

/-- SELB: the place of the set bit with rank rb, 64 when there is none (R73). -/
def selb (a b : Word) : Word :=
  match (setBitsOf a.toNat 64)[b.toNat]? with
  | some i => word i
  | none => 64

/-- Leading zeros, 64 for zero. -/
def clz (a : Word) : Word := if a = 0 then 64 else word (63 - Nat.log2 a.toNat)

/-- Trailing zeros, 64 for zero. -/
def ctz (a : Word) : Word :=
  match setBitsOf a.toNat 64 with
  | i :: _ => word i
  | [] => 64

/-- Bytes in reverse order. -/
def bswap (a : Word) : Word := word (leNat (leBytes 8 a.toNat).reverse)

/-- A scalar floating-point operation of two encodings. -/
def fpBin (d : Bool) (rm : Rm) (op : Fmt → Rm → FVal → FVal → FRes) (a b : Word) : Word × BitVec 5 :=
  let f := fmtOf d
  let r := op f rm (f.unpack a) (f.unpack b)
  (word r.1, r.2)

/-- FMIN or FMAX of two encodings. -/
def fpMinmax (d : Bool) (isMax : Bool) (a b : Word) : Word × BitVec 5 :=
  let r := (fmtOf d).minmax isMax a b
  (word r.1, r.2)

end Sys2Proof.Machine
end

