-- ==== Sys2Proof/Machine/AddrMap.lean ====
section
/-! DEFINITION. Places and addresses: landings and pods (R6, R7), agents by master ID (R5), the physical map (R305,
R306), the home-slice hash (R230), and mesh costs (R210 to R212). -/

namespace Sys2Proof.Machine

/-! ### Landings -/

/-- The tile of a landing (identifier schemes). -/
def tileOf (l : Nat) : Nat := l / 16 / 4 * 4 + l % 16 / 4

/-- A bridge landing: local columns 1 to 3 of the hub-facing row (R6). -/
def isBridge (l : Nat) : Bool := (l / 16 = 0 || l / 16 = 7) && l % 4 ≠ 0

/-- The pod landings of a tile in increasing order. -/
def podLandings (t : Nat) : List Nat := (List.range 128).filter fun l => tileOf l = t && !isBridge l

/-- The landing of a pod (R7). -/
def landingOf (pod : Nat) : Nat := (podLandings (pod / 13)).getD (pod % 13) 0

/-- The pod at a landing; none at a bridge landing (R7). -/
def podAt (l : Nat) : Option Nat :=
  if isBridge l || 128 ≤ l then none
  else (podLandings (tileOf l)).idxOf? l |>.map fun i => tileOf l * 13 + i

/-- The bridge landings of a hub. -/
def bridges (hub : Nat) : List Nat := (List.range 128).filter fun l => isBridge l && (l / 64 = hub)

/-- The one-way mesh cost M of the dimension-ordered route (R199, R210, R211). -/
def meshCost (a b : Nat) : Nat :=
  let ca := a % 16
  let cb := b % 16
  let ra := a / 16
  let rb := b / 16
  let dx := Nat.max ca cb - Nat.min ca cb
  let dy := Nat.max ra rb - Nat.min ra rb
  let ex := Nat.max (ca / 4) (cb / 4) - Nat.min (ca / 4) (cb / 4)
  let ey := Nat.max (ra / 4) (rb / 4) - Nat.min (ra / 4) (rb / 4)
  dx + dy + (if dx ≠ 0 ∧ dy ≠ 0 then 1 else 0) + 3 * (ex + ey)

/-- The element of a list with the least key, the earliest among equals. -/
def argMin {α : Type} (l : List α) (key : α → Nat) : Option α :=
  l.foldl (fun acc x => match acc with
    | none => some x
    | some y => if key x < key y then some x else some y) none

/-- The bridge landing of a hub used by a message from a landing (R212). -/
def exitBridge (hub l : Nat) : Nat := (argMin (bridges hub) fun b => meshCost l b).getD 0

/-- The bridge landing of a hub by which a message enters toward a landing (R212). -/
def entryBridge (hub l : Nat) : Nat := (argMin (bridges hub) fun b => meshCost b l).getD 0

/-- The bridge column of messages between the hubs (R213), by an index modulo 12: address [13:6], or the transaction ID of a message
that carries no address. -/
def hubColumn (index : Nat) : Nat := [1, 2, 3, 5, 6, 7, 9, 10, 11, 13, 14, 15].getD (index % 12) 1

/-- The landing on the other side of a router's port: 0 north, 1 east, 2 south, 3 west (R6: rows rise to the south); none toward the
edge of the grid (R206). -/
def neighbour (l port : Nat) : Option Nat :=
  match port with
  | 0 => if 16 ≤ l then some (l - 16) else none
  | 1 => if l % 16 < 15 then some (l + 1) else none
  | 2 => if l + 16 < 128 then some (l + 16) else none
  | _ => if l % 16 = 0 then none else some (l - 1)

/-! ### Agents -/

/-- The agent of a master ID (R5), where it is one that receives messages. -/
def nodeOf (m : BitVec 16) : Option Node :=
  let s : Sock := ⟨m.toNat / 4096 % 16, Nat.mod_lt _ (by decide)⟩
  let a := m.toNat % 4096
  if h : a < 208 then some (.core s ⟨a, by omega⟩)
  else if 0x100 ≤ a ∧ a < 0x168 then
    some (.slice s ⟨(a - 0x100) % 104, Nat.mod_lt _ (by decide)⟩)
  else if a = 0x200 ∨ a = 0x201 then some (.home s ⟨(a - 0x200) % 2, Nat.mod_lt _ (by decide)⟩)
  else if 0x400 ≤ a ∧ a < 0x800 then
    some (.ferry s ⟨(a - 0x400) / 256 % 4, Nat.mod_lt _ (by decide)⟩ ⟨a % 256, Nat.mod_lt _ (by decide)⟩)
  else if 0x800 ≤ a ∧ a < 0x820 then some (.port s ⟨(a - 0x800) % 32, Nat.mod_lt _ (by decide)⟩)
  else if 0xF00 ≤ a ∧ a < 0xF04 then some (.core s ⟨208 + (a - 0xF00) % 4, by omega⟩)
  else none

end Sys2Proof.Machine

namespace Sys2Proof

/-- The socket of a node. -/
def Node.sock : Node → Sock
  | .core s _ | .slice s _ | .home s _ | .ferry s _ _ | .port s _ | .wheel s | .target s => s

/-- The master ID of a node. -/
def Node.master : Node → BitVec 16
  | .core s c => Machine.masterOf ⟨s, c⟩
  | .slice s p => BitVec.ofNat 16 (s.val * 4096 + 0x100 + p.val)
  | .home s h => BitVec.ofNat 16 (s.val * 4096 + 0x200 + h.val)
  | .ferry s e f => BitVec.ofNat 16 (s.val * 4096 + 0x400 + e.val * 256 + f.val)
  | .port s p => BitVec.ofNat 16 (s.val * 4096 + 0x800 + p.val)
  | .wheel s => BitVec.ofNat 16 (s.val * 4096 + 0xF00)
  | .target s => BitVec.ofNat 16 (s.val * 4096 + 0x206)

end Sys2Proof

namespace Sys2Proof.Machine

/-! ### The physical map -/

/-- What an address names by its position (R305, R306): far, near and CXL memory with the offset in the hub's (or
port's) region, root-port windows, interrupt windows and register spaces with their socket, or a hole. -/
inductive Region where
  | far (s hub off : Nat)
  | near (s hub off : Nat)
  | cxl (s port off : Nat)
  | mmio (s off : Nat)
  | intWin (s off : Nat)
  | regs (s off : Nat)
  | hole
  deriving DecidableEq, Repr

/-- The size of a socket's memory window. -/
def windowSize : Nat := 0x0000E00000000000

/-- The region of an offset in a memory window (R306). -/
def memRegion (s o : Nat) : Region :=
  if o < 0x100000000000 then .far s 0 o
  else if o < 0x200000000000 then .far s 1 (o - 0x100000000000)
  else if o < 0x210000000000 then .near s 0 (o - 0x200000000000)
  else if o < 0x220000000000 then .near s 1 (o - 0x210000000000)
  else if o < 0x400000000000 then .hole
  else if o < 0x800000000000 then .cxl s ((o - 0x400000000000) / 0x100000000000) (o % 0x100000000000)
  else .hole

/-- The region of a physical address (R305). -/
def regionOf (pa : Nat) : Region :=
  if pa < 0x000E000000000000 then memRegion (pa / windowSize) (pa % windowSize)
  else if pa < 0x000F000000000000 then
    .mmio ((pa - 0x000E000000000000) / 0x0000100000000000) (pa % 0x0000100000000000)
  else if 0x000FE00000000000 ≤ pa ∧ pa < 0x000FE00001000000 then
    .intWin ((pa - 0x000FE00000000000) / 0x100000) (pa % 0x100000)
  else if 0x000FF00000000000 ≤ pa ∧ pa < 0x000FF01000000000 then
    .regs ((pa - 0x000FF00000000000) / 0x100000000) (pa % 0x100000000)
  else .hole

/-- Register space, interrupt windows and MMIO windows: reached only by device accesses (R64). -/
def Region.deviceOnly : Region → Bool
  | .mmio .. | .intWin .. | .regs .. => true
  | _ => false

/-- The socket whose memory an address names (R253), by position. -/
def homeSock (pa : Nat) : Nat := pa / windowSize % 16

/-- The hub that homes an address of a memory window (R253, R318). -/
def homeHub (pa : Nat) : Nat :=
  match regionOf pa with
  | .far _ h _ => h
  | .near _ h _ => h
  | .cxl _ p _ => p / 2
  | _ => 0

/-- The line number of an address. -/
def lineOf (pa : Nat) : Nat := pa / 64

/-- The first byte of an address's line. -/
def lineBase (pa : Nat) : Nat := pa / 64 * 64

/-! ### The home-slice hash -/

/-- The map entry of a physical address (R230). -/
def hashOf (pa : Nat) : Nat :=
  let x := nbits pa 51 6
  nbits x 11 0 ^^^ nbits x 23 12 ^^^ nbits x 35 24 ^^^ nbits x 45 36

/-- The pods of a set in increasing number, repeated over the 4,096 entries: the default fill (R231). -/
def defaultFill (enabled : List Nat) (e : Nat) : Nat := enabled.getD (e % Nat.max 1 enabled.length) 0

/-- The home pod of an address on a socket, and whether its map entry is held (R230, R247). -/
def Dev.homePod (d : Dev) (s pa : Nat) : Nat × Bool :=
  let w := d.reg s .ldHmap (hashOf pa) 0
  (bits w 6 0, bit w 7)

/-- The home slice of an address on a socket. -/
def Dev.homeSlice (d : Dev) (s : Sock) (pa : Nat) : Node :=
  .slice s ⟨(d.homePod s pa).1 % 104, Nat.mod_lt _ (by decide)⟩

/-- The set of a slice that holds an address (R225). -/
def sliceSet (pa : Nat) : Nat := nbits pa 17 6

/-- The set of the crossing directory that holds an address (R270). -/
def xdirSet (pa : Nat) : Nat :=
  let x := nbits pa 51 6
  nbits x 16 0 ^^^ nbits x 33 17 ^^^ nbits x 45 34

/-! ### Sockets and pods in service -/

/-- The sockets that a socket knows to be present (WH_SYSTEM.PRESENT). -/
def Dev.presentMask (d : Dev) (s : Nat) : Nat := d.fld s .whSystem 0 0 15 0

/-- Whether socket `t` is present to `s`. -/
def Dev.present (d : Dev) (s t : Nat) : Bool := (d.presentMask s).testBit t

/-- The enabled pods of a socket: neither spare nor fenced out of service (R8). -/
def Dev.enabledPods (d : Dev) (s : Nat) : List Nat := (d.wheel s).enabled

/-- Whether a master's socket is absent from the socket that serves it. -/
def Dev.present16 (d : Dev) (s : Nat) (t : Nat) : Bool := d.present s t || s = t

/-- Whether a supply dip has doubled a socket's dividers (R466): its mesh then runs at half rate (R220), copies are held back, and
retraining waits for the dip's end (R325, R467). -/
def Dev.dipping (d : Dev) (s : Nat) : Bool := d.fld s .ckStat 0 0 56 56 = 1

/-- A socket number as a position. -/
def sk (s : Nat) : Sock := ⟨s % 16, Nat.mod_lt _ (by decide)⟩

/-- The core at a place of a pod. -/
def coreOf (s : Sock) (pod i : Nat) : Hart := { sock := s, core := ⟨(pod * 2 + i) % 208, by omega⟩ }

/-- Whether both cores of a pod are fenced, so the pod is (R386). -/
def Dev.podFenced (d : Dev) (s p : Nat) : Bool :=
  (d.core (coreOf (sk s) p 0)).run = .fenced && (d.core (coreOf (sk s) p 1)).run = .fenced

/-- The pods that an invalidation under hail reaches: enabled and not fenced (R229, R386). -/
def Dev.livePods (d : Dev) (s : Nat) : List Nat := (d.enabledPods s).filter fun p => !d.podFenced s p

/-- Whether a pod is out of service: a spare, or fenced and replaced, on a socket whose pods are known. -/
def Dev.podOut (d : Dev) (s p : Nat) : Bool := !(d.enabledPods s).isEmpty && !(d.enabledPods s).contains p

/-- Whether the router at a message's destination discards it (R223): the local port of a pod out of service, or a core of a
fenced pod; the slice of a fenced pod serves until the pod is replaced (assumption log 21). -/
def Dev.discards (d : Dev) (dst : Node) : Bool :=
  match dst with
  | .core s c => c.val < 208 && (d.podOut s (c.val / 2) || d.podFenced s (c.val / 2))
  | .slice s p => d.podOut s p
  | _ => false

end Sys2Proof.Machine
end

