-- ==== Sys2Proof/Machine/FaultLog.lean ====
section
/-! DEFINITION. Reporting an error: first-error logs, coded messages, send queues (R374 to R381). -/

namespace Sys2Proof.Machine

/-- An error as its unit detects it: source ID (R378), class (R379), sub-unit, requester, berth, access type and
address. -/
structure FEv where
  src : Nat
  cls : Nat
  sub : Nat
  master : Nat
  berth : Nat
  access : Nat
  addr : Nat
  deriving DecidableEq, Repr

/-- The severity a source applies to a class (R380). -/
def Dev.severity (d : Dev) (s src cls : Nat) : Nat := bits (d.reg s .fcSrcSev src 0) (3 * cls + 2) (3 * cls)

/-- The coded message of R376. -/
def faultMsg (e : FEv) (kind sev time : Nat) (forced logged : Bool) : FMsg :=
  BitVec.ofNat 128 (e.src % 4096 * 2 ^ 116 + kind % 256 * 2 ^ 108 + sev % 8 * 2 ^ 105 + e.berth % 64 * 2 ^ 99 +
    e.master % 65536 * 2 ^ 83 + e.access % 16 * 2 ^ 79 + forced.toNat * 2 ^ 78 + logged.toNat * 2 ^ 77 +
    e.sub % 256 * 2 ^ 69 + time % 2 ^ 17 * 2 ^ 52 + e.addr % 2 ^ 52)

/-- One word of a source's first-error log: 0 INFO, 1 ADDR, 2 TIME, 3 SRC (R375). -/
def Faults.logWord (f : Faults) (src i : Nat) : Word :=
  if i = 3 then putBits (Tbl.get 0 f.log (src * 4 + 3)) 11 0 src else Tbl.get 0 f.log (src * 4 + i)

/-- Store one word of a source's log. -/
def Faults.setLog (f : Faults) (src i : Nat) (v : Word) : Faults := { f with log := Tbl.set 0 f.log (src * 4 + i) v }

/-- Capture an error, or count it when the log holds one (R374). Answers whether it was captured. -/
def Faults.capture (f : Faults) (e : FEv) (kind sev : Nat) (now : Word) : Faults × Bool :=
  let info := f.logWord e.src 0
  if bit info 63 then
    (f.setLog e.src 0 (putBits info 55 40 (satAdd 16 (bits info 55 40) 1)), false)
  else
    let w := word (2 ^ 63 + kind % 256 * 2 ^ 32 + sev * 2 ^ 28 + e.berth % 64 * 2 ^ 22 + e.access % 16 * 2 ^ 16 +
      e.master % 65536)
    ((((f.setLog e.src 0 w).setLog e.src 1 (word (e.addr % 2 ^ 52))).setLog e.src 2 now).setLog e.src 3
      (putBits 0 19 12 e.sub), true)

/-- Put a message on a source's send queue of eight; one that finds it full is dropped and sets LOST (R377). -/
def Faults.enqueue (f : Faults) (src : Nat) (m : FMsg) : Faults :=
  let q := Tbl.get [] f.send src
  if q.length < 8 then { f with send := Tbl.set [] f.send src (q ++ [m]) }
  else f.setLog src 0 (putBit (f.logWord src 0) 62 true)

/-- Report an error with a given kind (R374 to R381): severity Ignore neither logs nor reports. -/
def Dev.reportKind (d : Dev) (s : Nat) (e : FEv) (kind : Nat) (forced : Bool) : Dev :=
  let sev := d.severity s e.src e.cls
  if sev = 0 then d
  else d.onSock s fun k =>
    let (f, cap) := k.faults.capture e kind sev d.now
    { k with faults := f.enqueue e.src (faultMsg e kind sev d.now.toNat forced cap) }

/-- Report an error. The detail bits of KIND are not stated by any chapter: a free value (assumption log 5). -/
def Dev.report (d : Dev) (s : Nat) (e : FEv) : Dev :=
  if d.severity s e.src e.cls = 0 then d
  else
    let (v, d) := d.free
    d.reportKind s e (e.cls * 16 + bits v 3 0) false

/-- The agent number of a unit that reports (R376, R378). Landing routers, the power controller, the manifest reader, the
register-space decoder and the slips have no number in R5: DESIGN CHOICE (assumption log 30), a router stands under the
slice of its pod, a bridge landing's under its hub's home agent, and the Wheelhouse's units under management core 0xF00. -/
def agentOfSource (src : Nat) : Nat :=
  if 0x180 ≤ src && src < 0x200 then
    match podAt (src - 0x180) with
    | some p => 0x100 + p
    | none => 0x200 + (src - 0x180) / 64
  else if 0xF10 ≤ src then 0xF00
  else src

/-- An error without a requester: the master is the unit's own agent (R376; assumption log 30). -/
def Dev.reportUnit (d : Dev) (s src cls sub berth access addr : Nat) : Dev :=
  d.report s { src, cls, sub, master := s * 4096 + agentOfSource src, berth, access, addr }

/-- The range that covers an address. -/
def Tables.rangeAt (t : Tables) (pa : Nat) : Option Range := t.ranges.find? fun r => r.base ≤ pa && pa < r.limit

/-- The berth that owns an address; 0 when none does. -/
def Tables.ownerOf (t : Tables) (pa : Nat) : Nat :=
  match t.rangeAt pa with
  | some r => r.berth
  | none => 0

/-- An error at an address without a requester: BERTH is the owner of the address's range (R376). -/
def Dev.reportAt (a : Tables) (d : Dev) (s src cls sub access addr : Nat) : Dev :=
  d.reportUnit s src cls sub (a.ownerOf addr) access addr

/-- A Note of class ACCESS from the register-space decoder (R379, R535). -/
def Dev.noteAccess (d : Dev) (s : Nat) (src : Nat) (master berth access addr : Nat) : Dev :=
  d.report s { src, cls := 4, sub := 0xFF, master, berth, access, addr }

/-- A Note of class NOTICE. -/
def Dev.notice (d : Dev) (s src : Nat) : Dev := d.reportUnit s src 5 0xFF 0 0 0

/-- Raise the error of FORCE (R381): class FORCE_CLASS, detail 0xF, SUB FORCE_SUB, the address of FC_INJ_ADDR. FORCE
reads 1 until the message has left the unit's send queue. The master is the unit's agent (assumption log 30). -/
def Dev.force (a : Tables) (d : Dev) (s src : Nat) : Dev :=
  let w := d.reg s .fcSrcSev src 0
  let cls := bits w 59 56
  let addr := bits (d.reg s .fcInjAddr 0 0) 51 0
  let e : FEv := { src, cls, sub := bits w 55 48, master := s * 4096 + agentOfSource src, berth := a.ownerOf addr, access := 0, addr }
  let d := d.reportKind s e (cls * 16 + 15) true
  let waits := (Tbl.get [] (d.sock s).faults.send src).any fun m => m.getLsbD 78
  d.setFld s .fcSrcSev src 0 63 63 waits.toNat

/-- Count `n` occurrences of an uncore event of berth `b` in a unit's four counters (R446 to R448). -/
def Dev.uncore (d : Dev) (s : Nat) (cfg cnt : Reg) (unit ev b n : Nat) : Dev :=
  (List.range 4).foldl (fun d i =>
    let w := d.reg s cfg unit i
    if bit w 63 && bits w 7 0 = ev && (bits w 53 48 = 0 || bits w 53 48 = b) then d.bump s cnt unit i 47 0 n else d) d

/-- Whether a source ID is one that a unit holds (R378). -/
def sourceExists (s : Nat) : Bool :=
  s < 208 || (0x100 ≤ s && s < 0x168) || (0x180 ≤ s && s < 0x200) || (0x200 ≤ s && s < 0x208) ||
    (0x210 ≤ s && s < 0x21C) || (0x220 ≤ s && s < 0x230) || s = 0x400 || s = 0x500 || s = 0x600 || s = 0x700 ||
    (0x800 ≤ s && s < 0x820) || (0xE00 ≤ s && s < 0xE08) || (0xF00 ≤ s && s < 0xF04) || (0xF10 ≤ s && s < 0xF14)

/-- The source whose log lies at an offset of the register space, and the word (R224, R304, R328, R375, R429, R444,
R476): routers, channels, tiering hubs, links, crossing directories, ports, engines, the power controller and slips. -/
def logAt (off : Nat) : Option (Nat × Nat) :=
  let hit := fun (base stride n src sstep : Nat) =>
    if base + 0x20 ≤ off ∧ off < base + n * stride then
      let i := (off - base) / stride
      let o := (off - base) % stride
      if 0x20 ≤ o ∧ o < 0x40 ∧ o % 8 = 0 then some (src + i * sstep, (o - 0x20) / 8) else none
    else none
  (hit 0x10000000 0x100000 128 0x180 1) <|> (hit 0x20000000 0x1000 12 0x210 1) <|>
    (hit 0x20010000 0x1000 16 0x220 1) <|> (hit 0x20040000 0x1000 2 0x204 1) <|>
    (hit 0x30000000 0x1000 8 0xE00 1) <|> (hit 0x30008000 0x1000 2 0x202 1) <|>
    (hit 0x40000000 0x1000 32 0x800 1) <|> (hit 0x40020000 0x10000 4 0x400 0x100) <|>
    (hit 0x03000000 0x1000 1 0xF10 0) <|> (hit 0x04040000 0x1000 1 0xF13 0)

end Sys2Proof.Machine
end

