-- ==== Sys2Proof/Machine/Dram.lean ====
section
/-! DEFINITION. Below the point of coherence: the location of a request under the tiering modes and runs (R329 to R348),
interleave and fencing (R306, R312 to R322), and reads and writes of lines with their metadata. -/

namespace Sys2Proof.Machine

/-- Whether ranges of one berth cover every byte from `lo` to below `hi`. -/
def Tables.covers (t : Tables) (b lo hi : Nat) : Bool :=
  (t.ranges.filter fun r => r.berth = b).foldl (fun at_ r => if r.base ≤ at_ ∧ at_ < r.limit then r.limit else at_) lo ≥ hi

/-- First byte of socket `s`'s memory window. -/
def windowBase (s : Nat) : Nat := s * windowSize

/-- First byte of a hub's far region. -/
def farBase (s hub : Nat) : Nat := windowBase s + hub * 0x100000000000

/-- First byte of a hub's near region. -/
def nearBase (s hub : Nat) : Nat := windowBase s + 0x200000000000 + hub * 0x10000000000

/-- One GiB. -/
def gib : Nat := 0x40000000

/-! ### Channels -/

/-- The interleave set of a hub that holds a far offset: its number, base (GiB) and channels in increasing number
(R312). -/
def Dev.farSet (d : Dev) (s hub off : Nat) : Option (Nat × Nat × List Nat) :=
  (List.range 4).findSome? fun i =>
    let w := d.reg s .fmSet hub i
    let b := bits w 46 32
    if bit w 63 && b * gib ≤ off && off < (b + bits w 14 0) * gib then
      some (i, b, (setBitsOf (bits w 53 48) 6).map (6 * hub + ·))
    else none

/-- A DRAM location of a far channel (R313): channel, rank, subchannel, bank group, bank, row, column. -/
structure FarLoc where
  ch : Nat
  rank : Nat
  sub : Nat
  bg : Nat
  bank : Nat
  row : Nat
  col : Nat
  deriving DecidableEq, Repr

/-- The DRAM location of an offset in a hub's far region (R313). -/
def Dev.farLoc (d : Dev) (s hub off : Nat) : Option FarLoc :=
  match d.farSet s hub off with
  | none => none
  | some (_, b, chs) =>
    let o := off - b * gib
    let u := o / 256
    let k := Nat.max 1 chs.length
    let ch := chs.getD (u % k) 0
    let ca := u / k * 256 + o % 256
    let r := d.fld s .fmChCfg ch 0 18 16
    let row := ca >>> (19 + r)
    some { ch, rank := nbits ca (18 + r) 19 % 2 ^ r, sub := nbits ca 6 6, bg := nbits ca 16 14 ^^^ (row % 8),
           bank := nbits ca 18 17, row, col := nbits ca 13 7 * 16 }

/-- The near channel, bank, row and line of an offset in a hub's near region (R316): channel, device line. -/
def nearLoc (hub off : Nat) : Nat × Nat :=
  let u := off / 256
  let n := u / 8 * 4 + nbits off 7 6
  (8 * hub + u % 8, 8 * (n / 7) + n % 7)

/-- Whether a unit is fenced: its fence-table entry is FENCED or PERMANENT, or it is fenced without an entry (R388). -/
def Dev.fenced (d : Dev) (s src sub : Nat) : Bool :=
  ((List.range 512).any fun n =>
      let w := d.reg s .fcFenceA n 0
      bit w 63 && bits w 47 36 = src && bits w 35 28 = sub) ||
    (d.sock s).faults.extra.contains (src * 256 + sub)

/-- The root port of a CXL port (R318). -/
def cxlRoot (p : Nat) : Nat := [0, 4, 16, 20].getD p 0

/-- How a location answers: its DRAM serves it, a fenced or departed unit poisons it, or it is a hole (R307, R321,
R322). -/
inductive Service where
  | serves
  | poisons
  | hole
  deriving DecidableEq, Repr

/-- The service of a location. -/
def Dev.service (d : Dev) (loc : Nat) : Service :=
  match regionOf loc with
  | .far s h off =>
    match d.farLoc s h off with
    | none => .hole
    | some l =>
      let st := d.fld s .fmChCfg l.ch 0 63 60
      if st = 4 || d.fenced s (0x210 + l.ch) l.rank then .poisons else if st = 2 || st = 3 then .serves else .poisons
  | .near s h off =>
    if 224 * 0x4000000 ≤ off then .hole
    else
      let st := d.fld s .nmChCfg (nearLoc h off).1 0 63 60
      if st = 2 || st = 3 then .serves else .poisons
  | .cxl s p off =>
    let w := d.reg s .fmCxl (p / 2) (p % 2)
    if bits w 44 32 * gib ≤ off then .hole
    else if bits w 63 60 = 4 || (d.port s (cxlRoot p)).lost then .poisons else .serves
  | _ => .hole

/-! ### Runs (R347, R348) -/

/-- Where a run sends a location. -/
def runTarget (a b loc base : Nat) : Option Nat :=
  let aw := word a
  let bw := word b
  let src := base + bits aw 60 43 * gib
  let dst := base + bits aw 42 25 * gib
  let len := bits aw 12 0 * gib
  let st := bits bw 58 56
  let done := bits bw 32 0 * 4096
  if bit aw 63 && src ≤ loc && loc < src + len then
    let o := loc - src
    if st = 2 || (st = 1 && o < done) || (st = 3 && done ≤ o) then some (dst + o) else none
  else none

/-- The location after the runs of the socket. -/
def Dev.redirect (d : Dev) (s loc : Nat) : Nat :=
  let hits := (List.range 2).flatMap fun h => (List.range 32).filterMap fun r =>
    runTarget (d.reg s .teRunA h r).toNat (d.reg s .teRunB h r).toNat loc (windowBase s)
  hits.headD loc

/-! ### Lines of DRAM -/

/-- A line of memory with its summary (R314, R316): CXL memory has no metadata, so its summary reads 0b11 (R271). -/
structure MLine where
  line : PLine
  summary : Nat
  deriving DecidableEq, Repr

/-- A line that is only a poison mark. -/
def PLine.lost : PLine := { data := 0, poison := true }

/-- Whether an address's memory is CXL. -/
def isCxl (pa : Nat) : Bool :=
  match regionOf pa with
  | .cxl .. => true
  | _ => false

/-- The line stored at a location. -/
def Dev.rawLine (d : Dev) (loc : Nat) : MLine :=
  let m := Tbl.get 0 d.meta_ (lineOf loc)
  { line := { data := lineOfBytes (Memory.readN d.mem (lineBase loc) 64), poison := m.getLsbD 2 },
    summary := if isCxl loc then 3 else (m.setWidth 2).toNat }

/-- Store a line and its metadata at a location. -/
def Dev.putRaw (d : Dev) (loc : Nat) (m : MLine) : Dev :=
  { d with
    mem := Memory.writeN d.mem (lineBase loc) (lineBytes m.line.data 64)
    meta_ := Tbl.set 0 d.meta_ (lineOf loc)
      (BitVec.ofNat 3 (m.line.poison.toNat * 4 + (if isCxl loc then 0 else m.summary % 4))) }

/-! ### Tiering -/

/-- The near pool of a berth on a hub: first byte and size, when it holds near memory there (R330). -/
def Tables.pool (t : Tables) (b s hub : Nat) : Option (Nat × Nat) :=
  (t.ranges.find? fun r => r.berth = b && r.kind = 1 && nearBase s hub ≤ r.base && r.base < nearBase s hub + 0x10000000000)
    |>.map fun r => (r.base, r.limit - r.base)

/-- The far ranges of a berth on a hub, in address order. -/
def Tables.farRanges (t : Tables) (b s hub : Nat) : List Range :=
  t.ranges.filter fun r => r.berth = b && r.kind = 0 && farBase s hub ≤ r.base && r.base < farBase s hub + 0x100000000000

/-- The index of a far page among a berth's far pages on the hub (R333). -/
def pageIndex (rs : List Range) (pa : Nat) : Nat :=
  rs.foldl (fun k r => if pa < r.base then k else k + (Nat.min pa r.limit - r.base) / 4096) 0

/-- The far page of an index. -/
def pageOfIndex (rs : List Range) (k : Nat) : Nat :=
  match rs with
  | [] => 0
  | r :: rest => let n := (r.limit - r.base) / 4096; if k < n then r.base + k * 4096 else pageOfIndex rest (k - n)

/-- A tiered access: mode (1 CACHE, 2 TIER), owner, hub, pool and far ranges. -/
structure Tier where
  mode : Nat
  berth : Nat
  sock : Nat
  hub : Nat
  pool : Nat
  sets : Nat
  fars : List Range
  deriving DecidableEq, Repr

/-- The tiering in force for an address, none where it behaves as in FLAT (R329, R330, R345, TE_HUB_CFG.EN). -/
def Dev.tierAt (a : Tables) (d : Dev) (pa : Nat) : Option Tier :=
  let go := fun (s hub : Nat) =>
    let b := a.ownerOf pa
    let mode := d.fld s .tePolicy b 0 61 60
    let st := d.reg s .teState hub b
    if b = 0 || (mode ≠ 1 && mode ≠ 2) || !bit (d.reg s .teHubCfg hub 0) 63 || (bit st 63 && bit st 62) then none
    else
      match a.pool b s hub with
      | none => none
      | some (base, size) =>
        some { mode, berth := b, sock := s, hub, pool := base, sets := size / 32768, fars := a.farRanges b s hub }
  match regionOf pa with
  | .far s h _ => go s h
  | .near s h _ => go s h
  | _ => none

/-- The global frame number of way `w` of a pool's set `i`. -/
def Tier.frame (t : Tier) (i w : Nat) : Nat := (t.pool - nearBase t.sock t.hub) / 4096 + i * 8 + w

/-- The address of a frame of a hub. -/
def frameAddr (s hub f : Nat) : Nat := nearBase s hub + f * 4096

/-- Where the remap table's entry of a frame is stored (R332). -/
def Dev.tableLoc (d : Dev) (s hub f : Nat) : Nat :=
  d.redirect s (d.fld s .teHubCfg hub 0 51 30 * gib + f * 4)

/-- A remap entry's V, D, BUSY, STAMP, HEAT, Q (R332). -/
structure REnt where
  v : Bool
  dirty : Bool
  busy : Bool
  stamp : Nat
  heat : Nat
  q : Nat
  deriving DecidableEq, Repr

/-- The fields of an entry. -/
def rent (w : BitVec 32) : REnt :=
  let n := w.toNat
  { v := w.getLsbD 31, dirty := w.getLsbD 30, busy := w.getLsbD 29, stamp := nbits n 28 24, heat := nbits n 23 16,
    q := nbits n 13 0 }

/-- The entry of given fields. -/
def REnt.word (e : REnt) : BitVec 32 :=
  BitVec.ofNat 32 (e.v.toNat * 2 ^ 31 + e.dirty.toNat * 2 ^ 30 + e.busy.toNat * 2 ^ 29 + e.stamp % 32 * 2 ^ 24 +
    e.heat % 256 * 2 ^ 16 + e.q % 2 ^ 14)

/-- Whether a set's line in the table is poisoned while the cache does not hold it (R363). -/
def Dev.setLost (d : Dev) (s hub set : Nat) : Bool :=
  !Tbl.get false (d.hub s hub).cached set && (d.rawLine (d.tableLoc s hub (set * 8))).line.poison

/-- Fill a remap-cache line from the table; after a WARM reset HEAT and STAMP are taken as zero (R335). -/
def Dev.fillSet (d : Dev) (s hub set : Nat) : Dev :=
  if Tbl.get false (d.hub s hub).cached set || d.setLost s hub set then d
  else
    let es := (List.range 8).map fun w =>
      let f := set * 8 + w
      (f, BitVec.ofNat 32 (leNat (Memory.readN d.mem (d.tableLoc s hub f) 4)))
    d.onHub s hub fun h =>
      { h with
        cached := Tbl.set false h.cached set true
        remap := es.foldl (fun t e =>
          Tbl.set 0 t e.1 (if h.warmed then ({ rent e.2 with stamp := 0, heat := 0 } : REnt).word else e.2)) h.remap }

/-- The entry of a frame, in the remap cache. -/
def Dev.entry (d : Dev) (s hub f : Nat) : REnt := rent (Tbl.get 0 (d.hub s hub).remap f)

/-- Write an entry in the cache alone (heat updates). -/
def Dev.setEntryCache (d : Dev) (s hub f : Nat) (e : REnt) : Dev :=
  d.onHub s hub fun h => { h with remap := Tbl.set 0 h.remap f e.word }

/-- Write an entry in the cache and through to the table; the whole line's HEAT and STAMP reach the table (R335). -/
def Dev.setEntry (d : Dev) (s hub f : Nat) (e : REnt) : Dev :=
  let d := d.setEntryCache s hub f e
  (List.range 8).foldl (fun d w =>
    let g := f / 8 * 8 + w
    { d with mem := Memory.writeN d.mem (d.tableLoc s hub g) (leBytes 4 (Tbl.get 0 (d.hub s hub).remap g).toNat) }) d

/-- Where a request's line lies (R334): a location, no location (a hole), or a lost remap set of a berth. -/
inductive Loc where
  | at (addr : Nat)
  | hole
  | lost (berth : Nat)
  deriving DecidableEq, Repr

/-- The way of a set that holds far page quotient `q`. -/
def Dev.wayHolding (d : Dev) (t : Tier) (i q : Nat) : Option Nat :=
  (List.range 8).find? fun w => let e := d.entry t.sock t.hub (t.frame i w); e.v && e.q = q

/-- The location of an address before the runs, with its set filled (R334). -/
def Dev.tierLoc (a : Tables) (d : Dev) (pa : Nat) : Loc × Dev :=
  match d.tierAt a pa with
  | none => (.at pa, d)
  | some t =>
    match regionOf pa with
    | .far _ _ _ =>
      let k := pageIndex t.fars pa
      let i := k % Nat.max 1 t.sets
      let set := t.frame i 0 / 8
      if d.setLost t.sock t.hub set then (.lost t.berth, d)
      else
        let d := d.fillSet t.sock t.hub set
        match d.wayHolding t i (k / Nat.max 1 t.sets) with
        | some w => (.at (frameAddr t.sock t.hub (t.frame i w) + pa % 4096), d)
        | none => (.at pa, d)
    | _ =>
      if t.mode = 1 then (.hole, d)
      else
        let f := (pa - nearBase t.sock t.hub) / 4096
        if d.setLost t.sock t.hub (f / 8) then (.lost t.berth, d)
        else
          let d := d.fillSet t.sock t.hub (f / 8)
          let e := d.entry t.sock t.hub f
          if e.v then (.at (pageOfIndex t.fars (e.q * t.sets + (f - t.frame 0 0) / 8) + pa % 4096), d)
          else (.at pa, d)

/-- The location of an address, after the runs. -/
def Dev.locate (a : Tables) (d : Dev) (pa : Nat) : Loc × Dev :=
  match d.tierLoc a pa with
  | (.at l, d) => (.at (d.redirect (homeSock pa) l), d)
  | r => r

/-- Whether a location lies in a page that a copy reads or writes (R342). -/
def Dev.blockedLoc (d : Dev) (s loc : Nat) : Bool :=
  (List.range 2).any fun h => (d.hub s h).slots.any fun e => e.2.locs.any fun b => b / 4096 = loc / 4096

/-- Set D of a CACHE-mode copy that a write reaches (R334). -/
def Dev.markDirty (a : Tables) (d : Dev) (pa loc : Nat) : Dev :=
  match d.tierAt a pa with
  | some t =>
    if t.mode = 1 ∧ loc / 4096 ≠ pa / 4096 then
      let k := pageIndex t.fars pa
      let i := k % Nat.max 1 t.sets
      match d.wayHolding t i (k / Nat.max 1 t.sets) with
      | some w =>
        let f := t.frame i w
        d.setEntry t.sock t.hub f { d.entry t.sock t.hub f with dirty := true }
      | none => d
    else d
  | none => d

/-- The access of a memory request that the hub reports: requester and kind of access. -/
structure Who where
  master : Nat
  berth : Nat
  access : Nat
  deriving DecidableEq, Repr

/-- A near controller keeps the check line of the data line it reads or writes; of more than 32 the one used longest ago leaves
(R317; assumption log 13). -/
def Chan.touchCheck (c : Chan) (g : Nat) : Chan := { c with checks := (g :: c.checks.filter fun x => x ≠ g).take 32 }

/-- Count a line read (0x50) or write (0x51) of the channel that holds a location (R448). -/
def Dev.chanEvent (d : Dev) (loc ev b : Nat) : Dev :=
  match regionOf loc with
  | .far s h off =>
    match d.farLoc s h off with
    | some l => d.uncore s .pcUncCfgFar .pcUncCntFar l.ch ev b 1
    | none => d
  | .near s h off =>
    let l := nearLoc h off
    (d.uncore s .pcUncCfgNear .pcUncCntNear l.1 ev b 1).onChan s (16 + l.1) fun c => c.touchCheck (l.2 / 8)
  | _ => d

/-- Whether a CXL.mem request to a location has no response (R320); one that has ends the row of timeouts. -/
def Dev.cxlSilent (d : Dev) (loc : Nat) : Bool × Dev :=
  match regionOf loc with
  | .cxl s p _ =>
    let k := d.port s (cxlRoot p)
    if 0 < k.due then (true, d.onPort s (cxlRoot p) fun x => { x with due := x.due - 1 })
    else if (d.chan s (32 + p)).cxlTimeouts = 0 then (false, d)
    else (false, d.onChan s (32 + p) fun c => { c with cxlTimeouts := 0 })
  | _ => (false, d)

/-- A read of a line at its home (R307, R320 to R322, R357): its data, poison and summary. -/
def Dev.memRead (a : Tables) (d : Dev) (w : Who) (pa : Nat) : MLine × Dev :=
  let s := homeSock pa
  let hub := homeHub pa
  let ev : FEv := { src := 0x200 + hub, cls := 4, sub := 0xFF, master := w.master, berth := w.berth,
                    access := w.access, addr := pa }
  match d.locate a pa with
  | (.at l, d) =>
    match d.service l with
    | .serves =>
      let (silent, d) := d.cxlSilent l
      (if silent then { line := .lost, summary := (d.rawLine l).summary } else d.rawLine l, d.chanEvent l 0x50 w.berth)
    | .poisons => ({ line := .lost, summary := (d.rawLine l).summary }, d.report s { ev with cls := 2 })
    | .hole => ({ line := .lost, summary := 0 }, d.report s ev)
  | (.hole, d) => ({ line := .lost, summary := 0 }, d.report s ev)
  | (.lost b, d) =>
    ({ line := .lost, summary := 0 }, d.report s { ev with src := 0x204 + hub, cls := 7, berth := b })

/-- A write of a line at its home: full lines clear poison, the summary is the home agent's. -/
def Dev.memWrite (a : Tables) (d : Dev) (w : Who) (pa : Nat) (m : MLine) : Dev :=
  let s := homeSock pa
  let hub := homeHub pa
  let ev : FEv := { src := 0x200 + hub, cls := 4, sub := 0xFF, master := w.master, berth := w.berth,
                    access := w.access, addr := pa }
  match d.locate a pa with
  | (.at l, d) =>
    match d.service l with
    | .serves =>
      let (silent, d) := d.cxlSilent l
      if silent then d else ((d.putRaw l m).chanEvent l 0x51 w.berth).markDirty a pa l
    | .poisons => d
    | .hole => d.report s ev
  | (.hole, d) => d.report s ev
  | (.lost b, d) => d.report s { ev with src := 0x204 + hub, cls := 7, berth := b }

/-- Write a line, keeping the summary memory holds. -/
def Dev.memWriteLine (a : Tables) (d : Dev) (w : Who) (pa : Nat) (l : PLine) : Dev :=
  let sum := match (d.locate a pa).1 with
    | .at loc => (d.rawLine loc).summary
    | _ => 0
  d.memWrite a w pa { line := l, summary := sum }

/-! ### Heat (R337 to R340) -/

/-- The tiering epoch of a socket's hub now, modulo 32. -/
def Dev.tierEpoch (d : Dev) (s hub : Nat) : Nat :=
  d.now.toNat / (Nat.max 1 (d.fld s .teHubCfg hub 0 16 0) * 1000) % 32

/-- A heat value brought to an epoch (R338). -/
def cooled (heat stamp epoch : Nat) : Nat :=
  let sh := (epoch + 32 - stamp % 32) % 32
  if 8 ≤ sh then 0 else heat >>> sh

/-- The heat cache's set of a page (R339). -/
def heatSet (pa : Nat) : Nat := nbits pa 23 12

/-- The heat-cache way that holds a page. -/
def Hub.heatWay (h : Hub) (pa : Nat) : Option Nat :=
  (List.range 16).find? fun w =>
    match Tbl.find h.heat (heatSet pa * 16 + w) with
    | some e => e.1 = pa / 4096
    | none => false

/-- Put a page's heat in the heat cache, replacing the way of lowest heat (R339). -/
def Hub.putHeat (h : Hub) (pa epoch heat : Nat) : Hub :=
  let set := heatSet pa
  let w := match h.heatWay pa with
    | some w => w
    | none => (argMin (List.range 16) fun w =>
        match Tbl.find h.heat (set * 16 + w) with
        | some e => cooled e.2.2 e.2.1 epoch + 1
        | none => 0).getD 0
  { h with heat := Tbl.put h.heat (set * 16 + w) (pa / 4096, epoch, heat) }

/-- The heat of a page in the heat cache, or 0. -/
def Hub.heatOf (h : Hub) (pa epoch : Nat) : Nat :=
  match h.heatWay pa with
  | some w =>
    match Tbl.find h.heat (heatSet pa * 16 + w) with
    | some e => cooled e.2.2 e.2.1 epoch
    | none => 0
  | none => 0

/-- Take a page's heat out of the heat cache. -/
def Hub.dropHeat (h : Hub) (pa : Nat) : Hub :=
  match h.heatWay pa with
  | some w => { h with heat := Tbl.erase h.heat (heatSet pa * 16 + w) }
  | none => h

/-- Queue a candidate; with the berth's budget spent it is refused, at a full queue it is dropped (R340, R341), and a page
that is queued or being copied makes none (R344). -/
def Dev.candidate (d : Dev) (s hub : Nat) (c : TCopy) : Dev :=
  let h := d.hub s hub
  if (h.queue.any fun q => q.page = c.page) || h.slots.any fun e => e.2.page = c.page || e.2.frame = c.frame then d
  else if d.fld s .tePolicy c.berth 0 11 0 ≤ Tbl.get 0 h.done c.berth then
    d.onHub s hub fun h => { h with refused := Tbl.set 0 h.refused c.berth (Tbl.get 0 h.refused c.berth + 1) }
  else if h.queue.length < 64 then
    (d.onHub s hub fun h => { h with queue := h.queue ++ [c] }).setFld s .teHubStat hub 0 55 48 (h.queue.length + 1)
  else d.bump s .teHubStat hub 0 23 0 1

/-- Take a sample for the page of an address (R337 to R340): add heat, and make it a candidate when it is hot enough. -/
def Dev.heatPage (d : Dev) (t : Tier) (pa : Nat) : Dev :=
  let s := t.sock
  let hub := t.hub
  let ep := d.tierEpoch s hub
  let inFar := match regionOf pa with
    | .far .. => true
    | _ => false
  let k := pageIndex t.fars pa
  let i := if inFar then k % Nat.max 1 t.sets else (pa - t.pool) / 32768
  let own := (pa - nearBase s hub) / 4096
  let held : Option Nat :=
    if inFar then (d.wayHolding t i (k / Nat.max 1 t.sets)).map (t.frame i)
    else if (d.entry s hub own).v then none else some own
  match held with
  | some f =>
    let e := d.entry s hub f
    d.setEntryCache s hub f { e with heat := satAdd 8 (cooled e.heat e.stamp ep) 1, stamp := ep }
  | none =>
    let h := d.hub s hub
    let heat := match h.heatWay pa with
      | some _ => satAdd 8 (h.heatOf pa ep) 1
      | none => 1
    let d := d.onHub s hub fun h => h.putHeat pa ep heat
    let st := d.reg s .teState hub t.berth
    let victim : Option Nat :=
      if inFar then
        (argMin ((List.range 8).filter fun w => !(d.entry s hub (t.frame i w)).busy) fun w =>
          let e := d.entry s hub (t.frame i w)
          if t.mode = 1 ∧ !e.v then 0 else cooled e.heat e.stamp ep).map (t.frame i)
      else some own
    match victim with
    | none => d
    | some f =>
      let e := d.entry s hub f
      let vh := if t.mode = 1 ∧ !e.v then 0 else cooled e.heat e.stamp ep
      if bits st 55 48 ≤ heat ∧ vh + d.fld s .tePolicy t.berth 0 47 40 ≤ heat ∧ !bit st 63 then
        d.candidate s hub { berth := t.berth, page := pa / 4096 * 4096, frame := f, heat, read := false, locs := [], buf := [] }
      else d

/-- A request of R337 reaches the hub: every 2^SAMPLE-th one for tiered memory is a sample. -/
def Dev.sampleHome (a : Tables) (d : Dev) (pa : Nat) : Dev :=
  match d.tierAt a pa with
  | none => d
  | some t =>
    let n := (d.hub t.sock t.hub).samples + 1
    let per := 2 ^ d.fld t.sock .teHubCfg t.hub 0 27 24
    let d := d.onHub t.sock t.hub fun h => { h with samples := n % per }
    if n % per = 0 then
      let i := match regionOf pa with
        | .far .. => pageIndex t.fars pa % Nat.max 1 t.sets
        | _ => (pa - t.pool) / 32768
      (d.fillSet t.sock t.hub (t.frame i 0 / 8)).heatPage t pa
    else d

end Sys2Proof.Machine
end

