-- ==== Sys2Proof/Machine/Cache.lean ====
section
/-! DEFINITION. The private caches of a core (R170 to R191) and how a core answers the messages sent to it (R257, R260,
R264 to R266). -/

namespace Sys2Proof

/-- The answer to a message: berth, master, transaction ID and address of the original request. -/
def Msg.reply (m : Msg) (ty : MsgType) (src dst : Node) : Msg :=
  { m with ty, src, dst, age := 0, aux := false, data := 0, poison := false }

/-- A message that carries a line. -/
def Msg.withLine (m : Msg) (l : Machine.PLine) : Msg := { m with data := l.data, poison := l.poison }

/-- The line a message carries. -/
def Msg.line (m : Msg) : Machine.PLine := { data := m.data, poison := m.poison }

/-- The address of a message. -/
def Msg.pa (m : Msg) : Nat := m.addr.toNat

/-- The hart of a core node. -/
def Node.hart : Node → Hart
  | .core s c => { sock := s, core := c }
  | n => { sock := n.sock, core := 0 }

end Sys2Proof

namespace Sys2Proof.Machine

/-! ### Whose traffic -/

/-- The berth that owns a pod (R24); 0 in the pool. -/
def Tables.berthOfPod (t : Tables) (s p : Nat) : Nat := Tbl.get 0 t.pods (s * 128 + p)

/-- The berth of a core: the Wheelhouse's for a management core (R24). -/
def Tables.berthOf (t : Tables) (h : Hart) : Nat := if isWheel h then 0 else t.berthOfPod h.sock (podOf h)

/-- The berth of a ferry function; PF0 is the Wheelhouse's (R394). -/
def Tables.berthOfFn (t : Tables) (s e f : Nat) : Nat := if f = 0 then 0 else Tbl.get 0 t.vfs ((s * 4 + e) * 256 + f)

/-- The berth of a root port. -/
def Tables.berthOfPort (t : Tables) (s p : Nat) : Nat := Tbl.get 0 t.ports (s * 32 + p)

/-- A core's request message. -/
def coreMsg (a : Tables) (d : Dev) (h : Hart) (ty : MsgType) (dst : Node) (txn : Nat) (pa : Nat) : Msg :=
  { ty, src := .core h.sock h.core, dst, berth := BitVec.ofNat 6 (a.berthOf h), master := masterOf h,
    txn := BitVec.ofNat 12 txn, age := BitVec.ofNat 20 d.now.toNat, aux := false, addr := BitVec.ofNat 52 pa, len := 64,
    data := 0, poison := false }

/-- The transaction ID of eviction notices. -/
def evictTxn : Nat := 0xFFF

/-- In a request to a home agent, payload bit 0: the requester may be given the line in E (R254; assumption log 16). -/
def wantE : Line := 1

/-- In a request to a home agent or a probe or forward, payload bit 1: the data is for the slice alone; bits 7:4 of a probe or
forward then name that slice's socket (assumption log 16). -/
def sliceOnly : Line := 2

/-- In a probe, payload bit 2: the home agent itself executes the request, so that nobody wants the data but memory (assumption log
16). -/
def noData : Line := 4

/-- The payload flags of a probe or forward whose data is for the slice of socket `s` alone. -/
def sliceOf (s : Nat) : Line := sliceOnly ||| BitVec.ofNat 512 (s * 16)

/-- The socket whose slice takes the data of a probe or forward: the requester's, or, of data for a slice alone, the one named. -/
def wantSock (m : Msg) : Nat := if m.data.getLsbD 1 then nbits m.data.toNat 7 4 else m.master.toNat / 4096 % 16

/-- Data for the requester named in a message, and, when the requester's slice waits for it, a copy for that slice (R261,
R268). -/
def Dev.supply (d : Dev) (m : Msg) (ty : MsgType) (src : Node) (l : PLine) (copy : Bool) : Dev :=
  if m.data.getLsbD 2 then d
  else
    let d := match nodeOf m.master with
      | some who => if m.data.getLsbD 1 then d else d.send ((m.reply ty src who).withLine l)
      | none => d
    if copy then d.send ((m.reply ty src (d.homeSlice ⟨wantSock m % 16, Nat.mod_lt _ (by decide)⟩ m.pa)).withLine l) else d

/-! ### Enables -/

/-- L2 is enabled (R192); a management core has none. -/
def l2On (h : Hart) (c : Core) : Bool := !isWheel h && bit (c.sysGet 0x20D) 2

/-- L1D is enabled, which needs L2 (R187). -/
def l1dOn (h : Hart) (c : Core) : Bool := l2On h c && bit (c.sysGet 0x20D) 1

/-- L1I is enabled, which needs L2 (R187). -/
def l1iOn (h : Hart) (c : Core) : Bool := l2On h c && bit (c.sysGet 0x20D) 0

/-! ### Lookup and replacement -/

/-- The key of the way of a set that holds a line. -/
def wayOf (t : Tbl CLine) (set ways la : Nat) : Option Nat :=
  ((List.range ways).map (set * ways + ·)).find? fun k =>
    match Tbl.find t k with
    | some c => c.la = la
    | none => false

/-- The L1D key of a line; a disabled L1D, whose lines stay in the array, answers no lookup (R187). -/
def Core.findD (c : Core) (la : Nat) : Option Nat :=
  if bit (c.sysGet 0x20D) 1 && bit (c.sysGet 0x20D) 2 then wayOf c.l1d (la % 128) 8 la else none

/-- The L2 key of a line; a disabled L2, whose lines stay in the array, answers no lookup (R187). -/
def Core.find2 (c : Core) (la : Nat) : Option Nat := if bit (c.sysGet 0x20D) 2 then wayOf c.l2 (la % 1024) 16 la else none

/-- The L1I key of a line fetched at a virtual address: the set is virtual address [12:6] (R170). -/
def Core.findI (c : Core) (va la : Nat) : Option Nat := wayOf c.l1i (va / 64 % 128) 8 la

/-- A line of L2. -/
def Core.line2 (c : Core) (la : Nat) : Option CLine := (c.find2 la).bind (Tbl.find c.l2)

/-- A line of L1D. -/
def Core.lineD (c : Core) (la : Nat) : Option CLine := (c.findD la).bind (Tbl.find c.l1d)

/-- The tree pseudo-LRU bits after an access to way `w` of eight: each node on the path points away. -/
def plruTouch (b : BitVec 7) (w : Nat) : BitVec 7 :=
  let put := fun (b : BitVec 7) (i : Nat) (v : Bool) => if v then b ||| (1#7 <<< i) else b &&& ~~~ (1#7 <<< i)
  put (put (put b 0 (w < 4)) (1 + w / 4) (w % 4 < 2)) (3 + w / 2) (w % 2 = 0)

/-- The way the tree points to. -/
def plruVictim (b : BitVec 7) : Nat :=
  let h := (b.getLsbD 0).toNat
  let q := (b.getLsbD (1 + h)).toNat
  let e := (b.getLsbD (3 + 2 * h + q)).toNat
  4 * h + 2 * q + e

/-- Touch an L1D way. -/
def Core.touchD (c : Core) (k : Nat) : Core :=
  { c with plruD := Tbl.set 0 c.plruD (k / 8) (plruTouch (Tbl.get 0 c.plruD (k / 8)) (k % 8)) }

/-- Touch an L1I way. -/
def Core.touchI (c : Core) (k : Nat) : Core :=
  { c with plruI := Tbl.set 0 c.plruI (k / 8) (plruTouch (Tbl.get 0 c.plruI (k / 8)) (k % 8)) }

/-- A far atomic that has been sent and not answered. -/
def Core.atomOut (c : Core) : Bool := c.devLoad.any fun e => e.atom

/-- Whether an instruction of the window makes a younger load's early read unsafe (R128): a load not yet performed, or a FENCE. -/
def LqEntry.unsafeFor (e : LqEntry) : Bool :=
  match e.kind with
  | .load => e.value.isNone
  | .fence => true
  | .store _ | .branch .. => false

/-- A line leaves L1D: performed loads that an older load not yet performed, a FENCE or an atomic could make wrong are marked
(R128). -/
def Core.leftD (c : Core) (la : Nat) : Core :=
  let r := c.lq.foldl (fun (acc : List LqEntry × Bool) e =>
    let touches := e.kind = .load && e.parts.any fun p => lineOf p.1 = la
    (acc.1 ++ [if e.value.isSome && acc.2 && touches then { e with orderKill := true } else e],
      acc.2 || e.unsafeFor)) ([], c.atomOut)
  { c with lq := r.1 }

/-- Put an L1D line's dirty data into L2 (R171), the L1D line becoming clean. -/
def Core.syncD (c : Core) (la : Nat) : Core :=
  match c.findD la, c.find2 la with
  | some k, some k2 =>
    match Tbl.find c.l1d k, Tbl.find c.l2 k2 with
    | some e, some e2 =>
      if e.dirty then
        { c with
          l1d := Tbl.put c.l1d k { e with dirty := false }
          l2 := Tbl.put c.l2 k2 { e2 with line := e.line, dirty := true, own := true } }
      else c
    | _, _ => c
  | _, _ => c

/-- Remove a line from L1D, its dirty data going to L2. With L1D disabled the line leaves L2, which stands in its place (R188). -/
def Core.dropD (c : Core) (la : Nat) : Core :=
  let c := c.syncD la
  match c.findD la with
  | some k => { c with l1d := Tbl.erase c.l1d k }.leftD la
  | none => if bit (c.sysGet 0x20D) 1 then c else c.leftD la

/-- Remove every copy of a line from L1I: both sets are probed (R172). A disabled L1I takes no part in coherence (R187). -/
def Core.dropI (c : Core) (la : Nat) : Core :=
  if bit (c.sysGet 0x20D) 0 && bit (c.sysGet 0x20D) 2 then { c with l1i := c.l1i.filter fun e => e.2.la ≠ la } else c

/-- The way of a set of L1D or L1I for a new line: an invalid way, else the pseudo-LRU way. A line of `newL`, installed within the
last 16 core cycles, is no victim (R183): the lowest other way is taken instead (DESIGN CHOICE, assumption log 30), and where every
way is new the miss waits until the period of the line installed first has passed. -/
def victimWay (t : Tbl CLine) (plru : Tbl (BitVec 7)) (set : Nat) (newL : List Nat) : Nat :=
  match (List.range 8).find? fun w => (Tbl.find t (set * 8 + w)).isNone with
  | some w => w
  | none =>
    let la := fun w => match Tbl.find t (set * 8 + w) with
      | some e => e.la
      | none => 0
    let w := plruVictim (Tbl.get 0 plru set)
    if !newL.contains (la w) then w
    else match (List.range 8).find? fun w => !newL.contains (la w) with
      | some w => w
      | none => (argMin (List.range 8) fun w => newL.findIdx (· = la w)).getD w

/-- Install a line in L1D: a victim that is dirty passes the L1D victim buffer into L2, which always holds its line (R171, R180), and
an owned line leaves L1I (R173). -/
def Core.putD (c : Core) (e : CLine) : Core :=
  let c := if e.own then c.dropI e.la else c
  match c.findD e.la with
  | some k => ({ c with l1d := Tbl.put c.l1d k e } : Core).touchD k
  | none =>
    let set := e.la % 128
    let k := set * 8 + victimWay c.l1d c.plruD set c.newD
    let c := match Tbl.find c.l1d k with
      | some v => c.dropD v.la
      | none => c
    ({ c with l1d := Tbl.put c.l1d k e, newD := c.newD.filter (· ≠ e.la) ++ [e.la] } : Core).touchD k

/-- Install a line in L1I. -/
def Core.putI (c : Core) (va : Nat) (e : CLine) : Core :=
  match c.findI va e.la with
  | some k => ({ c with l1i := Tbl.put c.l1i k e } : Core).touchI k
  | none =>
    let set := va / 64 % 128
    let k := set * 8 + victimWay c.l1i c.plruI set []
    ({ c with l1i := Tbl.put c.l1i k e } : Core).touchI k

/-- The L2 way for a new line: an invalid way, else the lowest way of highest RRPV, every RRPV of the set rising with
it to 3. R170 names the policy and no more: that a demand line enters at 2, drops to 0 when L1D or L1I takes it and not by a hit that
leaves no L1 copy, and that the lowest such way is the victim, is a DESIGN CHOICE (assumption log 30). -/
def Core.victim2 (c : Core) (set : Nat) : Nat × Core :=
  match (List.range 16).find? fun w => (Tbl.find c.l2 (set * 16 + w)).isNone with
  | some w => (w, c)
  | none =>
    let r := fun w => match Tbl.find c.l2 (set * 16 + w) with
      | some e => e.rrpv
      | none => 0
    let top := (List.range 16).foldl (fun m w => Nat.max m (r w)) 0
    let w := ((List.range 16).find? fun w => r w = top).getD 0
    (w, { c with l2 := c.l2.map fun e => if e.1 / 16 = set then (e.1, { e.2 with rrpv := e.2.rrpv + (3 - top) }) else e })

/-- Send the notice of a victim-buffer entry (R264): EVC or WBM. While the map entry of its line is held (R247) it is not sent. -/
def Dev.sendNotice (a : Tables) (d : Dev) (h : Hart) (v : Victim) : Dev :=
  let pa := v.la * 64
  if (d.homePod h.sock pa).2 then d
  else
    let d := d.onCore h fun c => { c with vic := c.vic.map fun x => if x.la = v.la then { x with sent := true } else x }
    let home := d.homeSlice h.sock pa
    if v.dirty then d.send ((coreMsg a d h .wbm home evictTxn pa).withLine v.line)
    else d.send (coreMsg a d h .evc home evictTxn pa)

/-- An owned line leaves the caches through the victim buffer of L2 (R264). -/
def Dev.giveBack (a : Tables) (d : Dev) (h : Hart) (v : Victim) : Dev :=
  (d.onCore h fun c => { c with vic := c.vic ++ [v] }).sendNotice a h v

/-- Evict a line of L2 (R171, R180, R264): out of both L1s, then S sends EVS, E sends EVC and M sends WBM through the
victim buffer. -/
def Dev.evict2 (a : Tables) (d : Dev) (h : Hart) (la : Nat) : Dev :=
  let d := d.onCore h fun c => (c.dropD la).dropI la
  let c := d.core h
  match c.find2 la with
  | none => d
  | some k =>
    match Tbl.find c.l2 k with
    | none => d
    | some e =>
      let d := d.onCore h fun c => { c with l2 := Tbl.erase c.l2 k }
      if !e.own then d.send (coreMsg a d h .evs (d.homeSlice h.sock (la * 64)) evictTxn (la * 64))
      else d.giveBack a h { la, holds := true, dirty := e.dirty, sent := false, line := e.line }

/-- Whether a new L2 line can be placed now: a free way, or room in the 16-entry victim buffer (R180). -/
def Core.room2 (c : Core) (la : Nat) : Bool :=
  (c.find2 la).isSome || ((List.range 16).any fun w => (Tbl.find c.l2 (la % 1024 * 16 + w)).isNone) || c.vic.length < 16

/-- Install a line in L2, evicting as needed. Taking ownership of a line drops the core's own L1I copy (R173). -/
def Dev.put2 (a : Tables) (d : Dev) (h : Hart) (e : CLine) : Dev :=
  let c := d.core h
  let d := match c.find2 e.la with
    | some k => d.onCore h fun c => { c with l2 := Tbl.put c.l2 k e }
    | none =>
      let (w, c') := c.victim2 (e.la % 1024)
      let k := e.la % 1024 * 16 + w
      let d := d.onCore h fun _ => c'
      let d := match Tbl.find c'.l2 k with
        | some v => d.evict2 a h v.la
        | none => d
      d.onCore h fun c => { c with l2 := Tbl.put c.l2 k e }
  if e.own then d.onCore h fun c => c.dropI e.la else d

/-- Bring an L2 line into L1D. -/
def Core.fillD (c : Core) (la : Nat) : Core :=
  match c.find2 la with
  | some k =>
    match Tbl.find c.l2 k with
    | some e => ({ c with l2 := Tbl.put c.l2 k { e with rrpv := 0 } } : Core).putD { e with dirty := false }
    | none => c
  | none => c

/-- Bring an L2 line into L1I, with the data of L1D where that is newer; L1I holds lines only shared (R253). -/
def Core.fillI (c : Core) (va la : Nat) : Core :=
  let c := c.syncD la
  match c.find2 la with
  | some k =>
    match Tbl.find c.l2 k with
    | some e =>
      ({ c with l2 := Tbl.put c.l2 k { e with rrpv := 0 } } : Core).putI va { e with own := false, dirty := false }
    | none => c
  | none => c

/-- Write the bytes of a mask into a line the core owns, in L1D when it is enabled and else in L2; a full line clears
poison. A copy of the line in the core's own L1I goes (R173). -/
def Core.writeLine (h : Hart) (c : Core) (la : Nat) (m : BitVec 64) (v : Line) : Core :=
  let c := c.dropI la
  let put := fun (e : CLine) => { e with
    dirty := true
    line := { data := maskMerge e.line.data v m, poison := e.line.poison && m ≠ BitVec.allOnes 64 } }
  if l1dOn h c then
    let c := if (c.findD la).isSome then c else c.fillD la
    match c.findD la with
    | some k =>
      match Tbl.find c.l1d k with
      | some e =>
        let c := ({ c with l1d := Tbl.put c.l1d k { put e with own := true } } : Core).touchD k
        match c.find2 la with
        | some k2 =>
          match Tbl.find c.l2 k2 with
          | some e2 => { c with l2 := Tbl.put c.l2 k2 { e2 with dirty := true } }
          | none => c
        | none => c
      | none => c
    | none => c
  else
    match c.find2 la with
    | some k2 =>
      match Tbl.find c.l2 k2 with
      | some e2 => { c with l2 := Tbl.put c.l2 k2 (put e2) }
      | none => c
    | none => c

/-- Whether the core owns a line: in L2, or by the state that its enabled L1D holds (R189). -/
def Core.owns (c : Core) (la : Nat) : Bool := (c.line2 la).any (fun e => e.own) || (c.lineD la).any fun e => e.own

/-- The core's view of a line: held, and owned where ownership is wanted. -/
def Core.has (c : Core) (la : Nat) (own : Bool) : Bool := c.owns la || (!own && ((c.line2 la).isSome || (c.lineD la).isSome))

/-- The core's newest copy of a line. -/
def Core.copyOf (c : Core) (la : Nat) : Option PLine :=
  match c.lineD la with
  | some e => some e.line
  | none => (c.line2 la).map fun e => e.line

/-! ### Answers to messages sent to a core -/

/-- Drop a line from all three caches. -/
def Core.dropAll (c : Core) (la : Nat) : Core :=
  let c := (c.dropD la).dropI la
  match c.find2 la with
  | some k => { c with l2 := Tbl.erase c.l2 k }
  | none => c

/-- Record an invalidation or ownership forward against a pending fill (R182). -/
def Core.killMiss (c : Core) (la : Nat) : Core :=
  { c with missL2 := c.missL2.map fun m => if m.la = la && m.sent then { m with killed := true } else m }

/-- Whether the requester that a forward names is on another socket, whose slice then takes a copy. -/
def remote (m : Msg) (h : Hart) : Bool := wantSock m ≠ h.sock.val

/-- A forward or back-invalidation reaches the owner (R261, R265): it answers from its caches or its victim buffer, whose WBM is
already the answer to a BINV, unless it has not been sent. -/
def Dev.ownerAnswers (d : Dev) (h : Hart) (m : Msg) : Dev :=
  let la := lineOf m.pa
  let me : Node := .core h.sock h.core
  let d := d.onCore h fun c => c.syncD la
  let c := d.core h
  match c.line2 la with
  | some e =>
    match m.ty with
    | .fwds =>
      let d := d.onCore h fun c =>
        let c := match c.findD la with
          | some k =>
            match Tbl.find c.l1d k with
            | some x => { c with l1d := Tbl.put c.l1d k { x with own := false, dirty := false } }
            | none => c
          | none => c
        match c.find2 la with
        | some k => { c with l2 := Tbl.put c.l2 k { e with own := false, dirty := false } }
        | none => c
      let d := d.supply m .dats me e.line (remote m h)
      let d := if e.dirty then d.send ((m.reply .wbs me m.src).withLine e.line) else d
      d.send { (m.reply .fack me m.src) with aux := e.dirty }
    | .fwdm =>
      let d := d.onCore h fun c => (c.dropAll la).killMiss la
      let d := d.supply m .datm me e.line (remote m h)
      d.send { (m.reply .fack me m.src).withLine e.line with aux := e.dirty }
    | .fwdr =>
      let d := d.supply m .dats me e.line false
      d.send { (m.reply .fack me m.src) with aux := e.dirty }
    | _ =>
      let d := d.onCore h fun c => (c.dropAll la).killMiss la
      if e.own && e.dirty then
        d.send ((m.reply .wbm me m.src).withLine e.line)
      else d.send (m.reply .ack me m.src)
  | none =>
    match c.vic.find? fun v => v.la = la && v.holds with
    | some v =>
      let gone := d.onCore h fun c =>
        { c with vic := c.vic.map fun x => if x.la = la then { x with holds := false } else x }
      match m.ty with
      | .fwds => (d.supply m .dats me v.line (remote m h)).send { (m.reply .fack me m.src) with aux := v.dirty }
      | .fwdm =>
        (gone.supply m .datm me v.line (remote m h)).send { (m.reply .fack me m.src).withLine v.line with aux := v.dirty }
      | .fwdr => (d.supply m .dats me v.line false).send { (m.reply .fack me m.src) with aux := v.dirty }
      | _ =>
        if v.sent then d
        else
          let d := d.onCore h fun c => { c with vic := c.vic.filter fun x => x.la ≠ la }
          if v.dirty then d.send ((m.reply .wbm me m.src).withLine v.line) else d.send (m.reply .ack me m.src)
    | none =>
      let d := d.onCore h fun c => c.killMiss la
      match m.ty with
      | .fwds | .fwdm | .fwdr => d.send { (m.reply .fack me m.src) with len := 0 }
      | _ => d.send (m.reply .ack me m.src)

/-- Whether a core of a pod keeps its copy through an INV: it is the requester, whose own request for ownership the INV serves. -/
def Dev.keepsCopy (d : Dev) (x : Hart) (m : Msg) : Bool :=
  masterOf x = m.master && (d.core x).missL2.any fun r => r.la = lineOf m.pa && r.own

/-- An invalidation reaches a pod (R229): each core of the pod but the requester drops its copy, and the pod answers with
one ACK. -/
def Dev.podInv (d : Dev) (h : Hart) (m : Msg) : Dev :=
  let la := lineOf m.pa
  let pod := podOf h
  let d := (List.range 2).foldl (fun d i =>
    if hi : pod * 2 + i < 212 then
      let x : Hart := { sock := h.sock, core := ⟨pod * 2 + i, hi⟩ }
      if d.keepsCopy x m then d else d.onCore x fun c => (c.dropAll la).killMiss la
    else d) d
  d.send (m.reply .ack (.core h.sock h.core) m.src)

/-- Whether a core of the pod has the line within its 16 cycles (R260). -/
def Dev.tooSoon (d : Dev) (h : Hart) (m : Msg) : Bool :=
  let la := lineOf m.pa
  if m.ty = .inv then
    let pod := podOf h
    (List.range 2).any fun i =>
      if hi : pod * 2 + i < 212 then
        let x : Hart := { sock := h.sock, core := ⟨pod * 2 + i, hi⟩ }
        !d.keepsCopy x m && (d.core x).recent.contains la
      else false
  else (d.core h).recent.contains la

/-- A forward, INV or BINV reaches a core: held back while the line is recent (R260), else answered. -/
def Dev.coreForward (d : Dev) (h : Hart) (m : Msg) (now : Bool) : Dev :=
  if !now && d.tooSoon h m then d.onCore h fun c => { c with delayed := c.delayed ++ [m] }
  else if m.ty = .inv then d.podInv h m
  else d.ownerAnswers h m

/-- The bytes of its line that a store-buffer entry writes. -/
def SbEntry.mask (e : SbEntry) : BitVec 64 := e.stores.foldl (fun m s => m ||| s) 0

/-- The oldest store-buffer entry, if it is for this line, is written before the line moves on (R260). -/
def Core.writeOldest (h : Hart) (c : Core) (la : Nat) : Core :=
  match c.sb with
  | e :: r => if !e.dev && lineOf e.pa = la && c.owns la then { c.writeLine h la e.mask e.data with sb := r } else c
  | [] => c

/-- Answer the forwards held back for a core (R260). -/
def Dev.answerDelayed (d : Dev) (h : Hart) : Dev :=
  let ms := (d.core h).delayed
  let d := d.onCore h fun c => { c with delayed := [], recent := [], newD := [] }
  ms.foldl (fun d m => (d.onCore h fun c => c.writeOldest h (lineOf m.pa)).coreForward h m true) d

/-- The registers of a line that a fill frees (R175): an L1D register that still wants ownership stays, to ask for it (R176,
R182). -/
def Core.freeMisses (c : Core) (la : Nat) (owned : Bool) : Core :=
  { c with
    missL2 := c.missL2.filter fun x => x.la ≠ la
    missD := c.missD.filter fun x => x.la ≠ la || (x.own && !owned)
    missI := c.missI.filter fun x => x.la ≠ la }

/-- The data of a fill that is not installed goes to every load of the window that waits for the line (R182). -/
def Core.deliver (c : Core) (la : Nat) (l : PLine) : Core :=
  { c with lq := c.lq.map fun e =>
      if e.kind = .load && e.value.isNone && e.parts.any (fun p => lineOf p.1 = la) then { e with given := e.given ++ [(la, l)] } else e }

/-! ### Requests without a miss register (R237, R250) -/

/-- Whether an answer is one to a request of an agent without a miss register for it. -/
def answers (q m : Msg) : Bool :=
  q.master = m.master && q.txn = m.txn && lineOf q.pa = lineOf m.pa &&
    (match q.ty, m.ty with
      | .nrd, .dats => true
      | .nwr, .wback => true
      | .pwr, .wback => true
      | .atm, .atr => true
      | _, _ => false)

/-- The answer to such a request has come. -/
def Dev.answered (d : Dev) (m : Msg) : Dev := { d with asked := d.asked.filter fun x => !answers x.1 m }

/-- RETRY has refused such a request: it is kept for its replay, with its TXN and AGE (R236, R237). -/
def Dev.refusedAsk (d : Dev) (m : Msg) : Dev :=
  { d with asked := d.asked.map fun x =>
      if x.1.master = m.master && x.1.txn = m.txn && lineOf x.1.pa = lineOf m.pa then (x.1, true) else x }

/-- An ownership error answers a core's request for a line (R30): nothing was read or written, and the core reacts as at a TLB fill.
Its translations to the page go, so that the instruction makes the check again and takes OW; a store that has retired is dropped. -/
def Core.disown (c : Core) (pa : Nat) : Core :=
  let la := lineOf pa
  { (c.freeMisses la true) with
    tlb := c.tlb.filter fun e => pa < e.ppn * 4096 || e.ppn * 4096 + 2 ^ e.bits ≤ pa
    sb := c.sb.filter fun e => e.dev || lineOf e.pa ≠ la
    lq := c.lq.map fun e => if e.value.isNone && e.parts.any (fun p => lineOf p.1 = la) then { e with parts := [] } else e }

/-- Data reaches a core (R171 to R182): for a miss register it is installed and acknowledged, in the L1s whose registers wait for
it as well; a fill invalidated while pending, or one that a disabled L2 takes no more (R187), is delivered to its waiters and
not installed, and what the slice recorded for it goes back as a notice; data for no register is a non-allocating read's. LEN 0
marks an ownership error in place of data (R30; assumption log 16). -/
def Dev.coreData (a : Tables) (d : Dev) (h : Hart) (m : Msg) : Dev :=
  let la := lineOf m.pa
  let c := d.core h
  if m.len = 0 then (d.answered m).onCore h fun c => c.disown m.pa
  else match c.missL2.find? fun x => x.la = la with
  | none =>
    let d := d.answered m
    { d with inbox := d.inbox ++ [m] }
  | some r =>
    let own := m.ty ≠ .dats
    let cmp := m.reply .cmpack (.core h.sock h.core) (d.homeSlice h.sock m.pa)
    if r.killed || !l2On h c then
      let d := (d.onCore h fun c => (c.freeMisses la false).deliver la m.line).send cmp
      let d := if r.own then d else { d with inbox := d.inbox ++ [m] }
      if own then d.giveBack a h { la, holds := true, dirty := m.ty = .datm, sent := false, line := m.line }
      else if r.killed then d
      else d.send (coreMsg a d h .evs (d.homeSlice h.sock m.pa) evictTxn m.pa)
    else if !c.room2 la then { d with net := d.net ++ [m] }
    else
      let d := d.put2 a h { la, own, dirty := m.ty = .datm, rrpv := if r.prefetch then 3 else 2, line := m.line }
      let fwd := match m.src with
        | .core .. => true
        | .slice t _ => t ≠ h.sock
        | _ => false
      let d := d.onCore h fun x =>
        let x := if l1dOn h x && c.missD.any (fun y => y.la = la) then x.fillD la else x
        let x := match (if l1iOn h x then c.missI.find? fun y => y.la = la else none) with
          | some y => x.fillI y.va la
          | none => x
        { (x.freeMisses la own) with recent := x.recent ++ [la], fillFwd := fwd }
      d.send cmp

/-- GRANT reaches a core: its shared copy becomes owned; a line still in its victim buffer returns in its former state
(R266). -/
def Dev.coreGrant (a : Tables) (d : Dev) (h : Hart) (m : Msg) : Dev :=
  let la := lineOf m.pa
  let c := d.core h
  let cmp := m.reply .cmpack (.core h.sock h.core) (d.homeSlice h.sock m.pa)
  if !c.room2 la then { d with net := d.net ++ [m] }
  else
    let d : Dev := match c.line2 la with
      | some e => d.put2 a h { e with own := true, dirty := true }
      | none =>
        match c.vic.find? fun (v : Victim) => v.la = la && v.holds with
        | some v =>
          let d := d.onCore h fun c =>
            { c with vic := c.vic.map fun (x : Victim) => if x.la = la then { x with holds := false } else x }
          d.put2 a h { la, own := true, dirty := v.dirty, rrpv := 2, line := v.line }
        | none => d
    let d := d.onCore h fun c =>
      { (c.freeMisses la true) with
        recent := c.recent ++ [la]
        fillFwd := false
        l1d := match c.findD la with
          | some k =>
            match Tbl.find c.l1d k with
            | some e => Tbl.put c.l1d k { e with own := true }
            | none => c.l1d
          | none => c.l1d }
    d.send cmp

/-- WBACK reaches a core: an eviction's frees its victim-buffer entry (R264); a write's of a core without L2 is
acknowledged at once (R250), unless it answers with an ownership error (R30). -/
def Dev.coreWback (d : Dev) (h : Hart) (m : Msg) : Dev :=
  if m.txn.toNat = evictTxn || ((d.core h).vic.any (fun v => v.la = lineOf m.pa) && !d.asked.any fun x => answers x.1 m) then
    d.onCore h fun c => { c with vic := c.vic.filter fun v => v.la ≠ lineOf m.pa }
  else if m.len = 0 then (d.answered m).onCore h fun c => c.disown m.pa
  else (d.answered m).send (m.reply .cmpack (.core h.sock h.core) m.src)

/-- RETRY reaches a core: the request is kept for its replay (R236). -/
def Dev.coreRetry (d : Dev) (h : Hart) (m : Msg) : Dev :=
  let mine := fun (x : Miss) => x.la = lineOf m.pa && x.txn = m.txn.toNat
  if (d.core h).missL2.any mine then
    d.onCore h fun c => { c with missL2 := c.missL2.map fun x => if mine x then { x with retry := true } else x }
  else d.refusedAsk m

/-- A message delivered to a core. -/
def Dev.atCore (a : Tables) (d : Dev) (h : Hart) (m : Msg) : Dev :=
  match m.ty with
  | .fwds | .fwdm | .fwdr | .inv | .binv => d.coreForward h m false
  | .dats | .date | .datm => d.coreData a h m
  | .grant => d.coreGrant a h m
  | .wback => d.coreWback h m
  | .retry => d.coreRetry h m
  | .atr =>
    if m.len = 0 then (d.answered m).onCore h fun c => { (c.disown m.pa) with devLoad := c.devLoad.filter fun e => !e.atom }
    else (d.answered m).onCore h fun c => { c with far := some (m.data.setWidth 64, m.aux, m.addr.getLsbD 0) }
  | .drsp => { d with inbox := d.inbox ++ [m] }
  | _ => d

end Sys2Proof.Machine
end

