-- ==== Sys2Proof/Machine/Slice.lean ====
section
/-! DEFINITION. One LLC slice and its pod directory: the requests, notices, probes and answers that reach it (R225 to R275,
R410). -/

namespace Sys2Proof

/-- Whether a message type is a request, which carries AGE (R237, R256). -/
def MsgType.isRequest (ty : MsgType) : Bool :=
  match ty with
  | .rds | .rdc | .rdm | .upg | .nrd | .drd | .hrds | .hrdm | .hupg | .nwr | .pwr | .atm | .dwr => true
  | _ => false

/-- A message of a slice about the line of a request. -/
def Msg.fromSlice (m : Msg) (s : Sock) (p : Fin 104) (ty : MsgType) (dst : Node) : Msg :=
  { m with ty, src := .slice s p, dst, aux := false, poison := false, addr := BitVec.ofNat 52 (Machine.lineBase m.pa),
           len := 64, age := if ty.isRequest then m.age else 0 }

end Sys2Proof

namespace Sys2Proof.Machine

/-! ### Reservations (R237, R238) -/

/-- Whether one request is older than another (R237). -/
def older (m n : Msg) : Bool :=
  let diff := m.age - n.age
  if diff = 0 then m.master.ult n.master else diff.msb

/-- Whether two messages are sendings of one request. -/
def sameReq (m n : Msg) : Bool := m.master = n.master && m.txn = n.txn && m.addr = n.addr

/-- Record a refused request: in a free register, else in place of the youngest when it is older (R238). -/
def reserve (l : List Resv) (m : Msg) (what set : Nat) (ways : BitVec 16) : List Resv :=
  let r : Resv := { req := m, what, set, ways, kept := false }
  if l.any fun x => sameReq x.req m then l.map fun x => if sameReq x.req m then { r with kept := x.kept } else x
  else if l.length < 8 then l ++ [r]
  else
    let young := l.foldl (fun (acc : Option Resv) x => match acc with
      | none => some x
      | some y => if older y.req x.req then some x else some y) none
    match young with
    | some y => if older m y.req then l.map fun x => if x = y then r else x else l
    | none => l

/-- A resource became free, of a set one of some ways: it is kept for the oldest matching reservation that has none yet (R238). -/
def keepFor (l : List Resv) (what set : Nat) (ways : BitVec 16) : List Resv :=
  let hits := l.filter fun r => !r.kept && r.what = what && (what ≠ 0 || (r.set = set && (r.ways &&& ways) ≠ 0))
  let old := hits.foldl (fun (acc : Option Resv) x => match acc with
    | none => some x
    | some y => if older x.req y.req then some x else some y) none
  match old with
  | some y => l.map fun x => if x = y then { x with kept := true } else x
  | none => l

/-- How many units of a resource, of a set among some ways, are kept for older requests than this one. -/
def keptAhead (l : List Resv) (m : Msg) (what set : Nat) (ways : BitVec 16) : Nat :=
  (l.filter fun r => r.kept && r.what = what && (what ≠ 0 || (r.set = set && (r.ways &&& ways) ≠ 0)) && !sameReq r.req m &&
    older r.req m).length

/-- Way numbers as a mask. -/
def wayMask (l : List Nat) : BitVec 16 := l.foldl (fun m w => m ||| BitVec.ofNat 16 (2 ^ w)) 0

/-- A reserved request is served: its reservation is released. -/
def served (l : List Resv) (m : Msg) : List Resv := l.filter fun r => !sameReq r.req m

/-! ### Entries -/

/-- A free pointer slot. -/
def Ptr.none : Ptr := { who := 0, mask := 0 }

/-- The three pointers of an entry. -/
def SEntry.ptrs (e : SEntry) : List Ptr := [e.p0, e.p1, e.p2]

/-- Put three pointers. -/
def SEntry.setPtrs (e : SEntry) (l : List Ptr) : SEntry :=
  { e with p0 := l.getD 0 Ptr.none, p1 := l.getD 1 Ptr.none, p2 := l.getD 2 Ptr.none }

/-- The core bit of a core in its pod's mask. -/
def coreBit (c : Nat) : BitVec 2 := if c % 2 = 0 then 1 else 2

/-- No private copy: pointers and HAIL cleared. -/
def SEntry.clear (e : SEntry) : SEntry := { (e.setPtrs []) with hail := false, dstate := 0 }

/-- Owned by one core. -/
def SEntry.ownedBy (e : SEntry) (c : Nat) : SEntry :=
  { (e.clear.setPtrs [{ who := c / 2, mask := coreBit c }]) with dstate := 2 }

/-- The owner core. -/
def SEntry.owner (e : SEntry) : Option Nat :=
  if e.dstate = 2 then
    (e.ptrs.find? fun p => p.mask ≠ 0).map fun p => p.who * 2 + (if p.mask = 1 then 0 else 1)
  else none

/-- Record a shared copy (R229). -/
def SEntry.addSharer (e : SEntry) (c : Nat) : SEntry :=
  let e := { e with dstate := 1 }
  if e.hail then e
  else if e.ptrs.any fun p => p.mask ≠ 0 && p.who = c / 2 then
    e.setPtrs (e.ptrs.map fun p => if p.mask ≠ 0 && p.who = c / 2 then { p with mask := p.mask ||| coreBit c } else p)
  else
    match e.ptrs.findIdx? fun p => p.mask = 0 with
    | some i => e.setPtrs (e.ptrs.set i { who := c / 2, mask := coreBit c })
    | none => { e with hail := true }

/-- Whether the pointers name a core; under hail the holders are not named, and a core that asks to upgrade counts as
recorded (assumption log 16). -/
def SEntry.records (e : SEntry) (c : Nat) : Bool :=
  e.dstate ≠ 0 && (e.hail || e.ptrs.any fun p => p.who = c / 2 && (p.mask &&& coreBit c) ≠ 0)

/-- A private cache dropped its copy (R229). -/
def SEntry.dropped (e : SEntry) (c : Nat) : SEntry :=
  if e.hail then e
  else
    let e := e.setPtrs (e.ptrs.map fun p => if p.who = c / 2 then { p with mask := p.mask &&& ~~~ coreBit c } else p)
    if e.ptrs.all fun p => p.mask = 0 then { e with dstate := 0 } else e

/-- The pods that an invalidation goes to, in increasing number, leaving out a requester that alone holds the pod's
copy (R229). -/
def SEntry.invPods (e : SEntry) (enabled : List Nat) (but : Option Nat) : List Nat :=
  if e.hail then enabled
  else
    let ps := (e.ptrs.filter fun p => p.mask ≠ 0 && (match but with
      | some c => p.who ≠ c / 2 || (p.mask &&& ~~~ coreBit c) ≠ 0
      | none => true)).map fun p => p.who
    (List.range 104).filter ps.contains

/-- The entry of a line with its key. -/
def Slice.find (x : Slice) (la : Nat) : Option (Nat × SEntry) :=
  ((List.range 16).map (fun w => la % 4096 * 16 + w)).findSome? fun k =>
    match Tbl.find x.ents k with
    | some e => if e.la = la then some (k, e) else none
    | none => none

/-- Whether an open transaction holds a line. -/
def Slice.busyLine (x : Slice) (la : Nat) : Bool := x.txns.any fun t => t.la = la

/-- Whether the line lies in an eviction buffer. -/
def Slice.evicting (x : Slice) (la : Nat) : Bool := x.ev.any fun v => v.ent.la = la

/-- Whether the entry of a line holds its data: false while the line itself is awaited. -/
def Slice.lineThere (x : Slice) (la : Nat) : Bool := !(x.txns.any fun t => t.la = la && t.stage = 3)

/-- Whether a message is a write of an agent without caches. -/
def isWrite (m : Msg) : Bool := m.ty = .nwr || m.ty = .pwr

/-- Transaction slots in use (R258): of requests that are open or wait for their line, and of absorbed writes not yet released. -/
def Slice.open_ (x : Slice) : Nat := (x.txns.filter fun t => !isWrite t.req).length + x.waiting.length + x.held.length

/-- Store an entry; BUSY is whether a transaction holds it. -/
def Dev.putEnt (d : Dev) (s : Sock) (p : Fin 104) (k : Nat) (e : SEntry) : Dev :=
  d.onSlice s p fun x => { x with ents := Tbl.put x.ents k { e with busy := x.busyLine e.la } }

/-- Remove an entry. -/
def Dev.dropEnt (d : Dev) (s : Sock) (p : Fin 104) (k : Nat) : Dev :=
  d.onSlice s p fun x => { x with ents := Tbl.erase x.ents k }

/-- BUSY of a line's entry follows the transactions. -/
def Dev.showBusy (d : Dev) (s : Sock) (p : Fin 104) (la : Nat) : Dev :=
  match (d.slice s p).find la with
  | some (k, e) => d.putEnt s p k e
  | none => d

/-- Open a transaction. -/
def Dev.addTxn (d : Dev) (s : Sock) (p : Fin 104) (t : Txn) : Dev :=
  (d.onSlice s p fun x => { x with txns := x.txns ++ [t], rsv := served x.rsv t.req }).showBusy s p t.la

/-- Open the transaction of a probe, which comes before the one that awaits the home agent (R267). -/
def Dev.addProbe (d : Dev) (s : Sock) (p : Fin 104) (t : Txn) : Dev :=
  (d.onSlice s p fun x => { x with txns := t :: x.txns }).showBusy s p t.la

/-- Change the transaction of a request. -/
def Dev.updTxn (d : Dev) (s : Sock) (p : Fin 104) (t t' : Txn) : Dev :=
  d.onSlice s p fun x => { x with txns := x.txns.map fun y => if y = t then t' else y }

/-- A transaction on a request, nothing awaited. -/
def txnOf (m : Msg) (stage : Nat) : Txn :=
  { la := lineOf m.pa, req := m, stage, acks := [], fack := false, home := false, cmp := false, notice := false,
    data := none, supplied := false, holders := [] }

/-! ### Messages of a slice -/

/-- The home agent of an address. -/
def homeNode (pa : Nat) : Node :=
  .home ⟨homeSock pa, Nat.mod_lt _ (by decide)⟩ ⟨homeHub pa % 2, Nat.mod_lt _ (by decide)⟩

/-- A message of a slice about a line, on the berth of the line's owner. -/
def sliceMsg (a : Tables) (s : Sock) (p : Fin 104) (ty : MsgType) (dst : Node) (la : Nat) : Msg :=
  let me : Node := .slice s p
  { ty, src := me, dst, berth := BitVec.ofNat 6 (a.ownerOf (la * 64)), master := me.master, txn := 0, age := 0,
    aux := false, addr := BitVec.ofNat 52 (la * 64), len := 64, data := 0, poison := false }

/-- The core node of a pod that receives its INV. -/
def podNode (s : Sock) (pod : Nat) : Node := .core s ⟨pod % 104 * 2, by omega⟩

/-- A core node by number. -/
def coreNode (s : Sock) (c : Nat) : Node := .core s ⟨c % 208, by omega⟩

/-- The core that sent a request to its socket's slice. -/
def coreFrom (s : Sock) (m : Msg) : Option Nat :=
  match m.src with
  | .core t c => if t = s then some c.val else none
  | _ => none

/-- A slice is socket-exclusive for a line (R254). -/
def Dev.socketExclusive (d : Dev) (s : Sock) (pa : Nat) (e : SEntry) : Bool :=
  e.d || (homeSock pa = s.val && d.presentMask s = 2 ^ s.val)

/-- The ways of a slice that are neither locked nor fenced nor being fenced. -/
def Dev.openWays (d : Dev) (s : Sock) (p : Fin 104) : List Nat :=
  let w := d.reg s .ldSliceWays (landingOf p) 0
  (List.range 16).filter fun i => !bit w (16 + i) && !bit w i && !(d.slice s p).fencing.getLsbD i

/-- The candidate ways of a berth in a slice (R232). -/
def Dev.candWays (a : Tables) (d : Dev) (s : Sock) (p : Fin 104) (b : Nat) : List Nat :=
  if b = 0 then [] else (d.openWays s p).filter fun i => (Tbl.get 0 a.ways (s.val * 64 + b)).getLsbD i

/-- Refuse a request with RETRY and record it (R236, R238). -/
def Dev.refuse (a : Tables) (d : Dev) (s : Sock) (p : Fin 104) (m : Msg) (what : Nat) : Dev :=
  let d := (d.send (m.reply .retry (.slice s p) m.src)).uncore s .pcUncCfgSlice .pcUncCntSlice p 0x42 m.berth.toNat 1
  let ways := wayMask (d.candWays a s p m.berth.toNat)
  d.onSlice s p fun x => { x with rsv := reserve x.rsv m what (lineOf m.pa % 4096) ways }

/-! ### Evictions (R227, R233, R264) -/

/-- An eviction buffer becomes free (R233, R238): what waits for its line comes next. -/
def Dev.evFree (d : Dev) (s : Sock) (p : Fin 104) (la : Nat) : Dev :=
  let d := d.onSlice s p fun x => { x with ev := x.ev.filter fun y => y.ent.la ≠ la, rsv := keepFor x.rsv 2 0 0 }
  let ws := (d.slice s p).waiting.filter fun m => lineOf m.pa = la
  let d := d.onSlice s p fun x => { x with waiting := x.waiting.filter fun m => lineOf m.pa ≠ la }
  { d with again := d.again ++ ws }

/-- The copies of an entry are gone: it leaves through its eviction buffer (a write-back to the home for D = 1), or is
gone, with HEVS for a line homed elsewhere. -/
def Dev.evictDone (a : Tables) (d : Dev) (s : Sock) (p : Fin 104) (v : EvBuf) : Dev :=
  let pa := v.ent.la * 64
  if v.ent.d then
    let d := d.onSlice s p fun x =>
      { x with ev := x.ev.map fun y => if y.ent.la = v.ent.la then { v with acks := [999] } else y }
    d.send ((sliceMsg a s p .wbm (homeNode pa) v.ent.la).withLine v.ent.line)
  else
    let d := if homeSock pa ≠ s.val then d.send (sliceMsg a s p .hevs (homeNode pa) v.ent.la) else d
    d.evFree s p v.ent.la

/-- The back-invalidations of an entry: BINV to its owner, INV to each pod that shares it; the pods awaited. -/
def Dev.backInvalidate (a : Tables) (d : Dev) (s : Sock) (p : Fin 104) (e : SEntry) : List Nat × Dev :=
  match e.owner with
  | some c => ([c / 2], d.send (sliceMsg a s p .binv (coreNode s c) e.la))
  | none =>
    if e.dstate = 0 then ([], d)
    else
      let ps := e.invPods (d.livePods s) none
      let d := if e.hail then d.uncore s .pcUncCfgSlice .pcUncCntSlice p 0x43 (a.ownerOf (e.la * 64)) ps.length else d
      (ps, d.sendAll (ps.map fun q => sliceMsg a s p .inv (podNode s q) e.la))

/-- An entry leaves the slice: a clean one without copies at once, any other through an eviction buffer. -/
def Dev.evictEnt (a : Tables) (d : Dev) (s : Sock) (p : Fin 104) (k : Nat) (e : SEntry) : Dev :=
  let d := d.dropEnt s p k
  if e.dstate = 0 && !e.d then
    if homeSock (e.la * 64) ≠ s.val then d.send (sliceMsg a s p .hevs (homeNode (e.la * 64)) e.la) else d
  else
    let (ps, d) := d.backInvalidate a s p e
    let v : EvBuf := { ent := e, acks := ps }
    let d := d.onSlice s p fun x => { x with ev := x.ev ++ [v] }
    if ps.isEmpty then d.evictDone a s p v else d

/-- Choose a way for a new entry among the candidates (R233): the way, with the RRPVs raised; none when every candidate
is busy. -/
def Slice.choose (x : Slice) (set : Nat) (cands : List Nat) : Option (Nat × Slice) :=
  let at_ := fun w => Tbl.find x.ents (set * 16 + w)
  let free := cands.filter fun w => match at_ w with
    | some e => !x.busyLine e.la
    | none => true
  match free.find? fun w => (at_ w).isNone with
  | some w => some (w, x)
  | none =>
    let r := fun w => match at_ w with
      | some e => e.rrpv
      | none => 0
    let top := free.foldl (fun m w => Nat.max m (r w)) 0
    let tops := free.filter fun w => r w = top
    let best := match tops.find? fun w => (match at_ w with
        | some e => e.dstate = 0
        | none => true) with
      | some w => some w
      | none => tops.head?
    best.map fun w => (w, { x with ents := x.ents.map fun e =>
      if e.1 / 16 = set ∧ e.1 % 16 ∈ free then (e.1, { e.2 with rrpv := e.2.rrpv + (3 - top) }) else e })

/-- Allocate an entry for a request (R232, R233, R236): the new entry without data, or what was lacking. -/
def Dev.allocate (a : Tables) (d : Dev) (s : Sock) (p : Fin 104) (m : Msg) : Sum Nat Dev :=
  let x := d.slice s p
  let la := lineOf m.pa
  let set := la % 4096
  let cands := d.candWays a s p m.berth.toNat
  let avail := (cands.filter fun w => match Tbl.find x.ents (set * 16 + w) with
    | some e => !x.busyLine e.la
    | none => true).length
  if avail ≤ keptAhead x.rsv m 0 set (wayMask cands) then .inl 0
  else
    match x.choose set cands with
    | none => .inl 0
    | some (w, x') =>
      let k := set * 16 + w
      let fresh : SEntry := { la, d := false, rrpv := 2, dstate := 0, hail := false, p0 := Ptr.none, p1 := Ptr.none,
                              p2 := Ptr.none, busy := true, line := { data := 0, poison := false } }
      match Tbl.find x'.ents k with
      | none => .inr ((d.onSlice s p fun _ => x').putEnt s p k fresh)
      | some v =>
        if (v.dstate ≠ 0 || v.d) && 16 - x.ev.length ≤ keptAhead x.rsv m 2 set 0 then .inl 2
        else .inr (((d.onSlice s p fun _ => x').evictEnt a s p k v).putEnt s p k fresh)

/-! ### The end of a transaction -/

/-- A transaction ends (R259): its entry stops being busy, a set and a slot become free, and the requests that wait for
the line come next. -/
def Dev.endTxn (d : Dev) (s : Sock) (p : Fin 104) (t : Txn) : Dev :=
  let d := d.onSlice s p fun x =>
    let freed := match x.find t.la with
      | some (k, _) => wayMask [k % 16]
      | none => 0
    { x with
      txns := x.txns.filter fun y => y ≠ t
      rsv := keepFor (keepFor x.rsv 0 (t.la % 4096) freed) 1 0 0 }
  let x := d.slice s p
  let d := d.showBusy s p t.la
  if x.busyLine t.la then d
  else
    let w := (x.held.find? fun h => lineOf h.1.pa = t.la).map Prod.fst
    let ws := x.waiting.filter fun m => lineOf m.pa = t.la
    let d := d.onSlice s p fun x => { x with waiting := x.waiting.filter fun m => lineOf m.pa ≠ t.la }
    { d with again := d.again ++ w.toList ++ ws }

/-- End a transaction when nothing is awaited any more (R259). -/
def Dev.tryEnd (d : Dev) (s : Sock) (p : Fin 104) (t : Txn) : Dev :=
  if t.stage = 2 && t.acks.isEmpty && !t.fack && !t.home && !t.cmp && !t.notice then d.endTxn s p t else d

/-- Replace a transaction and end it when it is complete. -/
def Dev.stepTxn (d : Dev) (s : Sock) (p : Fin 104) (t t' : Txn) : Dev := (d.updTxn s p t t').tryEnd s p t'

/-! ### Atomics (R65, R275) -/

/-- The value an atomic stores, none when a CAS does not store; operation codes as ATOM func [10:8] (R65). -/
def atomicStore (op : Nat) (uns dword : Bool) (old rb rd : Word) : Option Word :=
  let w : Nat := if dword then 64 else 32
  let lt := if uns then (bits old (w - 1) 0 < bits rb (w - 1) 0) else (sext w old).slt (sext w rb)
  match op with
  | 0 => some (old + rb)
  | 1 => some (old &&& rb)
  | 2 => some (old ||| rb)
  | 3 => some (old ^^^ rb)
  | 4 => some (if lt then old else rb)
  | 5 => some (if lt then rb else old)
  | 6 => some rb
  | _ => if bits old (w - 1) 0 = bits rd (w - 1) 0 then some rb else none

/-- An atomic on a line: the old value, zero-extended, and the line after it; poisoned data is not stored to (R276). -/
def atomicLine (l : PLine) (off op : Nat) (uns dword : Bool) (rb rd : Word) : Word × PLine :=
  let n := if dword then 8 else 4
  let old : Word := (lineSlice l.data off n).setWidth 64
  if l.poison then (old, l)
  else
    match atomicStore op uns dword old rb rd with
    | some v => (old, { l with data := lineMerge l.data off n (v.setWidth 512) })
    | none => (old, l)

/-- The payload of ATM (assumption log 16): rb, rd, operation, unsigned, doubleword, order. -/
def atmData (op : Nat) (uns dword : Bool) (order : Nat) (rb rd : Word) : Line :=
  rb.setWidth 512 ||| (rd.setWidth 512 <<< 64) |||
    BitVec.ofNat 512 ((op + uns.toNat * 8 + dword.toNat * 16 + order * 32) * 2 ^ 128)

/-- Run the atomic of an ATM on a line: old value, new line. -/
def atmRun (m : Msg) (l : PLine) : Word × PLine :=
  let f := nbits m.data.toNat 134 128
  atomicLine l (m.pa % 64) (f % 8) (f.testBit 3) (f.testBit 4) (m.data.setWidth 64) ((m.data >>> 64).setWidth 64)

/-- ATR with the old value (R273, R276): AUX for poison, ADDR bit 0 for another holder or a recent far atomic. -/
def Dev.sendAtr (d : Dev) (m : Msg) (src : Node) (old : Word) (poison other : Bool) : Dev :=
  match nodeOf m.master with
  | some who =>
    let a : BitVec 52 := if other then m.addr ||| 1#52 else m.addr
    d.send { (m.reply .atr src who) with data := old.setWidth 512, poison, aux := poison, addr := a }
  | none => d

/-- Reference ticks that 64 mesh cycles last: 27, rounded up (R198), and twice that in a supply dip (R220). -/
def atomicWindow (dip : Bool) : Nat := if dip then 54 else 27

/-- Whether a slice ran a far atomic to the line within the last 64 mesh cycles (R273). -/
def Slice.recentAtomic (x : Slice) (la now window : Nat) : Bool := x.atomics.any fun e => e.1 = la && now ≤ e.2 + window

/-! ### Copies removed: the second half of a transaction -/

/-- Bytes of a PWR merged into a line (R257, R358): poison stays, a poisoned write poisons. -/
def pwrMerge (m : Msg) (l : PLine) : PLine :=
  let half := if m.aux then 32 else 0
  let mask := nbits m.data.toNat 287 256
  let data := (List.range 32).foldl (fun acc i =>
    if mask.testBit i then lineMerge acc (half + i) 1 (lineSlice m.data i 1) else acc) l.data
  { data, poison := l.poison || m.poison }

/-- A line after a full-line or partial write (R261, R362). -/
def writeMerge (m : Msg) (l : PLine) : PLine :=
  if m.ty = .nwr then { data := m.data, poison := m.poison } else pwrMerge m l

/-- The held writes of a line have every CMPACK: they take effect in arrival order and the line is released (R410). -/
def Dev.releaseWrites (d : Dev) (s : Sock) (p : Fin 104) (t : Txn) : Dev :=
  let x := d.slice s p
  let ws := x.held.filter fun (h : Msg × Bool) => lineOf h.1.pa = t.la
  if t.stage = 2 && ws.all (fun h => h.2) then
    let d : Dev := match x.find t.la with
      | some (k, e) =>
        d.putEnt s p k { e.clear with d := true, line := ws.foldl (fun l h => writeMerge h.1 l) e.line }
      | none => d.sendAll (ws.map fun h => { h.1 with src := .slice s p, dst := homeNode h.1.pa })
    let d := d.onSlice s p fun x => { x with held := x.held.filter fun h => lineOf h.1.pa ≠ t.la }
    d.endTxn s p t
  else d

/-- No copy that the transaction removes is left (R261): the requester gets data or GRANT, the write or atomic is done, or
the probe is answered. -/
def Dev.copiesGone (d : Dev) (s : Sock) (p : Fin 104) (t : Txn) (k : Nat) (e : SEntry) : Dev :=
  let m := t.req
  let me : Node := .slice s p
  match m.ty with
  | .rdm | .upg =>
    match coreFrom s m with
    | some c =>
      let had := m.ty = .upg && e.records c
      let d := d.putEnt s p k (e.ownedBy c)
      let d := if t.supplied then d
        else if had then d.send (m.reply .grant me m.src)
        else d.send ((m.reply .datm me m.src).withLine e.line)
      d.stepTxn s p t { t with stage := 2, acks := [] }
    | none => d.stepTxn s p t { t with stage := 2, acks := [] }
  | .nwr | .pwr =>
    let d := d.putEnt s p k e.clear
    let t' := { t with stage := 2, acks := [], cmp := true }
    (d.updTxn s p t t').releaseWrites s p t'
  | .atm =>
    let now := d.now.toNat
    if homeSock m.pa = s.val then
      let mine := coreFrom s m
      let others := e.hail || e.ptrs.any fun q => q.mask ≠ 0 && (match mine with
        | some c => q.who ≠ c / 2 || (q.mask &&& ~~~ coreBit c) ≠ 0
        | none => true)
      let window := atomicWindow (d.dipping s)
      let other := (e.dstate ≠ 0 && others) || t.holders ≠ [] || (d.slice s p).recentAtomic t.la now window
      let (old, l) := atmRun m e.line
      let d := d.putEnt s p k { e.clear with d := true, line := l }
      let d := d.onSlice s p fun x =>
        { x with atomics := (t.la, now) :: x.atomics.filter fun y => y.1 ≠ t.la && now ≤ y.2 + window }
      let d := d.sendAtr m me old e.line.poison other
      d.stepTxn s p t { t with stage := 2, acks := [] }
    else
      let d := d.dropEnt s p k
      let d := if e.d then d.send ((m.fromSlice s p .wbm (homeNode m.pa)).withLine e.line)
        else d.send (m.fromSlice s p .hevs (homeNode m.pa))
      let d := d.send { m with dst := d.homeSlice ⟨homeSock m.pa, Nat.mod_lt _ (by decide)⟩ m.pa }
      d.stepTxn s p t { t with stage := 2, acks := [] }
  | .hprm =>
    let held := e.d || e.dstate = 2
    let d := if (d.slice s p).txns.any fun y => y.la = t.la && y.home then d.putEnt s p k { e.clear with d := false }
      else d.dropEnt s p k
    let d := d.onSlice s p fun x =>
      { x with txns := x.txns.map fun y => if y.la = t.la && y.home && y.stage = 0 then { y with stage := 3 } else y }
    let d := if held then
        let d := d.supply m .datm me e.line true
        let d := if e.d then d.send ((m.reply .wbm me m.src).withLine e.line) else d
        d.send { (m.reply .fack me m.src) with aux := e.d }
      else d.send { (m.reply .pack me m.src) with aux := true }
    d.stepTxn s p t { t with stage := 2, acks := [] }
  | _ => d.stepTxn s p t { t with stage := 2, acks := [] }

/-- Remove the copies that a transaction must remove (R261): FWDM to an owner whose data the requester takes, INV or BINV
to the rest, or at once when there is none. -/
def Dev.removeCopies (d : Dev) (s : Sock) (p : Fin 104) (t : Txn) : Dev :=
  match (d.slice s p).find t.la with
  | none => d.stepTxn s p t { t with stage := 2 }
  | some (k, e) =>
    let m := t.req
    let forRead := m.ty = .rdm || m.ty = .upg || m.ty = .hprm
    let but := if m.ty = .rdm || m.ty = .upg then coreFrom s m else none
    match e.owner, forRead with
    | some c, true =>
      if but = some c then d.copiesGone s p t k e
      else
        let d := d.send (m.fromSlice s p .fwdm (coreNode s c))
        d.updTxn s p t { t with stage := 2, fack := true }
    | some c, false =>
      let ty := if m.ty = .nwr then MsgType.inv else .binv
      let dst := if m.ty = .nwr then podNode s (c / 2) else coreNode s c
      (d.send (m.fromSlice s p ty dst)).updTxn s p t { t with stage := 1, acks := [c / 2] }
    | none, _ =>
      let ps := if e.dstate = 0 then [] else e.invPods (d.livePods s) but
      if ps.isEmpty then d.copiesGone s p t k e
      else
        let d := d.sendAll (ps.map fun q => m.fromSlice s p .inv (podNode s q))
        let d := if e.hail then d.uncore s .pcUncCfgSlice .pcUncCntSlice p 0x43 m.berth.toNat ps.length else d
        d.updTxn s p t { t with stage := 1, acks := ps }

/-- Start a transaction that needs the line exclusively: exclusivity from the home agent first where the socket lacks it
(R254). -/
def Dev.exclusively (d : Dev) (s : Sock) (p : Fin 104) (m : Msg) (e : SEntry) : Dev :=
  let core := m.ty = .rdm || m.ty = .upg
  if d.socketExclusive s m.pa e then
    let t := { txnOf m 1 with cmp := core }
    (d.addTxn s p t).removeCopies s p t
  else
    let flags : Line := if core then 0 else sliceOnly
    let d := d.addTxn s p { txnOf m 0 with home := true, cmp := core }
    d.send { m.fromSlice s p .hupg (homeNode m.pa) with data := flags }

/-! ### Requests (R261) -/

/-- RDS or RDC of a line that the slice holds. -/
def Dev.readHit (d : Dev) (s : Sock) (p : Fin 104) (m : Msg) (c k : Nat) (e : SEntry) : Dev :=
  let me : Node := .slice s p
  let t := { txnOf m 2 with cmp := true }
  match e.owner with
  | some o => (d.addTxn s p { t with fack := true }).send (m.fromSlice s p .fwds (coreNode s o))
  | none =>
    if m.ty = .rds && e.dstate = 0 && d.socketExclusive s m.pa e then
      ((d.putEnt s p k (e.ownedBy c)).addTxn s p t).send ((m.reply .date me m.src).withLine e.line)
    else ((d.putEnt s p k (e.addSharer c)).addTxn s p t).send ((m.reply .dats me m.src).withLine e.line)

/-- A request of a core for a line (RDS, RDC, RDM, UPG): from the entry, or by a new entry and the home agent. -/
def Dev.coreRequest (a : Tables) (d : Dev) (s : Sock) (p : Fin 104) (m : Msg) (c : Nat) : Dev :=
  let me : Node := .slice s p
  match (d.slice s p).find (lineOf m.pa) with
  | some (k, e) =>
    let e := { e with rrpv := 0 }
    let d := d.putEnt s p k e
    if e.owner = some c then
      (d.addTxn s p { txnOf m 2 with cmp := true, notice := true }).send (m.reply .grant me m.src)
    else if m.ty = .rds || m.ty = .rdc then d.readHit s p m c k e
    else d.exclusively s p m e
  | none =>
    match d.allocate a s p m with
    | .inl what => d.refuse a s p m what
    | .inr d =>
      let d := d.addTxn s p { txnOf m 3 with home := true, cmp := true }
      let share := m.ty = .rds || m.ty = .rdc
      let alone := m.ty = .rds && homeSock m.pa = s.val && d.presentMask s = 2 ^ s.val
      let flags : Line := if alone then wantE else 0
      d.send { m.fromSlice s p (if share then .hrds else .hrdm) (homeNode m.pa) with data := flags }

/-- NRD: from an owner, whose FACK the transaction awaits, from the slice, or from the home agent, whose answer it awaits (R259);
nothing is allocated. -/
def Dev.nonAllocating (d : Dev) (s : Sock) (p : Fin 104) (m : Msg) : Dev :=
  match (d.slice s p).find (lineOf m.pa) with
  | some (k, e) =>
    let d := d.putEnt s p k { e with rrpv := 0 }
    match e.owner with
    | some o => (d.addTxn s p { txnOf m 2 with fack := true }).send (m.fromSlice s p .fwdr (coreNode s o))
    | none => (d.onSlice s p fun x => { x with rsv := served x.rsv m }).send ((m.reply .dats (.slice s p) m.src).withLine e.line)
  | none =>
    (d.addTxn s p { txnOf m 2 with home := true }).send { m.fromSlice s p .hrds (homeNode m.pa) with aux := true, data := 0 }

/-- Start the write of the held writes of a line at its entry; an entry that is gone leaves them to the home agent when
they are released. -/
def Dev.startWrite (d : Dev) (s : Sock) (p : Fin 104) (m : Msg) : Dev :=
  match (d.slice s p).find (lineOf m.pa) with
  | some (k, e) => (d.putEnt s p k { e with rrpv := 0 }).exclusively s p m e
  | none =>
    let t := { txnOf m 2 with cmp := true }
    (d.addTxn s p t).releaseWrites s p t

/-- A write of an ordered writer arrives (R410): it takes a slot (R258) and is absorbed at once with WBACK, even while the line is
busy; with no entry the home agent takes it; 64 are held. Like any request it is refused while no slot is free (R236) or an eviction
buffer holds its line (R233, R267). -/
def Dev.absorbWrite (a : Tables) (d : Dev) (s : Sock) (p : Fin 104) (m : Msg) : Dev :=
  let x := d.slice s p
  let la := lineOf m.pa
  if 64 - x.open_ ≤ keptAhead x.rsv m 1 0 0 || 64 ≤ x.held.length then d.refuse a s p m 1
  else if x.evicting la then d.refuse a s p m 2
  else if (x.find la).isNone && !x.busyLine la then
    (d.onSlice s p fun x => { x with rsv := served x.rsv m }).send { m with dst := homeNode m.pa }
  else
    let d := d.onSlice s p fun x => { x with held := x.held ++ [(m, false)], rsv := served x.rsv m }
    let d := d.send (m.reply .wback (.slice s p) m.src)
    if x.busyLine la then d else d.startWrite s p m

/-- ATM (R275): at the line's home socket the slice executes it; elsewhere the socket's copies are removed and it is
forwarded. A berth without a candidate way here has the home agent execute it (assumption log 16). -/
def Dev.farAtomic (a : Tables) (d : Dev) (s : Sock) (p : Fin 104) (m : Msg) : Dev :=
  let here := homeSock m.pa = s.val
  match (d.slice s p).find (lineOf m.pa) with
  | some (k, e) =>
    let d := d.putEnt s p k { e with rrpv := 0 }
    if here then d.exclusively s p m e
    else
      let t := txnOf m 1
      (d.addTxn s p t).removeCopies s p t
  | none =>
    let on := d.onSlice s p fun x => { x with rsv := served x.rsv m }
    if !here then on.send { m with dst := d.homeSlice ⟨homeSock m.pa, Nat.mod_lt _ (by decide)⟩ m.pa }
    else if (d.candWays a s p m.berth.toNat).isEmpty then on.send { m with dst := homeNode m.pa }
    else
      match d.allocate a s p m with
      | .inl what => d.refuse a s p m what
      | .inr d =>
        let d := d.addTxn s p { txnOf m 3 with home := true }
        d.send { m.fromSlice s p .hrdm (homeNode m.pa) with data := sliceOnly }

/-- A home probe reaches a slice (R255, R261, R267). -/
def Dev.probe (d : Dev) (s : Sock) (p : Fin 104) (m : Msg) : Dev :=
  let me : Node := .slice s p
  let x := d.slice s p
  let la := lineOf m.pa
  let none_ := d.send (m.reply .pack me m.src)
  match x.find la with
  | none => none_
  | some (k, e) =>
    if !x.lineThere la then none_
    else
      match m.ty, e.owner with
      | .hprs, some o =>
        (d.addTxn s p { txnOf m 2 with fack := true }).send { m.fromSlice s p .fwds (coreNode s o) with data := m.data }
      | .hprr, some o =>
        (d.addTxn s p { txnOf m 2 with fack := true }).send { m.fromSlice s p .fwdr (coreNode s o) with data := m.data }
      | .hprs, none =>
        if e.d then
          let d := d.supply m .dats me e.line true
          let d := d.putEnt s p k { e with d := false }
          (d.send ((m.reply .wbs me m.src).withLine e.line)).send { (m.reply .fack me m.src) with aux := true }
        else d.send { (m.reply .pack me m.src) with aux := true }
      | .hprr, none =>
        if e.d then (d.supply m .dats me e.line false).send (m.reply .fack me m.src)
        else d.send { (m.reply .pack me m.src) with aux := true }
      | _, _ =>
        let t := txnOf m 1
        (d.addProbe s p t).removeCopies s p t

/-- Whether a message is a home probe. -/
def isProbe (m : Msg) : Bool := m.ty = .hprs || m.ty = .hprm || m.ty = .hprr

/-- A request or probe is accepted or waits (R258, R236, R267). `again` marks one that already holds a slot. -/
def Dev.sliceRequest (a : Tables) (d : Dev) (s : Sock) (p : Fin 104) (m : Msg) (again : Bool) : Dev :=
  let x := d.slice s p
  let la := lineOf m.pa
  let wait := d.onSlice s p fun x => { x with waiting := x.waiting ++ [m] }
  if isProbe m then
    if x.ev.any (fun v => v.ent.la = la && v.acks ≠ [999]) then wait
    else if x.busyLine la && !(x.txns.any fun t => t.la = la && t.home) then wait
    else d.probe s p m
  else if !again && 64 - x.open_ ≤ keptAhead x.rsv m 1 0 0 then d.refuse a s p m 1
  else if x.evicting la then d.refuse a s p m 2
  else if x.busyLine la then (if again then wait else wait.uncore s .pcUncCfgSlice .pcUncCntSlice p 0x40 m.berth.toNat 1)
  else
    let d := if again then d else d.uncore s .pcUncCfgSlice .pcUncCntSlice p 0x40 m.berth.toNat 1
    let d := if (x.find la).isSome then d else d.uncore s .pcUncCfgSlice .pcUncCntSlice p 0x41 m.berth.toNat 1
    match m.ty with
    | .nrd => d.nonAllocating s p m
    | .atm => d.farAtomic a s p m
    | _ =>
      match coreFrom s m with
      | some c => d.coreRequest a s p m c
      | none => d

/-! ### Notices and answers -/

/-- An ACK or a write-back in its place reaches a slice (R259, R267). -/
def Dev.sliceAck (a : Tables) (d : Dev) (s : Sock) (p : Fin 104) (la pod : Nat) : Dev :=
  let x := d.slice s p
  match x.ev.find? fun v => v.ent.la = la && v.acks.contains pod with
  | some v =>
    let v' := { v with acks := v.acks.erase pod }
    let d := d.onSlice s p fun x => { x with ev := x.ev.map fun y => if y.ent.la = la then v' else y }
    if v'.acks.isEmpty then d.evictDone a s p v' else d
  | none =>
    match x.txns.find? fun t => t.la = la && t.acks.contains pod with
    | some t =>
      let t' := { t with acks := t.acks.erase pod }
      let d := d.updTxn s p t t'
      if t'.acks.isEmpty && t'.stage = 1 then
        match (d.slice s p).find la with
        | some (k, e) => d.copiesGone s p t' k e
        | none => d.stepTxn s p t' { t' with stage := 2 }
      else d.tryEnd s p t'
    | none => d

/-- Dirty data reaches the entry: it is written, and D set where the socket is exclusive (R255, R264). -/
def Dev.intoEntry (d : Dev) (s : Sock) (p : Fin 104) (la : Nat) (l : PLine) : Dev :=
  match (d.slice s p).find la with
  | some (k, e) => d.putEnt s p k { e with line := l, d := true }
  | none => d

/-- EVS, EVC or WBM of a core (R264 to R267): the core's bit is cleared and data written; WBACK answers EVC and WBM; a
notice that a GRANT crossed is absorbed without clearing; one that crosses a back-invalidation is its answer. -/
def Dev.notice_ (a : Tables) (d : Dev) (s : Sock) (p : Fin 104) (m : Msg) (c : Nat) : Dev :=
  let la := lineOf m.pa
  let x := d.slice s p
  let pod := c / 2
  let back := fun (d : Dev) => if m.ty = .evs then d else d.send (m.reply .wback (.slice s p) m.src)
  if m.ty ≠ .evs && x.ev.any (fun v => v.ent.la = la && v.acks.contains pod) then
    let d := if m.ty = .wbm then d.onSlice s p fun x =>
        { x with ev := x.ev.map fun y => if y.ent.la = la then { y with ent := { y.ent with line := m.line, d := true } } else y }
      else d
    let d := if m.txn.toNat = evictTxn then back d else d
    d.sliceAck a s p la pod
  else if m.ty ≠ .evs && x.txns.any (fun t => t.la = la && t.acks.contains pod) then
    let d := if m.ty = .wbm then d.intoEntry s p la m.line else d
    let d := if m.txn.toNat = evictTxn then back d else d
    d.sliceAck a s p la pod
  else
    match x.txns.find? fun t => t.la = la && t.notice && t.req.src = m.src with
    | some t => (back d).stepTxn s p t { t with notice := false }
    | none =>
      let d := match x.find la with
        | some (k, e) =>
          let mine := e.dstate = 1 || e.owner = some c
          let e := if m.ty = .wbm then { e with line := m.line, d := true } else e
          d.putEnt s p k (if mine then e.dropped c else e)
        | none => if m.ty = .wbm then d.send ((sliceMsg a s p .wbm (homeNode m.pa) la).withLine m.line) else d
      back d

/-- WBS: data of a copy downgraded by FWDS (R261): written, and passed to the home where the socket is not exclusive. -/
def Dev.downgraded (d : Dev) (s : Sock) (p : Fin 104) (m : Msg) : Dev :=
  let la := lineOf m.pa
  match (d.slice s p).find la with
  | none => d
  | some (k, e) =>
    let probing := (d.slice s p).txns.any fun t => t.la = la && isProbe t.req
    if probing || d.socketExclusive s m.pa e then d.putEnt s p k { e with line := m.line, d := true }
    else (d.putEnt s p k { e with line := m.line }).send ((m.fromSlice s p .wbs (homeNode m.pa)).withLine m.line)

/-- FACK of an owner (R259, R261) for the transaction whose forward it answers: with data; LEN 0 says that the core held none, and the
slice answers from its entry. -/
def Dev.forwarded (d : Dev) (s : Sock) (p : Fin 104) (m : Msg) : Dev :=
  let la := lineOf m.pa
  let me : Node := .slice s p
  match (d.slice s p).txns.find? fun t => t.la = la && t.fack && t.req.master = m.master && t.req.txn = m.txn with
  | none => d
  | some t =>
    match (d.slice s p).find la with
    | none => d.stepTxn s p t { t with fack := false }
    | some (k, e) =>
      let r := t.req
      let t' := { t with fack := false }
      let lost := m.len = 0
      match r.ty with
      | .rds | .rdc =>
        match coreFrom s r with
        | none => d.stepTxn s p t t'
        | some c =>
          let e' := if lost then e.clear.addSharer c
            else match e.owner with
              | some o => (e.clear.addSharer o).addSharer c
              | none => e.addSharer c
          let d := d.putEnt s p k e'
          let d := if lost then d.send ((r.reply .dats me r.src).withLine e.line) else d
          d.stepTxn s p t t'
      | .rdm | .upg =>
        match coreFrom s r with
        | none => d.stepTxn s p t t'
        | some c =>
          let d := d.putEnt s p k (e.ownedBy c)
          let d := if lost then d.send ((r.reply .datm me r.src).withLine e.line) else d
          d.stepTxn s p t t'
      | .hprs =>
        let sh := match e.owner with
          | some o => if lost then e.clear else e.clear.addSharer o
          | none => e
        let d := if lost then d.supply r .dats me e.line true else d
        let d := d.putEnt s p k { sh with d := false }
        let d := if e.d || m.aux then d.send ((r.reply .wbs me r.src).withLine e.line) else d
        (d.send { (r.reply .fack me r.src) with aux := m.aux }).stepTxn s p t t'
      | .nrd =>
        let d := if lost then d.send ((r.reply .dats me r.src).withLine e.line) else d
        d.stepTxn s p t t'
      | .hprr =>
        let d := if lost then d.supply r .dats me e.line false else d
        (d.send (r.reply .fack me r.src)).stepTxn s p t t'
      | .hprm =>
        let line := if lost then e.line else m.line
        let d := if lost then d.supply r .datm me e.line true else d
        let d := if (d.slice s p).txns.any fun y => y.la = la && y.home then d.putEnt s p k { e.clear with d := false }
          else d.dropEnt s p k
        let d := d.onSlice s p fun x =>
          { x with txns := x.txns.map fun y => if y.la = la && y.home && y.stage = 0 then { y with stage := 3 } else y }
        let d := if e.d || m.aux then d.send ((r.reply .wbm me r.src).withLine line) else d
        (d.send { (r.reply .fack me r.src) with aux := m.aux }).stepTxn s p t t'
      | _ => d.stepTxn s p t t'

/-- CMPACK reaches a slice: of a requester that installed its line (R259), or of a writer that releases its write
(R410). -/
def Dev.sliceCmp (d : Dev) (s : Sock) (p : Fin 104) (m : Msg) : Dev :=
  let la := lineOf m.pa
  let x := d.slice s p
  if x.held.any fun h => !h.2 && sameReq h.1 m then
    let d := d.onSlice s p fun x =>
      { x with held := x.held.map fun h => if sameReq h.1 m then (h.1, true) else h }
    match x.txns.find? fun t => t.la = la && (t.req.ty = .nwr || t.req.ty = .pwr) && t.stage = 2 with
    | some t => d.releaseWrites s p t
    | none => d
  else
    match x.txns.find? fun t => t.la = la && t.cmp && t.req.master = m.master with
    | some t => d.stepTxn s p t { t with cmp := false }
    | none => d

/-- An answer of the home agent that gives the slice nothing, LEN 0 (assumption log 16): of a non-allocating read, whose data the
reader gets, or an ownership error (R30), after which no entry stands for the line and its held writes are dropped. -/
def Dev.sliceNothing (d : Dev) (s : Sock) (p : Fin 104) (t : Txn) : Dev :=
  let d := match t.stage, (d.slice s p).find t.la with
    | 3, some (k, _) => d.dropEnt s p k
    | _, _ => d
  let d := if isWrite t.req then d.onSlice s p fun x => { x with held := x.held.filter fun h => lineOf h.1.pa ≠ t.la } else d
  d.stepTxn s p t { t with home := false, stage := 2, cmp := false }

/-- Whether the home agent of this socket has found holders of a line on other sockets, for the report of R273. -/
def Dev.heldElsewhere (d : Dev) (s : Sock) (m : Msg) : Bool :=
  m.src.sock ≠ s || (d.hub s (homeHub m.pa % 2)).txns.any fun t => t.la = lineOf m.pa && (t.supplied || t.holders ≠ [])

/-- The home agent's answer, or another supplier's copy for the slice (R254, R255, R261): shared data, the line
exclusively, or exclusivity for the held line. -/
def Dev.sliceFill (d : Dev) (s : Sock) (p : Fin 104) (m : Msg) : Dev :=
  let la := lineOf m.pa
  match (d.slice s p).txns.find? fun t => t.la = la && t.home with
  | none => d
  | some t =>
    if m.len = 0 then d.sliceNothing s p t
    else
    match (d.slice s p).find la with
    | none => d.stepTxn s p t { t with home := false, stage := 2 }
    | some (k, e) =>
      let ack := fun (d : Dev) => d.send (t.req.fromSlice s p .cmpack (homeNode m.pa))
      let holders := if t.req.ty = .atm && d.heldElsewhere s m then [1] else t.holders
      match m.ty with
      | .dats | .date =>
        let e := { e with line := m.line, d := false }
        let e := match coreFrom s t.req with
          | some c => if m.ty = .date then e.ownedBy c else e.addSharer c
          | none => e
        (ack (d.putEnt s p k e)).stepTxn s p t { t with home := false, stage := 2 }
      | .datm =>
        let core := t.req.ty = .rdm || t.req.ty = .upg
        let t' := { t with home := false, stage := 1, supplied := core, holders }
        ((ack (d.putEnt s p k { e with line := m.line, d := true })).updTxn s p t t').removeCopies s p t'
      | .grant =>
        if t.stage = 3 then
          let flags : Line := if t.req.ty = .rdm || t.req.ty = .upg then 0 else sliceOnly
          (ack d).send { t.req.fromSlice s p .hrdm (homeNode m.pa) with data := flags }
        else
          let t' := { t with home := false, stage := 1, holders }
          ((ack (d.putEnt s p k { e with d := true })).updTxn s p t t').removeCopies s p t'
      | _ => d

/-- WBACK of the home agent: the eviction buffer is freed. -/
def Dev.sliceWback (d : Dev) (s : Sock) (p : Fin 104) (m : Msg) : Dev :=
  match (d.slice s p).ev.find? fun v => v.ent.la = lineOf m.pa && v.acks = [999] with
  | some v => d.evFree s p v.ent.la
  | none => d

/-- A message delivered to a slice. -/
def Dev.atSlice (a : Tables) (d : Dev) (s : Sock) (p : Fin 104) (m : Msg) (again : Bool) : Dev :=
  let core := match m.src with
    | .core t c => if t = s ∧ c.val < 208 then some c.val else none
    | _ => none
  match m.ty with
  | .rds | .rdc | .rdm | .upg | .nrd | .atm | .hprs | .hprm | .hprr => d.sliceRequest a s p m again
  | .nwr | .pwr =>
    if again then (if (d.slice s p).busyLine (lineOf m.pa) then d else d.startWrite s p m) else d.absorbWrite a s p m
  | .evs | .evc | .wbm =>
    match core with
    | some c => d.notice_ a s p m c
    | none => d
  | .wbs => d.downgraded s p m
  | .ack =>
    match core with
    | some c => d.sliceAck a s p (lineOf m.pa) (c / 2)
    | none => d
  | .fack => d.forwarded s p m
  | .cmpack => d.sliceCmp s p m
  | .dats | .date | .datm | .grant => d.sliceFill s p m
  | .wback => d.sliceWback s p m
  | .retry => { d with inbox := d.inbox ++ [m] }
  | _ => d

end Sys2Proof.Machine
end

