-- ==== Sys2Proof/Machine/Home.lean ====
section
/-! DEFINITION. The home agents and the crossing directory (R253, R268 to R272), and device accesses to memory (R308). -/

namespace Sys2Proof.Machine

/-- The socket whose slice or agent asks. -/
def reqSock (m : Msg) : Nat :=
  match m.src with
  | .slice t _ => t
  | _ => m.master.toNat / 4096 % 16

/-- Whether an open transaction of the home agent holds a line. -/
def Hub.busyLine (h : Hub) (la : Nat) : Bool := h.txns.any fun t => t.la = la

/-! ### The crossing directory (R270) -/

/-- The entry of a line with its key. -/
def Hub.findX (h : Hub) (pa : Nat) : Option (Nat × XEntry) :=
  ((List.range 16).map (fun w => xdirSet pa * 16 + w)).findSome? fun k =>
    match Tbl.find h.xdir k with
    | some e => if e.la = lineOf pa then some (k, e) else none
    | none => none

/-- Store an entry. -/
def Dev.putX (d : Dev) (s : Sock) (u : Fin 2) (k : Nat) (e : XEntry) : Dev :=
  d.onHub s u fun h => { h with xdir := Tbl.put h.xdir k { e with busy := h.busyLine e.la } }

/-- Remove an entry. -/
def Dev.dropX (d : Dev) (s : Sock) (u : Fin 2) (k : Nat) : Dev :=
  d.onHub s u fun h => { h with xdir := Tbl.erase h.xdir k }

/-- The summary code of a line whose set is not unknown (R271, R369): 0b11 for CXL memory. -/
def Dev.summaryOf (a : Tables) (d : Dev) (u : Fin 2) (pa : Nat) : Nat :=
  if (d.hub (homeSock pa) u).unknown.contains (xdirSet pa) || isCxl pa then 3
  else
    match (d.locate a pa).1 with
    | .at loc => (d.rawLine loc).summary
    | _ => 0

/-- Write a line's summary into its metadata (R271, R358). -/
def Dev.putSummary (a : Tables) (d : Dev) (pa code : Nat) : Dev :=
  if isCxl pa then d
  else
    match d.locate a pa with
    | (.at loc, d) => if d.service loc = .serves then d.putRaw loc { d.rawLine loc with summary := code } else d
    | (_, d) => d

/-- The ways of a set that can take an entry: not fenced, and not held by an open transaction (R270, R369). -/
def Hub.xWays (h : Hub) (pa : Nat) : List Nat :=
  let bad := Tbl.get 0 h.badWays (xdirSet pa)
  (List.range 16).filter fun w => !bad.testBit w &&
    (match Tbl.find h.xdir (xdirSet pa * 16 + w) with
      | some e => !h.busyLine e.la
      | none => true)

/-- Take an entry out of the directory, its line's summary going to memory (R271). -/
def Dev.evictX (a : Tables) (d : Dev) (s : Sock) (u : Fin 2) (k : Nat) (e : XEntry) : Dev :=
  ((d.dropX s u k).putSummary a (e.la * 64) (if e.own then 2 else 1)).bump s .xlXdirStat u 0 41 0 1

/-- Allocate an entry, evicting another to its summary (R270, R271, and RRPV as in R233). -/
def Dev.allocX (a : Tables) (d : Dev) (s : Sock) (u : Fin 2) (e : XEntry) : Dev :=
  let pa := e.la * 64
  let h := d.hub s u
  let base := xdirSet pa * 16
  let free := h.xWays pa
  match free.find? fun w => (Tbl.find h.xdir (base + w)).isNone with
  | some w => d.putX s u (base + w) e
  | none =>
    let r := fun w => match Tbl.find h.xdir (base + w) with
      | some x => x.rrpv
      | none => 0
    let top := free.foldl (fun m w => Nat.max m (r w)) 0
    match free.find? fun w => r w = top with
    | none => d
    | some w =>
      let d := d.onHub s u fun h =>
        { h with xdir := h.xdir.map fun x => if x.1 / 16 = xdirSet pa ∧ x.1 % 16 ∈ free
            then (x.1, { x.2 with rrpv := x.2.rrpv + (3 - top) }) else x }
      let d := match Tbl.find h.xdir (base + w) with
        | some v => d.evictX a s u (base + w) v
        | none => d
      d.putX s u (base + w) e

/-- Record sharing sockets (R229 with sockets in place of pods). -/
def XEntry.addSharer (e : XEntry) (t : Nat) : XEntry :=
  if e.hail || e.sp.contains t then e
  else if e.sp.length < 3 then { e with sp := e.sp ++ [t] }
  else { e with hail := true }

/-- The last remote copy of an entry has gone: its summary returns to 0b00 and it is freed (R271). -/
def Dev.freeX (a : Tables) (d : Dev) (s : Sock) (u : Fin 2) (k : Nat) (e : XEntry) : Dev :=
  let d := d.dropX s u k
  if e.sumw then d.putSummary a (e.la * 64) 0 else d

/-- A socket's pointer is cleared (R229, R271, R272). -/
def Dev.clearX (a : Tables) (d : Dev) (s : Sock) (u : Fin 2) (pa t : Nat) : Dev :=
  match (d.hub s u).findX pa with
  | none => d
  | some (k, e) =>
    if e.hail then d
    else
      let e := { e with sp := e.sp.erase t }
      if e.sp.isEmpty then d.freeX a s u k e else d.putX s u k e

/-- A new shared entry for the sockets of a list. -/
def sharedX (la : Nat) (ts : List Nat) (sumw : Bool) : XEntry :=
  ts.foldl XEntry.addSharer { la, own := false, sp := [], hail := false, sumw, busy := true, rrpv := 2 }

/-- An exclusive entry. -/
def ownX (la t : Nat) (sumw : Bool) : XEntry := { la, own := true, sp := [t], hail := false, sumw, busy := true, rrpv := 2 }

/-! ### Answers -/

/-- The end of a non-allocating read for the slice that asked, whose transaction awaits the home agent (R259): DATS with LEN 0, since
the data goes to the reader alone (assumption log 16). -/
def Dev.readerServed (d : Dev) (me : Node) (m : Msg) : Dev := d.send { (m.reply .dats me m.src) with len := 0 }

/-- Send the data of a home agent: to the requester, and to the slice that asked (R261, R268). -/
def Dev.homeData (d : Dev) (me : Node) (m : Msg) (ty : MsgType) (l : PLine) : Dev :=
  let toSlice := fun (d : Dev) => d.send ((m.reply ty me m.src).withLine l)
  if m.ty = .hrds && m.aux then
    let d := match nodeOf m.master with
      | some who => d.send ((m.reply ty me who).withLine l)
      | none => d
    d.readerServed me m
  else if m.data.getLsbD 1 then toSlice d
  else
    match nodeOf m.master with
    | some who => toSlice (d.send ((m.reply ty me who).withLine l))
    | none => toSlice d

/-- The access type of a request (R376). -/
def accessOf (ty : MsgType) : Nat :=
  match ty with
  | .rdm | .upg | .hrdm | .hupg => 2
  | .nwr | .pwr => 3
  | .wbm | .wbs | .hevs | .evs | .evc => 4
  | .rdc => 5
  | .atm => 6
  | .drd => 7
  | .dwr => 8
  | _ => 1

/-- The requester of a home agent's access, for reports. -/
def whoOf (m : Msg) : Who := { master := m.master.toNat, berth := m.berth.toNat, access := accessOf m.ty }

/-- Every way of a set: any berth's entry may take any way of the crossing directory. -/
def allWays : BitVec 16 := BitVec.allOnes 16

/-- A transaction of the home agent ends: the requests that wait for the line come next, held writes first. -/
def Dev.homeEnd (d : Dev) (s : Sock) (u : Fin 2) (t : Txn) : Dev :=
  let d := d.onHub s u fun h => { h with txns := h.txns.filter fun y => y ≠ t, rsv := keepFor h.rsv 0 (xdirSet t.req.pa) allWays }
  let h := d.hub s u
  let d := match h.findX (t.la * 64) with
    | some (k, e) => d.putX s u k e
    | none => d
  let w := (h.held.find? fun x => lineOf x.1.pa = t.la).map Prod.fst
  let ws := h.waiting.filter fun m => lineOf m.pa = t.la
  let d := d.onHub s u fun h => { h with waiting := h.waiting.filter fun m => lineOf m.pa ≠ t.la }
  { d with again := d.again ++ w.toList ++ ws }

/-- Replace a transaction. -/
def Dev.homeTxn (d : Dev) (s : Sock) (u : Fin 2) (t t' : Txn) : Dev :=
  d.onHub s u fun h => { h with txns := h.txns.map fun y => if y = t then t' else y }

/-- The line that a transaction's memory read gave, as later write-backs have left it (R269). -/
def Txn.line (t : Txn) : PLine := t.data.getD { data := 0, poison := false }

/-- The held writes of a line have every CMPACK: memory is written and the line released (R261, R410). -/
def Dev.homeWrites (a : Tables) (d : Dev) (s : Sock) (u : Fin 2) (t : Txn) : Dev :=
  let ws := (d.hub s u).held.filter fun (h : Msg × Bool) => lineOf h.1.pa = t.la
  if t.acks.isEmpty && ws.all (fun h => h.2) then
    let pa := t.la * 64
    let line := ws.foldl (fun l h => writeMerge h.1 l) t.line
    let d := d.memWrite a (whoOf t.req) pa { line, summary := 0 }
    let d := d.onHub s u fun h => { h with held := h.held.filter fun h => lineOf h.1.pa ≠ t.la }
    d.homeEnd s u t
  else d

/-- Every probe of a transaction is answered: the home agent serves it and brings the directory up to date (R269, R271,
R272). A broadcast for summary 0b10 that finds no holder serves the memory data with poison and reports it. -/
def Dev.homeServe (a : Tables) (d : Dev) (s : Sock) (u : Fin 2) (t : Txn) : Dev :=
  let m := t.req
  let me : Node := .home s u
  let pa := m.pa
  let la := t.la
  let r := reqSock m
  let here := r = s.val
  let code := t.stage - 10
  let hit := (d.hub s u).findX pa
  let miss : Bool := 10 ≤ t.stage
  let lost := t.stage = 12 && !t.supplied && t.holders.isEmpty
  let deferred := fun (d : Dev) => if lost then
      d.report s { src := 0x202 + u.val, cls := 2, sub := 0xFF, master := m.master.toNat, berth := m.berth.toNat,
                   access := accessOf m.ty, addr := pa }
    else d
  let line := if lost then { t.line with poison := true } else t.line
  let sumw := 10 < t.stage
  let done := fun (d : Dev) => if t.cmp then d.homeTxn s u t { t with stage := 2 } else d.homeEnd s u t
  match m.ty with
  | .hrds =>
    let d := if t.supplied then (if m.aux then d.readerServed me m else d)
      else (deferred d).homeData me m (if m.data.getLsbD 0 && !m.aux then .date else .dats) line
    if m.aux then d.homeEnd s u t
    else
      let remote := if here then [] else [r]
      let fresh := if code = 1 then { sharedX la remote true with hail := true }
        else sharedX la ((t.holders.filter (· ≠ s.val)) ++ remote) sumw
      let d := match hit, miss with
        | some (k, e), false =>
          let e := { e with rrpv := 0 }
          let e := remote.foldl XEntry.addSharer (if e.own then { e with own := false, sp := t.holders } else e)
          if e.sp.isEmpty && !e.hail then d.freeX a s u k e else d.putX s u k e
        | some (k, _), true => d.putX s u k fresh
        | none, _ =>
          if here then
            if 11 < t.stage && !isCxl pa then d.putSummary a pa (if t.holders.isEmpty then 0 else 1) else d
          else d.allocX a s u fresh
      done d
  | .hrdm | .hupg =>
    let d := if t.supplied then d
      else if m.ty = .hupg && !lost then d.send (m.reply .grant me m.src)
      else (deferred d).homeData me m .datm line
    let d := match hit, miss with
      | some (k, e), false => if here then d.freeX a s u k e else d.putX s u k { ownX la r e.sumw with rrpv := 0 }
      | some (k, _), true => d.putX s u k (ownX la r sumw)
      | none, _ =>
        if here then (if sumw then d.putSummary a pa 0 else d) else d.allocX a s u (ownX la r sumw)
    done d
  | .nwr | .pwr =>
    let d := match hit with
      | some (k, e) => d.dropX s u k |>.putSummary a (e.la * 64) 0
      | none => if sumw then d.putSummary a pa 0 else d
    let t' := { t with stage := 2, data := some line }
    ((deferred d).homeTxn s u t t').homeWrites a s u t'
  | .atm =>
    let d := match hit with
      | some (k, _) => d.dropX s u k
      | none => d
    let (old, after) := atmRun m line
    let d := (deferred d).memWrite a (whoOf m) pa { line := after, summary := 0 }
    (d.sendAtr m me old line.poison (t.holders ≠ [] || t.supplied)).homeEnd s u t
  | _ => d.homeEnd s u t

/-! ### Requests (R269) -/

/-- An ownership error for a request over a crossing (R30): the answer that would have carried the data or absorbed the write comes with
LEN 0 (assumption log 16), and its receiver reacts as at its own check. -/
def Dev.ownerError (d : Dev) (me : Node) (m : Msg) : Dev :=
  let m := { m with len := 0 }
  match m.ty with
  | .hrds => d.homeData me m .dats .lost
  | .hrdm | .hupg => d.homeData me m .datm .lost
  | .nwr | .pwr => d.send (m.reply .wback me m.src)
  | .atm => d.sendAtr m me 0 true false
  | .drd | .dwr => d.send { (m.reply .drsp me m.src) with aux := m.ty = .dwr }
  | _ => d

/-- Whether a request that came over a crossing fails the check of R30: no range of its berth covers the line. -/
def notOwned (a : Tables) (s : Sock) (m : Msg) : Bool :=
  reqSock m ≠ s.val && m.berth ≠ 0 && a.ownerOf m.pa ≠ m.berth.toNat

/-- The ownership error and its report (R30). -/
def Dev.refuseOwner (d : Dev) (s : Sock) (u : Fin 2) (m : Msg) : Dev :=
  (d.ownerError (.home s u) m).report s { src := 0x200 + u.val, cls := 4, sub := 0xFF, master := m.master.toNat, berth := m.berth.toNat,
                                          access := accessOf m.ty, addr := m.pa }

/-- Whether a request takes a new entry of the crossing directory where its line has none (R270). -/
def takesEntry (s : Sock) (m : Msg) : Bool :=
  reqSock m ≠ s.val && ((m.ty = .hrds && !m.aux) || m.ty = .hrdm || m.ty = .hupg)

/-- Start a request (R269): directory, memory read, and probes, in increasing socket ID; service when no probe is needed. The entry
that the line is to have takes its way now, busy. -/
def Dev.homeStart (a : Tables) (d : Dev) (s : Sock) (u : Fin 2) (m : Msg) : Dev :=
  let me : Node := .home s u
  let pa := m.pa
  let la := lineOf pa
  let r := reqSock m
  let h := d.hub s u
  let others := (setBitsOf (d.presentMask s) 16).filter fun t => t ≠ r && t ≠ s.val
  let share := m.ty = .hrds
  let entry := h.findX pa
  let code := d.summaryOf a u pa
  if takesEntry s m && entry.isNone && (h.xWays pa).length ≤ keptAhead h.rsv m 0 (xdirSet pa) allWays then
    (d.send (m.reply .retry me m.src)).onHub s u fun h => { h with rsv := reserve h.rsv m 0 (xdirSet pa) allWays }
  else
    let d := d.onHub s u fun h => { h with rsv := served h.rsv m }
    let d := if share || m.ty = .hrdm || m.ty = .hupg then d.sampleHome a pa else d
    let (far, stage, hail) : List Nat × Nat × Bool := match entry with
      | some (_, e) =>
        if e.own then (e.sp.filter fun t => t ≠ r, 9, false)
        else if share then ([], 9, false)
        else if e.hail then (others, 9, true)
        else (e.sp.filter fun t => t ≠ r, 9, false)
      | none => (if code = 0 || (code = 1 && share) then [] else others, 10 + code, false)
    let d := if entry.isNone && 0 < code && !(code = 1 && share) then d.bump s .xlXdirBcast u 0 31 0 1 else d
    let near := if r = s.val && m.ty ≠ .atm then [] else [s.val]
    let ts := (List.range 16).filter fun x => near.contains x || far.contains x
    let d := if hail then d.bump s .xlXdirBcast u 0 63 32 ts.length else d
    let (l, d) := d.memRead a (whoOf m) pa
    let t : Txn := { txnOf m stage with acks := ts, cmp := (share && !m.aux) || m.ty = .hrdm || m.ty = .hupg, data := some l.line }
    let d := d.onHub s u fun h => { h with txns := h.txns ++ [t] }
    let d := match entry with
      | some (k, e) => d.putX s u k e
      | none => if takesEntry s m then d.allocX a s u (sharedX la [] false) else d
    let ty : MsgType := if share then (if m.aux then .hprr else .hprs) else .hprm
    let flags : Line := if m.ty = .nwr || m.ty = .pwr || m.ty = .atm then noData else if m.data.getLsbD 1 then sliceOf r else 0
    if ts.isEmpty then d.homeServe a s u t
    else
      d.sendAll (ts.map fun x =>
        let dst := d.homeSlice ⟨x % 16, Nat.mod_lt _ (by decide)⟩ pa
        { m with ty, src := me, dst, aux := false, data := flags, poison := false, len := 64, age := 0,
                 addr := BitVec.ofNat 52 (lineBase pa) })

/-- A request reaches a home agent: checked when it came over a crossing (R30), held while a copy of the tiering engine
blocks its page (R342), queued while the line is busy (R269). -/
def Dev.homeRequest (a : Tables) (d : Dev) (s : Sock) (u : Fin 2) (m : Msg) : Dev :=
  let la := lineOf m.pa
  let blocked := match (d.locate a m.pa).1 with
    | .at loc => d.blockedLoc s loc
    | _ => false
  if notOwned a s m then d.refuseOwner s u m
  else if blocked then d.onHub s u fun h => { h with blocked := h.blocked ++ [m] }
  else if (d.hub s u).busyLine la then d.onHub s u fun h => { h with waiting := h.waiting ++ [m] }
  else d.homeStart a s u m

/-- A write reaches a home agent (R410): held with WBACK, or, from a slice that has held it to its release, at once. -/
def Dev.homeWrite (a : Tables) (d : Dev) (s : Sock) (u : Fin 2) (m : Msg) : Dev :=
  let la := lineOf m.pa
  let h := d.hub s u
  let freed := match m.src with
    | .slice .. => true
    | _ => false
  let blocked := match (d.locate a m.pa).1 with
    | .at loc => d.blockedLoc s loc
    | _ => false
  if notOwned a s m then d.refuseOwner s u m
  else if blocked then d.onHub s u fun h => { h with blocked := h.blocked ++ [m] }
  else if 64 ≤ h.held.length && !freed then d.send (m.reply .retry (.home s u) m.src)
  else
    let d := d.onHub s u fun h => { h with held := h.held ++ [(m, freed)] }
    let d := if freed then d else d.send (m.reply .wback (.home s u) m.src)
    if h.busyLine la then d else d.homeStart a s u m

/-- A probe's answer (R269). -/
def Dev.homeAnswer (a : Tables) (d : Dev) (s : Sock) (u : Fin 2) (m : Msg) : Dev :=
  let la := lineOf m.pa
  let from_ := m.src.sock.val
  match (d.hub s u).txns.find? fun t => t.la = la && t.acks.contains from_ with
  | none => d
  | some t =>
    let keeps := m.ty = .fack || m.aux
    let t' := { t with
      acks := t.acks.erase from_
      supplied := t.supplied || m.ty = .fack
      holders := if keeps && from_ ≠ s.val && !t.holders.contains from_ then t.holders ++ [from_] else t.holders }
    let d := d.homeTxn s u t t'
    if t'.acks.isEmpty then d.homeServe a s u t' else d

/-- A line of memory is written while requests for it are open: the data they have read follows (R269). -/
def Dev.freshen (d : Dev) (s : Sock) (u : Fin 2) (la : Nat) (l : PLine) : Dev :=
  d.onHub s u fun h => { h with txns := h.txns.map fun t => if t.la = la then { t with data := some l } else t }

/-- A write-back of a slice (R255, R264): memory is written; WBM clears the socket's pointer, and WBACK answers it. With no entry, a
summary 0b10 named that socket as the owner, and returns to 0b00 (DESIGN CHOICE, assumption log 30). -/
def Dev.homeWb (a : Tables) (d : Dev) (s : Sock) (u : Fin 2) (m : Msg) : Dev :=
  let blocked := match (d.locate a m.pa).1 with
    | .at loc => d.blockedLoc s loc
    | _ => false
  if blocked then d.onHub s u fun h => { h with blocked := h.blocked ++ [m] }
  else
    let d := (d.memWriteLine a (whoOf m) m.pa m.line).freshen s u (lineOf m.pa) m.line
    if m.ty = .wbs then d
    else
      let probed := (d.hub s u).txns.any fun t => t.la = lineOf m.pa && t.acks.contains m.src.sock.val
      let d := if probed || m.src.sock = s then d
        else if ((d.hub s u).findX m.pa).isNone && d.summaryOf a u m.pa = 2 then d.putSummary a m.pa 0
        else d.clearX a s u m.pa m.src.sock
      d.send (m.reply .wback (.home s u) m.src)

/-- CMPACK reaches a home agent: of the slice it answered, or of a writer. -/
def Dev.homeCmp (a : Tables) (d : Dev) (s : Sock) (u : Fin 2) (m : Msg) : Dev :=
  let la := lineOf m.pa
  let h := d.hub s u
  if h.held.any fun x => !x.2 && sameReq x.1 m then
    let d := d.onHub s u fun h => { h with held := h.held.map fun x => if sameReq x.1 m then (x.1, true) else x }
    match h.txns.find? fun t => t.la = la && t.stage = 2 with
    | some t => d.homeWrites a s u t
    | none => d
  else
    match h.txns.find? fun t => t.la = la && t.cmp && reqSock t.req = reqSock m && t.req.ty ≠ .nwr && t.req.ty ≠ .pwr with
    | some t => if t.stage = 2 then d.homeEnd s u t else d.homeTxn s u t { t with cmp := false }
    | none => d

/-! ### Device accesses to memory (R308, R364) -/

/-- The answer of a device read, poisoned when it draws BUS; with AUX, the acknowledgement of a device write (assumption
log 16). -/
def Dev.deviceAnswer (d : Dev) (me : Node) (m : Msg) (l : Line) (bad : Bool) : Dev :=
  d.send { (m.reply .drsp me m.src) with data := l, poison := bad, aux := m.ty = .dwr }

/-- DRD or DWR to a page of memory mapped as device memory: directly in memory. -/
def Dev.homeDevice (a : Tables) (d : Dev) (s : Sock) (u : Fin 2) (m : Msg) : Dev :=
  let me : Node := .home s u
  let blocked := match (d.locate a m.pa).1 with
    | .at loc => d.blockedLoc s loc
    | _ => false
  if notOwned a s m then d.refuseOwner s u m
  else if blocked then d.onHub s u fun h => { h with blocked := h.blocked ++ [m] }
  else
    let (l, d) := d.memRead a (whoOf m) m.pa
    if m.ty = .drd then d.deviceAnswer me m (lineSlice l.line.data (m.pa % 64) m.len.toNat) l.line.poison
    else
      let line := { l.line with data := lineMerge l.line.data (m.pa % 64) m.len.toNat m.data }
      let d := (d.memWriteLine a (whoOf m) m.pa line).freshen s u (lineOf m.pa) line
      d.deviceAnswer me m 0 l.line.poison

/-- A message delivered to a home agent. -/
def Dev.atHome (a : Tables) (d : Dev) (s : Sock) (u : Fin 2) (m : Msg) (again : Bool) : Dev :=
  match m.ty with
  | .hrds | .hrdm | .hupg | .atm => d.homeRequest a s u m
  | .nwr | .pwr =>
    if again then (if (d.hub s u).busyLine (lineOf m.pa) then d else d.homeStart a s u m) else d.homeWrite a s u m
  | .hevs => d.clearX a s u m.pa m.src.sock
  | .wbm | .wbs => d.homeWb a s u m
  | .fack | .pack => d.homeAnswer a s u m
  | .cmpack => d.homeCmp a s u m
  | .drd | .dwr => d.homeDevice a s u m
  | _ => d

end Sys2Proof.Machine
end

