-- ==== Sys2Proof/Machine/Shares.lean ====
section
/-! DEFINITION. Shares and caps at the arbiters of a socket (R35 to R39): grant slots of an epoch, cap limits, occupancy limits. -/

namespace Sys2Proof.Machine

/-- The share of a berth in a class as the arbiters use it: berth 0 holds 4 (R35). Classes are 0 MESH, 1 MEM and 2 XING. -/
def Socket.share (k : Socket) (b cls : Nat) : Nat := if b = 0 then 4 else (Tbl.get (0, 256) k.shares (b * 3 + cls)).1

/-- The cap of a berth in a class as the arbiters use it: 256 where none was set (R35, R39). -/
def Socket.cap (k : Socket) (b cls : Nat) : Nat := if b = 0 then 256 else (Tbl.get (0, 256) k.shares (b * 3 + cls)).2

/-- The count of slots a share gives in `g` grant slots (R37). -/
def slotCount (share g : Nat) : Nat := if share = 0 then 0 else Nat.max 1 (share * g / 256)

/-- The cap limit L of a berth in an epoch of `g` slots (R37). -/
def Socket.capLimit (k : Socket) (b cls g : Nat) : Nat := Nat.max (slotCount (k.share b cls) g) (k.cap b cls * g / 256)

/-- The occupancy limit of a berth in an input queue of `depth` entries (R38). -/
def Socket.occupancy (k : Socket) (b cls depth : Nat) : Nat := Nat.max 2 ((k.cap b cls * depth + 255) / 256)

/-- The grant slots of an arbiter whose cycle lasts `per` root periods in epoch `n`: its own cycles that begin within the epoch's
1,024 root periods (R36). -/
def epochSlots (per n : Nat) : Nat := (1024 * (n + 1) + per - 1) / per - (1024 * n + per - 1) / per

/-- The grant slots of a crossing link's outbound arbiter: 800, or 400 at ×8 (R289). -/
def xingSlots (width : Nat) : Nat := if width = 0 then 800 else 400

/-- Assign one slot: among the berths whose interval that holds the slot has none yet, the earliest end, then the lower
berth. A row is (berth, count, interval, whether that interval has its slot). -/
def slotPick (g slot : Nat) (rows : List (Nat × Nat × Nat × Bool)) : Option Nat :=
  let live := rows.filter fun r => !r.2.2.2 && r.2.2.1 * g / r.2.1 ≤ slot
  (argMin live fun r => (r.2.2.1 + 1) * g / r.2.1 * 64 + r.1).map Prod.fst

/-- The berth of each slot of an epoch that a share assigns, 64 where none does. -/
def assignSlots (g fuel slot : Nat) (rows : List (Nat × Nat × Nat × Bool)) : List Nat :=
  match fuel with
  | 0 => []
  | f + 1 =>
    let rows := rows.map fun r =>
      if (r.2.2.1 + 1) * g / r.2.1 ≤ slot then (r.1, r.2.1, r.2.2.1 + 1, false) else r
    match slotPick g slot rows with
    | some b => b :: assignSlots g f (slot + 1) (rows.map fun r => if r.1 = b then (r.1, r.2.1, r.2.2.1, true) else r)
    | none => 64 :: assignSlots g f (slot + 1) rows

/-- The berths of the slots of an epoch at an arbiter of a class with `g` grant slots (R37). -/
def Socket.deal (k : Socket) (cls g : Nat) : List Nat :=
  assignSlots g g 0 ((List.range 64).filterMap fun b =>
    let n := slotCount (k.share b cls) g
    if n = 0 then none else some (b, n, 0, false))

/-- Whether a berth may take a slot that is not its own: the grants it has had in the epoch and its own slots still to come stay
below its cap limit (R37). -/
def Socket.belowCap (k : Socket) (cls g : Nat) (deal : List Nat) (slot : Nat) (granted : List Nat) (b : Nat) : Bool :=
  granted.count b + (deal.drop (slot + 1)).count b < k.capLimit b cls g

/-- The berth that a slot of an arbiter is granted to: the slot's own berth where it waits, else the next in rotating berth order of
those below their cap limits (R37); with shares off, the next in rotating berth order of all that wait (R224). `turn` is the berth
that was granted last in the rotation, `granted` the grants of the epoch so far. -/
def Socket.grant (k : Socket) (cls g : Nat) (deal : List Nat) (slot : Nat) (granted : List Nat) (turn : Nat) (waiting : List Nat)
    (sharesOff : Bool) : Option Nat :=
  let next := fun (l : List Nat) => argMin l fun b => (b + 63 - turn) % 64
  let own := deal.getD slot 64
  if sharesOff then next waiting
  else if waiting.contains own then some own
  else next (waiting.filter (k.belowCap cls g deal slot granted))

/-- A new epoch: the written shares and caps take effect at every arbiter of the socket, and the slots of a mesh arbiter are dealt
(R37, R39). -/
def Socket.newEpoch (k : Socket) (shares : Tbl (Nat × Nat)) : Socket :=
  let k := { k with shares, epoch := k.epoch + 1 }
  { k with slots := k.deal 0 256 }

end Sys2Proof.Machine
end

