-- ==== Sys2Proof/Machine/Routes.lean ====
section
/-! DEFINITION. The way between sockets (R268, R291 to R294): link states, the usable links to a neighbour, levels, and the links that
a route takes. -/

namespace Sys2Proof.Machine

/-- STATE of XL_LINK_STAT. -/
def Dev.linkState (d : Dev) (s k : Nat) : Nat := d.fld s .xlLinkStat k 0 34 32

/-- The socket across a dimension. -/
def across (s dim : Nat) : Nat := s ^^^ 2 ^ dim

/-- The usable links of a socket to a neighbour, in increasing number (R291). -/
def Dev.usable (d : Dev) (s t : Nat) : List Nat :=
  (List.range 8).filter fun k => d.linkState s k = 4 && d.fld s .xlLinkStat k 0 47 44 = t

/-- The usable links of one hub to a neighbour, or the other hub's where it has none (R291). -/
def Dev.usableOf (d : Dev) (s hub t : Nat) : List Nat :=
  let all := d.usable s t
  let own := all.filter fun k => k / 4 = hub
  if own.isEmpty then all else own

/-- Two neighbours with a usable link in both directions (R291). -/
def Dev.hop (d : Dev) (s t : Nat) : Bool := !(d.usable s t).isEmpty && !(d.usable t s).isEmpty

/-- The hops among some sockets, as (from, to). -/
def Dev.hopsAmong (d : Dev) (ps : List Nat) : List (Nat × Nat) :=
  ps.flatMap fun s => (ps.filter fun t => t ≠ s && d.hop s t).map fun t => (s, t)

/-- Distances by breadth: `seen` holds (place, distance), and every edge (from, to) to a place seen brings its start. -/
def bfs (edges : List (Nat × Nat)) (fuel k : Nat) (seen : List (Nat × Nat)) : List (Nat × Nat) :=
  match fuel with
  | 0 => seen
  | fuel + 1 =>
    let new := (edges.filter fun e => (seen.any fun x => x.1 = e.2) && !seen.any fun x => x.1 = e.1).map Prod.fst
    bfs edges fuel (k + 1) (seen ++ new.eraseDups.map fun u => (u, k + 1))

/-- The distance of a place that was seen. -/
def distOf (seen : List (Nat × Nat)) (u : Nat) : Option Nat := (seen.find? fun x => x.1 = u).map Prod.snd

/-- Whether a hop goes up: to a lower level, or to an equal level and a lower ID. -/
def hopUp (levels : List (Nat × Nat)) (e : Nat × Nat) : Bool :=
  let l := fun (u : Nat) => (distOf levels u).getD 99
  l e.2 < l e.1 || (l e.2 = l e.1 && e.2 < e.1)

/-- The levels of the present sockets that a socket knows: hops from the lowest-numbered one (R293). -/
def Dev.levels (d : Dev) (s : Nat) : List (Nat × Nat) :=
  let ps := setBitsOf (d.presentMask s) 16
  bfs (d.hopsAmong ps) 16 0 [(ps.foldl Nat.min 15, 0)]

/-- The next dimension of a message at socket `x` for socket `t`: in class 0 the lowest in which they differ (R292), in class 1 what
XL_ROUTE gives for a message with DOWN clear or set (R294). -/
def Dev.routeDim (d : Dev) (x t cls : Nat) (down : Bool) : Option Nat :=
  let w := d.reg x .xlRoute t 0
  if cls = 0 then (List.range 4).find? fun i => (x ^^^ t).testBit i
  else if down then (if bit w 10 then some (bits w 9 8) else none)
  else if bit w 15 then some (bits w 12 11) else none

/-- The link of a hop for a message about an address, or without one for a transaction (R291): among the usable links of the line's
hub, or of the other hub where that has none (R268). -/
def Dev.hopLink (d : Dev) (x y hub index : Nat) : Option Nat :=
  let ks := d.usableOf x hub y
  ks[index % Nat.max 1 ks.length]?

/-- Whether a message of a class can go from socket `x` to `t`: each hop of its route has a usable link that takes sends (R292 to
R294). DOWN is set at the first down hop of class 1. -/
def Dev.crosses (d : Dev) (fuel x t cls hub index : Nat) (down : Bool) : Bool :=
  match fuel with
  | 0 => x = t
  | n + 1 =>
    if x = t then true
    else
      match d.routeDim x t cls down with
      | none => false
      | some i =>
        let y := across x i
        match d.hopLink x y hub index with
        | none => false
        | some k => !(d.link x k).hold && Dev.crosses d n y t cls hub index (down || (cls = 1 && !hopUp (d.levels x) (x, y)))

/-- The hops of the route that `Dev.crosses` follows: the socket left, the link, and the socket reached. -/
def Dev.crossHops (d : Dev) (fuel x t cls hub index : Nat) (down : Bool) : List (Nat × Nat × Nat) :=
  match fuel with
  | 0 => []
  | n + 1 =>
    if x = t then []
    else
      match d.routeDim x t cls down with
      | none => []
      | some i =>
        let y := across x i
        match d.hopLink x y hub index with
        | none => []
        | some k => (x, k, y) :: Dev.crossHops d n y t cls hub index (down || (cls = 1 && !hopUp (d.levels x) (x, y)))

/-- Count an event of a crossing link (R448) for the berth of a message header. -/
def Dev.linkEvent (d : Dev) (s k ev b n : Nat) : Dev := d.uncore s .pcUncCfgLink .pcUncCntLink k ev b n

/-- The links that a message of berth `b` crossed count it as sent, and at their other ends as received (R448). -/
def Dev.countHops (d : Dev) (b : Nat) (hops : List (Nat × Nat × Nat)) : Dev :=
  hops.foldl (fun d h => (d.linkEvent h.1 h.2.1 0x60 b 1).linkEvent h.2.2 h.2.1 0x61 b 1) d

end Sys2Proof.Machine
end

