-- ==== Sys2Proof/Machine/Mesh.lean ====
section
/-! DEFINITION. The landing mesh (R206 to R224): planes and lanes, where agents meet the mesh, routes, router inputs, stopped links,
and the order in which messages arrive. -/

namespace Sys2Proof.Machine

/-! ### Planes (R208, R209, R257) -/

/-- The TYPE code of a message type (R257). -/
def codeOf (ty : MsgType) : Nat :=
  match ty with
  | .rds => 0x01 | .rdc => 0x02 | .rdm => 0x03 | .upg => 0x04 | .evs => 0x05 | .evc => 0x06 | .nrd => 0x08 | .drd => 0x09
  | .hrds => 0x10 | .hrdm => 0x11 | .hupg => 0x12 | .hevs => 0x13
  | .fwds => 0x20 | .fwdm => 0x21 | .fwdr => 0x22 | .inv => 0x23 | .binv => 0x24 | .hprs => 0x25 | .hprm => 0x26 | .hprr => 0x27
  | .ack => 0x28 | .fack => 0x29 | .pack => 0x2A | .cmpack => 0x2B | .grant => 0x2C | .wback => 0x2D | .retry => 0x2E
  | .dats => 0x30 | .date => 0x31 | .datm => 0x32 | .wbm => 0x33 | .wbs => 0x34 | .nwr => 0x35 | .pwr => 0x36 | .atm => 0x37
  | .atr => 0x38 | .dwr => 0x39 | .drsp => 0x3A

/-- The plane of a TYPE code: 0 REQ, 1 FWD, 2 DAT (R257). -/
def planeOfCode (n : Nat) : Nat := if n < 0x20 then 0 else if n < 0x30 then 1 else 2

/-- What carries a message: plane 0 REQ or 1 FWD, or of DAT lane 0 as 2 and lane 1 as 3, by bit 6 of its address (R209). -/
def laneOf (m : Msg) : Nat := if planeOfCode (codeOf m.ty) = 2 then 2 + m.pa / 64 % 2 else planeOfCode (codeOf m.ty)

/-! ### Where agents meet the mesh (R206, R212, R213) -/

/-- Where a message enters or leaves the mesh: the local port of a landing, or a hub. -/
inductive Attach where
  | landing (l : Nat)
  | hub (u : Nat)
  deriving DecidableEq, Repr

/-- The hub that serves an offset of a socket's MMIO window (R420, R541). -/
def mmioHub (off : Nat) : Nat :=
  if off < 0x0F0000000000 then off / 0x7800000000 / 16
  else
    let o := off - 0x0F0000000000
    let bus := o / 0x100000
    if 0x10000000 ≤ o then (o - 0x10000000) / 0x8000000 / 2 % 2
    else if bus = 0 then o / 0x8000 / 16
    else if 0xF0 ≤ bus && bus < 0xF4 then (bus - 0xF0) / 2
    else if bus ≤ 224 then (bus - 1) / 7 / 16 else 0

/-- Where an agent meets the mesh: cores and slices at their pod's landing, the others at a hub. The Wheelhouse and its cores stand on
H0; a landing's registers are at that landing (R224). -/
def placeOf (n : Node) (pa : Nat) : Attach :=
  match n with
  | .core _ c => if c.val < 208 then .landing (landingOf (c.val / 2)) else .hub 0
  | .slice _ p => .landing (landingOf p.val)
  | .home _ u => .hub u.val
  | .ferry _ e _ => .hub (e.val / 2)
  | .port _ p => .hub (p.val / 16)
  | .wheel _ => .hub 0
  | .target _ =>
    match regionOf pa with
    | .mmio _ off => .hub (mmioHub off)
    | .intWin _ off => .hub (off / 0x1000 / 104 % 2)
    | .regs _ off => if 0x10000000 ≤ off && off < 0x18000000 then .landing ((off - 0x10000000) / 0x100000) else .hub 0
    | _ => .hub (homeHub pa % 2)

/-- The index of R213 and R291: address [13:6], or, of a message that carries no address, its transaction ID. Which messages carry
none R257 does not say: DESIGN CHOICE, those whose ADDR is zero (assumption log 30). -/
def crossIndex (m : Msg) : Nat := if m.pa = 0 then m.txn.toNat else nbits m.pa 13 6

/-- A stretch of the mesh: the router and input port by which a message enters, the router and output port by which it leaves.
Ports are north, east, south, west, 4 local and 5 hub. -/
structure Leg where
  start : Nat
  inPort : Nat
  stop : Nat
  outPort : Nat
  deriving DecidableEq, Repr

/-- The stretch between two places of a socket (R210, R212, R213); none where a message stays at its landing (R258) or hub. -/
def legOf (m : Msg) (x y : Attach) : Option Leg :=
  match x, y with
  | .landing a, .landing b => if a = b then none else some ⟨a, 4, b, 4⟩
  | .landing a, .hub u => some ⟨a, 4, exitBridge u a, 5⟩
  | .hub u, .landing b => some ⟨entryBridge u b, 5, b, 4⟩
  | .hub u, .hub v => if u = v then none else some ⟨u * 112 + hubColumn (crossIndex m), 5, v * 112 + hubColumn (crossIndex m), 5⟩

/-! ### Routes (R210) -/

/-- The routers that a message passes from `a` to before `b` with the port by which it leaves each: along the row, then along the
column. -/
def hopsTo (a b : Nat) : List (Nat × Nat) :=
  let ca := a % 16
  let cb := b % 16
  let ra := a / 16
  let rb := b / 16
  let row := if ca ≤ cb then (List.range (cb - ca)).map fun i => (a + i, 1) else (List.range (ca - cb)).map fun i => (a - i, 3)
  let turn := ra * 16 + cb
  let col := if ra ≤ rb then (List.range (rb - ra)).map fun i => (turn + 16 * i, 2)
    else (List.range (ra - rb)).map fun i => (turn - 16 * i, 0)
  row ++ col

/-- Give each router of a path the port by which the message comes in: the one opposite to the last output. -/
def withInputs (inPort : Nat) (path : List (Nat × Nat)) : List (Nat × Nat × Nat) :=
  match path with
  | [] => []
  | (r, o) :: rest => (r, inPort, o) :: withInputs ((o + 2) % 4) rest

/-- The routers of a stretch, each with input and output port. -/
def Leg.route (l : Leg) : List (Nat × Nat × Nat) := withInputs l.inPort (hopsTo l.start l.stop ++ [(l.stop, l.outPort)])

/-! ### Router inputs (R217, R222) -/

/-- The key of a router input. -/
def inputKey (r port lane : Nat) : Nat := (r * 6 + port) * 4 + lane

/-- Whether a router input takes one more message of a berth: 16 entries, and the berth's occupancy limit (R38, R217). -/
def Socket.takes (k : Socket) (key b : Nat) : Bool :=
  let q := Tbl.get [] k.meshQ key
  q.length < 16 && (q.filter fun m => m.berth.toNat = b).length < k.occupancy b 0 16

/-- Whether a link is stopped on the plane of a lane (R222). -/
def Socket.linkStopped (k : Socket) (r port lane : Nat) : Bool := k.meshDown.contains (r, port, Nat.min lane 2)

/-- How far a message gets: out of the mesh, nowhere, or to a router input. -/
inductive Fate where
  | passes
  | stays
  | waits (s key : Nat)
  deriving DecidableEq, Repr

/-- How far a message gets along the rest of its route: it waits in a router input behind earlier messages of its berth there, or
before a stopped link, and where the next input refuses it stays where it is (R210, R217, R222). -/
def Socket.advance (k : Socket) (s : Nat) (m : Msg) (lane : Nat) (at_ : Fate) (route : List (Nat × Nat × Nat)) : Fate :=
  match route with
  | [] => .passes
  | (r, i, o) :: rest =>
    let key := inputKey r i lane
    if !k.takes key m.berth.toNat then at_
    else if (Tbl.get [] k.meshQ key).any fun x => x.berth = m.berth then .waits s key
    else if o < 4 && k.linkStopped r o lane then .waits s key
    else Socket.advance k s m lane (.waits s key) rest

/-- How far a message gets through the mesh of a socket; with no link stopped and no message waiting, all the way. -/
def Dev.passMesh (d : Dev) (s : Nat) (m : Msg) (l : Option Leg) : Fate :=
  match l with
  | none => .passes
  | some l =>
    let k := d.sock s
    if k.meshDown.isEmpty && k.meshQ.isEmpty then .passes else k.advance s m (laneOf m) .stays l.route

/-- Whether INJ_STOP keeps a place's local port from injecting (R224). -/
def Dev.injects (d : Dev) (s : Nat) (x : Attach) : Bool :=
  match x with
  | .landing a => d.fld s .ldMeshCtl a 0 4 4 = 0
  | .hub _ => true

/-- Whether a message needs a crossing: its agents are on two sockets that hold each other present. -/
def Dev.overLinks (d : Dev) (m : Msg) : Bool :=
  m.src.sock ≠ m.dst.sock && d.present m.src.sock m.dst.sock && d.present m.dst.sock m.src.sock

/-- How far a message in flight gets: through the mesh to its agent, or through the mesh to a hub (that of its line's home, R268),
over the links of its route, and through the mesh of the other socket (R210, R268, R285). -/
def Dev.fate (d : Dev) (m : Msg) : Fate :=
  let s := m.src.sock.val
  let t := m.dst.sock.val
  let x := placeOf m.src m.pa
  let y := placeOf m.dst m.pa
  if s = t then
    match legOf m x y with
    | none => .passes
    | l => if d.injects s x then d.passMesh s m l else .stays
  else if !d.overLinks m then .passes
  else
    let u := homeHub m.pa % 2
    let w := d.reg s .xlRoute t 0
    if !bit w 15 || !d.injects s x || !d.crosses 8 s t (bits w 14 14) u (crossIndex m) false then .stays
    else
      match d.passMesh s m (legOf m x (.hub u)) with
      | .passes => d.passMesh t m (legOf m (.hub u) y)
      | f => f

/-- Whether two messages keep their order: same plane or lane, same source and same destination (R214). -/
def samePath (m n : Msg) : Bool :=
  laneOf m = laneOf n && m.src.sock = n.src.sock && m.dst.sock = n.dst.sock && placeOf m.src m.pa = placeOf n.src n.pa &&
    placeOf m.dst m.pa = placeOf n.dst n.pa

/-- Whether a message waits behind another at their source: same port, plane and berth (R217). -/
def sameQueue (m n : Msg) : Bool :=
  laneOf m = laneOf n && m.src.sock = n.src.sock && placeOf m.src m.pa = placeOf n.src n.pa && m.berth = n.berth

/-- The hops over links that a message in flight makes between its sockets (R291 to R293). -/
def Dev.hopsOf (d : Dev) (m : Msg) : List (Nat × Nat × Nat) :=
  let s := m.src.sock.val
  let t := m.dst.sock.val
  if !d.overLinks m then []
  else d.crossHops 8 s t (bits (d.reg s .xlRoute t 0) 14 14) (homeHub m.pa % 2) (crossIndex m) false

/-- A message that is past the mesh of its own socket has crossed (R448). -/
def Dev.countCross (d : Dev) (m : Msg) : Dev := d.countHops m.berth.toNat (d.hopsOf m)

/-- Take the oldest message in flight that moves: one that reaches its agent, or one that gets into a router input and waits there.
`stuck` are older ones that stay at their source. -/
def Dev.pickNet (d : Dev) (stuck : List Msg) (l : List Msg) : Option (Option Msg × Dev) :=
  match l with
  | [] => none
  | m :: rest =>
    if stuck.any fun x => sameQueue x m then Dev.pickNet d (stuck ++ [m]) rest
    else
      match d.fate m with
      | .passes => some (some m, ({ d with net := stuck ++ rest } : Dev).countCross m)
      | .stays => Dev.pickNet d (stuck ++ [m]) rest
      | .waits s key =>
        let d' : Dev := { d with net := stuck ++ rest }
        let d' := if s = m.src.sock.val then d' else d'.countCross m
        some (none, d'.onSock s fun k =>
          { k with meshQ := Tbl.put k.meshQ key (Tbl.get [] k.meshQ key ++ [m]) })

/-! ### After a stop (R217, R218, R222) -/

/-- The rest of the route of a message from a router input of a socket: the input's own router first. -/
def restOf (s : Nat) (m : Msg) (key : Nat) : List (Nat × Nat × Nat) :=
  let u := homeHub m.pa % 2
  let x := if m.src.sock.val = s then placeOf m.src m.pa else .hub u
  let y := if m.dst.sock.val = s then placeOf m.dst m.pa else .hub u
  match legOf m x y with
  | none => []
  | some l => l.route.dropWhile fun e => inputKey e.1 e.2.1 (laneOf m) ≠ key

/-- The first waiting message of each berth in a router input. -/
def headsOf (q : List Msg) : List Msg :=
  q.foldl (fun (acc : List Msg) m => if acc.any fun x => x.berth = m.berth then acc else acc ++ [m]) []

/-- The messages at the head of their berths in the inputs of a socket that can move, with where each gets. -/
def Dev.movable (d : Dev) (s : Nat) : List (Nat × Msg × Fate) :=
  let k := d.sock s
  k.meshQ.flatMap fun e => (headsOf e.2).filterMap fun m =>
    match restOf s m e.1 with
    | [] => some (e.1, m, .passes)
    | (r, _, o) :: rest =>
      if o < 4 && k.linkStopped r o (laneOf m) then none
      else
        match k.advance s m (laneOf m) .stays rest with
        | .stays => none
        | f => some (e.1, m, f)

/-- Move one waiting message of a socket: the router's output grants a slot (R37, from slot 0 of an epoch, assumption log 30; with
SHARE_OFF in rotating berth order), and within the berth the input ports take turns in increasing number (R218). Answers the message if
it leaves the mesh of its last socket. -/
def Dev.moveOne (d : Dev) (s slot : Nat) (granted : List Nat) (turn : Nat) : Option (Nat × Option Msg × Dev) :=
  match d.movable s with
  | [] => none
  | c :: cs =>
    let here := (c :: cs).filter fun x => x.1 / 24 = c.1 / 24
    let k := d.sock s
    let berths := here.map fun x => x.2.1.berth.toNat
    let b := (k.grant 0 256 k.slots slot granted turn berths (d.fld s .ldMeshCtl (c.1 / 24) 0 8 8 = 1)).getD c.2.1.berth.toNat
    match here.find? fun x => x.2.1.berth.toNat = b with
    | none => none
    | some (key, m, f) =>
      let d := d.onSock s fun k => { k with meshQ := Tbl.set [] k.meshQ key ((Tbl.get [] k.meshQ key).erase m) }
      match f with
      | .waits _ key' => some (b, none, d.onSock s fun k => { k with meshQ := Tbl.put k.meshQ key' (Tbl.get [] k.meshQ key' ++ [m]) })
      | _ =>
        if m.dst.sock.val = s then some (b, some m, d)
        else
          let d := d.countCross m
          let u := homeHub m.pa % 2
          match d.passMesh m.dst.sock.val m (legOf m (.hub u) (placeOf m.dst m.pa)) with
          | .waits t key' => some (b, none, d.onSock t fun k => { k with meshQ := Tbl.put k.meshQ key' (Tbl.get [] k.meshQ key' ++ [m]) })
          | _ => some (b, some m, d)

/-- Move the messages that wait in a socket's routers as far as they get; those that leave the mesh, in order. -/
def Dev.meshResume (d : Dev) (fuel s slot : Nat) (granted : List Nat) (turn : Nat) (out : List Msg) : List Msg × Dev :=
  match fuel with
  | 0 => (out, d)
  | n + 1 =>
    match d.moveOne s slot granted turn with
    | none => (out, d)
    | some (b, m, d) =>
      if slot = 255 then Dev.meshResume d n s 0 [] b (out ++ m.toList) else Dev.meshResume d n s (slot + 1) (granted ++ [b]) b (out ++ m.toList)

/-! ### Errors (R222) -/

/-- An uncorrectable header error found by the router of `l` on what came in by a port and plane: the link of the neighbour there
stops on that plane, and the receiving router reports. A port toward the edge has no link (R206). -/
def Dev.headerError (d : Dev) (s l port plane : Nat) : Dev :=
  match neighbour l port with
  | none => d
  | some n =>
    let out := (port + 2) % 4
    let d := d.setReg s .ldMeshCtl n 0 (putBit (d.reg s .ldMeshCtl n 0) out true)
    let d := d.onSock s fun k => { k with meshDown := k.meshDown.filter (· ≠ (n, out, plane)) ++ [(n, out, plane)] }
    d.reportUnit s (0x180 + l) 8 (port + 4 * plane) 0 14 0

/-- A correctable error in a header or a data word: corrected in the receiving cycle, and reported (R222). -/
def Dev.meshCorrected (d : Dev) (s l : Nat) : Dev := d.reportUnit s (0x180 + l) 0 0xFF 0 14 0

/-- An uncorrectable error in the data of a message on DAT: it goes on with its poison bit set, and the router reports it as
Deferred (R222). -/
def Dev.meshDataError (d : Dev) (s l : Nat) (m : Msg) : Dev :=
  ({ d with net := d.net.map fun x => if x = m then { x with poison := true } else x } : Dev).reportUnit s (0x180 + l) 2 0xFF
    m.berth.toNat 14 m.pa

/-- The traffic to and from a socket is lost with it. -/
def Dev.dropTraffic (d : Dev) (s : Nat) : Dev :=
  let away := fun (m : Msg) => m.src.sock.val ≠ s && m.dst.sock.val ≠ s
  { d with
    net := d.net.filter away
    inbox := d.inbox.filter away
    asked := d.asked.filter fun x => away x.1
    again := d.again.filter away
    socks := d.socks.mapV fun _ k => { k with meshQ := k.meshQ.mapV fun _ l => l.filter away } }

end Sys2Proof.Machine
end

