-- ==== Sys2Proof/Machine/Coherence.lean ====
section
/-! DEFINITION. Delivery of coherence messages to their agents, replays, and running the traffic of an access to its end. -/

namespace Sys2Proof.Machine

/-! ### Requests of a core -/

/-- The request message type of a miss register (R175). -/
def Miss.ty (r : Miss) : MsgType := if r.upg then .upg else if r.own then .rdm else if r.fetch then .rdc else .rds

/-- Send (or send again, with its first AGE) the request of a miss register (R236, R237); a held map entry leaves it
unsent (R247). -/
def Dev.sendMiss (a : Tables) (d : Dev) (h : Hart) (r : Miss) : Dev :=
  let pa := r.la * 64
  if (d.homePod h.sock pa).2 then d
  else
    let age := if r.sent then r.age else BitVec.ofNat 20 d.now.toNat
    let r' := { r with sent := true, retry := false, age, killed := false, upg := r.upg && ((d.core h).line2 r.la).isSome }
    let d := d.onCore h fun c => { c with missL2 := c.missL2.map fun x => if x.la = r.la then r' else x }
    d.send { coreMsg a d h r'.ty (d.homeSlice h.sock pa) r.txn pa with age }

/-- Replay the requests of a core that were refused, or that a held map entry kept (R236, R247). -/
def Dev.replayCore (a : Tables) (d : Dev) (h : Hart) (la : Option Nat) : Dev :=
  d.each ((d.core h).missL2.filter fun r => (r.retry || !r.sent) && (la = none || la = some r.la)) fun d r =>
    d.sendMiss a h r

/-- The next transaction ID of a core. -/
def Dev.nextTxn (d : Dev) (h : Hart) : Nat × Dev :=
  let t := (d.core h).txn
  (t, d.onCore h fun c => { c with txn := (t + 1) % 0xFFF })

/-- L1 miss registers offer their misses to L2 (R175, R176, R179): L1D's before L1I's, oldest first, each to a free register of its
64, or to the one that has the line, whose request becomes one for ownership while it has not been sent. -/
def Dev.offerL2 (d : Dev) (h : Hart) : Dev :=
  let d := d.onCore h fun c => { c with missD := c.missD.filter fun r => !c.has r.la r.own, missI := c.missI.filter fun r => !c.has r.la false }
  let c := d.core h
  d.each (c.missD ++ c.missI) fun d r =>
    let c := d.core h
    if c.missL2.any fun x => x.la = r.la then
      d.onCore h fun c => { c with missL2 := c.missL2.map fun x =>
        if x.la = r.la then { x with own := x.own || (r.own && !x.sent), prefetch := false } else x }
    else if 64 ≤ c.missL2.length then d
    else
      let (t, d) := d.nextTxn h
      d.onCore h fun c => { c with missL2 := c.missL2 ++ [{ r with txn := t, upg := r.own && (c.line2 r.la).isSome, sent := false }] }

/-- The cores, of every socket, of which `p` holds. -/
def Dev.coresWith (d : Dev) (p : Core → Bool) : List Hart :=
  (List.finRange 16).flatMap fun (s : Sock) => (d.sock s.val).cores.filterMap fun e =>
    if h : e.1 < 212 then (if p e.2 then some { sock := s, core := ⟨e.1, h⟩ } else none) else none

/-- Whether a core has a miss that L2 has not taken or that has not been sent, or a notice not sent. -/
def Core.offers (c : Core) : Bool :=
  (c.missL2.any fun r => !r.sent) || (c.vic.any fun v => !v.sent) ||
    (c.missD ++ c.missI).any fun r => !c.missL2.any fun x => x.la = r.la

/-- The cores that have something to send. -/
def Dev.offering (d : Dev) : List Hart := d.coresWith Core.offers

/-- Offer a core's misses to L2 again and send what has not been sent, with the notices of its evictions that a held map entry kept
(R179, R247). -/
def Dev.missesGo (a : Tables) (d : Dev) (h : Hart) : Dev :=
  let d := d.offerL2 h
  let d := d.each ((d.core h).missL2.filter fun r => !r.sent) fun d r => d.sendMiss a h r
  d.each ((d.core h).vic.filter fun v => !v.sent) fun d v => d.sendNotice a h v

/-- Replay the requests of slices (or of one, for one line) that a home agent refused; their RETRYs lie in `inbox` (R270). -/
def Dev.replaySlices (d : Dev) (of_ : Option (Node × Nat)) : Dev :=
  let hit := fun (m : Msg) => m.ty = .retry && (of_ = none || of_ = some (m.dst, lineOf m.pa)) &&
    (match m.dst with
      | .slice .. => true
      | _ => false)
  let ms := d.inbox.filter hit
  let d := { d with inbox := d.inbox.filter fun m => !hit m }
  d.each ms fun d m =>
    match m.dst with
    | .slice s p =>
      match (d.slice s p).txns.find? fun t => t.la = lineOf m.pa && t.home with
      | some t =>
        let core := t.req.ty = .rdm || t.req.ty = .upg
        let share := t.req.ty = .rds || t.req.ty = .rdc || t.req.ty = .nrd
        let ty : MsgType := if t.stage = 0 then .hupg else if share then .hrds else .hrdm
        d.send { t.req.fromSlice s p ty (homeNode m.pa) with
          aux := t.req.ty = .nrd
          data := if core || t.req.ty = .nrd || (share && (coreFrom s t.req).isSome) then 0 else sliceOnly }
      | none => d
    | _ => d

/-- Send again what RETRY has refused of the agents without miss registers, with its TXN and AGE (R236, R237), of the requests that `p`
takes; while a map entry is held it waits (R247). -/
def Dev.replayAsked (d : Dev) (p : Msg → Bool) : Dev :=
  d.each (d.asked.filter fun x => x.2 && p x.1 && !(d.homePod x.1.src.sock x.1.pa).2) fun d x =>
    ({ d with asked := d.asked.map fun y => if y = x then (x.1, false) else y } : Dev).send
      { x.1 with dst := d.homeSlice x.1.src.sock x.1.pa }

/-! ### Ordered writers (R410) -/

/-- The writes of a ferry function, a root port or the Wheelhouse that have no CMPACK yet, each with whether its WBACK has come. -/
def Dev.writerList (d : Dev) (n : Node) : List (Msg × Bool) :=
  match n with
  | .ferry s e f => (d.fn s (e.val * 256 + f.val)).writes
  | .port s p => (d.port s p).writes
  | .wheel s => (d.wheel s).writes
  | _ => []

/-- Change that list. -/
def Dev.setWriter (d : Dev) (n : Node) (l : List (Msg × Bool)) : Dev :=
  match n with
  | .ferry s e f => d.onFn s (e.val * 256 + f.val) fun x => { x with writes := l }
  | .port s p => d.onPort s p fun x => { x with writes := l }
  | .wheel s => d.onWheel s fun x => { x with writes := l }
  | _ => d

/-- WBACK reaches a writer: CMPACK goes out for every write that has its WBACK and whose earlier writes have theirs; a
relaxed write, which the list does not hold, is acknowledged at once. A write that failed the check of R30 leaves the list. -/
def ackWrites (l : List (Msg × Bool)) (me : Node) (m : Msg) : List (Msg × Bool) × List Msg :=
  if l.any fun w => !w.2 && sameReq w.1 m then
    let l := if m.len = 0 then l.filter fun w => w.2 || !sameReq w.1 m else l.map fun w => if sameReq w.1 m then (m, true) else w
    let go := l.takeWhile fun w => w.2
    (l.dropWhile fun w => w.2, go.map fun w => w.1.reply .cmpack me w.1.src)
  else (l, if m.len = 0 then [] else [m.reply .cmpack me m.src])

/-- A completion that no read awaits is discarded; an engine and a root port log it with Note severity (R414). -/
def Dev.unexpected (d : Dev) (n : Node) : Dev :=
  match n with
  | .ferry s e _ => d.notice s (0x400 + e.val * 0x100)
  | .port s p => d.notice s (0x800 + p.val)
  | _ => d

/-- A message reaches a ferry function, a root port, the Wheelhouse or a device target. An answer with LEN 0 is an ownership error
(R30): a read or an atomic is as if it had not been sent, and a write is dropped. -/
def Dev.atOther (d : Dev) (m : Msg) : Dev :=
  match m.ty with
  | .wback =>
    let (l, out) := ackWrites (d.writerList m.dst) m.dst m
    let d := ((d.answered m).setWriter m.dst l).sendAll out
    if m.len = 0 then { d with inbox := d.inbox ++ [m] } else d
  | .retry => d.refusedAsk m
  | .dats | .atr =>
    if d.asked.any fun x => answers x.1 m then
      let d := d.answered m
      if m.len = 0 then d else { d with inbox := d.inbox ++ [m] }
    else d.unexpected m.dst
  | _ => { d with inbox := d.inbox ++ [m] }

/-! ### Absent sockets (R299) -/

/-- The hub of a message's own socket that answers in place of a socket that is not present. -/
def hubFor (m : Msg) : Node := .home m.src.sock ⟨homeHub m.pa % 2, Nat.mod_lt _ (by decide)⟩

/-- A device access to a socket that is not present: a register or a port window answers as in R537; a write to an interrupt
window is dropped with a Note and a read of one draws BUS with a Note (R106, R107), both from the router of the socket that
sent it (assumption log 19). -/
def Dev.absentTarget (d : Dev) (m : Msg) : Dev :=
  let s := m.src.sock.val
  match regionOf m.pa with
  | .intWin _ off =>
    let src := 0x206 + off / 0x1000 / 104 % 2
    if m.ty = .drd then (d.noteAccess s src m.master.toNat m.berth.toNat 7 m.pa).deviceAnswer (hubFor m) m 0 true
    else
      (d.report s { src, cls := 5, sub := 0xFF, master := m.master.toNat, berth := m.berth.toNat, access := 8, addr := m.pa }).deviceAnswer
        (hubFor m) m 0 false
  | _ => d.deviceAnswer (hubFor m) m 0 true

/-- A request to memory of a socket that is not present ends at once: a read in poisoned data, a write dropped; each is
reported as Fatal-berth of the requesting berth. -/
def Dev.absentHome (d : Dev) (m : Msg) : Dev :=
  let s := m.src.sock
  let report := fun (d : Dev) =>
    d.report s { src := 0x200 + homeHub m.pa % 2, cls := 7, sub := 0xFF, master := m.master.toNat, berth := m.berth.toNat,
                 access := accessOf m.ty, addr := m.pa }
  match m.ty with
  | .hrds => (report d).homeData (hubFor m) m .dats .lost
  | .hrdm | .hupg => (report d).homeData (hubFor m) m .datm .lost
  | .nwr | .pwr | .wbm => (report d).send (m.reply .wback (hubFor m) m.src)
  | .atm => (report d).sendAtr m (hubFor m) 0 true false
  | .drd | .dwr => if (regionOf m.pa).deviceOnly then d.absentTarget m else (report d).deviceAnswer (hubFor m) m 0 true
  | _ => d

/-! ### Delivery -/

/-- The answers to a requester, which R299 also gives for a home that is not present. -/
def isAnswer (ty : MsgType) : Bool :=
  ty = .dats || ty = .datm || ty = .wback || ty = .atr || ty = .drsp

/-- A message to a pod that is fenced or out of service is consumed by its router and logged with a Note (R223). -/
def Dev.discard (d : Dev) (m : Msg) : Dev :=
  let pod := match m.dst with
    | .core _ c => c.val / 2
    | .slice _ p => p.val
    | _ => 0
  d.report m.dst.sock { src := 0x180 + landingOf pod, cls := 5, sub := 0xFF, master := m.master.toNat, berth := m.berth.toNat
                        access := accessOf m.ty, addr := m.pa }

/-- Deliver one message to its destination. A request for a slice whose map entry is held waits in a hub queue (R247); a
fill that arrives over a crossing for no pending request is discarded with a Note (R299). -/
def Dev.deliver (a : Tables) (d : Dev) (m : Msg) (again : Bool) : Dev :=
  let away := m.dst.sock ≠ m.src.sock && !isAnswer m.ty && !d.present m.src.sock m.dst.sock
  if away && !again then d.absentHome m
  else if !again && d.discards m.dst then d.discard m
  else
    match m.dst with
    | .core s c => d.atCore a { sock := s, core := c } m
    | .slice s p =>
      let waits := m.ty = .nrd || m.ty = .nwr || m.ty = .pwr || m.ty = .atm || isProbe m
      if waits && !again && (d.homePod s m.pa).2 then
        d.onHub s (homeHub m.pa % 2) fun h => { h with queued := h.queued ++ [m] }
      else
        let late := m.src.sock ≠ s && (m.ty = .dats || m.ty = .datm || m.ty = .grant) &&
          !((d.slice s p).txns.any fun t => t.la = lineOf m.pa && t.home)
        if late then d.notice s (0x100 + p.val) else d.atSlice a s p m again
    | .home s u => d.atHome a s u m again
    | _ => d.atOther m

/-- Process the requests whose line has stopped being busy. -/
def Dev.drain (a : Tables) (fuel : Nat) (d : Dev) : Dev :=
  match fuel with
  | 0 => d
  | n + 1 =>
    match d.again with
    | [] => d
    | m :: r => Dev.drain a n (({ d with again := r } : Dev).deliver a m true)

/-- Deliver messages, oldest first, until none in flight moves. -/
def Dev.settle (a : Tables) (fuel : Nat) (d : Dev) : Dev :=
  match fuel with
  | 0 => d
  | n + 1 =>
    match d.again with
    | m :: r => Dev.settle a n (({ d with again := r } : Dev).deliver a m true)
    | [] =>
      match d.pickNet [] d.net with
      | some (some m, d) => Dev.settle a n (d.deliver a m false)
      | some (none, d) => Dev.settle a n d
      | none => d

/-- The cores that hold back forwards (R260). -/
def Dev.delaying (d : Dev) : List Hart := d.coresWith fun c => !c.delayed.isEmpty

/-- Messages delivered for one access at most. -/
def settleFuel : Nat := 4096

/-- Run the traffic of an access to its end: while messages, refused requests of slices, or forwards that other cores hold
back are left, time passes and they go on. `self` keeps its own forwards until its access is done. -/
def Dev.runNet (a : Tables) (fuel : Nat) (self : Option Hart) (d : Dev) : Dev :=
  let d := d.settle a settleFuel
  match fuel with
  | 0 => d
  | n + 1 =>
    let hs := d.delaying.filter fun h => self ≠ some h
    let d' := ((d.each hs fun d h => d.answerDelayed h).replaySlices none)
    let d' := d'.each d'.offering fun d h => d.missesGo a h
    if (d'.pickNet [] d'.net).isNone then d' else Dev.runNet a n self d'

/-- Run all traffic to its end. -/
def Dev.quiesce (a : Tables) (d : Dev) : Dev := d.runNet a 64 none

/-- The messages in flight that were sent before one and must arrive before it (R214). -/
def Dev.aheadOf (d : Dev) (m : Msg) : List Msg := (d.net.takeWhile fun x => x ≠ m).filter fun x => samePath x m

/-- A message command: that message is delivered (a sending of it that is in flight is the one delivered), after those of its path
that were sent before it (R214), and what its line's release starts is started. -/
def Dev.message (a : Tables) (d : Dev) (m : Msg) : Dev :=
  let ms := d.aheadOf m ++ [m]
  let d := ms.foldl (fun (d : Dev) x => { d with net := d.net.erase x }) d
  ms.foldl (fun (d : Dev) x => (d.deliver a x false).drain a 64) d

/-- After a write of LD_MESH_CTL: the router's stopped links whose LINK_DOWN bits are clear run again, what waited in the routers goes
on, and traffic runs to its end (R222, R224). -/
def Dev.meshGo (a : Tables) (d : Dev) (s l : Nat) : Dev :=
  if (d.sock s).meshDown.isEmpty && (d.sock s).meshQ.isEmpty && d.net.isEmpty then d
  else
    let down := d.fld s .ldMeshCtl l 0 3 0
    let d := d.onSock s fun k => { k with meshDown := k.meshDown.filter fun x => x.1 ≠ l || down.testBit x.2.1 }
    let (ms, d) := d.meshResume settleFuel s 0 [] 0 []
    (ms.foldl (fun (d : Dev) m => d.deliver a m false) d).quiesce a

end Sys2Proof.Machine
end

