-- ==== Sys2Proof/Machine/Lines.lean ====
section
/-! DEFINITION. A core's cacheable accesses by physical address: lookup, miss registers, prefetch, fills, and the path of a
core without L2 (R170 to R189, R250). -/

namespace Sys2Proof.Machine

/-- Whether a core's access bypasses its private caches: L2 is disabled (R187, R250), or its berth has no candidate way in
the home slice, so that no slice could record the copy (R232; assumption log 17). -/
def Dev.uncached (a : Tables) (d : Dev) (h : Hart) (pa : Nat) : Bool :=
  !l2On h (d.core h) || (d.candWays a h.sock ⟨(d.homePod h.sock pa).1 % 104, Nat.mod_lt _ (by decide)⟩ (a.berthOf h)).isEmpty

/-- A message of `inbox` for an agent about a line, of a kind. -/
def Dev.take (d : Dev) (who : Node) (la : Nat) (p : MsgType → Bool) : Option Msg × Dev :=
  match d.inbox.find? fun m => m.dst.master = who.master && lineOf m.pa = la && p m.ty with
  | some m => (some m, { d with inbox := d.inbox.erase m })
  | none => (none, d)

/-- Data or refusal of a non-allocating read. -/
def isData (ty : MsgType) : Bool := ty = .dats || ty = .date || ty = .datm

/-! ### Requests without a miss register (R237, R250, R410, R411) -/

/-- Whether two messages are one request of an agent: the same access with the same data. -/
def sameAsk (x m : Msg) : Bool := x.src = m.src && x.ty = m.ty && x.addr = m.addr && x.aux = m.aux && x.data = m.data

/-- Run a request of an agent that has no miss register to its end: sent once, and, refused, again with its first TXN and AGE (R236,
R237). Answers whether its answer has come; while it has not, `asked` keeps it. -/
def Dev.ask (a : Tables) (fuel : Nat) (self : Option Hart) (d : Dev) (m : Msg) : Bool × Dev :=
  if (d.homePod m.src.sock m.pa).2 then (false, d)
  else
    match fuel with
    | 0 => (false, d)
    | n + 1 =>
      let mine := fun (x : Msg × Bool) => sameAsk x.1 m
      let d := if d.asked.any mine then d.replayAsked fun x => sameAsk x m
        else ({ d with asked := d.asked ++ [(m, false)] } : Dev).send m
      let d := d.runNet a 64 self
      match d.asked.find? mine with
      | none => (true, d)
      | some x => if x.2 then Dev.ask a n self d m else (false, d)

/-- A non-allocating read (NRD) by an agent, run to its end; none while the page is blocked or the map entry held. Data of an earlier
read that nobody took is dropped. The data of an ordered writer's read is used once its earlier writes have WBACK (R411). -/
def Dev.nrdLine (a : Tables) (fuel : Nat) (d : Dev) (m : Msg) : Option PLine × Dev :=
  let old := fun (x : Msg) => x.dst.master = m.src.master && lineOf x.pa = lineOf m.pa && isData x.ty
  let d := if d.asked.any fun x => sameAsk x.1 m then d else { d with inbox := d.inbox.filter fun x => !old x }
  match d.ask a fuel none m with
  | (false, d) => (none, d)
  | (true, d) =>
    match d.take m.src (lineOf m.pa) isData with
    | (some x, d) => (if (d.writerList m.src).any fun w => !w.2 then none else some x.line, d)
    | (none, d) => (none, d)

/-- A transaction ID that no write of a list uses. -/
def freeTxn (l : List (Msg × Bool)) : BitVec 12 :=
  BitVec.ofNat 12 (((List.range 256).find? fun t => !(l.any fun w => w.1.txn.toNat = t)).getD 0)

/-- Send a write of an ordered writer (R410), in its list unless it is relaxed; a refused one that the writer repeats is sent again.
False while it is not taken: 256 writes have no CMPACK, or it is refused still, or its check of R30 failed. -/
def Dev.orderedWrite (a : Tables) (fuel : Nat) (relaxed : Bool) (d : Dev) (m : Msg) : Bool × Dev :=
  match fuel with
  | 0 => (false, d)
  | n + 1 =>
    let mine := fun (x : Msg × Bool) => x.2 && sameAsk x.1 m
    let l := d.writerList m.src
    if !d.asked.any mine && 256 ≤ l.length then (false, d)
    else
      let d := if d.asked.any mine then d.replayAsked fun x => sameAsk x m
        else
          let m := { m with txn := freeTxn (l ++ d.asked.filter fun x => x.1.src = m.src) }
          (({ d with asked := d.asked ++ [(m, false)] } : Dev).setWriter m.src (if relaxed then l else l ++ [(m, false)])).send m
      let d := d.runNet a 64 none
      match d.take m.src (lineOf m.pa) (· = .wback) with
      | (some _, d) => (false, d)
      | (none, d) => if d.asked.any mine then Dev.orderedWrite a n relaxed d m else (true, d)

/-- A write of a core without L2 (R250): one at a time, done when its CMPACK has gone out. -/
def Dev.coreWrite (a : Tables) (fuel : Nat) (d : Dev) (m : Msg) : Bool × Dev :=
  match d.asked.find? fun x => x.1.src = m.src && isWrite x.1 && !sameAsk x.1 m with
  | some x =>
    match d.ask a fuel none x.1 with
    | (true, d) => d.ask a fuel none m
    | (false, d) => (false, d)
  | none => d.ask a fuel none m

/-- A write message (NWR or PWR) of an agent without caches; false while it is not done, or, for an ordered writer, not taken. -/
def Dev.writeLineMsg (a : Tables) (fuel : Nat) (relaxed : Bool) (d : Dev) (m : Msg) : Bool × Dev :=
  if (d.homePod m.src.sock m.pa).2 then (false, d)
  else
    match m.src with
    | .core .. => d.coreWrite a fuel m
    | _ => d.orderedWrite a fuel relaxed m

/-- A miss register. -/
def missOf (la : Nat) (own fetch prefetch : Bool) (txn va slot : Nat) : Miss :=
  { la, own, upg := false, fetch, prefetch, retry := false, killed := false, sent := false, txn, age := 0, va, slot }

/-- The L1D miss register that an access may take (R177): one of 30, or, for the oldest load or atomic (`who` 1) or the oldest
store-buffer entry (`who` 2), the one kept for it. -/
def Core.slotD (c : Core) (who : Nat) : Option Nat :=
  if (c.missD.filter fun r => r.slot = 0).length < 30 then some 0
  else if who ≠ 0 && !(c.missD.any fun r => r.slot = who) then some who
  else none

/-- Take an L1 miss register for a line, or merge with the one that has it (R175 to R178); answers whether it has one. -/
def Dev.takeMiss (d : Dev) (h : Hart) (la : Nat) (own fetch : Bool) (who va : Nat) : Bool × Dev :=
  let c := d.core h
  if fetch then
    if c.missI.any fun r => r.la = la then (true, d)
    else if 16 ≤ c.missI.length then (false, d.onCore h fun c => c.event 0x20 1 c.pc)
    else (true, d.onCore h fun c => ({ c with missI := c.missI ++ [missOf la false true false 0 va 0] } : Core).event 0x0B 1 c.pc)
  else if c.missD.any fun r => r.la = la then
    (true, d.onCore h fun c => { c with missD := c.missD.map fun r => if r.la = la then { r with own := r.own || own } else r })
  else
    match c.slotD who with
    | none => (false, d.onCore h fun c => c.event 0x20 1 c.pc)
    | some slot =>
      (true, d.onCore h fun c => ({ c with missD := c.missD ++ [missOf la own false false 0 0 slot] } : Core).event 0x09 1 c.pc)

/-- Obtain a line in L2, owned if wanted: a request and its traffic, replays of refused requests, and an upgrade once a
read's fill is installed (R176). Without effect where no register is free, L2 cannot accept the miss (R179), the map entry is
held, or the page is blocked. A line whose eviction has sent no notice returns from the victim buffer (R266). -/
def Dev.getLine (a : Tables) (fuel : Nat) (d : Dev) (h : Hart) (la : Nat) (own fetch : Bool) (who va : Nat) : Dev :=
  match fuel with
  | 0 => d
  | n + 1 =>
    let c := d.core h
    if c.has la own || d.inbox.any (fun m => m.dst = .core h.sock h.core && lineOf m.pa = la && isData m.ty) then d
    else
      match c.vic.find? fun v => v.la = la && v.holds && !v.sent with
      | some v =>
        (d.onCore h fun c => { c with vic := c.vic.filter fun x => x.la ≠ la }).put2 a h
          { la, own := true, dirty := v.dirty, rrpv := 2, line := v.line }
      | none =>
        match d.takeMiss h la own fetch who va with
        | (false, d) => d
        | (true, d) =>
          let d := d.offerL2 h
          if (d.core h).missL2.any fun r => r.la = la then
            Dev.getLine a n ((d.replayCore a h (some la)).runNet a 64 (some h)) h la own fetch who va
          else d

/-- Prefetch a line into L2 (R181): prefetches hold at most 48 of its 64 registers (R179). -/
def Dev.prefetch (a : Tables) (d : Dev) (h : Hart) (la : Nat) : Dev :=
  let c := d.core h
  if c.has la false || c.missL2.any (fun r => r.la = la) || 64 ≤ c.missL2.length ||
      48 ≤ (c.missL2.filter fun r => r.prefetch).length then d
  else
    let (t, d) := d.nextTxn h
    let d := d.onCore h fun c => { c with missL2 := c.missL2 ++ [missOf la false false true t 0 0] }
    (d.replayCore a h (some la)).runNet a 64 (some h)

/-- Prefetch the next line into L1I (R181): it takes an L1I miss register. -/
def Dev.prefetchI (a : Tables) (d : Dev) (h : Hart) (va la : Nat) : Dev :=
  let c := d.core h
  if c.has la false then d.onCore h fun c => c.fillI va la
  else if c.missI.any (fun r => r.la = la) || 16 ≤ c.missI.length then d
  else
    let d := d.onCore h fun c => { c with missI := c.missI ++ [missOf la false true false 0 va 0] }
    ((d.offerL2 h).replayCore a h (some la)).runNet a 64 (some h)

/-- The L2 stream prefetcher sees an L1D miss (R181): two misses to adjacent lines of a page make a stream; each further
miss in it asks for up to four lines ahead in the page. Streams are (page, last line, upward, found), 16 at most. That a page has
one stream, that the oldest-made of 16 is replaced, and that a further miss is one to the very next line, the spec does not say:
DESIGN CHOICE (assumption log 30). -/
def Dev.stream (a : Tables) (d : Dev) (h : Hart) (la : Nat) : Dev :=
  let c := d.core h
  if bit (c.sysGet 0x20D) 5 then d
  else
    let page := la / 64
    match c.streams.find? fun s => s.1 = page with
    | none => d.onCore h fun c => { c with streams := (c.streams ++ [(page, la, true, false)]).drop (c.streams.length - 15) }
    | some (p, last, up, found) =>
      let adj := la = last + 1 || la + 1 = last
      let inDir := if up then la = last + 1 else la + 1 = last
      let up' := if adj then la = last + 1 else up
      let d := d.onCore h fun c =>
        { c with streams := c.streams.map fun s => if s.1 = page then (p, la, up', found || adj) else s }
      if found && inDir then
        let ahead := (List.range 4).filterMap fun i =>
          let x := if up then la + (i + 1) else la - (i + 1)
          if (if up then x / 64 = page else i + 1 ≤ la && x / 64 = page) then some x else none
        d.each ahead fun d x => d.prefetch a h x
      else d

/-- Read a line for a load part or a table walk: the line and where it came from (0 L1D, 1 L2, 2 beyond); none while it
cannot be had. `old` is whether the access is the oldest instruction's, for R177. -/
def Dev.readLine (a : Tables) (d : Dev) (h : Hart) (pa : Nat) (old : Bool := true) : Option (PLine × Nat) × Dev :=
  let la := lineOf pa
  let c := d.core h
  if d.uncached a h pa then
    let (t, d) := d.nextTxn h
    let m := coreMsg a d h .nrd (d.homeSlice h.sock pa) t (lineBase pa)
    let (r, d) := d.nrdLine a 8 m
    (r.map fun l => (l, 2), d)
  else
    let l1 := l1dOn h c
    let fill := fun (d : Dev) (lvl : Nat) =>
      match (d.core h).copyOf la with
      | some l => (some (l, lvl), if l1 then d.onCore h fun c => c.fillD la else d)
      | none => (none, d)
    match (if l1 then c.findD la else none) with
    | some k =>
      match Tbl.find c.l1d k with
      | some e => (some (e.line, 0), d.onCore h fun c => c.touchD k)
      | none => (none, d)
    | none =>
      let d := d.stream a h la
      if (d.core h).has la false then
        let r := match (d.core h).line2 la with
          | some e => some (e.line, 1)
          | none => none
        (r, if l1 then d.onCore h fun c => c.fillD la else d)
      else
        let d := d.getLine a 8 h la false false old.toNat 0
        match d.take (.core h.sock h.core) la isData with
        | (some m, d) => (some (m.line, 2), d)
        | (none, d) => fill d 2

/-- Read a line for a fetch (R120, R181): L1I, else L2, else the home slice. -/
def Dev.fetchLine (a : Tables) (d : Dev) (h : Hart) (va pa : Nat) : Option PLine × Dev :=
  let la := lineOf pa
  let c := d.core h
  if d.uncached a h pa then
    let (t, d) := d.nextTxn h
    d.nrdLine a 8 (coreMsg a d h .nrd (d.homeSlice h.sock pa) t (lineBase pa))
  else
    match (if l1iOn h c then c.findI va la else none) with
    | some k =>
      match Tbl.find c.l1i k with
      | some e => (some e.line, d.onCore h fun c => c.touchI k)
      | none => (none, d)
    | none =>
      let d := if c.has la false then d else d.getLine a 8 h la false true 0 va
      match d.take (.core h.sock h.core) la isData with
      | (some m, d) => (some m.line, d)
      | (none, d) =>
        match (d.core h).copyOf la with
        | none => (none, d)
        | some l =>
          if l1iOn h c then
            let d := d.onCore h fun c => c.fillI va la
            let nl := la + 1
            (some l, if bit (c.sysGet 0x20D) 4 || nl / 64 ≠ la / 64 || ((d.core h).findI (va + 64) nl).isSome then d
              else d.prefetchI a h (va + 64) nl)
          else (some l, d)

/-- Own a line, in L1D where that is enabled (R132, R133): answers whether the core owns it. `who` is as in R177: 0 an early
ownership request, 1 an atomic, 2 the oldest store-buffer entry. -/
def Dev.ownLine (a : Tables) (d : Dev) (h : Hart) (pa : Nat) (who : Nat := 2) : Bool × Dev :=
  let la := lineOf pa
  let d := if l1dOn h (d.core h) && ((d.core h).lineD la).isNone then d.stream a h la else d
  let d := if (d.core h).has la true then d else d.getLine a 8 h la true false who 0
  let ok := (d.core h).has la true
  (ok, if ok && l1dOn h (d.core h) && ((d.core h).lineD la).isNone then d.onCore h fun c => c.fillD la else d)

/-! ### The store buffer (R133) -/

/-- The node a device access goes to: the home agent for memory (R308), else the device target of the socket whose window
or register space it is; a hole is answered by the home agent's hub. -/
def deviceNode (s : Sock) (pa : Nat) : Node :=
  match regionOf pa with
  | .far .. | .near .. | .cxl .. => homeNode pa
  | .mmio t _ | .intWin t _ | .regs t _ => .target ⟨t % 16, Nat.mod_lt _ (by decide)⟩
  | .hole => if pa < 0x000E000000000000 then homeNode pa else .target s

/-- Write the bytes of a mask into a line as an agent without caches (R250): NWR for a whole line, else PWR per half line, one half
after the other: with the second under way the first is done. -/
def Dev.uncachedMask (a : Tables) (d : Dev) (who : Node) (berth master txn : Nat) (la : Nat) (mask : BitVec 64) (v : Line)
    (poison : Bool := false) (relaxed : Bool := false) : Bool × Dev :=
  let base : Msg :=
    { ty := .nwr, src := who, dst := d.homeSlice who.sock (la * 64), berth := BitVec.ofNat 6 berth,
      master := BitVec.ofNat 16 master, txn := BitVec.ofNat 12 txn, age := BitVec.ofNat 20 d.now.toNat, aux := false,
      addr := BitVec.ofNat 52 (la * 64), len := 64, data := v, poison }
  let core := match who with
    | .core .. => true
    | _ => false
  let second := d.asked.any fun x => x.1.src = who && x.1.ty = .pwr && x.1.aux && lineOf x.1.pa = la && (x.2 || core)
  if mask = BitVec.allOnes 64 then d.writeLineMsg a 8 relaxed base
  else
    (if second then [true] else [false, true]).foldl (fun (acc : Bool × Dev) hi =>
      let lo := if hi then 32 else 0
      let m := nbits mask.toNat (lo + 31) lo
      if m ≠ 0 && acc.1 then
        let data := lineSlice (v &&& byteMask mask) lo 32 ||| BitVec.ofNat 512 (m * 2 ^ 256)
        acc.2.writeLineMsg a 8 relaxed { base with ty := .pwr, aux := hi, data, txn := base.txn + (if hi then 1 else 0) }
      else acc) (true, d)

/-- Write `n` bytes within a line as an ordered writer without caches. -/
def Dev.uncachedWrite (a : Tables) (d : Dev) (who : Node) (berth master txn : Nat) (pa n : Nat) (v : Line)
    (poison : Bool := false) (relaxed : Bool := false) : Bool × Dev :=
  d.uncachedMask a who berth master txn (lineOf pa) (maskOf (pa % 64) n) (v <<< (8 * (pa % 64))) poison relaxed

/-- Write the oldest store-buffer entry (R133, R134, R145, R250): to the owned line, over the mesh without L2, after which it takes no
more stores, or as a device store, which leaves it at once. Answers whether it has gone. -/
def Dev.drainOne (a : Tables) (d : Dev) (h : Hart) : Bool × Dev :=
  match (d.core h).sb with
  | [] => (false, d)
  | e :: _ =>
    let gone := fun (d : Dev) => d.onCore h fun c => { c with sb := c.sb.drop 1 }
    if e.dev then
      let (t, d) := d.nextTxn h
      let m := { coreMsg a d h .dwr (deviceNode h.sock e.pa) t e.pa with len := BitVec.ofNat 7 e.len, data := e.data }
      (true, (gone ((d.send m).onCore h fun c => { c with devOut := c.devOut ++ [(t, e.va)] })).runNet a 64 (some h))
    else if d.uncached a h e.pa then
      let (t, d) := d.nextTxn h
      let (_, d) := d.nextTxn h
      let d := d.onCore h fun c => { c with sb := { e with first := true } :: c.sb.drop 1 }
      let (ok, d) := d.uncachedMask a (.core h.sock h.core) (a.berthOf h) (masterOf h).toNat t (lineOf e.pa) e.mask e.data
      let there := (d.core h).sb.head? = some { e with first := true }
      (ok || !there, if ok && there then gone d else d)
    else
      let (ok, d) := d.ownLine a h e.pa
      if ok then
        (true, gone (d.onCore h fun c => c.writeLine h (lineOf e.pa) e.mask e.data))
      else (false, d)

/-- Write store-buffer entries, oldest first, until the buffer is empty or one waits. -/
def Dev.drainSb (a : Tables) (fuel : Nat) (d : Dev) (h : Hart) : Dev :=
  match fuel with
  | 0 => d
  | n + 1 =>
    match d.drainOne a h with
    | (true, d) => Dev.drainSb a n d h
    | (false, d) => d

/-- Drain the whole store buffer of 64 entries and their split parts. -/
def Dev.drainAll (a : Tables) (d : Dev) (h : Hart) : Dev := d.drainSb a 80 h

/-- The end of a core's access: forwards it held back are answered (R260) and their traffic ends. -/
def Dev.accessDone (a : Tables) (d : Dev) (h : Hart) : Dev :=
  if (d.core h).delayed.isEmpty then d.onCore h fun c => { c with recent := [], newD := [] }
  else (d.answerDelayed h).runNet a 64 none

/-! ### Invalidate all (R184 to R187) -/

/-- Write back and drop every line of L2, with L1I and L1D (R184). A disabled L2 holds no dirty line and no slice records its
lines (R187), so they are only dropped. -/
def Dev.flushL2 (a : Tables) (d : Dev) (h : Hart) : Dev :=
  let d := if l2On h (d.core h) then
      d.each ((d.core h).l2.map fun e => e.2.la) fun d la => (d.evict2 a h la).runNet a 64 none
    else d
  d.onCore h fun c => { c with l1i := [], l1d := [], l2 := [] }

/-- Write every dirty line of L2 back, as evictions that release their records, its lines staying in the array
(R187). -/
def Dev.disableL2 (a : Tables) (d : Dev) (h : Hart) : Dev :=
  let d := d.each ((d.core h).l1d.map fun e => e.2.la) fun d la => d.onCore h fun c => c.syncD la
  let c := d.core h
  let d := d.flushL2 a h
  d.onCore h fun x => { x with
    l1i := c.l1i
    l1d := c.l1d
    l2 := c.l2.map fun e => (e.1, { e.2 with dirty := false }) }

/-- Write dirty L1D lines into L2 and drop every line of L1D. -/
def Core.flushL1D (c : Core) : Core :=
  let c := (c.l1d.map fun e => e.2.la).foldl (fun c la => c.syncD la) c
  { c with l1d := [] }

end Sys2Proof.Machine
end

