-- ==== Sys2Proof/Machine/Slips.lean ====
section
/-! DEFINITION. Slips, doorbells and bollards (R430 to R444). -/

namespace Sys2Proof.Machine

/-! ### Modes and requesters -/

/-- The operating modes of R471 by code. -/
def modeRun : Nat := 3
/-- DEGRADED RUN. -/
def modeDegraded : Nat := 4
/-- MAINTAIN. -/
def modeMaintain : Nat := 5
/-- HOLD. -/
def modeHold : Nat := 6

/-- PW_MODE.MODE of a socket. -/
def Dev.mode (d : Dev) (s : Nat) : Nat := d.fld s .pwMode 0 0 2 0

/-- Whether berths run on a socket: RUN or DEGRADED RUN. -/
def Dev.runs (d : Dev) (s : Nat) : Bool := d.mode s = modeRun || d.mode s = modeDegraded

/-- A write dropped and logged with Note severity in class ACCESS by the slips, doorbells and bollards. -/
def Dev.slipNote (d : Dev) (s : Nat) (q : Requester) (off : Nat) : Dev :=
  d.noteAccess s 0xF13 q.master.toNat q.berth.toNat 8 (0x000FF00000000000 + s * 0x100000000 + off)

/-- A Wheelhouse management core of a socket, which acts as agent 0xF00 (R430). -/
def isHepin (s : Nat) (master : Nat) : Bool := s * 4096 + 0xF00 ≤ master && master < s * 4096 + 0xF04

/-- Ring a doorbell bit (R436). -/
def Dev.ring (d : Dev) (s r b : Nat) : Dev := d.setReg s .dbPend r 0 (putBit (d.reg s .dbPend r 0) b true)

/-! ### Slips -/

/-- GO of a slip. -/
def Dev.slipFull (d : Dev) (s n : Nat) : Bool := d.fld s .mbCtl n 0 63 63 = 1

/-- RECEIVER of a slip. -/
def Dev.slipReceiver (d : Dev) (s n : Nat) : Nat := d.fld s .mbCfg n 0 7 0

/-- Whether a master is the slip's sender (R430). -/
def Dev.isSender (d : Dev) (s n master : Nat) : Bool :=
  let w := d.fld s .mbCfg n 0 31 16
  w = master || (w = s * 4096 + 0xF00 && isHepin s master)

/-- Whether a master is the slip's receiver. -/
def Dev.isReceiver (d : Dev) (s n master : Nat) : Bool :=
  let r := d.slipReceiver s n
  (r < 208 && master = s * 4096 + r) || (r = 255 && isHepin s master)

/-- The GO write: the unused doublewords become zero, the doorbell rings, SRST clears (R433). -/
def Dev.postSlip (d : Dev) (s n len : Nat) : Dev :=
  let d := d.setFld s .mbCtl n 0 4 0 len
  if len < 8 || 16 < len then d.setFld s .mbStat n 0 0 0 1
  else
    let d := ((List.range 16).filter (len ≤ ·)).foldl (fun d i => d.setReg s .mbData n i 0) d
    let d := (d.setFld s .mbCtl n 0 63 63 1).setFld s .mbStat n 0 1 1 0
    d.ring s (d.slipReceiver s n) (d.fld s .mbCfg n 0 44 40)

/-- Whether a write to MB_DATA or MB_CTL is admitted (R434, R435): it is, or it is dropped (with its record), or it is
rejected with a bus error. -/
inductive Admit where
  | yes
  | dropped
  | busError
  deriving DecidableEq, Repr

/-- Admission of a slip write with its effects on the counts and the log. -/
def Dev.slipEntry (d : Dev) (s n : Nat) (q : Requester) (off : Nat) : Admit × Dev :=
  if d.runs s then
    if !d.isSender s n q.master.toNat then (.dropped, d.slipNote s q off)
    else if d.slipFull s n then
      (.dropped, (d.bump s .mbDrop n 0 31 0 1).setFld s .mbStat n 0 3 3 1)
    else (.yes, d)
  else if d.slipFull s n then (.busError, d.slipNote s q off)
  else (.yes, d)

/-- Write words into a slip from the Wheelhouse and post it. -/
def Dev.wheelPut (d : Dev) (s n : Nat) (ws : List Word) : Dev :=
  let len := Nat.max 8 ws.length
  let d := (List.range 16).foldl (fun d i => d.setReg s .mbData n i (ws.getD i 0)) d
  d.postSlip s n len

/-- The messages waiting behind a KIND 0 slip, each with whether it is a fault notice (R440). -/
def Dev.slipQueue (d : Dev) (s n : Nat) : List (Bool × List Word) := Tbl.get [] (d.wheel s).slipWait n

/-- Put the queue behind a slip. -/
def Dev.setSlipQueue (d : Dev) (s n : Nat) (l : List (Bool × List Word)) : Dev :=
  d.onWheel s fun w => { w with slipWait := Tbl.set [] w.slipWait n l }

/-- Post the oldest waiting message when the slip is free. -/
def Dev.slipNext (d : Dev) (s n : Nat) : Dev :=
  match d.slipQueue s n with
  | [] => d
  | m :: r => if d.slipFull s n then d else (d.setSlipQueue s n r).wheelPut s n m.2

/-- The Wheelhouse sends a message on a KIND 0 slip: posted, or queued behind it; with 64 waiting, the oldest fault notice
that is not the newest is discarded and counted in MB_DROP (R440). -/
def Dev.wheelSend (d : Dev) (s n : Nat) (fault : Bool) (ws : List Word) : Dev :=
  if !d.slipFull s n && (d.slipQueue s n).isEmpty then d.wheelPut s n ws
  else
    let q := d.slipQueue s n
    let all := q ++ [(fault, ws)]
    if q.length < 64 then d.setSlipQueue s n all
    else
      let notices := (List.range all.length).filter fun i => (all.getD i (false, [])).1
      match notices with
      | i :: _ :: _ => (d.setSlipQueue s n (all.eraseIdx i)).bump s .mbDrop n 0 31 0 1
      | _ => d.setSlipQueue s n all

/-- The slip of a KIND that a berth holds on a socket. -/
def Dev.slipOf (d : Dev) (s b kind : Nat) : Option Nat :=
  (List.range 256).find? fun n => d.fld s .mbCfg n 0 63 62 = kind && d.fld s .mbCfg n 0 53 48 = b && kind ≠ 3

/-- Send a message of the Wheelhouse to a berth on its KIND 0 slip of a socket. -/
def Dev.tellBerth (d : Dev) (s b : Nat) (fault : Bool) (ws : List Word) : Dev :=
  match d.slipOf s b 0 with
  | some n => d.wheelSend s n fault ws
  | none => d

/-- MB_DONE by the receiver (R434, R438): GO and SRST clear, and the next waiting message is posted. -/
def Dev.slipDone (d : Dev) (s n : Nat) : Dev :=
  ((d.setFld s .mbCtl n 0 63 63 0).setFld s .mbStat n 0 1 1 0).slipNext s n

/-- A reset of a slip's receiver (R438, R440): GO, LEN and the data return to their reset values and RRST is set; a
Wheelhouse message in it is counted in MB_DROP. -/
def Dev.receiverReset (d : Dev) (s n : Nat) : Dev :=
  let lost := d.slipFull s n && d.fld s .mbCfg n 0 63 62 = 0
  let d := (List.range 16).foldl (fun d i => d.setReg s .mbData n i 0) d
  let d := (d.setReg s .mbCtl n 0 Reg.mbCtl.resetWord).setFld s .mbStat n 0 2 2 1
  if lost then d.bump s .mbDrop n 0 31 0 1 else d

/-- What the reset of cores does to slips and doorbells (R437, R438): their doorbells reset, slips that they receive
clear, and full slips that they send show SRST; the Wheelhouse then posts what waits. -/
def Dev.slipsOfReset (d : Dev) (s : Nat) (cores : List Nat) : Dev :=
  let d := cores.foldl (fun d r =>
    if r < 208 then (d.setReg s .dbPend r 0 Reg.dbPend.resetWord).setReg s .dbMask r 0 Reg.dbMask.resetWord else d) d
  let d := (List.range 256).foldl (fun d n =>
    let cfg := d.reg s .mbCfg n 0
    if bits cfg 63 62 ≠ 3 && cores.contains (bits cfg 7 0) then d.receiverReset s n
    else if bits cfg 63 62 ≠ 3 && bits cfg 31 28 = s && cores.contains (bits cfg 27 16) && d.slipFull s n then
      d.setFld s .mbStat n 0 1 1 1
    else d) d
  (List.range 256).foldl (fun d n => d.slipNext s n) d

/-- A slip's configuration word. -/
def slipCfg (kind b bit_ sender receiver : Nat) : Word :=
  word (kind * 2 ^ 62 + b * 2 ^ 48 + bit_ * 2 ^ 40 + sender * 2 ^ 16 + receiver)

/-- The configuration of a slip in the pool: KIND 3, both ends the Wheelhouse (R430). -/
def poolCfg (s : Nat) : Word := slipCfg 3 0 0 (s * 4096 + 0xF00) 255

/-- A slip returns to the pool (R439). -/
def Dev.slipToPool (d : Dev) (s n : Nat) : Dev :=
  let d := ((d.receiverReset s n).setReg s .mbStat n 0 0).setReg s .mbDrop n 0 0
  (d.setSlipQueue s n []).setReg s .mbCfg n 0 (poolCfg s)

/-- A free slip of the pool. -/
def Dev.freeSlip (d : Dev) (s : Nat) : Option Nat :=
  (List.range 256).find? fun n => d.fld s .mbCfg n 0 63 62 = 3

/-- Draw a slip of a kind for a berth, its berth ends at core `c` (R431). -/
def Dev.drawSlip (d : Dev) (s b kind c : Nat) : Dev :=
  match d.freeSlip s with
  | none => d
  | some n =>
    let core := s * 4096 + c
    let hepin := s * 4096 + 0xF00
    d.setReg s .mbCfg n 0 (slipCfg kind b 0 (if kind = 0 then hepin else core) (if kind = 1 then 255 else c))

/-- The lowest core that a berth owns on a socket. -/
def Tables.lowCore (t : Tables) (s b : Nat) : Option Nat :=
  ((List.range 104).find? fun p => t.berthOfPod s p = b && b ≠ 0).map (· * 2)

/-- Keep a berth's slip ends on cores it owns (R431, R432): ends on departed cores move to its lowest core; without a
core on the socket its slips return to the pool. -/
def Dev.fixSlips (t : Tables) (d : Dev) (s b : Nat) : Dev :=
  (List.range 256).foldl (fun d n =>
    let cfg := d.reg s .mbCfg n 0
    if bits cfg 63 62 = 3 || bits cfg 53 48 ≠ b then d
    else
      match t.lowCore s b with
      | none => d.slipToPool s n
      | some c =>
        let owns := fun (x : Nat) => x < 208 && t.berthOfPod s (x / 2) = b
        let kind := bits cfg 63 62
        let cfg := if kind ≠ 0 && !owns (bits cfg 27 16) then putBits cfg 31 16 (s * 4096 + c) else cfg
        let cfg := if kind ≠ 1 && !owns (bits cfg 7 0) then putBits cfg 7 0 c else cfg
        d.setReg s .mbCfg n 0 cfg) d

/-- The slips a berth must have on a socket where it holds pods: one KIND 0 and one KIND 1 (R431). -/
def Dev.baseSlips (t : Tables) (d : Dev) (s b : Nat) : Dev :=
  match t.lowCore s b with
  | none => d
  | some c =>
    let d := if (d.slipOf s b 0).isSome then d else d.drawSlip s b 0 c
    if (d.slipOf s b 1).isSome then d else d.drawSlip s b 1 c

/-! ### Register writes of the block -/

/-- A write to MB_DATA i (R433 to R435). True means a bus error. -/
def Dev.writeMbData (d : Dev) (s n i : Nat) (q : Requester) (v : Word) : Bool × Dev :=
  match d.slipEntry s n q (Reg.mbData.at n i) with
  | (.yes, d) => (false, d.setReg s .mbData n i v)
  | (.dropped, d) => (false, d)
  | (.busError, d) => (true, d)

/-- A write to MB_CTL. -/
def Dev.writeMbCtl (d : Dev) (s n : Nat) (q : Requester) (v : Word) : Bool × Dev :=
  match d.slipEntry s n q (Reg.mbCtl.at n 0) with
  | (.yes, d) =>
    (false, if bit v 63 then d.postSlip s n (bits v 4 0) else d.setFld s .mbCtl n 0 4 0 (bits v 4 0))
  | (.dropped, d) => (false, d)
  | (.busError, d) => (true, d)

/-- A write to MB_DONE: the receiver's alone is accepted (R434). -/
def Dev.writeMbDone (d : Dev) (s n : Nat) (q : Requester) (v : Word) : Dev :=
  if !d.isReceiver s n q.master.toNat then d.slipNote s q (Reg.mbDone.at n 0)
  else if bit v 0 then d.slipDone s n
  else d

/-- A write to MB_CFG (R432). -/
def Dev.writeMbCfg (t : Tables) (d : Dev) (s n : Nat) (q : Requester) (v : Word) : Dev :=
  let old := d.reg s .mbCfg n 0
  let kind := bits old 63 62
  let sB := kind = 1 || kind = 2
  let rB := kind = 0 || kind = 2
  let snd := bits v 31 16
  let rcv := bits v 7 0
  let sOk := if q.berth ≠ 0 then
      snd = bits old 31 16 || (sB && snd / 4096 = s && snd % 4096 < 208 && t.berthOfPod s (snd % 4096 / 2) = q.berth.toNat)
    else if sB then snd / 4096 = s && snd % 4096 < 208 else snd = s * 4096 + 0xF00
  let rOk := if q.berth ≠ 0 then
      rcv = bits old 7 0 || (rB && rcv < 208 && t.berthOfPod s (rcv / 2) = q.berth.toNat)
    else if rB then rcv < 208 else rcv = 255
  if d.slipFull s n || !sOk || !rOk then d.slipNote s q (Reg.mbCfg.at n 0)
  else
    let w := putBits (putBits (putBits old 44 40 (bits v 44 40)) 31 16 snd) 7 0 rcv
    d.setReg s .mbCfg n 0 w

/-! ### Bollards (R441 to R443) -/

/-- A read of a bollard: the value before it, and acquisition when free. -/
def Dev.readBollard (d : Dev) (s b : Nat) (q : Requester) : Word × Dev :=
  let w := d.reg s .bl b 0
  if bit w 16 then (w, d) else (w, d.setReg s .bl b 0 (word (2 ^ 16 + q.master.toNat)))

/-- Make a bollard free. -/
def Dev.freeBollard (d : Dev) (s b : Nat) : Dev := d.setReg s .bl b 0 0

/-- A write to BL_REL: the holder's ID releases it, any other data is dropped and logged (R442). The ID is the field
[15:0]; that ones in the reserved bits above it are ignored under R3 and do not make the data differ is a DESIGN CHOICE
(assumption log 30). -/
def Dev.writeBlRel (d : Dev) (s b : Nat) (q : Requester) (v : Word) : Dev :=
  let w := d.reg s .bl b 0
  if bits v 15 0 = bits w 15 0 then d.freeBollard s b
  else d.report s { src := 0xF13, cls := 4, sub := 0xFF, master := q.master.toNat, berth := q.berth.toNat, access := 8,
                    addr := 0x000FF00000000000 + s * 0x100000000 + Reg.blRel.at b 0 }

/-- Release every bollard of a berth (BERTH reset, R442). -/
def Dev.freeBollards (d : Dev) (s b : Nat) : Dev :=
  (List.range 64).foldl (fun d i => if d.fld s .blCfg i 0 5 0 = b then d.freeBollard s i else d) d

end Sys2Proof.Machine
end

