-- ==== Sys2Proof/Machine/Walks.lean ====
section
/-! DEFINITION. What the Wheelhouse makes slices do: way locks and lock-fills (R239 to R242), range invalidations (R243 to
R246), the rehash of a replaced pod (R247, R248), and the fencing of a way (R249). -/

namespace Sys2Proof.Machine

/-- The requester of a register write by Hepin through the Wheelhouse view. -/
def hepinReq (s : Nat) : Requester := { master := BitVec.ofNat 16 (s * 4096 + 0xF00), berth := 0, high := true }

/-- The pods whose block a landing write reaches: the landing's own, or every enabled pod's for the broadcast block
(R252). -/
def Dev.podsOf (d : Dev) (s : Nat) (landing : Option Nat) : List (Fin 104) :=
  let ps := match landing with
    | some l => (podAt l).toList
    | none => d.enabledPods s
  ps.filterMap fun p => if h : p < 104 then some ⟨p, h⟩ else none

/-! ### Range invalidation (R243 to R246) -/

/-- A walk of a slice begins (R243): the entries that a predicate takes, lowest key first, join those still to be handled. -/
def Slice.startWalk (x : Slice) (want : Nat → SEntry → Bool) : Slice :=
  let es := x.ents.filter fun e => want e.1 e.2 && !(x.walk.any fun w => w.1 = e.1 && w.2.1 = e.2.la)
  { x with walk := x.walk ++ es.map fun e => (e.1, e.2.la, false) }

/-- Whether an entry of a walk can be handled now (R246): not while it is busy, nor while it needs an eviction buffer and none of
the 16 is free (R225). -/
def Slice.canHandle (x : Slice) (e : SEntry) : Bool :=
  !x.busyLine e.la && ((e.dstate = 0 && !e.d) || x.ev.length < 16)

/-- Handle one entry of a walk (R243): its copies go, it is written back, and it leaves; one that is busy waits. -/
def Dev.walkEntry (a : Tables) (d : Dev) (s : Sock) (p : Fin 104) (k la : Nat) : Dev :=
  let done := fun (d : Dev) => d.onSlice s p fun x =>
    { x with walk := x.walk.map fun w => if w.1 = k ∧ w.2.1 = la then (k, la, true) else w }
  let d := if (d.slice s p).busyLine la then d.quiesce a else d
  match Tbl.find (d.slice s p).ents k with
  | some e =>
    if e.la ≠ la then done d
    else if (d.slice s p).canHandle e then (done (d.evictEnt a s p k e)).quiesce a
    else d
  | none => done d

/-- A slice's walk goes on: what can be handled is, and an entry is through with when its eviction buffer is free. -/
def Dev.walkGo (a : Tables) (d : Dev) (s : Sock) (p : Fin 104) : Dev :=
  let d := d.each ((d.slice s p).walk.filter fun w => !w.2.2) fun d w => d.walkEntry a s p w.1 w.2.1
  d.onSlice s p fun x => { x with walk := x.walk.filter fun w => !(w.2.2 && !x.evicting w.2.1) }

/-- Walk the entries of a slice that a predicate takes. True when the slice has finished; what is left goes on when the block is
idle. -/
def Dev.walk (a : Tables) (d : Dev) (s : Sock) (p : Fin 104) (want : Nat → SEntry → Bool) : Bool × Dev :=
  let d := (d.onSlice s p fun x => x.startWalk want).walkGo a s p
  ((d.slice s p).walk.isEmpty, d)

/-- Whether a slice of a socket has a walk that has not finished. -/
def Dev.walking (d : Dev) (s : Nat) : Bool := (d.sock s).slices.any fun e => !e.2.walk.isEmpty

/-- Range invalidation of the lines from byte `lo` to below `hi`, of one way where `way` names one. True when every slice
has finished. -/
def Dev.invalidate (a : Tables) (d : Dev) (s : Sock) (pods : List (Fin 104)) (lo hi : Nat) (way : Option Nat) : Bool × Dev :=
  let want := fun (k : Nat) (e : SEntry) => lo ≤ e.la * 64 && e.la * 64 < hi && (match way with
    | some w => k % 16 = w
    | none => true)
  pods.foldl (fun (acc : Bool × Dev) p =>
    let r := acc.2.walk a s p want
    (acc.1 && r.1, r.2)) (true, d.quiesce a)

/-- Start a range invalidation that the registers of some blocks command, or go on with it: GO reads 1 until the slice has
finished. -/
def Dev.runRinv (a : Tables) (d : Dev) (s : Sock) (pods : List (Fin 104)) : Dev :=
  d.each pods fun d p =>
    let l := landingOf p
    let cmd := d.reg s .ldRinvCmd l 0
    if !bit cmd 63 then d
    else
      let lo := bits (d.reg s .ldRinvBase l 0) 51 12 * 4096
      let hi := (bits (d.reg s .ldRinvLimit l 0) 51 12 + 1) * 4096
      let d := if bits cmd 57 56 = 1 then d.walkGo a s p
        else ((d.quiesce a).invalidate a s [p] lo hi (if bit cmd 8 then some (bits cmd 3 0) else none)).2
      if (d.slice s p).walk.isEmpty then (d.setFld s .ldRinvCmd l 0 63 63 0).setFld s .ldRinvCmd l 0 57 56 2
      else (d.setFld s .ldRinvCmd l 0 63 63 1).setFld s .ldRinvCmd l 0 57 56 1

/-- Software invalidation of a socket's slices over a range of memory, as Hepin or the manager runs it (R31, R234). -/
def Dev.clearRange (a : Tables) (d : Dev) (s : Sock) (lo hi : Nat) : Dev :=
  (d.invalidate a s (d.podsOf s none) lo hi none).2

/-! ### Way locks (R239 to R242) -/

/-- The way masks in force on a socket, of the berths that have one. -/
def Tables.masks (t : Tables) (s : Nat) : List (Nat × Nat) :=
  (t.ways.filter fun e => e.1 / 64 = s).map fun e => (e.1 % 64, e.2.toNat)

/-- Whether a LOCK value may stand in a slice: its ways are in berths' masks, and every mask keeps a way that is neither
locked nor fenced. -/
def Dev.lockOk (t : Tables) (d : Dev) (s : Nat) (p : Fin 104) (lock : Nat) : Bool :=
  let fence := d.fld s .ldSliceWays (landingOf p) 0 15 0
  let ms := t.masks s
  ((List.range 16).all fun w => !lock.testBit w || ms.any fun m => m.2.testBit w) &&
    ms.all fun m => m.2 = 0 || (List.range 16).any fun w => m.2.testBit w && !lock.testBit w && !fence.testBit w

/-- A write of LOCK to the blocks of some pods; one that breaks a rule of R239 is ignored and logged. -/
def Dev.writeLock (t : Tables) (d : Dev) (s : Nat) (q : Requester) (pods : List (Fin 104)) (off lock : Nat) : Dev :=
  if pods.all fun p => d.lockOk t s p lock then
    d.each pods fun d p => d.setFld s .ldSliceWays (landingOf p) 0 31 16 lock
  else d.noteAccess s 0xF12 q.master.toNat q.berth.toNat 8 (0x000FF00000000000 + s * 0x100000000 + off)

/-- The locked ways of a berth in a slice. -/
def Dev.lockedWays (t : Tables) (d : Dev) (s : Nat) (p : Fin 104) (b : Nat) : List Nat :=
  let w := d.reg s .ldSliceWays (landingOf p) 0
  (List.range 16).filter fun i => bit w (16 + i) && !bit w i && (Tbl.get 0 t.ways (s * 64 + b)).getLsbD i

/-- Lock one line (R241): move its entry to a free entry of a locked way, or read it there; true when it is placed. -/
def Dev.lockLine (a : Tables) (d : Dev) (s : Sock) (p : Fin 104) (b la : Nat) : Bool × Dev :=
  let d := if (d.slice s p).busyLine la || (d.slice s p).evicting la then d.quiesce a else d
  let x := d.slice s p
  let locked := d.lockedWays a s p b
  let free := locked.find? fun w => (Tbl.find x.ents (la % 4096 * 16 + w)).isNone
  if x.busyLine la || x.evicting la then (false, d)
  else
    match x.find la, free with
    | some (k, e), free =>
      if locked.contains (k % 16) then (true, d)
      else
        match free with
        | some w => (true, (d.dropEnt s p k).putEnt s p (la % 4096 * 16 + w) e)
        | none => (false, d)
    | none, some w =>
      let m := { sliceMsg a s p .rds (.slice s p) la with berth := BitVec.ofNat 6 b }
      let fresh : SEntry :=
        { la, d := false, rrpv := 2, dstate := 0, hail := false, p0 := Ptr.none, p1 := Ptr.none, p2 := Ptr.none, busy := true,
          line := { data := 0, poison := false } }
      let d := (d.putEnt s p (la % 4096 * 16 + w) fresh).addTxn s p { txnOf m 3 with home := true }
      let d := (d.send { m.fromSlice s p .hrds (homeNode (la * 64)) with data := sliceOnly }).runNet a 64 none
      (true, d)
    | none, none => (false, d)

/-- A lock-fill started by GO in the blocks of some pods (R241). STATUS 3 OWNER, 4 WAY, 5 RANGE or 2 done. The spec orders the three
checks nowhere and does not speak of a LIMIT below BASE: RANGE, OWNER, then WAY, and RANGE for such a LIMIT, are a DESIGN CHOICE
(assumption log 30). -/
def Dev.lockFill (a : Tables) (d : Dev) (s : Sock) (pods : List (Fin 104)) : Dev :=
  d.each pods fun d p =>
    let l := landingOf p
    let cmd := d.reg s .ldLockCmd l 0
    let lo := bits (d.reg s .ldLockBase l 0) 51 6
    let hi := bits (d.reg s .ldLockLimit l 0) 51 6
    let b := bits cmd 53 48
    let finish := fun (d : Dev) (st : Nat) => (d.setFld s .ldLockCmd l 0 63 63 0).setFld s .ldLockCmd l 0 58 56 st
    if !bit cmd 63 then d
    else if hi < lo || 0x400000 < hi + 1 - lo then finish d 5
    else if !a.covers b (lo * 64) ((hi + 1) * 64) then finish d 3
    else if !(d.lockedWays a s p b).contains (bits cmd 43 40) then finish d 4
    else
      let (placed, missed, d) := (List.range (hi + 1 - lo)).foldl (fun (acc : Nat × Nat × Dev) i =>
        let la := lo + i
        if (acc.2.2.homePod s (la * 64)).1 ≠ p.val then acc
        else
          let (ok, d) := acc.2.2.lockLine a s p b la
          (acc.1 + ok.toNat, acc.2.1 + (!ok).toNat, d)) (0, 0, d)
      let d := d.setReg s .ldLockCount l 0 (word (satAdd 24 missed 0 * 2 ^ 24 + satAdd 24 placed 0))
      finish d 2

/-! ### The home map (R247, R248) -/

/-- Requests that a held map entry kept go on once it is no longer held, toward the pod that the map now names. -/
def Dev.releaseHolds (a : Tables) (d : Dev) (s : Sock) : Dev :=
  let d := d.each (List.finRange 2) fun d u =>
    let go := (d.hub s u).queued.filter fun m => !(d.homePod s m.pa).2
    let d := d.onHub s u fun h => { h with queued := h.queued.filter fun m => (d.homePod s m.pa).2 }
    d.sendAll (go.map fun m => { m with dst := d.homeSlice s m.pa })
  let d := d.each (d.offering.filter fun h => h.sock = s) fun d h => d.missesGo a h
  d.runNet a 64 none

/-- A write to LD_HMAP e. -/
def Dev.writeHmap (a : Tables) (d : Dev) (s : Sock) (e : Nat) (v : Word) : Dev :=
  let d := d.setReg s .ldHmap e 0 (word (bits v 7 0))
  if bit v 7 then d else d.releaseHolds a s

/-- The map entries that name a pod. -/
def Dev.mapOf (d : Dev) (s : Sock) (p : Fin 104) : List Nat := (List.range 4096).filter fun e => d.fld s .ldHmap e 0 6 0 = p.val

/-- The map entries of a failed pod are held (R247 step 1). -/
def Dev.holdPod (a : Tables) (d : Dev) (s : Sock) (old : Fin 104) : Dev :=
  (d.each (d.mapOf s old) fun d e => d.setFld s .ldHmap e 0 7 7 1).quiesce a

/-- Whether a slice has no busy entry, no used eviction buffer and no open transaction. -/
def Slice.atRest (x : Slice) : Bool := x.txns.isEmpty && x.waiting.isEmpty && x.held.isEmpty && x.ev.isEmpty

/-- The old slice comes to rest and is walked, every entry (R247 steps 2 and 3); true when it is empty. -/
def Dev.emptySlice (a : Tables) (d : Dev) (s : Sock) (old : Fin 104) : Bool × Dev :=
  let d := d.quiesce a
  let d := if (d.slice s old).atRest then (d.walk a s old fun _ _ => true).2 else d.walkGo a s old
  ((d.slice s old).atRest && (d.slice s old).ents.isEmpty && (d.slice s old).walk.isEmpty, d)

/-- The held entries go to other pods, in turn (R247 step 4, R248). -/
def Dev.giveMap (a : Tables) (d : Dev) (s : Sock) (old : Fin 104) (heirs : List Nat) : Dev :=
  let es := d.mapOf s old
  let d := (List.range es.length).foldl (fun d i =>
    d.setReg s .ldHmap (es.getD i 0) 0 (word (heirs.getD (i % Nat.max 1 heirs.length) 0))) d
  d.releaseHolds a s

/-- FENCE is set in the ways of a slice whose walk has ended (R249). -/
def Dev.fenceDone (d : Dev) (s : Sock) (p : Fin 104) : Dev :=
  let x := d.slice s p
  if x.fencing = 0 || !x.walk.isEmpty then d
  else
    let w := d.reg s .ldSliceWays (landingOf p) 0
    (d.setReg s .ldSliceWays (landingOf p) 0 (w ||| word x.fencing.toNat)).onSlice s p fun x => { x with fencing := 0 }

/-- Fence a slice's way (R249): no entry is made in it any more, its entries leave, and FENCE is set when they have. -/
def Dev.fenceWay (a : Tables) (d : Dev) (s : Sock) (p : Fin 104) (w : Nat) : Dev :=
  let d := d.onSlice s p fun x => { x with fencing := x.fencing ||| BitVec.ofNat 16 (2 ^ w) }
  ((d.walk a s p fun k _ => k % 16 = w).2).fenceDone s p

/-- Return a slice's way to use. -/
def Dev.unfenceWay (d : Dev) (s : Sock) (p : Fin 104) (w : Nat) : Dev :=
  (d.setReg s .ldSliceWays (landingOf p) 0 (putBit (d.reg s .ldSliceWays (landingOf p) 0) w false)).onSlice s p fun x =>
    { x with fencing := x.fencing &&& ~~~ BitVec.ofNat 16 (2 ^ w) }

/-- The walks of a socket's slices that had to wait go on. -/
def Dev.walksGo (a : Tables) (d : Dev) (s : Sock) : Dev :=
  d.each ((d.sock s).slices.filterMap fun e => if h : e.1 < 104 ∧ !e.2.walk.isEmpty then some ⟨e.1, h.1⟩ else none) fun d p =>
    (d.walkGo a s p).fenceDone s p

end Sys2Proof.Machine
end

