-- ==== Sys2Proof/Machine/Tiering.lean ====
section
/-! DEFINITION. The tiering engine's own actions: copies (R340 to R344), epochs (R341), drains and modes (R345, R346), runs
(R347 to R349). -/

namespace Sys2Proof.Machine

/-! ### Pages -/

/-- The lines of a page at a location, as its DRAM gives them (R344: a fenced unit's come poisoned). -/
def Dev.readPage (d : Dev) (loc : Nat) : List MLine :=
  (List.range 64).map fun i =>
    let l := loc + 64 * i
    match d.service l with
    | .serves => d.rawLine l
    | _ => { line := .lost, summary := (d.rawLine l).summary }

/-- Write the lines of a page to a location; a fenced unit drops them. -/
def Dev.writePage (d : Dev) (loc : Nat) (ls : List MLine) : Dev :=
  (List.range 64).foldl (fun d i =>
    let l := loc + 64 * i
    match d.service l, ls[i]? with
    | .serves, some m => d.putRaw l m
    | _, _ => d) d

/-- Whether a page is copied with lines whose reads failed. -/
def pageLost (ls : List MLine) : Bool := ls.any fun m => m.line.poison

/-- Move one page by a copy; lost lines are reported with Deferred severity (R344). -/
def Dev.movePage (a : Tables) (d : Dev) (s hub src dst : Nat) : Dev :=
  let ls := d.readPage src
  let d := if pageLost ls then d.reportAt a s (0x204 + hub) 2 0xFF 13 src else d
  d.writePage dst ls

/-- Write zeros over a stretch of locations. -/
def Dev.zeroRaw (d : Dev) (lo hi : Nat) : Dev :=
  { d with
    mem := d.mem.filter fun c => c.1 < lo || hi ≤ c.1
    meta_ := d.meta_.filter fun e => e.1 * 64 < lo || hi ≤ e.1 * 64 }

/-- Zero-fill a stretch of a socket's memory: its locations, and the destinations of the runs that redirect parts of it. -/
def Dev.zeroFill (d : Dev) (s lo hi : Nat) : Dev :=
  let base := windowBase s
  let d := d.zeroRaw lo hi
  (List.range 64).foldl (fun d i =>
    let aw := d.reg s .teRunA (i / 32) (i % 32)
    let bw := d.reg s .teRunB (i / 32) (i % 32)
    if !bit aw 63 || bits bw 58 56 = 0 then d
    else
      let src := base + bits aw 60 43 * gib
      let dst := base + bits aw 42 25 * gib
      let a := Nat.max lo src
      let b := Nat.min hi (src + bits aw 12 0 * gib)
      if a < b then d.zeroRaw (dst + (a - src)) (dst + (b - src)) else d) d

/-! ### Copies (R340, R342) -/

/-- The page moves of a copy, as (destination, source) addresses before the runs, with whether the frame then holds a far
page, whether the old occupant leaves, and the quotient of the page that enters. -/
def Dev.copyMoves (d : Dev) (t : Tier) (c : TCopy) : List (Nat × Nat) × REnt :=
  let f := frameAddr t.sock t.hub c.frame
  let e := d.entry t.sock t.hub c.frame
  let set := (c.frame - t.frame 0 0) / 8
  let old := pageOfIndex t.fars (e.q * t.sets + set)
  let k := pageIndex t.fars c.page
  let e' : REnt := { e with v := true, dirty := false, busy := false, q := k / Nat.max 1 t.sets }
  if t.mode = 1 then
    ((if e.v && e.dirty then [(old, f)] else []) ++ [(f, c.page)], e')
  else if c.page = f then ([(f, old), (old, f)], { e' with v := false, q := e.q })
  else if e.v then ([(f, c.page), (c.page, old), (old, f)], e')
  else ([(f, c.page), (c.page, f)], e')

/-- The locations that a copy reads or writes. -/
def Dev.copyLocs (d : Dev) (s : Nat) (ms : List (Nat × Nat)) : List Nat :=
  ((ms.flatMap fun m => [m.1, m.2]).map (d.redirect s)).eraseDups

/-- Whether a home agent has a transaction open, or writes held, on a page of a list. -/
def Dev.pagesBusy (a : Tables) (d : Dev) (s : Nat) (locs : List Nat) : Bool :=
  (List.range 2).any fun u =>
    let h := d.hub s u
    let on := fun (pa : Nat) => match (d.locate a pa).1 with
      | .at l => locs.any fun b => b / 4096 = l / 4096
      | _ => false
    (h.txns.any fun t => on (t.la * 64)) || h.held.any fun w => on w.1.pa

/-- The requests that a hub holds for blocked pages go on in arrival order (R342). -/
def Dev.unblock (d : Dev) (s hub : Nat) : Dev :=
  let ms := (d.hub s hub).blocked
  let d := d.onHub s hub fun h => { h with blocked := [] }
  { d with again := d.again ++ ms }

/-- Show the slots and the queue in TE_HUB_STAT. -/
def Dev.showHub (d : Dev) (s hub : Nat) : Dev :=
  let h := d.hub s hub
  (d.setFld s .teHubStat hub 0 63 60 h.slots.length).setFld s .teHubStat hub 0 55 48 h.queue.length

/-- Whether a blackout is due on a channel of a hub (R325). -/
def Dev.blackoutDue (d : Dev) (s hub : Nat) : Bool :=
  (d.sock s).chans.any fun e => e.2.due ≠ [] && (if e.1 < 12 then e.1 / 6 = hub else (e.1 - 16) / 8 = hub)

/-- COPY_START: the first candidate takes a free slot, its locations are blocked and its pages read. Nothing starts during a
dip, while a blackout is due on the hub, or while a location belongs to another copy or to an open transaction. -/
def Dev.copyStart (a : Tables) (d : Dev) (s hub : Nat) : Dev :=
  let h := d.hub s hub
  let slot := (List.range 8).find? fun i => (Tbl.find h.slots i).isNone
  match h.queue, slot with
  | c :: rest, some i =>
    match d.tierAt a c.page with
    | none => (d.onHub s hub fun h => { h with queue := rest }).showHub s hub
    | some t =>
      let (ms, _) := d.copyMoves t c
      let locs := d.copyLocs s ms
      if d.dipping s || d.blackoutDue s hub || (locs.any fun l => d.blockedLoc s l) || d.pagesBusy a s locs then d
      else if d.fld s .tePolicy c.berth 0 11 0 ≤ Tbl.get 0 h.done c.berth then
        (d.onHub s hub fun h =>
          { h with queue := rest, refused := Tbl.set 0 h.refused c.berth (Tbl.get 0 h.refused c.berth + 1) }).showHub s hub
      else
        let pages := ms.map fun m => (m.2, d.readPage (d.redirect s m.2))
        let buf := pages.flatMap fun p => (List.range 64).filterMap fun j =>
          p.2[j]? |>.map fun m => (p.1 / 64 + j, m.line, BitVec.ofNat 2 m.summary)
        let d := pages.foldl (fun d p =>
          if pageLost p.2 then d.reportAt a s (0x204 + hub) 2 0xFF 13 (d.redirect s p.1) else d) d
        let d := d.setEntry s hub c.frame { d.entry s hub c.frame with busy := true }
        (d.onHub s hub fun h =>
          { h with
            queue := rest
            slots := Tbl.put h.slots i { c with read := true, locs, buf }
            done := Tbl.set 0 h.done c.berth (Tbl.get 0 h.done c.berth + 1) }).showHub s hub
  | _, _ => d

/-- The buffered lines of a page. -/
def TCopy.page64 (c : TCopy) (pa : Nat) : List MLine :=
  (List.range 64).map fun j =>
    match c.buf.find? fun b => b.1 = pa / 64 + j with
    | some b => { line := b.2.1, summary := b.2.2.toNat }
    | none => { line := .lost, summary := 0 }

/-- Heat moves with its data (R340): the page that leaves the frame takes the frame's heat into the heat cache, the page
that enters brings its own. -/
def Dev.moveHeat (d : Dev) (t : Tier) (c : TCopy) (e' : REnt) : Dev :=
  let s := t.sock
  let ep := d.tierEpoch s t.hub
  let e := d.entry s t.hub c.frame
  let f := frameAddr s t.hub c.frame
  let set := (c.frame - t.frame 0 0) / 8
  let h := d.hub s t.hub
  let left : Option Nat := if e.v then some (pageOfIndex t.fars (e.q * t.sets + set)) else if t.mode = 1 then none else some f
  let heat := h.heatOf c.page ep
  let d := d.onHub s t.hub fun h =>
    let h := h.dropHeat c.page
    match left with
    | some pa => h.putHeat pa ep (cooled e.heat e.stamp ep)
    | none => h
  d.setEntry s t.hub c.frame { e' with heat, stamp := ep }

/-- COPY_WRITE_PHASE: a copy writes its pages and the entry, and releases the waiting requests. -/
def Dev.copyWrite (a : Tables) (d : Dev) (s hub i : Nat) : Dev :=
  match Tbl.find (d.hub s hub).slots i with
  | none => d
  | some c =>
    let d := match d.tierAt a c.page with
      | none => d.setEntry s hub c.frame { d.entry s hub c.frame with busy := false }
      | some t =>
        let (ms, e') := d.copyMoves t c
        let d := ms.foldl (fun (d : Dev) (m : Nat × Nat) => d.writePage (d.redirect s m.1) (c.page64 m.2)) d
        d.moveHeat t c e'
    let d := d.onHub s hub fun h => { h with slots := Tbl.erase h.slots i }
    ((d.unblock s 0).unblock s 1).showHub s hub

/-- COPY_ABANDON: nothing is written, BUSY clears, the waiting requests are released. -/
def Dev.copyAbandon (d : Dev) (s hub i : Nat) : Dev :=
  match Tbl.find (d.hub s hub).slots i with
  | none => d
  | some c =>
    let d := d.setEntry s hub c.frame { d.entry s hub c.frame with busy := false }
    let d := d.onHub s hub fun h =>
      { h with
        slots := Tbl.erase h.slots i
        done := Tbl.set 0 h.done c.berth (Tbl.get 0 h.done c.berth - 1) }
    (((d.unblock s 0).unblock s 1).bump s .teHubStat hub 0 47 24 1).showHub s hub

/-- Abandon every copy in its read phase (a supply dip or WARM reset: R344). -/
def Dev.abandonAll (d : Dev) (s : Nat) : Dev :=
  (List.range 16).foldl (fun d i => d.copyAbandon s (i / 8) (i % 8)) d

/-! ### Epochs (R341) -/

/-- The threshold at an epoch's end. -/
def nextThresh (t tMin budget done refused : Nat) : Nat :=
  if 0 < refused then Nat.min 255 (t + Nat.max 1 (t / 8))
  else if 2 * done < budget then Nat.max tMin (t - 1)
  else t

/-- TIERING_EPOCH_END: every berth's threshold on both hubs. -/
def Dev.tieringEpochEnd (d : Dev) (s : Nat) : Dev :=
  (List.range 128).foldl (fun d i =>
    let hub := i / 64
    let b := i % 64
    let h := d.hub s hub
    let done := Tbl.get 0 h.done b
    let refused := Tbl.get 0 h.refused b
    let t := nextThresh (d.fld s .teState hub b 55 48) (d.fld s .tePolicy b 0 39 32) (d.fld s .tePolicy b 0 11 0) done refused
    let d := (d.setFld s .teState hub b 55 48 t).setFld s .teState hub b 35 24 (satAdd 12 refused 0)
    (d.setFld s .teState hub b 11 0 (satAdd 12 done 0)).onHub s hub fun h =>
      { h with done := Tbl.set 0 h.done b 0, refused := Tbl.set 0 h.refused b 0 }) d

/-- Thresholds start at T_MIN (R341). -/
def Dev.threshStart (d : Dev) (s b : Nat) : Dev :=
  (List.range 2).foldl (fun d hub => d.setFld s .teState hub b 55 48 (d.fld s .tePolicy b 0 39 32)) d

/-! ### Draining and modes (R345, R346) -/

/-- The tiering of a berth on a hub as its mode and pool define it, draining or not. -/
def Dev.tierOf (t : Tables) (d : Dev) (s hub b : Nat) : Option Tier :=
  let mode := d.fld s .tePolicy b 0 61 60
  if b = 0 || (mode ≠ 1 && mode ≠ 2) || !bit (d.reg s .teHubCfg hub 0) 63 then none
  else (t.pool b s hub).map fun p =>
    { mode, berth := b, sock := s, hub, pool := p.1, sets := p.2 / 32768, fars := t.farRanges b s hub }

/-- Drain one frame: TIER restores it, CACHE writes a dirty copy back and drops it. -/
def Dev.drainFrame (a : Tables) (d : Dev) (t : Tier) (f : Nat) : Dev :=
  let e := d.entry t.sock t.hub f
  if !e.v then d
  else
    let fa := d.redirect t.sock (frameAddr t.sock t.hub f)
    let old := d.redirect t.sock (pageOfIndex t.fars (e.q * t.sets + (f - t.frame 0 0) / 8))
    let c : TCopy := { berth := t.berth, page := frameAddr t.sock t.hub f, frame := f, heat := 0, read := true, locs := [], buf := [] }
    if t.mode = 1 then
      let d := if e.dirty then d.movePage a t.sock t.hub fa old else d
      d.setEntry t.sock t.hub f { e with v := false, dirty := false, busy := false }
    else
      let home := d.readPage old
      let d := d.movePage a t.sock t.hub fa old
      let d := if pageLost home then d.reportAt a t.sock (0x204 + t.hub) 2 0xFF 13 old else d
      (d.writePage fa home).moveHeat t c { e with v := false, dirty := false, busy := false }

/-- The Wheelhouse rewrites a drained berth's poisoned line of the remap table (R363), unless the line's other set belongs to a berth
that has not drained: a set that the cache holds as it is there, any other empty. -/
def Dev.rewriteSet (t : Tables) (d : Dev) (s hub b set : Nat) : Dev :=
  let pair := [set / 2 * 2, set / 2 * 2 + 1]
  let free := fun (x : Nat) =>
    let o := t.ownerOf (frameAddr s hub (x * 8))
    Tbl.get false (d.hub s hub).cached x || o = 0 || o = b || bit (d.reg s .teState hub o) 62
  if !d.setLost s hub set || !pair.all free then d
  else
    let loc := d.tableLoc s hub (set * 8)
    let m := d.rawLine loc
    let d := d.putRaw loc { m with line := { m.line with poison := false } }
    d.each pair fun d x =>
      if Tbl.get false (d.hub s hub).cached x then
        (List.range 8).foldl (fun d w =>
          { d with mem := Memory.writeN d.mem (d.tableLoc s hub (x * 8 + w)) (leBytes 4 (Tbl.get 0 (d.hub s hub).remap (x * 8 + w)).toNat) }) d
      else { d with mem := Memory.writeN d.mem (d.tableLoc s hub (x * 8)) (List.replicate 32 0) }

/-- TE_STATE.DRAIN = 1: candidates of the berth go, its copies end, and its pool is walked to the end (R345). -/
def Dev.drainBerth (a : Tables) (d : Dev) (s hub b : Nat) : Dev :=
  let d := (List.range 8).foldl (fun d i =>
    match Tbl.find (d.hub s hub).slots i with
    | some c => if c.berth = b then d.copyWrite a s hub i else d
    | none => d) d
  let d := (d.onHub s hub fun h => { h with queue := h.queue.filter fun c => c.berth ≠ b }).showHub s hub
  let d := match d.tierOf a s hub b with
    | none => d
    | some t =>
      (List.range (t.sets * 8)).foldl (fun d i =>
        let f := t.frame 0 0 + i
        if d.setLost s hub (f / 8) then (if i % 8 = 7 then d.rewriteSet a s hub b (f / 8) else d)
        else (d.fillSet s hub (f / 8)).drainFrame a t f) d
  d.setReg s .teState hub b (putBits (d.reg s .teState hub b) 63 62 3)

/-- A write of TE_STATE.DRAIN. -/
def Dev.writeDrain (a : Tables) (d : Dev) (s hub b : Nat) (v : Bool) : Dev :=
  if v then (if bit (d.reg s .teState hub b) 62 then d.setFld s .teState hub b 63 63 1 else d.drainBerth a s hub b)
  else d.setReg s .teState hub b (putBits (d.reg s .teState hub b) 63 62 0)

/-- The hubs (socket, hub) where a berth holds memory. -/
def Tables.memHubs (t : Tables) (b : Nat) : List (Nat × Nat) :=
  ((t.ranges.filter fun r => r.berth = b && r.kind < 3).map fun r => (homeSock r.base, homeHub r.base)).eraseDups

/-- Whether a berth is drained on every hub where it holds memory. -/
def Dev.drained (t : Tables) (d : Dev) (b : Nat) : Bool :=
  (t.memHubs b).all fun p => bit (d.reg p.1 .teState p.2 b) 62

/-- A write of TE_POLICY.MODE (R346): refused unless drained; a berth that leaves CACHE mode finds its pools zero-filled. -/
def Dev.writeMode (t : Tables) (d : Dev) (s : Nat) (q : Requester) (b mode : Nat) : Dev :=
  let old := d.fld s .tePolicy b 0 61 60
  if !d.drained t b then
    d.noteAccess s 0x204 q.master.toNat q.berth.toNat 8 (0x000FF00000000000 + s * 0x100000000 + Reg.tePolicy.at b 0)
  else
    let d := if old = 1 && mode ≠ 1 then
        (List.range 2).foldl (fun d hub => match t.pool b s hub with
          | some p => d.zeroFill s p.1 (p.1 + p.2)
          | none => d) d
      else d
    let d := d.setFld s .tePolicy b 0 61 60 mode
    if old = mode then d else d.threshStart s b

/-! ### Runs (R347, R348) -/

/-- The page that a run reached is free of copies. -/
def Dev.runFree (d : Dev) (s src dst : Nat) : Bool := !d.blockedLoc s src && !d.blockedLoc s dst

/-- Copy a run's pages in increasing order, from PROGRESS (or, reverting, from the start of what went), as far as no other
copy holds a page; `n` pages at most. -/
def Dev.runPages (a : Tables) (d : Dev) (s hub r src dst : Nat) (n : Nat) : Dev :=
  match n with
  | 0 => d
  | n + 1 =>
    let k := d.fld s .teRunB hub r 32 0
    let x := src + k * 4096
    let y := dst + k * 4096
    if d.runFree s x y then
      Dev.runPages a ((d.movePage a s hub x y).setFld s .teRunB hub r 32 0 (k + 1)) s hub r src dst n
    else d

/-- Whether every line of a stretch of whole GiB is served, with no rank fenced on the socket. -/
def Dev.stretchServes (d : Dev) (s lo hi : Nat) : Bool :=
  let up := fun (st : Nat) => st = 2 || st = 3
  let rank := ((List.range 512).any fun n =>
      let w := d.reg s .fcFenceA n 0
      bit w 63 && 0x210 ≤ bits w 47 36 && bits w 47 36 < 0x21C) ||
    (d.sock s).faults.extra.any fun x => 0x210 ≤ x / 256 && x / 256 < 0x21C
  !rank && (List.range ((hi - lo) / gib)).all fun i =>
    match regionOf (lo + i * gib) with
    | .far _ h off =>
      match d.farSet s h off with
      | some (_, _, cs) => cs.all fun c => up (d.fld s .fmChCfg c 0 63 60)
      | none => false
    | .near _ h _ => (List.range 8).all fun j => up (d.fld s .nmChCfg (h * 8 + j) 0 63 60)
    | _ => d.service (lo + i * gib) = .serves

/-- A stretch whose lines are all served moves at once: what its pages move one by one (`runPages`). -/
def Dev.moveStretch (a : Tables) (d : Dev) (s hub lo hi dst : Nat) : Dev :=
  let bad := ((d.meta_.filter fun e => lo ≤ e.1 * 64 && e.1 * 64 < hi && e.2.getLsbD 2).map fun e => e.1 / 64 * 4096).eraseDups
  let d := bad.foldl (fun (d : Dev) p => d.reportAt a s (0x204 + hub) 2 0xFF 13 p) d
  let mem := (d.mem.filter fun c => lo ≤ c.1 && c.1 < hi).map fun c => (c.1 + dst - lo, c.2)
  let met := (d.meta_.filter fun e => lo ≤ e.1 * 64 && e.1 * 64 < hi).map fun e => (e.1 + dst / 64 - lo / 64, e.2)
  { d with
    mem := Tbl.putRun d.mem dst (dst + hi - lo) mem
    meta_ := Tbl.putRun d.meta_ (dst / 64) ((dst + hi - lo) / 64) met }

/-- Copy the rest of a run. -/
def Dev.runCopy (a : Tables) (d : Dev) (s hub r src dst pages : Nat) : Dev :=
  let k := d.fld s .teRunB hub r 32 0
  let len := pages * 4096
  let idle := (d.hub s 0).slots.isEmpty && (d.hub s 1).slots.isEmpty && (d.hub s 0).blocked.isEmpty && (d.hub s 1).blocked.isEmpty
  if idle && d.stretchServes s src (src + len) && d.stretchServes s dst (dst + len) then
    (d.moveStretch a s hub (src + k * 4096) (src + len) (dst + k * 4096)).setFld s .teRunB hub r 32 0 pages
  else d.runPages a s hub r src dst (pages - k)

/-- Go on with a run that is copying (STATE 1) or reverting (3); at its end it redirects, or its entry is free. -/
def Dev.runStep (a : Tables) (d : Dev) (s hub r : Nat) : Dev :=
  let aw := d.reg s .teRunA hub r
  let bw := d.reg s .teRunB hub r
  let src := windowBase s + bits aw 60 43 * gib
  let dst := windowBase s + bits aw 42 25 * gib
  let pages := bits aw 12 0 * 262144
  if bits bw 58 56 = 1 then
    let d := d.runCopy a s hub r src dst pages
    if d.fld s .teRunB hub r 32 0 = pages then (d.setFld s .teRunB hub r 63 63 0).setFld s .teRunB hub r 58 56 2 else d
  else if bits bw 58 56 = 3 then
    let d := d.runCopy a s hub r dst src pages
    if d.fld s .teRunB hub r 32 0 = pages then
      (d.setFld s .teRunA hub r 63 63 0).setReg s .teRunB hub r 0
    else d
  else d

/-- GO of a run: the copy, or the copy back when REVERT is set (R347, R348). A run that is not valid does not start
(assumption log 18). -/
def Dev.runGo (a : Tables) (d : Dev) (s hub r : Nat) : Dev :=
  let st := d.fld s .teRunB hub r 58 56
  let revert := d.fld s .teRunB hub r 62 62 = 1
  if d.fld s .teRunA hub r 63 63 = 0 then d
  else if !revert && st = 0 then
    ((d.setFld s .teRunB hub r 63 63 1).setFld s .teRunB hub r 58 56 1).runStep a s hub r
  else if revert && st = 2 then
    (((d.setFld s .teRunB hub r 63 63 1).setFld s .teRunB hub r 58 56 3).setFld s .teRunB hub r 32 0 0).runStep a s hub r
  else d

/-- Runs that waited for a copy go on. -/
def Dev.runsGoOn (a : Tables) (d : Dev) (s : Nat) : Dev :=
  (List.range 64).foldl (fun d i => d.runStep a s (i / 32) (i % 32)) d

/-! ### Evacuation of a unit (R349, R509) -/

/-- Whether berth 0 holds a far granule of a socket: a remap table's (R332), or the one at 0xC000_0000 (R424). -/
def Dev.heldGib (d : Dev) (s lo : Nat) : Bool :=
  lo = 0xC0000000 || (List.range 2).any fun h =>
    d.fld s .teHubCfg h 0 63 63 = 1 && d.fld s .teHubCfg h 0 51 30 * gib = lo

/-- Whether one GiB of a socket's window is free pool memory that a run may use as destination (R347). -/
def Dev.gibFree (t : Tables) (d : Dev) (s off : Nat) : Bool :=
  let lo := windowBase s + off * gib
  let hi := lo + gib
  let serves := match d.service lo with
    | .serves => true
    | _ => false
  let clear := !(t.ranges.any fun r => r.base < hi && lo < r.limit)
  let table := d.heldGib s lo
  let runs := (List.range 64).any fun i =>
    let aw := d.reg s .teRunA (i / 32) (i % 32)
    bit aw 63 && ((bits aw 60 43 ≤ off && off < bits aw 60 43 + bits aw 12 0) ||
      (bits aw 42 25 ≤ off && off < bits aw 42 25 + bits aw 12 0))
  serves && clear && !table && !runs

/-- The GiB of a socket's window that decode, as (first, count): each hub's far sets, near regions, CXL ports. -/
def Dev.gibs (d : Dev) (s : Nat) : List Nat :=
  ((List.range 2).flatMap fun h => (List.range 4).flatMap fun i =>
    let w := d.reg s .fmSet h i
    if bit w 63 then (List.range (bits w 14 0)).map (h * 0x4000 + bits w 46 32 + ·) else []) ++
  ((List.range 2).flatMap fun h => (List.range 14).map (0x8000 + h * 0x400 + ·)) ++
  ((List.range 4).flatMap fun p => (List.range (d.fld s .fmCxl (p / 2) (p % 2) 44 32)).map (0x10000 + p * 0x4000 + ·))

/-- The lowest stretch of free GiB of a length, outside a source. -/
def Dev.freeStretch (t : Tables) (d : Dev) (s src len : Nat) : Option Nat :=
  (d.gibs s).find? fun g => (List.range len).all fun i =>
    let x := g + i
    !(src ≤ x && x < src + len) && (d.gibs s).contains x && d.gibFree t s x

/-- The stretch (first GiB, length) that must be emptied for a unit (R509): the far set that holds a channel, a hub's near
region, or a port's memory. -/
def Dev.farUnit (d : Dev) (s ch : Nat) : List (Nat × Nat) :=
  let h := ch / 6
  (List.range 4).filterMap fun i =>
    let w := d.reg s .fmSet h i
    if bit w 63 && (bits w 53 48).testBit (ch % 6) then some (h * 0x4000 + bits w 46 32, bits w 14 0) else none

/-- Empty a stretch of a hub's memory: each piece of at most 8,191 GiB that holds owned granules or the table gets a run.
With no run entry or no destination, the berths that own ranges there suffer Fatal-berth (R349). -/
def Dev.evacuate (a : Tables) (d : Dev) (s hub : Nat) (src len : Nat) : Dev :=
  let near := 0x8000 ≤ src && src < 0x10000
  let d := if near then (List.range 64).foldl (fun d b => if (d.tierOf a s hub b).isSome then d.drainBerth a s hub b else d) d
    else d
  let lo := windowBase s + src * gib
  let hi := lo + len * gib
  let owners := ((a.ranges.filter fun r => r.base < hi && lo < r.limit && r.berth ≠ 0).map fun r => r.berth).eraseDups
  let already := (List.range 32).any fun r => bit (d.reg s .teRunA hub r) 63 && d.fld s .teRunA hub r 60 43 = src
  let entry := (List.range 32).find? fun r => !bit (d.reg s .teRunA hub r) 63
  if already then d
  else
    match entry, d.freeStretch a s src len with
    | some r, some dst =>
      let d := d.setReg s .teRunA hub r (word (2 ^ 63 + src * 2 ^ 43 + dst * 2 ^ 25 + len))
      (d.setReg s .teRunB hub r 0).runGo a s hub r
    | _, _ => owners.foldl (fun d b => d.reportUnit s (0x204 + hub) 7 0xFF b 13 lo) d

end Sys2Proof.Machine
end

