-- ==== Sys2Proof/Machine/MemOps.lean ====
section
/-! DEFINITION. What memory controllers do on their own: retraining (R323 to R326), scrubbing and marking (R353 to R360),
GDDR6 retries (R355), re-reads (R357), repairs (R366 to R372), and CXL expanders (R319 to R321). -/

namespace Sys2Proof.Machine

/-! ### Channels -/

/-- The key of a channel in `Socket.chans`: far 0 to 11, near 16 to 31. -/
def chanKey (far : Bool) (ch : Nat) : Nat := if far then ch % 12 else 16 + ch % 16

/-- A channel controller's source ID (R378). -/
def chanSrc (far : Bool) (ch : Nat) : Nat := if far then 0x210 + ch % 12 else 0x220 + ch % 16

/-- STATE of a channel. -/
def Dev.chanState (d : Dev) (s : Nat) (far : Bool) (ch : Nat) : Nat :=
  if far then d.fld s .fmChCfg (ch % 12) 0 63 60 else d.fld s .nmChCfg (ch % 16) 0 63 60

/-- The hub of a channel. -/
def chanHub (far : Bool) (ch : Nat) : Nat := if far then ch % 12 / 6 else ch % 16 / 8

/-- The number of data lines of a channel (R313, R316). -/
def Dev.chanLines (d : Dev) (s : Nat) (far : Bool) (ch : Nat) : Nat :=
  if far then d.fld s .fmChCfg (ch % 12) 0 42 32 * 0x1000000 else 29360128

/-- The physical address of a channel's data line `n`, the inverse of R313 and R316; none for a channel in no set. -/
def Dev.chanLine (d : Dev) (s : Nat) (far : Bool) (ch n : Nat) : Option Nat :=
  if far then
    let c := ch % 12
    (List.range 4).findSome? fun i =>
      let w := d.reg s .fmSet (c / 6) i
      if bit w 63 && (bits w 53 48).testBit (c % 6) then
        let chs := setBitsOf (bits w 53 48) 6
        let ca := n * 64
        let u := ca / 256 * chs.length + (chs.idxOf (c % 6))
        some (farBase s (c / 6) + bits w 46 32 * gib + u * 256 + ca % 256)
      else none
  else
    let c := ch % 16
    some (nearBase s (c / 8) + (n / 4 * 8 + c % 8) * 256 + n % 4 * 64)

/-- A channel's retrain register. -/
def Dev.retrainReg (d : Dev) (s : Nat) (far : Bool) (ch : Nat) : Word :=
  if far then d.reg s .fmRetrain (ch % 12) 0 else d.reg s .nmRetrain (ch % 16) 0

/-- Whether R325 holds back a blackout on a channel of a tier's hub. -/
def Dev.blackoutHeld (d : Dev) (s : Nat) (far : Bool) (ch : Nat) : Bool :=
  !(d.hub s (chanHub far ch)).slots.isEmpty || d.dipping s || bit (d.reg s .fmGlobal 0 0) 8

/-- A retraining in a blackout of `ns` nanoseconds, which reaches its targets or not (R323, R326). -/
def Dev.blackout (d : Dev) (s : Nat) (far : Bool) (ch : Nat) (ok : Bool) (ns : Nat) : Dev :=
  let stat : Reg := if far then .fmChStat else .nmChStat
  let ctl : Reg := if far then .fmRetrain else .nmRetrain
  let i := if far then ch % 12 else ch % 16
  let d := if d.fld s stat i 0 15 0 < ns then d.setFld s stat i 0 15 0 ns else d
  if ok then (d.bump s stat i 0 31 16 1).setFld s ctl i 0 1 0 0
  else
    let f := d.fld s ctl i 0 1 0
    let d := (d.reportUnit s (chanSrc far ch) 0 0xFF 0 0 0).setFld s ctl i 0 1 0 (Nat.min 3 (f + 1))
    if f = 2 then d.reportUnit s (chanSrc far ch) 6 0xFF 0 0 0 else d

/-- CHANNEL_RETRAIN (R323 to R326): a ready channel retrains; a blackout that R325 holds back is due, and starts as soon as it may. -/
def Dev.retrain (d : Dev) (s : Nat) (far : Bool) (ch : Nat) (ok : Bool) (ns : Nat) : Dev :=
  if !bit (d.retrainReg s far ch) 63 || d.chanState s far ch ≠ 2 then d
  else if d.blackoutHeld s far ch then
    d.onChan s (chanKey far ch) fun c =>
      { c with due := (c.due.filter fun b => match b with
          | .retrain _ _ => false
          | .repair .. => true) ++ [.retrain ok ns] }
  else d.blackout s far ch ok ns

/-! ### Corrected errors (R354, R371) -/

/-- The key of a row for its error count: rank, subchannel, bank group, bank, row. -/
def rowKey (l : FarLoc) : Nat := (((l.rank * 2 + l.sub) * 8 + l.bg) * 4 + l.bank) * 0x400000 + l.row

/-- Count an error of a far row toward soft repair; an uncorrectable one without a marked device makes it a candidate at
once (R371). -/
def Dev.rowError (d : Dev) (s : Nat) (l : FarLoc) (n : Nat) : Dev :=
  d.onChan s l.ch fun c => { c with rowErr := Tbl.set 0 c.rowErr (rowKey l) (Tbl.get 0 c.rowErr (rowKey l) + n) }

/-- A corrected error of a far device: its count in its rank rises; at DEV_LIMIT it is marked, or, in a rank with another
marked device, the rank is reported (R354). -/
def Dev.deviceError (d : Dev) (s : Nat) (l : FarLoc) (dv : Nat) : Dev :=
  let c := d.chan s l.ch
  let n := Tbl.get 0 c.devErr (l.rank * 10 + dv) + 1
  let d := d.onChan s l.ch fun c => { c with devErr := Tbl.set 0 c.devErr (l.rank * 10 + dv) n }
  let src := 0x210 + l.ch
  let limit := d.fld s .fmRas l.ch 0 47 40
  if n < limit then d
  else
    match Tbl.find c.marked l.rank with
    | none =>
      let d := d.onChan s l.ch fun c => { c with marked := Tbl.put c.marked l.rank dv }
      let d := d.setReg s .fmRas l.ch 0 (putBit (d.reg s .fmRas l.ch 0) (16 + l.rank) true)
      d.reportUnit s src 1 l.rank 0 0 0
    | some m => if m = dv || n ≠ limit then d else d.reportUnit s src 6 l.rank 0 0 0

/-- The far location of an address. -/
def Dev.farAt (d : Dev) (pa : Nat) : Option (Nat × FarLoc) :=
  match regionOf pa with
  | .far s h off => (d.farLoc s h off).map fun l => (s, l)
  | _ => none

/-- Whether the scrubber skips a channel or the rank of a line (R360). -/
def Dev.scrubSkips (d : Dev) (s : Nat) (far : Bool) (ch : Nat) (pa : Option Nat) : Bool :=
  d.chanState s far ch ≠ 2 ||
    (match pa.bind d.farAt with
      | some (_, l) => d.fenced s (0x210 + l.ch) l.rank
      | none => false)

/-- SCRUB_READ (R359, R360): the next line of the channel. -/
def Dev.scrub (a : Tables) (d : Dev) (s : Nat) (far : Bool) (ch : Nat) (r : ReadResult) : Dev :=
  let i := if far then ch % 12 else ch % 16
  let cfg : Reg := if far then .fmScrub else .nmScrub
  let cnt : Reg := if far then .fmScrubCnt else .nmScrubCnt
  let key := chanKey far ch
  let lines := d.chanLines s far ch
  if d.fld s cfg i 0 63 63 = 0 || lines = 0 || d.chanState s far ch ≠ 2 then d
  else
    let n := (d.chan s key).scrub
    let pa := d.chanLine s far ch n
    let addr := pa.getD 0
    let d := if d.scrubSkips s far ch pa then d
      else
        match r with
        | .clean => d
        | .correctable dv =>
          let d := (d.bump s cnt i 0 31 0 1).reportAt a s (chanSrc far ch) 0 0xFF 12 addr
          match pa.bind d.farAt with
          | some (_, l) => (d.deviceError s l dv.val).rowError s l 1
          | none => d
        | .uncorrectable =>
          let d := (d.bump s cnt i 0 63 32 1).reportAt a s (chanSrc far ch) 2 0xFF 12 addr
          match pa.bind d.farAt with
          | some (_, l) => if ((d.chan s l.ch).marked.any fun m => m.1 = l.rank) then d else d.rowError s l 15
          | none => d
    if n + 1 < lines then d.onChan s key fun c => { c with scrub := n + 1 }
    else
      let d := d.bump s cfg i 0 47 32 1
      d.onChan s key fun c =>
        { c with
          scrub := 0
          devErr := (c.devErr.map fun e => (e.1, e.2 / 2)).filter fun e => e.2 ≠ 0
          rowErr := c.rowErr.filter fun e => d.fld s .fmRas i 0 35 32 ≤ e.2 }

/-! ### Reads and writes that fail (R355, R357) -/

/-- Set the poison mark of a line of memory. -/
def Dev.poisonLine (d : Dev) (pa : Nat) : Dev :=
  let m := d.rawLine pa
  d.putRaw pa { m with line := { m.line with poison := true } }

/-- GDDR6_CRC_RETRY (R355): `retries` below 4 means that retry `retries` + 1 succeeded, 4 that the fourth failed. A failed
read goes on as R357 states; a failed write poisons its line, or, when the line is none of the channel's data lines and so
its check line, reports the channel (assumption log 19). -/
def Dev.gddr6 (a : Tables) (d : Dev) (s ch : Nat) (write : Bool) (pa retries : Nat) : Dev :=
  let i := ch % 16
  let src := 0x220 + i
  let d := d.bump s .nmChStat i 0 63 32 (Nat.min 4 (retries + 1))
  let mine := match regionOf pa with
    | .near t h off => t = s && (nearLoc h off).1 = i
    | _ => false
  if retries < 4 then d.reportAt a s src 0 0xFF (if write then 3 else 1) pa
  else if !write then d
  else if mine then (d.poisonLine (lineBase pa)).reportAt a s src 2 0xFF 3 pa
  else d.reportAt a s src 6 0xFF 3 pa

/-- UNCORRECTABLE_REREAD (R357): the second read of a line. One that fails again leaves the line to be delivered with
poison, which its mark shows (assumption log 19). -/
def Dev.reread (a : Tables) (d : Dev) (s : Nat) (far : Bool) (ch pa : Nat) (second : ReadResult) : Dev :=
  let src := chanSrc far ch
  match second with
  | .uncorrectable =>
    let d := (d.poisonLine (lineBase pa)).reportAt a s src 2 0xFF 1 pa
    match d.farAt pa with
    | some (t, l) => if ((d.chan t l.ch).marked.any fun m => m.1 = l.rank) then d else d.rowError t l 15
    | none => d
  | .clean => d.reportAt a s src 0 0xFF 1 pa
  | .correctable dv =>
    let d := d.reportAt a s src 0 0xFF 1 pa
    match d.farAt pa with
    | some (t, l) => (d.deviceError t l dv.val).rowError t l 1
    | none => d

/-! ### Repairs -/

/-- SOFT_PPR (R371, R372): a candidate row is repaired, one per bank group of each rank, as a blackout, which is due while R325
holds it back; its lines keep their contents. -/
def Dev.softPpr (d : Dev) (s ch : Nat) (l : FarLoc) : Dev :=
  let c := d.chan s ch
  let key := l.rank * 8 + l.bg
  let me : Blackout := .repair l.rank l.sub l.bg l.bank l.row
  if (Tbl.find c.sppr key).isSome || Tbl.get 0 c.rowErr (rowKey l) < Nat.max 1 (d.fld s .fmRas ch 0 35 32) then d
  else if d.blackoutHeld s true ch then
    if c.due.contains me then d else d.onChan s ch fun c => { c with due := c.due ++ [me] }
  else
    (d.onChan s ch fun c => { c with sppr := Tbl.put c.sppr key (rowKey l), rowErr := Tbl.set 0 c.rowErr (rowKey l) 0 })
      |>.bump s .fmRas ch 0 7 0 1

/-- A blackout that was due begins. -/
def Dev.blackoutGo (d : Dev) (s : Nat) (far : Bool) (ch : Nat) (b : Blackout) : Dev :=
  match b with
  | .retrain ok ns => d.retrain s far ch ok ns
  | .repair rank sub bg bank row => d.softPpr s ch { ch, rank, sub, bg, bank, row, col := 0 }

/-- The blackouts that are due on a socket and that nothing holds back any more begin, in increasing channel number (R325). -/
def Dev.blackoutsGo (d : Dev) (s : Nat) : Dev :=
  d.each (((d.sock s).chans.filter fun e => e.2.due ≠ []).map Prod.fst) fun d k =>
    let far : Bool := decide (k < 12)
    let ch := if far then k else k - 16
    if d.blackoutHeld s far ch then d
    else
      let bs := (d.chan s k).due
      bs.foldl (fun d b => d.blackoutGo s far ch b) (d.onChan s k fun c => { c with due := [] })

/-- The agents whose arrays a code names (R373). -/
def repairTarget (array agent : Nat) : Bool :=
  if array ≤ 5 then agent < 208
  else if array ≤ 7 then 0x100 ≤ agent && agent < 0x168
  else array ≤ 10 && (agent = 0x200 || agent = 0x201)

/-- Empty the sets of an array that a row or column holds (R367). -/
def Dev.emptySets (a : Tables) (d : Dev) (s : Sock) (array agent : Nat) (hit : Nat → Bool) : Dev :=
  if array ≤ 5 then
    let h : Hart := { sock := s, core := ⟨agent % 208, by omega⟩ }
    let c := d.core h
    if array ≤ 1 then d.onCore h fun c => { c with l1i := c.l1i.filter fun e => !hit (e.1 / 8) }
    else if array ≤ 3 then
      d.onCore h fun c => ((c.l1d.filter fun e => hit (e.1 / 8)).map fun e => e.2.la).foldl
        (fun c la => (c.syncD la).dropD la) c
    else
      let las := (c.l2.filter fun e => hit (e.1 / 16)).map fun e => e.2.la
      d.each las fun d la => (d.evict2 a h la).quiesce a
  else if array ≤ 7 then
    (d.walk a s ⟨(agent - 0x100) % 104, Nat.mod_lt _ (by decide)⟩ fun k _ => hit (k / 16)).2
  else
    let u : Fin 2 := ⟨agent % 2, Nat.mod_lt _ (by decide)⟩
    if array = 8 then
      d.each ((d.hub s u).xdir.filter fun e => hit (e.1 / 16)) fun d e => d.evictX a s u e.1 e.2
    else if array = 9 then
      d.onHub s u fun h => { h with
        cached := h.cached.filter fun e => !hit e.1
        remap := h.remap.filter fun e => !hit (e.1 / 8) }
    else d.onHub s u fun h => { h with heat := h.heat.filter fun e => !hit (e.1 / 16) }

/-- SOFT_REPAIR, GO of WH_REPAIR (R366, R367): four spare rows and two spare columns to a subarray, whose sets no chapter
gives (assumption log 5). -/
def Dev.softRepair (a : Tables) (d : Dev) (s : Sock) : Dev :=
  let w := d.reg s .whRepair 0 0
  let array := bits w 52 48
  let agent := bits w 11 0
  let col := bit w 44
  let sub := bits w 43 36
  let idx := bits w 25 16
  let key := ((array * 4096 + agent) * 256 + sub) * 2 + col.toNat
  let used := Tbl.get 0 (d.wheel s).repairs key
  let finish := fun (d : Dev) (st : Nat) => (d.setFld s .whRepair 0 0 63 63 0).setFld s .whRepair 0 0 58 56 st
  if !repairTarget array agent then finish d 4
  else if (if col then 2 else 4) ≤ used then finish (d.reportUnit s agent 6 0xFF 0 15 0) 3
  else
    let d := d.quiesce a
    let d := d.emptySets a s array agent fun set => Config.repairHolds array sub col idx set
    finish (d.onWheel s fun x => { x with repairs := Tbl.set 0 x.repairs key (used + 1) }) 2

/-! ### CXL (R319 to R321) -/

/-- The first byte of a CXL port's window. -/
def cxlBase (s p : Nat) : Nat := windowBase s + 0x400000000000 + p * 0x100000000000

/-- Map the expanders of a port in order, up to eight and 4,096 GiB; the rest is left unmapped and noted (R319). -/
def Dev.mapCxl (d : Dev) (s p : Nat) : Dev :=
  let xs := (d.port s (cxlRoot p)).expanders
  let total := xs.foldl (· + ·) 0
  let cap := Nat.min 4096 ((xs.take 8).foldl (· + ·) 0)
  let w := d.reg s .fmCxl (p / 2) (p % 2)
  let d := d.setReg s .fmCxl (p / 2) (p % 2) (putBits (putBits (putBits w 44 32 cap) 51 48 (Nat.min 8 xs.length)) 63 60 2)
  if cap < total then d.notice s (0x800 + cxlRoot p) else d

/-- CXL_HOT_ADD: an expander trains on a configured port (R321). -/
def Dev.cxlAdd (d : Dev) (s p gibs : Nat) : Dev :=
  let st := d.fld s .fmCxl (p / 2) (p % 2) 63 60
  let cxl := d.fld s .pxPortCfg (cxlRoot p) 0 62 62 = 1
  if st = 3 || st = 4 || (d.port s (cxlRoot p)).lost || !cxl then d
  else
    let d := d.onPort s (cxlRoot p) fun x => { x with expanders := x.expanders ++ [gibs], present := true }
    d.mapCxl s p

/-- The berths that own ranges in a stretch of memory. -/
def Tables.owners (t : Tables) (lo hi : Nat) : List Nat :=
  ((t.ranges.filter fun r => r.base < hi && lo < r.limit && r.berth ≠ 0).map fun r => r.berth).eraseDups

/-- CXL_SURPRISE_REMOVAL or loss of the link (R321): the expanders' addresses are poisoned from now on, and each berth that
owns a range there suffers Fatal-berth. -/
def Dev.cxlLost (a : Tables) (d : Dev) (s p : Nat) : Dev :=
  let lo := cxlBase s p
  let d := d.onPort s (cxlRoot p) fun x => { x with lost := true, present := false, due := 0 }
  let d := d.setFld s .fmCxl (p / 2) (p % 2) 63 60 0
  (a.owners lo (lo + 4096 * gib)).foldl (fun d b => d.reportUnit s (0x800 + cxlRoot p) 7 0xFF b 0 lo) d

/-- CXL_MEM_TIMEOUT (R320): the next request of the port has no response, so it ends in poison or is dropped; four in a row
fence the port. -/
def Dev.cxlTimeout (d : Dev) (s p : Nat) : Dev :=
  let n := (d.chan s (32 + p)).cxlTimeouts + 1
  let d := d.onPort s (cxlRoot p) fun x => { x with due := x.due + 1 }
  let d := d.onChan s (32 + p) fun c => { c with cxlTimeouts := n }
  let d := d.reportUnit s (0x800 + cxlRoot p) 0xD 0xFF 0 0 0
  if n = 4 then d.reportUnit s (0x800 + cxlRoot p) 6 0xFF 0 0 0 else d

end Sys2Proof.Machine
end

