-- ==== Sys2Proof/Machine/Links.lean ====
section
/-! DEFINITION. Crossing links: training (R280 to R282), flits, re-sends and credits (R283 to R288), lane sparing (R290), the
links of a neighbour (R291), and what ends a crossing transaction without an answer (R299). -/

namespace Sys2Proof.Machine

/-! ### Message codes -/

/-- The message type of a TYPE code (R257). -/
def typeOfCode (n : Nat) : Option MsgType :=
  match n with
  | 0x01 => some .rds | 0x02 => some .rdc | 0x03 => some .rdm | 0x04 => some .upg | 0x05 => some .evs | 0x06 => some .evc
  | 0x08 => some .nrd | 0x09 => some .drd | 0x10 => some .hrds | 0x11 => some .hrdm | 0x12 => some .hupg
  | 0x13 => some .hevs | 0x20 => some .fwds | 0x21 => some .fwdm | 0x22 => some .fwdr | 0x23 => some .inv
  | 0x24 => some .binv | 0x25 => some .hprs | 0x26 => some .hprm | 0x27 => some .hprr | 0x28 => some .ack
  | 0x29 => some .fack | 0x2A => some .pack | 0x2B => some .cmpack | 0x2C => some .grant | 0x2D => some .wback
  | 0x2E => some .retry | 0x30 => some .dats | 0x31 => some .date | 0x32 => some .datm | 0x33 => some .wbm
  | 0x34 => some .wbs | 0x35 => some .nwr | 0x36 => some .pwr | 0x37 => some .atm | 0x38 => some .atr
  | 0x39 => some .dwr | 0x3A => some .drsp
  | _ => none

/-! ### States -/

/-- Move a link to a state. -/
def Dev.setLink (d : Dev) (s k st : Nat) : Dev := d.setFld s .xlLinkStat k 0 34 32 st

/-- The data lanes a width uses. -/
def lanesOf (width : Nat) : List Nat := if width = 1 then List.range 8 else if width = 2 then (List.range 8).map (· + 8) else List.range 16

/-- The credits of a link after ACTIVE is entered: 64 REQ, 64 FWD and 32 DAT of each class (R288), keyed by plane × 2 +
class. -/
def fullCredits : Tbl Nat := [(0, 64), (1, 64), (2, 64), (3, 64), (4, 32), (5, 32)]

/-- Bytes of a flit that the CRC covers (R283, R286). -/
def flitBody (f : Flit) : List Byte := leBytes 8 f.hdr.toNat ++ leBytes 240 f.slots.toNat

/-- The flit of a header and slots, with its CRC. -/
def mkFlit (hdr : Word) (slots : BitVec 1920) : Flit :=
  let f : Flit := { hdr, slots, crc := 0 }
  { f with crc := word (crc64Of (flitBody f)) }

/-- The credits of one plane and class, up to 63, go back in a flit header (R288). -/
def XLink.creditBack (x : XLink) : XLink :=
  match x.owed with
  | [] => x
  | (k, n) :: r => { x with owed := if 63 < n then (k, n - 63) :: r else r }

/-- A received message has gone on: its credit is owed (R288). -/
def XLink.owe (x : XLink) (key : Nat) : XLink := { x with owed := Tbl.put x.owed key (Tbl.get 0 x.owed key + 1) }

/-- Send a message over a link as a payload flit of its own: held back without a credit, with 511 flits unacknowledged, or
while a route switch holds sends (R287, R288, R294). Its header returns the credits of one plane and class. `slots` are the message's
header and data slots with their marks. -/
def Dev.sendFlit (d : Dev) (s k plane cls : Nat) (slots : List (BitVec 128 × Nat)) : Bool × Dev :=
  let x := d.link s k
  let key := plane * 2 + cls
  if d.linkState s k ≠ 4 || x.hold || Tbl.get 0 x.credits key = 0 || 511 ≤ x.replay.length then (false, d)
  else
    let n := slots.length
    let body := (List.range n).foldl (fun acc i =>
      acc ||| ((slots.getD i (0, 0)).1.setWidth 1920 <<< (128 * i))) (0 : BitVec 1920)
    let marks := (List.range n).foldl (fun acc i => acc + (slots.getD i (0, 0)).2 * 4 ^ i) 0
    let back := x.owed.headD (6, 0)
    let hdr := word (x.seq * 2 ^ 54 + x.good * 2 ^ 44 + x.nakDue.toNat * 2 ^ 43 + back.1 / 2 * 2 ^ 39 + back.1 % 2 * 2 ^ 38 +
      Nat.min 63 back.2 * 2 ^ 32 + marks)
    let f := mkFlit hdr body
    (true, (d.linkEvent s k 0x60 (nbits (slots.headD (0, 0)).1.toNat 106 101) 1).onLink s k fun x =>
      { x.creditBack with
        seq := (x.seq + 1) % 1024
        replay := x.replay ++ [f]
        credits := Tbl.set 0 x.credits key (Tbl.get 0 x.credits key - 1) })

/-- A link goes DOWN (R280): it signals nothing; its unacknowledged flits go, in order, to a usable link to the same
neighbour, or stay for the route switch (R294). -/
def Dev.linkDown (d : Dev) (s k : Nat) : Dev :=
  let peer := d.fld s .xlLinkStat k 0 47 44
  let was := d.linkState s k = 4 || d.linkState s k = 5
  let d := d.setLink s k 6
  match (if was then d.usable s peer else []) with
  | [] => d
  | j :: _ =>
    let fs := (d.link s k).replay
    let d := d.onLink s k fun x => { x with replay := [] }
    fs.foldl (fun d f =>
      let x := d.link s j
      let hdr := putBits f.hdr 63 54 x.seq
      d.onLink s j fun x => { x with seq := (x.seq + 1) % 1024, replay := x.replay ++ [mkFlit hdr f.slots] }) d

/-- A failure of a link reported as Recoverable-unit, and the link down (R282). -/
def Dev.linkFailed (d : Dev) (s k : Nat) : Dev := (d.linkDown s k).reportUnit s (0xE00 + k) 6 0xFF 0 14 0

/-! ### Training -/

/-- LINK_DETECT: lanes that detect a partner (R280). A missing data lane is carried by lane 16. -/
def Dev.linkDetect (d : Dev) (s k : Nat) (lanes : BitVec 17) : Dev :=
  if d.linkState s k ≠ 1 then d
  else
    let missing := (List.range 17).filter fun l => !lanes.getLsbD l
    match missing with
    | [] => d.setLink s k 2
    | [l] =>
      let d := d.setLink s k 2
      if l = 16 then d.onLink s k fun x => { x with spareBad := true }
      else (d.setReg s .xlLinkStat k 0 (putBit (d.reg s .xlLinkStat k 0) l true)).setFld s .xlLinkStat k 0 20 16 l
    | _ => d

/-- LINK_EQUALIZE: the lanes that reach their error-rate target; every used lane must (R280). RETRAIN equalizes again, but waits
during a supply dip (R282). -/
def Dev.linkEqualize (d : Dev) (s k : Nat) (lanes : BitVec 17) : Dev :=
  let at_ := d.linkState s k
  if at_ ≠ 2 && (at_ ≠ 5 || d.dipping s) then d
  else
    let st := d.reg s .xlLinkStat k 0
    let spared := bits st 20 16
    let used := ((lanesOf (bits st 31 30)).filter (· ≠ spared)) ++ (if spared = 0x1F then [] else [16])
    if used.all fun l => lanes.getLsbD l then
      (if at_ = 2 then d.setLink s k 3 else d.onLink s k fun x => { x with equalized := true })
    else d

/-- The ID that a socket's straps gave it (R11). -/
def Dev.sockId (d : Dev) (s : Nat) : Nat := (d.wheel s).board.sockId.toNat

/-- IDENTIFY (R281): ACTIVE when the IDs differ in one bit and the link numbers agree, else DOWN and a wiring error; all
credits return (R288). In RETRAIN it follows the equalization (R280). -/
def Dev.linkIdentify (d : Dev) (s k peer peerLink : Nat) : Dev :=
  let st := d.linkState s k
  if st ≠ 3 && (st ≠ 5 || !(d.link s k).equalized || d.dipping s) then d
  else if ((List.range 4).any fun i => peer = across (d.sockId s) i) && peerLink = k then
    let d := (d.setLink s k 4).setFld s .xlLinkStat k 0 47 44 peer
    d.onLink s k fun x => { x with fails := 0, naks := 0, credits := fullCredits, owed := [] }
  else (d.setLink s k 6).notice s (0xE00 + k)

/-- TRAINING_TIMEOUT (R282): the attempt starts again; the third failure takes the link DOWN. During a dip a RETRAIN
waits. -/
def Dev.trainingTimeout (d : Dev) (s k : Nat) : Dev :=
  let st := d.linkState s k
  if st = 0 || st = 4 || st = 6 || (st = 5 && d.dipping s) then d
  else
    let n := (d.link s k).fails + 1
    if n < 3 then (d.onLink s k fun x => { x with fails := n, equalized := false }).setLink s k (if st = 5 then 5 else 1)
    else (d.onLink s k fun x => { x with fails := 0 }).linkFailed s k

/-- An ACTIVE link goes to RETRAIN, on XL_LINK_CTL.RETRAIN or under R287 or R290 (R280); during a dip it waits for its end (R282,
R467). -/
def Dev.linkRetrain (d : Dev) (s k : Nat) : Dev :=
  if d.linkState s k ≠ 4 then d
  else if d.dipping s then d.onWheel s fun w => { w with dipDeferred := w.dipDeferred ++ [(true, k)] }
  else (d.onLink s k fun x => { x with equalized := false }).setLink s k 5

/-- LINK_DISABLE: XL_LINK_CTL.DISABLE; setting it stops signalling, clearing it starts detection (R280). -/
def Dev.linkDisable (d : Dev) (s k : Nat) (v : Bool) : Dev :=
  let d := d.setFld s .xlLinkCtl k 0 8 8 v.toNat
  if v then (d.setReg s .xlLinkStat k 0 Reg.xlLinkStat.resetWord).onLink s k fun _ => XLink.reset
  else if d.linkState s k = 0 then d.setLink s k 1
  else d

/-! ### Lane checks (R290) -/

/-- The width a link can run at with some data lanes failed, and the lane its spare carries (0x1F none): the full width
with at most one, else a half with at most one; none when no half is usable. -/
def laneMap (failed : List Nat) (spareBad : Bool) : Option (Nat × Nat) :=
  let fit := fun (width : Nat) =>
    match (lanesOf width).filter failed.contains with
    | [] => some (width, 0x1F)
    | [l] => if spareBad then none else some (width, l)
    | _ => none
  fit 0 <|> fit 1 <|> fit 2

/-- LANE_CHECK: the lanes that failed this check or lost lock. -/
def Dev.laneCheck (d : Dev) (s k : Nat) (failed : BitVec 17) : Dev :=
  if d.linkState s k ≠ 4 then d
  else
    let w := d.reg s .xlLinkStat k 0
    let fresh := (List.range 16).filter fun l => failed.getLsbD l && !bit w l
    let spareNew := failed.getLsbD 16 && !(d.link s k).spareBad
    let d := fresh.foldl (fun d l =>
      (d.setReg s .xlLinkStat k 0 (putBit (d.reg s .xlLinkStat k 0) l true)).reportUnit s (0xE00 + k) 0 l 0 14 0) d
    let d := if spareNew then
        (d.onLink s k fun x => { x with spareBad := true }).reportUnit s (0xE00 + k) 0 16 0 14 0
      else d
    if fresh.isEmpty && !spareNew then d
    else
      let all := (List.range 16).filter fun l => bit (d.reg s .xlLinkStat k 0) l
      let was := bits w 31 30
      match laneMap all (d.link s k).spareBad with
      | none => d.linkDown s k
      | some (width, lane) =>
        let keep := if was = 0 then width else if width = 0 then was else width
        let lane := if keep = width then lane else ((lanesOf keep).filter all.contains).headD 0x1F
        let d := (d.setFld s .xlLinkStat k 0 31 30 keep).setFld s .xlLinkStat k 0 20 16 lane
        if keep = was then d else d.linkRetrain s k

/-! ### Re-sends (R287) -/

/-- Sequence numbers from `a` up to `b`, modulo 1,024. -/
def seqGap (a b : Nat) : Nat := (b + 1024 - a) % 1024

/-- ACK: flits up to it leave the replay buffer. -/
def XLink.acked (x : XLink) (ack : Nat) : XLink :=
  { x with replay := x.replay.filter fun f => !(seqGap (bits f.hdr 63 54) ack < 512) }

/-- The berth of the first message header that a flit carries; 0 where it carries data alone. -/
def flitBerth (f : Flit) : Nat :=
  match (List.range 15).find? fun i => bits f.hdr (2 * i + 1) (2 * i) = 1 with
  | some i => nbits (f.slots.extractLsb' (128 * i) 128).toNat 106 101
  | none => 0

/-- NAK: everything from ACK + 1 is sent again; the eighth in a row with one ACK takes the link to RETRAIN. -/
def Dev.nakd (d : Dev) (s k ack : Nat) : Dev :=
  let d := d.onLink s k fun x => x.acked ack
  let x := d.link s k
  let n := if x.naks ≠ 0 && x.nakAck = ack then x.naks + 1 else 1
  let d := d.onLink s k fun x => { x with naks := n, nakAck := ack }
  let d := if x.replay.isEmpty then d
    else
      let d := x.replay.foldl (fun (d : Dev) f => d.linkEvent s k 0x62 (flitBerth f) 1) d
      (d.bump s .xlLinkCnt k 0 63 32 x.replay.length).reportUnit s (0xE00 + k) 0 0xFF 0 14 0
  if n < 8 then d else (d.onLink s k fun x => { x with naks := 0 }).linkRetrain s k

/-! ### Receiving -/

/-- The agent of a socket for an address: its home agent's hub or its home slice. -/
def Dev.sliceAt (d : Dev) (s : Nat) (pa : Nat) : Node := d.homeSlice ⟨s % 16, Nat.mod_lt _ (by decide)⟩ pa

/-- Whether a type is a request or answer of a slice to a home agent. -/
def toHome (ty : MsgType) : Bool :=
  match ty with
  | .hrds | .hrdm | .hupg | .hevs | .fack | .pack | .cmpack | .wbm | .wbs | .nwr | .pwr => true
  | _ => false

/-- The message of a header and payload that came over a crossing, its DEST and SRC formed again (R257, R285). None for a
type that no crossing carries. -/
def Dev.crossed (d : Dev) (h : BitVec 128) (data : Line) (poison : Bool) : Option Msg :=
  match typeOfCode (nbits h.toNat 127 122) with
  | none => none
  | some ty =>
    let pa := nbits h.toNat 51 0
    let ds := nbits h.toNat 121 118
    let ss := nbits h.toNat 117 114
    let master := BitVec.ofNat 16 (nbits h.toNat 100 85)
    let who := (nodeOf master).getD (d.sliceAt ss pa)
    let home := homeNode pa
    let fromHome := homeSock pa = ss
    let dst : Option Node :=
      if toHome ty then some home
      else
        match ty with
        | .hprs | .hprm | .hprr | .grant | .atm => some (d.sliceAt ds pa)
        | .wback | .retry =>
          match who with
          | .slice .. => some (d.sliceAt ds pa)
          | .core .. => if ty = .wback then some who else some (d.sliceAt ds pa)
          | _ => some who
        | .dats | .datm | .atr | .drsp => some who
        | .drd | .dwr => some (deviceNode ⟨ds % 16, Nat.mod_lt _ (by decide)⟩ pa)
        | _ => none
    let src : Node :=
      match ty with
      | .drd | .dwr | .nwr | .pwr | .atm => who
      | .hprs | .hprm | .hprr | .grant | .wback | .retry => if fromHome then home else d.sliceAt ss pa
      | .drsp => deviceNode ⟨ss % 16, Nat.mod_lt _ (by decide)⟩ pa
      | .dats | .datm => if fromHome then home else d.sliceAt ss pa
      | _ => d.sliceAt ss pa
    dst.map fun dst =>
      { ty, src, dst, berth := BitVec.ofNat 6 (nbits h.toNat 106 101), master, txn := BitVec.ofNat 12 (nbits h.toNat 84 73),
        age := BitVec.ofNat 20 (nbits h.toNat 72 53), aux := h.getLsbD 52, addr := BitVec.ofNat 52 pa, len := 64, data, poison }

/-- A whole message has come over a link: into the mesh at its destination, on toward it by its class's route, DOWN set at its first
down hop (R292, R293), or, with no type of a crossing, discarded as a protocol fault (R257, R284, R285). A message that cannot go on
waits in the link's receive buffers, and its credit goes back when it has gone (R288). -/
def Dev.arrive (d : Dev) (s k : Nat) (slots : List (BitVec 128 × Nat)) : Dev :=
  match slots with
  | [] => d
  | (h, _) :: rest =>
    let code := nbits h.toNat 127 122
    let ds := nbits h.toNat 121 118
    if ds ≠ s then
      let cls := nbits h.toNat 113 113
      let pa := nbits h.toNat 51 0
      let next := (d.routeDim s ds cls (h.getLsbD 112)).bind fun i =>
        (d.hopLink s (across s i) (homeHub pa % 2) (if pa = 0 then nbits h.toNat 84 73 else nbits pa 13 6)).map fun j => (i, j)
      let (ok, d) := match next with
        | none => (false, d)
        | some (i, j) =>
          let h' := if cls = 1 && !hopUp (d.levels s) (s, across s i) then h ||| (1#128 <<< 112) else h
          d.sendFlit s j (planeOfCode code) cls ((h', 1) :: rest)
      d.onLink s k fun x => if ok then x.owe (planeOfCode code * 2 + cls) else { x with rx := x.rx ++ [slots] }
    else
      let d := d.onLink s k fun x => x.owe (planeOfCode code * 2 + nbits h.toNat 113 113)
      match d.crossed h (lineOfBytes (rest.flatMap fun x => leBytes 16 x.1.toNat)) (rest.any fun x => x.2 = 3) with
      | some m => d.send m
      | none =>
        d.report s { src := 0xE00 + k, cls := 9, sub := 0xFF, master := nbits h.toNat 100 85, berth := nbits h.toNat 106 101,
                     access := 14, addr := nbits h.toNat 51 0 }

/-- The messages that wait in the receive buffers of a socket's links try again, in order. -/
def Dev.rxGo (d : Dev) (s : Nat) : Dev :=
  d.each (List.range 8) fun d k =>
    match (d.link s k).rx with
    | [] => d
    | l => d.each l fun d m => (d.onLink s k fun x => { x with rx := x.rx.drop 1 }).arrive s k m

/-- An idle flit returns the credits of one plane and class over each ACTIVE link of a socket that owes some (R288). -/
def Dev.idleFlits (d : Dev) (s : Nat) : Dev :=
  d.each (List.range 8) fun d k =>
    if d.linkState s k = 4 && !(d.link s k).owed.isEmpty then d.onLink s k XLink.creditBack else d

/-- One slot of an accepted flit (R284): a header starts a message, data continues it. -/
def Dev.slot (d : Dev) (s k : Nat) (v : BitVec 128) (mark : Nat) : Dev :=
  if mark = 0 then d
  else
    let part := if mark = 1 then [(v, mark)] else if (d.link s k).part.isEmpty then [] else (d.link s k).part ++ [(v, mark)]
    let need := match part with
      | (h, _) :: _ => if planeOfCode (nbits h.toNat 127 122) = 2 then 5 else 1
      | [] => 0
    if need ≠ 0 && part.length = need then
      let b := nbits (part.headD (0, 0)).1.toNat 106 101
      ((d.linkEvent s k 0x61 b 1).onLink s k fun x => { x with part := [] }).arrive s k part
    else d.onLink s k fun x => { x with part }

/-- A received flit (R283 to R288). -/
def Dev.flit (d : Dev) (s k : Nat) (f : Flit) : Dev :=
  if d.linkState s k ≠ 4 then d
  else if f.crc ≠ word (crc64Of (flitBody f)) then
    (d.bump s .xlLinkCnt k 0 31 0 1).onLink s k fun x => { x with nakDue := true }
  else
    let seq := bits f.hdr 63 54
    let ack := bits f.hdr 53 44
    let plane := bits f.hdr 40 39
    let d := if bit f.hdr 43 then d.nakd s k ack else d.onLink s k fun x => { x.acked ack with naks := 0 }
    let d := if plane = 3 then d
      else d.onLink s k fun x =>
        let key := plane * 2 + bits f.hdr 38 38
        { x with credits := Tbl.set 0 x.credits key (Tbl.get 0 x.credits key + bits f.hdr 37 32) }
    let d := d.rxGo s
    if bits f.hdr 42 41 ≠ 0 then d
    else if seq = ((d.link s k).good + 1) % 1024 then
      let d := d.onLink s k fun x => { x with good := seq, nakDue := false }
      (List.range 15).foldl (fun d i =>
        d.slot s k (f.slots.extractLsb' (128 * i) 128) (bits f.hdr (2 * i + 1) (2 * i))) d
    else d.onLink s k fun x => { x with nakDue := true }

/-! ### No answer (R299) -/

/-- CROSSING_TIMEOUT: an agent's transaction that went over a crossing ends as if the socket were absent: its slice's
request for a line, a core's device access, or a read or write of an agent without caches. -/
def Dev.crossingTimeout (a : Tables) (d : Dev) (n : Node) (txn : BitVec 12) : Dev :=
  match n with
  | .slice s p =>
    match (d.slice s p).txns.find? fun t => t.home && t.req.txn = txn && homeSock (t.la * 64) ≠ s.val with
    | none => d
    | some t =>
      let ty : MsgType := if t.req.ty = .rds || t.req.ty = .rdc || t.req.ty = .nrd then .hrds else .hrdm
      let core := (coreFrom s t.req).isSome
      let m : Msg := { t.req.fromSlice s p ty (homeNode (t.la * 64)) with data := if core then 0 else sliceOnly }
      let d := { d with net := d.net.filter fun x => !(x.src = n && lineOf x.pa = t.la && toHome x.ty) }
      ((d.absentHome m).drain a 64)
  | _ =>
    match d.net.find? fun m => m.src = n && m.txn = txn && m.dst.sock ≠ n.sock with
    | some m => (({ d with net := d.net.erase m } : Dev).absentHome m).drain a 64
    | none =>
      match d.inbox.find? fun m => m.src = n && m.txn = txn && m.dst.sock ≠ n.sock with
      | some m => ({ d with inbox := d.inbox.erase m } : Dev).absentHome m
      | none => d

end Sys2Proof.Machine
end

