-- ==== Sys2Proof/Machine/Interrupts.lean ====
section
/-! DEFINITION. Pending vectors of a core (the local vectors and R436), waking from WFI (R112), and the interrupt router's
delivery of messages (R106 to R108). -/

namespace Sys2Proof.Machine

/-- The doorbell register index of a core: its own, or the Wheelhouse's for a management core (R436). -/
def doorbellOf (h : Hart) : Nat := if isWheel h then 255 else h.core.val

/-- Whether a core's doorbell has an unmasked bit pending (R436). -/
def Dev.doorbell (d : Dev) (h : Hart) : Bool :=
  bits (d.reg h.sock .dbPend (doorbellOf h) 0 &&& ~~~ d.reg h.sock .dbMask (doorbellOf h) 0) 31 0 ≠ 0

/-- PEND of a vector of a core: the timers and the doorbell, local vectors 1, 2 and 4, are pending while their condition holds, or when
SYS_IVCFG.PEND has raised them (R108). -/
def Dev.pend (d : Dev) (h : Hart) (n : Nat) : Bool :=
  let c := d.core h
  let timer := fun (r : Nat) => c.sysGet r ≠ 0 && (c.sysGet r).toNat ≤ d.now.toNat
  match n with
  | 1 => timer 0x106 || bit (c.ivGet n) 63
  | 2 => timer 0x206 || bit (c.ivGet n) 63
  | 4 => d.doorbell h || bit (c.ivGet n) 63
  | _ => bit (c.ivGet n) 63

/-- A vector that completes a waiting core's WFI (R112): the WFI retires and the core goes on. -/
def Dev.wake (d : Dev) (h : Hart) : Dev :=
  let c := d.core h
  if c.run = .waiting && c.wfiDone (d.pend h) then d.onCore h fun c => { c.next with run := .running } else d

/-- Raise a vector of a core (R108). -/
def Dev.raise (d : Dev) (h : Hart) (n : Nat) : Dev := (d.onCore h fun c => c.raise n).wake h

/-- The core of a number, if it is one of the 208. -/
def hartOf (s c : Nat) : Option Hart :=
  if h : c < 208 then some { sock := ⟨s % 16, Nat.mod_lt _ (by decide)⟩, core := ⟨c, by omega⟩ } else none

/-- Ring a doorbell bit and wake its core. -/
def Dev.ringWake (d : Dev) (s r : Nat) : Dev :=
  match hartOf s r with
  | some h => d.wake h
  | none => d

/-- Whether a core can receive messages (R106): its pod is enabled, and it is neither fenced nor in reset, which lasts until it is
started (R508; assumption log 27). -/
def Dev.coreThere (d : Dev) (h : Hart) : Bool :=
  (d.enabledPods h.sock).contains (podOf h) && (d.core h).run ≠ .fenced && (d.core h).run ≠ .held && (d.core h).run ≠ .resetting

/-- A write to the interrupt window of a socket (R106, R363), reported by the interrupt router of the hub on the core's
side (tiles T0 to T3 on H0; assumption log 21): the vector is raised, or the message is dropped with a
Note, or, poisoned, with a Deferred report. A 4-byte write at another offset of a core's 4 KiB slot, which R106 does not list,
is dropped with a Note as well: DESIGN CHOICE (assumption log 30). -/
def Dev.interrupt (t : Tables) (d : Dev) (s off len : Nat) (data : BitVec 32) (berth master : Nat) (poisoned : Bool) : Dev :=
  let addr := 0x000FE00000000000 + s * 0x100000 + off
  let ev : FEv := { src := 0x206 + off / 0x1000 / 104 % 2, cls := 5, sub := 0xFF, master, berth, access := 8, addr }
  if poisoned then d.report s { ev with cls := 3 }
  else
    match hartOf s (off / 0x1000) with
    | none => d.report s ev
    | some h =>
      let owner := t.berthOf h
      if off % 0x1000 ≠ 0 || len ≠ 4 || 1024 ≤ data.toNat || data.toNat < 16 || !d.coreThere h ||
          (berth ≠ 0 && owner ≠ berth) then
        d.report s (if berth ≠ 0 && owner ≠ berth then { ev with cls := 4 } else ev)
      else d.raise h data.toNat

/-- The message a requester sends to an interrupt window: a device write to that socket's target. -/
def interruptMsg (src : Node) (berth master : Nat) (addr : Nat) (data : BitVec 32) : Msg :=
  { ty := .dwr, src, dst := .target ⟨(addr - 0x000FE00000000000) / 0x100000 % 16, Nat.mod_lt _ (by decide)⟩,
    berth := BitVec.ofNat 6 berth, master := BitVec.ofNat 16 master, txn := 0, age := 0, aux := true,
    addr := BitVec.ofNat 52 addr, len := 4, data := data.setWidth 512, poison := false }

end Sys2Proof.Machine
end

