-- ==== Sys2Proof/Machine/Insn.lean ====
section
/-! DEFINITION. How a hart takes an instruction command: waking from WFI, annulled windows, stalls, retirement. -/

namespace Sys2Proof.Machine

/-- The instruction at the PC was fetched with poison: it cannot retire, and TRAP_ENTRY takes its PC trap (R117). -/
def Core.fetchPoisoned (c : Core) : Bool :=
  match c.fetchQ with
  | e :: _ => e.pc = c.pc && e.poison
  | [] => false

/-- Take one instruction: a core that is not running takes none; a window being annulled annuls it (R80); behind an
instruction that has not retired, a device load outstanding, or a poisoned fetch it waits; otherwise `body` is its effect. -/
def Dev.insn (d : Dev) (h : Hart) (body : Dev → Dev) : Dev :=
  let d := d.wake h
  let c := d.core h
  if c.run ≠ .running then d
  else if 0 < c.annul then d.onCore h Core.annulOne
  else if !c.lq.isEmpty || c.devLoad.isSome || c.fetchPoisoned then d
  else body d

/-- An instruction whose effect is a change of the core, after which the next instruction follows. -/
def Dev.regInsn (d : Dev) (h : Hart) (f : Core → Core) : Dev :=
  d.insn h fun d => d.onCore h fun c => (f c).next

/-- The hart is ready: `insn` runs the body. -/
def Dev.ready (d : Dev) (h : Hart) : Bool := (d.core h).ready && !(d.core h).fetchPoisoned

end Sys2Proof.Machine
end

