-- ==== Sys2Proof/Machine/Predict.lean ====
section
/-! DEFINITION. The branch predictor (R155 to R169): prediction, training, histories and the return stack. -/

namespace Sys2Proof.Machine

/-- History length and tag width of TT1 to TT8. -/
def tagTables : List (Nat × Nat) := [(4, 9), (10, 9), (24, 10), (58, 10), (140, 11), (342, 11), (832, 12), (2048, 12)]

/-- The xor of the successive `w`-bit pieces of the low `n` bits of `x` (R158). -/
def foldBits (x n w : Nat) : Nat :=
  (List.range ((n + w - 1) / w)).foldl (fun acc i => acc ^^^ ((x % 2 ^ n) >>> (w * i)) % 2 ^ w) 0

/-- The index of a tagged table (R158). -/
def ttIndex (l : Nat) (pc : Word) (hist : BitVec 2048) (path : BitVec 32) : Nat :=
  bits pc 12 2 ^^^ foldBits hist.toNat l 11 ^^^ foldBits path.toNat (2 * Nat.min l 16) 11

/-- The tag of a tagged table (R158). -/
def ttTag (l t : Nat) (pc : Word) (hist : BitVec 2048) : Nat :=
  bits pc (12 + t) 13 ^^^ foldBits hist.toNat l t ^^^ foldBits hist.toNat l (t - 1) * 2

/-- The key of the entry of table `i` (0 to 7) for a branch, and its tag. -/
def ttKey (i : Nat) (pc : Word) (hist : BitVec 2048) (path : BitVec 32) : Nat × Nat :=
  let lt := tagTables.getD i (4, 9)
  (i * 2048 + ttIndex lt.1 pc hist path, ttTag lt.1 lt.2 pc hist)

/-- The tables whose entry matches, longest history first. An entry that nothing has written since CORE reset matches no tag, not even
0: the spec gives an entry no valid bit and no tag after reset; DESIGN CHOICE (assumption log 30). -/
def Predictor.matching (p : Predictor) (pc : Word) (hist : BitVec 2048) (path : BitVec 32) : List Nat :=
  ((List.range 8).filter fun i =>
    let k := ttKey i pc hist path
    match Tbl.find p.tagged k.1 with
    | some e => e.tag = k.2
    | none => false).reverse

/-- The base table's prediction. -/
def Predictor.baseTaken (p : Predictor) (pc : Word) : Bool := 2 ≤ Tbl.get 0 p.base (bits pc 15 2)

/-- A tagged table's prediction. -/
def Predictor.ttTaken (p : Predictor) (i : Nat) (pc : Word) (hist : BitVec 2048) (path : BitVec 32) : Bool :=
  match Tbl.find p.tagged (ttKey i pc hist path).1 with
  | some e => 0 ≤ e.ctr
  | none => false

/-- The provider's and the alternate's prediction (R159). -/
def Predictor.direction (p : Predictor) (pc : Word) (hist : BitVec 2048) (path : BitVec 32) : Bool × Bool :=
  match p.matching pc hist path with
  | [] => (p.baseTaken pc, p.baseTaken pc)
  | [i] => (p.ttTaken i pc hist path, p.baseTaken pc)
  | i :: j :: _ => (p.ttTaken i pc hist path, p.ttTaken j pc hist path)

/-- Change an entry of a tagged table. -/
def Predictor.onTag (p : Predictor) (k : Nat) (f : TagEntry → TagEntry) : Predictor :=
  match Tbl.find p.tagged k with
  | some e => { p with tagged := Tbl.put p.tagged k (f e) }
  | none => p

/-- Training at a resolution (R160), steps 1 to 3; step 4 follows 262,144 resolutions (`execUsefulShift`). -/
def Predictor.train (p : Predictor) (pc : Word) (hist : BitVec 2048) (path : BitVec 32) (taken misp : Bool) : Predictor :=
  let ms := p.matching pc hist path
  let dir := p.direction pc hist path
  let key := fun i => (ttKey i pc hist path).1
  let p := match ms with
    | [] =>
      let n := Tbl.get 0 p.base (bits pc 15 2)
      { p with base := Tbl.set 0 p.base (bits pc 15 2) (if taken then Nat.min 3 (n + 1) else n - 1) }
    | i :: _ =>
      p.onTag (key i) fun e =>
        let e := { e with ctr := if taken then min 3 (e.ctr + 1) else max (-4) (e.ctr - 1) }
        if dir.1 = dir.2 then e else { e with useful := if dir.1 = taken then Nat.min 3 (e.useful + 1) else e.useful - 1 }
  let p := { p with resolved := p.resolved + 1 }
  if !misp then p
  else
    let longer := (List.range 8).filter fun i => match ms with
      | [] => true
      | j :: _ => j < i
    let free := longer.find? fun i => match Tbl.find p.tagged (key i) with
      | some e => e.useful = 0
      | none => true
    match free with
    | some i =>
      let e : TagEntry := { tag := (ttKey i pc hist path).2, ctr := if taken then 0 else -1, useful := 0 }
      { p with tagged := Tbl.put p.tagged (key i) e }
    | none => longer.foldl (fun p i => p.onTag (key i) fun e => { e with useful := e.useful - 1 }) p

/-- The global history that a head pointer names, newest outcome in bit 0 (R156). -/
def Predictor.view (p : Predictor) (head : BitVec 11) : BitVec 2048 := p.hist.rotateRight head.toNat

/-- Put an outcome at a place of the circular buffer: it takes the place of the oldest one (R156). -/
def Predictor.putOutcome (p : Predictor) (head : BitVec 11) (taken : Bool) : Predictor :=
  let one : BitVec 2048 := 1#2048 <<< head.toNat
  { p with hist := if taken then p.hist ||| one else p.hist &&& ~~~ one }

/-- Append one outcome and the path bits of the branch at `pc` (R157). -/
def Predictor.append (p : Predictor) (pc : Word) (taken : Bool) : Predictor :=
  let p := p.putOutcome (p.head - 1) taken
  { p with head := p.head - 1, path := pathPush p.path pc }

/-- What a control transfer is to the predictor (R156). -/
inductive BKind where
  | cond | jump | call | ret | ind | icall
  deriving DecidableEq, Repr

/-- The kind of a JALR (R77). -/
def jalrKind (rd ra : GReg) : BKind := if rd = 1 then .icall else if rd = 0 && ra = 1 then .ret else .ind

/-- The kinds by number, as an entry of the window keeps them. -/
def BKind.all : List BKind := [.cond, .jump, .call, .ret, .ind, .icall]

/-- The number of a kind. -/
def BKind.num (k : BKind) : Nat := BKind.all.findIdx (· = k)

/-- The kind of a number. -/
def BKind.ofNum (n : Nat) : BKind := BKind.all.getD n .cond

/-- The code of a kind in a BTB entry: conditional, jump, call, return, indirect. -/
def BKind.code : BKind → Nat
  | .cond => 0
  | .jump => 1
  | .call | .icall => 2
  | .ret => 3
  | .ind => 4

/-- Put an entry of a set of at most `ways` in a table; a full set loses its lowest key (the spec gives no replacement). -/
def putWays {α : Type} (t : Tbl α) (set : Nat → Nat) (ways k : Nat) (v : α) : Tbl α :=
  let mates := (t.filter fun e => set e.1 = set k && e.1 ≠ k).map Prod.fst
  let t := if ways ≤ mates.length then Tbl.erase t (mates.headD 0) else t
  Tbl.put t k v

/-- Write the BTB (8,192 entries, 2,048 sets of 4). -/
def Predictor.writeBtb (p : Predictor) (pc : Word) (k : BKind) (target : Word) : Predictor :=
  { p with btb := putWays p.btb (fun a => a / 4 % 2048) 4 pc.toNat (k.code, target) }

/-- Write L0 (64 entries): the first taken branch of a fetch group. -/
def Predictor.writeL0 (p : Predictor) (group pc target : Word) : Predictor :=
  { p with l0 := putWays p.l0 (fun _ => 0) 64 group.toNat ((pc - group).toNat / 4, target) }

/-- The key of the indirect target table: set and tag (R161). -/
def indKey (pc : Word) (path : BitVec 32) : Nat := (bits pc 9 2 ^^^ foldBits path.toNat 32 8) * 4096 + bits pc 21 10

/-- Write the indirect target table (256 sets of 4). -/
def Predictor.writeInd (p : Predictor) (pc : Word) (path : BitVec 32) (target : Word) : Predictor :=
  { p with indirect := putWays p.indirect (fun a => a / 4096) 4 (indKey pc path) (0, target) }

/-- Push a return address at F4 (R162). -/
def Predictor.push (p : Predictor) (v : Word) : Predictor :=
  { p with top := p.top + 1, ras := Tbl.set 0 p.ras (p.top + 1).toNat v }

/-- The return stack's top entry. -/
def Predictor.topVal (p : Predictor) : Word := Tbl.get 0 p.ras p.top.toNat

/-- The return-stack effect of a call or return. -/
def Predictor.rasStep (p : Predictor) (k : BKind) (next : Word) : Predictor :=
  match k with
  | .call | .icall => p.push next
  | .ret => { p with top := p.top - 1 }
  | _ => p

/-! ### Resolution of a branch or jump at its execution -/

/-- The checkpoint of an instruction: its own, or, for one without (R122), the retired copy. -/
def Predictor.checkpoint (p : Predictor) (f : Option Fetched) : Checkpoint :=
  (f.bind Fetched.chk).getD { head := p.rHead, path := p.rPath, top := p.rTop, topVal := Tbl.get 0 p.ras p.rTop.toNat }

/-- What the tables learn from a branch (R160, R161): the direction tables, the indirect table, and, where decode has not written
them, the BTB and L0. -/
def Predictor.learn (p : Predictor) (ctl : Word) (k : BKind) (f : Option Fetched) (live taken : Bool) (pc target npc : Word) :
    Predictor :=
  let chk := p.checkpoint f
  let view := p.view chk.head
  let guess := match f with
    | some e => e.taken
    | none => (Tbl.find p.btb pc.toNat).isSome && (p.direction pc view chk.path).1
  let p := if k = .cond && !bit ctl 1 then p.train pc view chk.path taken (guess ≠ taken) else p
  let p := if (k = .ret || k = .ind || k = .icall) && live then p.writeInd pc chk.path npc else p
  let p := if bit ctl 0 || f.isNone then p.writeBtb pc k target else p
  match f with
  | some e => if bit ctl 0 && live && taken then p.writeL0 e.group pc npc else p
  | none => p

/-- Whether the front end followed another path than the branch does. -/
def mispredicted (f : Option Fetched) (taken : Bool) (npc : Word) : Bool :=
  match f with
  | some e => e.taken ≠ taken || (taken && e.target ≠ npc)
  | none => false

/-- A branch executes (R160, R161, R164): the tables learn, unless they do so at retirement (R169); on a mispredict the front end is
repaired from the checkpoint, the branch's own update is made again, and fetch restarts at the right path. `i` is the place of
the branch in the window, and so in the fetch queue. -/
def Core.resolveAt (c : Core) (i : Nat) (f : Option Fetched) (k : BKind) (live taken : Bool) (pc target npc : Word) : Core :=
  let ctl := c.sysGet 0x20C
  let c := if bit ctl 0 then c else { c with pred := c.pred.learn ctl k f live taken pc target npc }
  if !mispredicted f taken npc then c
  else
    let p := c.pred
    let chk := p.checkpoint f
    let p := { p with head := chk.head, path := chk.path, top := chk.top, ras := Tbl.set 0 p.ras chk.top.toNat chk.topVal }
    let p := if !bit ctl 2 && live then p.rasStep k (pc + 4) else p
    let p := p.append pc (if k = .cond then taken else true)
    { c with pred := p, fetchQ := c.fetchQ.take (i + 1), fetchPc := npc }

/-- A branch retires toward `npc` (R156, R169, R448): the retired copy passes it. `live` is false for an annulled branch of its
window, which resolves as not taken (R168). -/
def Core.retireBranch (c : Core) (f : Option Fetched) (k : BKind) (live taken : Bool) (target npc : Word) : Core :=
  let ctl := c.sysGet 0x20C
  let c := if live then c.event 0x02 1 c.pc else c.event 0x05 1 c.pc
  let wrong := mispredicted f taken npc
  let c := if bit ctl 0 then { c with pred := c.pred.learn ctl k f live taken c.pc target npc } else c
  let p := c.pred
  let chk := p.checkpoint f
  let p := if f.isNone then p.putOutcome (p.rHead - 1) (if k = .cond then taken else true) else p
  let step := if !bit ctl 2 && live then ({ p with top := chk.top } : Predictor).rasStep k (c.pc + 4) else { p with top := chk.top }
  let p := { p with
    ras := if f.isNone then step.ras else p.ras
    rHead := chk.head - 1
    rPath := pathPush chk.path c.pc
    rTop := step.top }
  let c := { c with pred := p }
  let c := if wrong then c.event 0x04 1 c.pc else c
  let c := if wrong && live then c.event 0x03 1 c.pc else c
  let c := c.countInst
  if f.isNone then { c.refetch npc with pc := npc } else c.moveTo npc

/-- A control transfer at the PC resolves and retires toward `npc` (R157 to R169); a management core does not predict. -/
def Core.resolve (c : Core) (h : Hart) (k : BKind) (live taken : Bool) (target npc : Word) : Core :=
  if isWheel h then (if live then c.event 0x02 1 c.pc else c.event 0x05 1 c.pc).retire npc
  else
    let f := c.fetchedHere
    (c.resolveAt 0 f k live taken c.pc target npc).retireBranch f k live taken target npc

end Sys2Proof.Machine
end

