-- ==== Sys2Proof/Machine/Inflate.lean ====
section
/-! DEFINITION. Decompression (R400): raw DEFLATE streams (RFC 1951) and LZ4 frames with their xxHash-32 checksums. -/

namespace Sys2Proof.Machine

/-- How a decompression ends: the output so far, the input bytes consumed, and why it stopped short: 0 complete, 1 the
input is malformed, 2 the input ran out. -/
structure Unpacked where
  out : Array Byte
  used : Nat
  stop : Nat
  deriving DecidableEq, Repr

/-! ### DEFLATE -/

/-- A bit reader over the input, with the output so far. -/
structure Bits where
  inp : Array Byte
  pos : Nat
  out : Array Byte
  deriving DecidableEq, Repr

/-- Whether `n` more bits are there. -/
def Bits.has (b : Bits) (n : Nat) : Bool := b.pos + n ≤ 8 * b.inp.size

/-- The next `n` bits, least significant first. -/
def Bits.take (b : Bits) (n : Nat) : Nat × Bits :=
  ((List.range n).foldl (fun acc i =>
    acc + (((b.inp.getD ((b.pos + i) / 8) 0).getLsbD ((b.pos + i) % 8)).toNat) * 2 ^ i) 0, { b with pos := b.pos + n })

/-- Bytes consumed: a partly read byte counts. -/
def Bits.used (b : Bits) : Nat := (b.pos + 7) / 8

/-- A canonical Huffman code: how many codes of each length 1 to 15, and the symbols in code order. -/
structure Huff where
  count : List Nat
  syms : List Nat
  deriving DecidableEq, Repr

/-- The code of a list of lengths; none when it is over-subscribed. -/
def Huff.make (lens : List Nat) : Option Huff :=
  let count := (List.range 15).map fun i => lens.countP (· = i + 1)
  let left := count.foldl (fun (acc : Int) (c : Nat) => 2 * acc - (c : Int)) 1
  let tooMany := (List.range 15).any fun i =>
    ((count.take (i + 1)).foldl (fun (acc : Int) (c : Nat) => 2 * acc - (c : Int)) 1) < 0
  if tooMany || left < 0 then none
  else some { count, syms := (List.range 15).flatMap fun i => (List.range lens.length).filter fun s => lens.getD s 0 = i + 1 }

/-- Decode one symbol: code, first code of the length, and index of its first symbol, over the lengths. -/
def Huff.step (h : Huff) (counts : List Nat) (b : Bits) (code first index : Nat) : Option (Nat × Bits) :=
  match counts with
  | [] => none
  | c :: r =>
    if !b.has 1 then none
    else
      let (x, b) := b.take 1
      let code := code + x
      if code < first + c then some (h.syms.getD (index + (code - first)) 0, b)
      else h.step r b (2 * code) (2 * (first + c)) (index + c)

/-- Decode one symbol. -/
def Huff.decode (h : Huff) (b : Bits) : Option (Nat × Bits) := h.step h.count b 0 0 0

/-- Base and extra bits of the length codes 257 to 285. -/
def lenBase : List (Nat × Nat) :=
  [(3, 0), (4, 0), (5, 0), (6, 0), (7, 0), (8, 0), (9, 0), (10, 0), (11, 1), (13, 1), (15, 1), (17, 1), (19, 2), (23, 2),
   (27, 2), (31, 2), (35, 3), (43, 3), (51, 3), (59, 3), (67, 4), (83, 4), (99, 4), (115, 4), (131, 5), (163, 5), (195, 5),
   (227, 5), (258, 0)]

/-- Base and extra bits of the distance codes 0 to 29. -/
def distBase : List (Nat × Nat) :=
  [(1, 0), (2, 0), (3, 0), (4, 0), (5, 1), (7, 1), (9, 2), (13, 2), (17, 3), (25, 3), (33, 4), (49, 4), (65, 5), (97, 5),
   (129, 6), (193, 6), (257, 7), (385, 7), (513, 8), (769, 8), (1025, 9), (1537, 9), (2049, 10), (3073, 10), (4097, 11),
   (6145, 11), (8193, 12), (12289, 12), (16385, 13), (24577, 13)]

/-- Copy `n` bytes of the output from `dist` back. -/
def copyBack (n dist : Nat) (out : Array Byte) : Array Byte :=
  match n with
  | 0 => out
  | n + 1 => copyBack n dist (out.push (out.getD (out.size - dist) 0))

/-- The fixed codes. -/
def fixedLens : List Nat :=
  List.replicate 144 8 ++ List.replicate 112 9 ++ List.replicate 24 7 ++ List.replicate 8 8

/-- The symbols of a compressed block, to its end; true where it ended well. Stops are 1 malformed and 2 out of input. -/
def blockSyms (fuel : Nat) (l d : Huff) (b : Bits) : Nat × Bits :=
  match fuel with
  | 0 => (1, b)
  | n + 1 =>
    let short := fun (b : Bits) => if b.has 48 then 1 else 2
    match l.decode b with
    | none => (short b, b)
    | some (s, b') =>
      if s < 256 then blockSyms n l d { b' with out := b'.out.push (BitVec.ofNat 8 s) }
      else if s = 256 then (0, b')
      else
        match lenBase[s - 257]? with
        | none => (1, b)
        | some (lb, le) =>
          if !b'.has le then (2, b)
          else
            let (x, b') := b'.take le
            match d.decode b' with
            | none => (short b', b)
            | some (ds, b') =>
              match distBase[ds]? with
              | none => (1, b)
              | some (db, de) =>
                if !b'.has de then (2, b)
                else
                  let (y, b') := b'.take de
                  if b'.out.size < db + y then (1, b)
                  else blockSyms n l d { b' with out := copyBack (lb + x) (db + y) b'.out }

/-- The order of the code-length codes. -/
def clOrder : List Nat := [16, 17, 18, 0, 8, 7, 9, 6, 10, 5, 11, 4, 12, 3, 13, 2, 14, 1, 15]

/-- The code lengths of a dynamic block. -/
def codeLens (fuel want : Nat) (h : Huff) (b : Bits) (acc : List Nat) : Option (List Nat × Bits) :=
  if want ≤ acc.length then (if acc.length = want then some (acc, b) else none)
  else
    match fuel with
    | 0 => none
    | n + 1 =>
      match h.decode b with
      | none => none
      | some (s, b) =>
        if s < 16 then codeLens n want h b (acc ++ [s])
        else
          let (base, extra, v) := if s = 16 then (3, 2, acc.getLast?) else if s = 17 then (3, 3, some 0) else (11, 7, some 0)
          match v with
          | none => none
          | some v => if !b.has extra then none
            else let (x, b) := b.take extra; codeLens n want h b (acc ++ List.replicate (base + x) v)

/-- The codes of a dynamic block's header. -/
def dynamicCodes (b : Bits) : Option (Huff × Huff × Bits) :=
  if !b.has 14 then none
  else
    let (hl, b) := b.take 5
    let (hd, b) := b.take 5
    let (hc, b) := b.take 4
    if !b.has (3 * (hc + 4)) then none
    else
      let (ls, b) := (List.range (hc + 4)).foldl (fun (acc : List (Nat × Nat) × Bits) i =>
        let (x, b) := acc.2.take 3
        (acc.1 ++ [(clOrder.getD i 0, x)], b)) ([], b)
      let cl := (List.range 19).map fun i => (ls.lookup i).getD 0
      match Huff.make cl with
      | none => none
      | some h =>
        match codeLens 400 (hl + 257 + hd + 1) h b [] with
        | none => none
        | some (ls, b) =>
          match Huff.make (ls.take (hl + 257)), Huff.make (ls.drop (hl + 257)) with
          | some l, some d => if ls.getD 256 0 = 0 then none else some (l, d, b)
          | _, _ => none

/-- The blocks of a raw DEFLATE stream, to the final one. -/
def inflateBlocks (fuel : Nat) (b : Bits) : Nat × Bits :=
  match fuel with
  | 0 => (1, b)
  | n + 1 =>
    if !b.has 3 then (2, b)
    else
      let (fin, b1) := b.take 1
      let (ty, b1) := b1.take 2
      let go := fun (r : Nat × Bits) => if r.1 = 0 && fin = 0 then inflateBlocks n r.2 else r
      match ty with
      | 0 =>
        let p := (b1.pos + 7) / 8
        let len := leNat [b1.inp.getD p 0, b1.inp.getD (p + 1) 0]
        let nlen := leNat [b1.inp.getD (p + 2) 0, b1.inp.getD (p + 3) 0]
        if b1.inp.size < p + 4 then (2, b)
        else if len + nlen ≠ 65535 then (1, b)
        else
          let m := Nat.min len (b1.inp.size - (p + 4))
          let out := (List.range m).foldl (fun o i => o.push (b1.inp.getD (p + 4 + i) 0)) b1.out
          let b2 : Bits := { b1 with pos := 8 * (p + 4 + m), out }
          if m < len then (2, b2) else go (0, b2)
      | 1 =>
        match Huff.make fixedLens, Huff.make (List.replicate 30 5) with
        | some l, some d => go (blockSyms (8 * b1.inp.size + 1) l d b1)
        | _, _ => (1, b)
      | 2 =>
        match dynamicCodes b1 with
        | some (l, d, b2) => go (blockSyms (8 * b2.inp.size + 1) l d b2)
        | none => (if b1.has 2600 then 1 else 2, b)
      | _ => (1, b)

/-- Decompress a raw DEFLATE stream. -/
def inflate (bs : List Byte) : Unpacked :=
  let r := inflateBlocks (8 * bs.length + 1) { inp := bs.toArray, pos := 0, out := #[] }
  { out := r.2.out, used := Nat.min bs.length r.2.used, stop := r.1 }

/-! ### xxHash-32 -/

/-- 32-bit rotation. -/
def rol32 (v r : Nat) : Nat := (v * 2 ^ r + v % 2 ^ 32 / 2 ^ (32 - r)) % 2 ^ 32

/-- The primes of xxHash-32. -/
def xxP : List Nat := [2654435761, 2246822519, 3266489917, 668265263, 374761393]

/-- One lane's round. -/
def xxRound (acc lane : Nat) : Nat := rol32 ((acc + lane * 2246822519) % 2 ^ 32) 13 * 2654435761 % 2 ^ 32

/-- xxHash-32 with seed 0. -/
def xxh32 (bs : List Byte) : Nat :=
  let n := bs.length
  let stripes := chunks (n / 16) 16 bs
  let init : List Nat := [2654435761 + 2246822519, 2246822519, 0, 2 ^ 32 - 2654435761].map (· % 2 ^ 32)
  let acc := stripes.foldl (fun a st => (List.range 4).map fun i => xxRound (a.getD i 0) (leAt st (4 * i) 4)) init
  let h := if 16 ≤ n then
      (rol32 (acc.getD 0 0) 1 + rol32 (acc.getD 1 0) 7 + rol32 (acc.getD 2 0) 12 + rol32 (acc.getD 3 0) 18) % 2 ^ 32
    else 374761393
  let h := (h + n) % 2 ^ 32
  let rest := bs.drop (n / 16 * 16)
  let h := (chunks (rest.length / 4) 4 rest).foldl (fun h w =>
    rol32 ((h + leNat w * 3266489917) % 2 ^ 32) 17 * 668265263 % 2 ^ 32) h
  let h := (rest.drop (rest.length / 4 * 4)).foldl (fun h b =>
    rol32 ((h + b.toNat * 374761393) % 2 ^ 32) 11 * 2654435761 % 2 ^ 32) h
  let h := (h ^^^ (h / 2 ^ 15)) * 2246822519 % 2 ^ 32
  let h := (h ^^^ (h / 2 ^ 13)) * 3266489917 % 2 ^ 32
  h ^^^ (h / 2 ^ 16)

/-! ### LZ4 -/

/-- A length that goes on in bytes of 255: the value and the bytes used; none when the input runs out. -/
def lz4Len (fuel : Nat) (inp : Array Byte) (p acc : Nat) : Option (Nat × Nat) :=
  match fuel with
  | 0 => none
  | n + 1 =>
    if inp.size ≤ p then none
    else
      let x := (inp.getD p 0).toNat
      if x = 255 then lz4Len n inp (p + 1) (acc + 255) else some (acc + x, p + 1)

/-- The sequences of a block from `p` up to `stop`: literals, then a match, the last one literals alone. `base` is the
earliest output byte a match may reach. -/
def lz4Block (fuel : Nat) (inp : Array Byte) (p stop base : Nat) (out : Array Byte) : Bool × Array Byte :=
  match fuel with
  | 0 => (false, out)
  | n + 1 =>
    if stop ≤ p then (false, out)
    else
      let tok := (inp.getD p 0).toNat
      let lit := if tok / 16 = 15 then lz4Len (stop - p) inp (p + 1) 15 else some (tok / 16, p + 1)
      match lit with
      | none => (false, out)
      | some (l, q) =>
        if stop < q + l then (false, out)
        else
          let out := (List.range l).foldl (fun o i => o.push (inp.getD (q + i) 0)) out
          let q := q + l
          if q = stop then (true, out)
          else if stop < q + 2 then (false, out)
          else
            let off := leNat [inp.getD q 0, inp.getD (q + 1) 0]
            let len := if tok % 16 = 15 then lz4Len (stop - q) inp (q + 2) 19 else some (tok % 16 + 4, q + 2)
            match len with
            | none => (false, out)
            | some (m, q) =>
              if off = 0 || out.size < base + off || stop < q then (false, out)
              else lz4Block n inp q stop base (copyBack m off out)

/-- The data blocks of a frame, to its end mark. -/
def lz4Blocks (fuel : Nat) (inp : Array Byte) (p : Nat) (indep bsum csum : Bool) (maxB : Nat) (out : Array Byte) : Unpacked :=
  match fuel with
  | 0 => { out, used := p, stop := 1 }
  | n + 1 =>
    let word4 := fun (i : Nat) => leNat ((List.range 4).map fun k => inp.getD (i + k) 0)
    if inp.size < p + 4 then { out, used := p, stop := 2 }
    else
      let sz := word4 p
      if sz = 0 then
        if csum then
          if inp.size < p + 8 then { out, used := p, stop := 2 }
          else if word4 (p + 4) = xxh32 out.toList then { out, used := p + 8, stop := 0 }
          else { out, used := p + 8, stop := 1 }
        else { out, used := p + 4, stop := 0 }
      else
        let raw := sz / 2 ^ 31 = 1
        let len := sz % 2 ^ 31
        let stop := p + 4 + len
        let next := stop + (if bsum then 4 else 0)
        if maxB < len then { out, used := p, stop := 1 }
        else if inp.size < next then { out, used := p, stop := 2 }
        else if bsum && word4 stop ≠ xxh32 ((List.range len).map fun i => inp.getD (p + 4 + i) 0) then
          { out, used := p, stop := 1 }
        else if raw then
          let out := (List.range len).foldl (fun o i => o.push (inp.getD (p + 4 + i) 0)) out
          lz4Blocks n inp next indep bsum csum maxB out
        else
          let (ok, out') := lz4Block (len + 1) inp (p + 4) stop (if indep then out.size else 0) out
          if !ok || out.size + maxB < out'.size then { out := out', used := p, stop := 1 }
          else lz4Blocks n inp next indep bsum csum maxB out'

/-- Decompress one LZ4 frame. -/
def unlz4 (bs : List Byte) : Unpacked :=
  let inp := bs.toArray
  let bad : Unpacked := { out := #[], used := 0, stop := 1 }
  let out2 : Unpacked := { out := #[], used := 0, stop := 2 }
  if bs.length < 7 then out2
  else if leAt bs 0 4 ≠ 0x184D2204 then bad
  else
    let flg := leAt bs 4 1
    let bd := leAt bs 5 1
    let hasSize := flg.testBit 3
    let code := bd / 16 % 8
    let hc := 6 + (if hasSize then 8 else 0)
    if flg / 64 ≠ 1 || flg.testBit 1 || flg.testBit 0 || bd.testBit 7 || bd % 16 ≠ 0 || code < 4 then bad
    else if bs.length < hc + 1 then out2
    else if leAt bs hc 1 ≠ xxh32 ((bs.drop 4).take (hc - 4)) / 256 % 256 then bad
    else
      let r := lz4Blocks (bs.length + 1) inp (hc + 1) (flg.testBit 5) (flg.testBit 4) (flg.testBit 2) (2 ^ (8 + 2 * code)) #[]
      if r.stop = 0 && hasSize && r.out.size ≠ leAt bs 6 8 then { r with stop := 1 } else r

end Sys2Proof.Machine
end

