-- ==== Sys2Proof/Machine/Ferry.lean ====
section
/-! DEFINITION. Ferry engines (R394 to R419): configuration space, MSI-X, queues, descriptors and their operations, peer
windows, Bus Master Enable, function-level and engine reset. -/

namespace Sys2Proof.Machine

/-! ### Functions -/

/-- The key of a function in `Socket.fns` and the index of its BAR0 registers. -/
def fnKey (e f : Nat) : Nat := e * 256 + f

/-- An engine's source ID, also its PF0's agent (R378). -/
def engSrc (e : Nat) : Nat := 0x400 + e * 0x100

/-- A function's node. -/
def fnNode (s e f : Nat) : Node :=
  .ferry ⟨s % 16, Nat.mod_lt _ (by decide)⟩ ⟨e % 4, Nat.mod_lt _ (by decide)⟩ ⟨f % 256, Nat.mod_lt _ (by decide)⟩

/-- A function's master ID. -/
def fnMaster (s e f : Nat) : Nat := s * 4096 + engSrc e + f

/-- Whether an engine is fenced (FE_ENG_STAT.STATE 2). -/
def Dev.engFenced (d : Dev) (s e : Nat) : Bool := d.fld s .feEngStat e 0 63 60 = 2

/-- Whether a berth's units run on a socket: it is in RUN or DRAINING, and the socket's mode lets berths run; berth 0
always (R50, R471). -/
def Dev.berthRuns (t : Tables) (d : Dev) (s b : Nat) : Bool :=
  let st := Tbl.get .free t.state b
  d.runs s && (b = 0 || st = .run || st = .draining)

/-! ### Configuration space (R405; layout of the capabilities: assumption log 14) -/

/-- A configuration word of a ferry function after reset. -/
def fnCfgReset (s e f w : Nat) : BitVec 32 :=
  let base := 0x000E000000000000 + s * 0x0000100000000000 + 0x0F0010000000 + e * 0x8000000
  let pf := f = 0
  BitVec.ofNat 32 (match w * 4 with
    | 0x00 => if pf then 0x9F005459 else 0xFFFFFFFF
    | 0x04 => 0x00100000
    | 0x08 => 0x08800000
    | 0x34 => 0x40
    | 0x40 => 0x00928010
    | 0x44 => 0x10000002
    | 0x80 => if pf then 0x07FF9011 else 0x07FF0011
    | 0x84 => 0x20000
    | 0x88 => 0x28000
    | 0x90 => if pf then 0x00020014 else 0
    | 0x94 => if pf then 0x80FF0003 else 0
    | 0x98 => if pf then base % 2 ^ 32 + 2 else 0
    | 0x9C => if pf then 0x7FFFC else 0
    | 0xA0 => if pf then base / 2 ^ 32 else 0
    | 0xA4 => if pf then 0x80FF0093 else 0
    | 0xA8 => if pf then (base + 0x80000) % 2 ^ 32 + 2 else 0
    | 0xAC => if pf then 0x7FFFC else 0
    | 0xB0 => if pf then (base + 0x80000) / 2 ^ 32 else 0
    | 0x100 => 0x15020001
    | 0x150 => if pf then 0x1601000E else 0x0001000E
    | 0x160 => if pf then 0x00010010 else 0
    | 0x168 => if pf then 0x9 else 0
    | 0x16C => if pf then 0x00FF00FF else 0
    | 0x170 => if pf then 0xFF else 0
    | 0x174 => if pf then 0x00010001 else 0
    | 0x178 => if pf then 0x9F010000 else 0
    | _ => 0)

/-- A configuration word of a function. -/
def Dev.fnCfg (d : Dev) (s e f w : Nat) : BitVec 32 := Tbl.get (fnCfgReset s e f w) (d.fn s (fnKey e f)).cfg w

/-- Store a configuration word. -/
def Dev.setFnCfg (d : Dev) (s e f w : Nat) (v : BitVec 32) : Dev :=
  d.onFn s (fnKey e f) fun x => { x with cfg := Tbl.set (fnCfgReset s e f w) x.cfg w v }

/-- The word of the Command register. -/
def wCommand : Nat := 1
/-- The word of Device Control and Status. -/
def wDevCtl : Nat := 0x12
/-- The word of MSI-X Message Control. -/
def wMsix : Nat := 0x20
/-- The word of AER Uncorrectable Error Status. -/
def wAer : Nat := 0x41

/-- Bus Master Enable (R409). -/
def Dev.bme (d : Dev) (s e f : Nat) : Bool := (d.fnCfg s e f wCommand).getLsbD 2

/-! ### MSI-X (R412) -/

/-- Word 0 (address) or 1 (data and mask) of an MSI-X entry; masked after reset. -/
def Fn.msixWord (x : Fn) (v i : Nat) : Word := Tbl.get (if i = 1 then word (2 ^ 32) else 0) x.msix (v * 2 + i)

/-- Store a word of an MSI-X entry. -/
def Fn.setMsix (x : Fn) (v i : Nat) (w : Word) : Fn :=
  { x with msix := Tbl.set (if i = 1 then word (2 ^ 32) else 0) x.msix (v * 2 + i) w }

/-- Whether a function may send a vector now. -/
def Dev.msixOpen (d : Dev) (s e f v : Nat) : Bool :=
  let c := d.fnCfg s e f wMsix
  c.getLsbD 31 && !c.getLsbD 30 && !bit ((d.fn s (fnKey e f)).msixWord v 1) 32 && d.bme s e f && !d.engFenced s e

/-- Send a vector that is due: its PBA bit clears and its write goes out, or, with an address outside the interrupt
windows, is dropped with a Note. Nothing goes while earlier writes wait for their release. -/
def Dev.msixSend (t : Tables) (d : Dev) (s e f v : Nat) : Dev :=
  let x := d.fn s (fnKey e f)
  if !Tbl.get false x.pba v || !d.msixOpen s e f v || !x.writes.isEmpty then d
  else
    let d := d.onFn s (fnKey e f) fun x => { x with pba := Tbl.set false x.pba v false }
    let addr := (x.msixWord v 0).toNat
    let data := (x.msixWord v 1).setWidth 32
    let ok := 0x000FE00000000000 ≤ addr && addr < 0x000FE00001000000 && addr % 4 = 0
    if ok then d.send (interruptMsg (fnNode s e f) (t.berthOfFn s e f) (fnMaster s e f) addr data)
    else d.notice s (engSrc e)

/-- Raise a vector: its PBA bit is set, and it is sent when it may be. -/
def Dev.msixRaise (t : Tables) (d : Dev) (s e f v : Nat) : Dev :=
  (d.onFn s (fnKey e f) fun x => { x with pba := Tbl.set false x.pba v true }).msixSend t s e f v

/-- Send every vector of a function that is due and open. -/
def Dev.msixAll (t : Tables) (d : Dev) (s e f : Nat) : Dev :=
  ((d.fn s (fnKey e f)).pba.map Prod.fst).foldl (fun d v => d.msixSend t s e f v) d

/-! ### Addresses -/

/-- Where a ferry address leads: memory, a root port's window as a peer, or nowhere it may go (R30, R415). -/
inductive FTarget where
  | mem
  | peer (port bus : Nat)
  | fault
  deriving DecidableEq, Repr

/-- The root port whose window holds an offset of a socket's MMIO window, and the bus address: the host address in the prefetchable
window, and from 0xC000_0000 in the other (R422). -/
def portWindow (s off : Nat) : Option (Nat × Nat) :=
  let p := off / 0x7800000000
  let o := off % 0x7800000000
  if 32 ≤ p then none
  else some (p, if o < 0x40000000 then 0xC0000000 + o else 0x000E000000000000 + s * 0x0000100000000000 + off)

/-- The target of an access of a function of a berth (R30, R32, R107, R415). -/
def Dev.ferryTarget (a : Tables) (d : Dev) (s e f addr n : Nat) (write : Bool) : FTarget :=
  let b := a.berthOfFn s e f
  let owned := b = 0 || a.covers b addr (addr + n)
  if addr < 0x000E000000000000 then (if owned then .mem else .fault)
  else
    match regionOf addr with
    | .mmio u off =>
      let open_ := (d.fn s (fnKey e f)).active.any fun w =>
        w.1 ≤ addr && addr + n ≤ w.2.1 && (if write then w.2.2.2 else w.2.2.1)
      match portWindow u off with
      | some (p, bus) => if open_ && owned then .peer p bus else .fault
      | none => .fault
    | _ => .fault

/-- Whether a root port passes requests: in use, its link up, not contained and not fenced. -/
def Dev.portUp (d : Dev) (s p : Nat) : Bool :=
  d.fld s .pxPortCfg p 0 63 63 = 1 && d.fld s .pxPortStat p 0 63 60 = 2 && (d.port s p).present

/-- Record a TLP that leaves through a root port. -/
def Dev.portSend (d : Dev) (s p addr : Nat) (write : Bool) (bytes : List Byte) : Dev :=
  d.onPort s p fun x => { x with sent := x.sent ++ [(addr, write, bytes)] }

/-- Free bytes: what a device outside answers (assumption log 5). -/
def Dev.deviceBytes (d : Dev) (n : Nat) : List Byte × Dev :=
  ((List.range n).map fun i => Config.freeByte d.fresh i, { d with fresh := d.fresh + 1 })

/-- The outcome of a ferry access: bytes, a status that ends the descriptor, or a wait. -/
inductive FRead where
  | bytes (bs : List Byte)
  | ends (status : Nat)
  | waits
  deriving DecidableEq, Repr

/-- The reads of a function that are outstanding (R413). -/
def Dev.readsOut (d : Dev) (s e f : Nat) : List Msg :=
  (d.asked.filter fun x => x.1.src = fnNode s e f && x.1.ty = MsgType.nrd).map Prod.fst

/-- The tags that a function holds: of outstanding reads, and quarantined (R413, R414). -/
def Dev.tagsHeld (d : Dev) (s e f : Nat) : Nat := (d.readsOut s e f).length + (d.fn s (fnKey e f)).tags.length

/-- Bits [11:0] of the tag that a function's next read takes: none while the function holds 4,096 or the engine 16,384 (R413). -/
def Dev.freeTag (d : Dev) (s e f : Nat) : Option Nat :=
  let all := ((d.sock s).fns.filter fun x => x.1 / 256 = e).foldl (fun n x => n + d.tagsHeld s e (x.1 % 256)) 0
  if 16384 ≤ all then none
  else (List.range 4096).find? fun t =>
    !((d.fn s (fnKey e f)).tags.any fun x => x.1 % 4096 = t) && !((d.readsOut s e f).any fun m => m.txn.toNat = t)

/-- Read at most one line's bytes for a function (R395, R363, R415). -/
def Dev.ferryRead (a : Tables) (d : Dev) (s e f addr n : Nat) : FRead × Dev :=
  let b := a.berthOfFn s e f
  let note := fun (d : Dev) (cls : Nat) =>
    d.report s { src := engSrc e, cls, sub := 0xFF, master := fnMaster s e f, berth := b, access := 10, addr }
  match d.ferryTarget a s e f addr n false with
  | .fault => (.ends 4, note d 4)
  | .peer p bus =>
    if d.portUp s p then
      let (bs, d) := (d.portSend s p bus false []).deviceBytes n
      (.bytes bs, d)
    else (.ends 0x0B, d)
  | .mem =>
    match d.freeTag s e f with
    | none => (.waits, d)
    | some tag =>
      let m : Msg :=
        { ty := .nrd, src := fnNode s e f, dst := d.homeSlice (fnNode s e f).sock addr, berth := BitVec.ofNat 6 b,
          master := BitVec.ofNat 16 (fnMaster s e f), txn := BitVec.ofNat 12 tag, age := BitVec.ofNat 20 d.now.toNat, aux := false,
          addr := BitVec.ofNat 52 (lineBase addr), len := 64, data := 0, poison := false }
      match d.nrdLine a 8 m with
      | (none, d) => (.waits, d)
      | (some l, d) =>
        let d := d.uncore s .pcUncCfgEng .pcUncCntEng e 0x72 b 1
        if l.poison then (.ends 5, note d 3)
        else (.bytes ((List.range n).map fun i => lineByte l.data (addr % 64 + i)), d)

/-- Write at most one line's bytes for a function; none while it waits, else a status that ends the descriptor or 0. -/
def Dev.ferryWrite (a : Tables) (d : Dev) (s e f addr : Nat) (bs : List Byte) : Option Nat × Dev :=
  let b := a.berthOfFn s e f
  match d.ferryTarget a s e f addr bs.length true with
  | .fault =>
    (some 4, d.report s { src := engSrc e, cls := 4, sub := 0xFF, master := fnMaster s e f, berth := b, access := 11, addr })
  | .peer p bus => if d.portUp s p then (some 0, d.portSend s p bus true bs) else (some 0, d)
  | .mem =>
    let (ok, d) := d.uncachedWrite a (fnNode s e f) b (fnMaster s e f) 0 addr bs.length (lineOfBytes bs)
    if ok then (some 0, d.uncore s .pcUncCfgEng .pcUncCntEng e 0x72 b 1) else (none, d)

/-! ### Scatter lists (R398) -/

/-- A place in a source or destination: the address and bytes left of the present segment, the next entry, and how many
entries are left. -/
structure Cur where
  addr : Nat
  left : Nat
  entry : Nat
  n : Nat
  deriving DecidableEq, Repr

/-- The cursor with bytes to go on with, reading the next entry where the segment has ended. -/
def Dev.curNext (a : Tables) (d : Dev) (s e f : Nat) (c : Cur) : Sum FRead Cur × Dev :=
  if 0 < c.left then (.inr c, d)
  else if c.n = 0 then (.inl (.ends 0x0A), d)
  else
    match d.ferryRead a s e f c.entry 16 with
    | (.bytes bs, d) =>
      let len := leAt bs 8 4
      if len = 0 || leAt bs 12 4 ≠ 0 then (.inl (.ends 3), d)
      else (.inr { addr := leAt bs 0 8, left := len, entry := c.entry + 16, n := c.n - 1 }, d)
    | (r, d) => (.inl r, d)

/-- The cursor past `n` bytes of its segment. -/
def Cur.skip (c : Cur) (n : Nat) : Cur := { c with addr := c.addr + n, left := c.left - n }

/-- Read `n` bytes over a cursor, line by line. -/
def Dev.gather (a : Tables) (fuel : Nat) (d : Dev) (s e f : Nat) (c : Cur) (n : Nat) (acc : List Byte) :
    Sum FRead (List Byte × Cur) × Dev :=
  if n = 0 then (.inr (acc, c), d)
  else
    match fuel with
    | 0 => (.inl .waits, d)
    | fuel + 1 =>
      match d.curNext a s e f c with
      | (.inl r, d) => (.inl r, d)
      | (.inr c, d) =>
        let m := Nat.min n (Nat.min c.left (64 - c.addr % 64))
        match d.ferryRead a s e f c.addr m with
        | (.bytes bs, d) => Dev.gather a fuel d s e f (c.skip m) (n - m) (acc ++ bs)
        | (r, d) => (.inl r, d)

/-! ### Operations (R396) -/

/-- What an operation does with its bytes. -/
structure FOp where
  src : Bool
  dst : Bool
  cmp : Bool
  pattern : Bool
  poly : Option Nat
  deriving DecidableEq, Repr

/-- The data operations by code (R396). -/
def fopOf (op : Nat) : Option FOp :=
  match op with
  | 0x01 => some { src := true, dst := true, cmp := false, pattern := false, poly := none }
  | 0x02 => some { src := false, dst := true, cmp := false, pattern := true, poly := none }
  | 0x03 => some { src := true, dst := false, cmp := true, pattern := false, poly := none }
  | 0x04 => some { src := true, dst := false, cmp := true, pattern := true, poly := none }
  | 0x08 => some { src := true, dst := false, cmp := false, pattern := false, poly := some polyC }
  | 0x09 => some { src := true, dst := false, cmp := false, pattern := false, poly := some poly64 }
  | 0x0A => some { src := true, dst := true, cmp := false, pattern := false, poly := some polyC }
  | 0x0B => some { src := true, dst := true, cmp := false, pattern := false, poly := some poly64 }
  | _ => none

/-- Progress of a data operation: bytes done, CRC accumulator, first differing offset, cursors. -/
structure FProg where
  pos : Nat
  crc : Nat
  diff : Option Nat
  src : Cur
  dst : Cur
  deriving DecidableEq, Repr

/-- The pattern bytes of FILL from a position on. -/
def patternBytes (pat pos n : Nat) : List Byte := (List.range n).map fun i => BitVec.ofNat 8 (pat >>> (8 * ((pos + i) % 8)))

/-- Run a data operation by pieces that end at a destination line (a source line where nothing is written). Answers none
while it waits, else the status and the progress. -/
def Dev.ferryRun (a : Tables) (fuel : Nat) (d : Dev) (s e f : Nat) (o : FOp) (len pat : Nat) (p : FProg) :
    Option (Nat × FProg) × Dev :=
  if len ≤ p.pos then (some (1, p), d)
  else
    match fuel with
    | 0 => (none, d)
    | fuel + 1 =>
      let two := o.dst || (o.cmp && !o.pattern)
      match (if two then d.curNext a s e f p.dst else (.inr p.dst, d)) with
      | (.inl (.ends st), d) => (some (st, p), d)
      | (.inl _, d) => (none, d)
      | (.inr dst, d) =>
        let room := if two then Nat.min dst.left (64 - dst.addr % 64) else 64
        let n := Nat.min (len - p.pos) room
        match (if o.src then d.gather a 80 s e f p.src n [] else (.inr (patternBytes pat p.pos n, p.src), d)) with
        | (.inl (.ends st), d) => (some (st, p), d)
        | (.inl _, d) => (none, d)
        | (.inr (bs, src), d) =>
          let crc := match o.poly with
            | some q => crcRun q p.crc bs
            | none => p.crc
          let go := fun (d : Dev) (other : List Byte) (dst : Cur) =>
            let diff := match p.diff with
              | some x => some x
              | none => if o.cmp then ((List.range n).find? fun i => bs.getD i 0 ≠ other.getD i 0).map (p.pos + ·) else none
            Dev.ferryRun a fuel d s e f o len pat { pos := p.pos + n, crc, diff, src, dst }
          if o.dst then
            match d.ferryWrite a s e f dst.addr bs with
            | (none, d) => (none, d)
            | (some 0, d) => go d [] (dst.skip n)
            | (some st, d) => (some (st, { p with src, dst }), d)
          else if o.cmp && !o.pattern then
            match d.gather a 80 s e f dst n [] with
            | (.inl (.ends st), d) => (some (st, p), d)
            | (.inl _, d) => (none, d)
            | (.inr (other, dst), d) => go d other dst
          else go d (if o.pattern then patternBytes pat p.pos n else []) dst

/-- Read a flat source as far as it goes: its bytes, and the status of the line that ended it. -/
def Dev.readFlat (a : Tables) (fuel : Nat) (d : Dev) (s e f addr n : Nat) (acc : List Byte) : Option (List Byte × Nat) × Dev :=
  if n = 0 then (some (acc, 0), d)
  else
    match fuel with
    | 0 => (none, d)
    | fuel + 1 =>
      let m := Nat.min n (64 - addr % 64)
      match d.ferryRead a s e f addr m with
      | (.bytes bs, d) => Dev.readFlat a fuel d s e f (addr + m) (n - m) (acc ++ bs)
      | (.ends st, d) => (some (acc, st), d)
      | (.waits, d) => (none, d)

/-- Write a flat destination. -/
def Dev.writeFlat (a : Tables) (fuel : Nat) (d : Dev) (s e f addr : Nat) (bs : List Byte) : Option Nat × Dev :=
  if bs.isEmpty then (some 0, d)
  else
    match fuel with
    | 0 => (none, d)
    | fuel + 1 =>
      let m := Nat.min bs.length (64 - addr % 64)
      match d.ferryWrite a s e f addr (bs.take m) with
      | (some 0, d) => Dev.writeFlat a fuel d s e f (addr + m) (bs.drop m)
      | r => r

/-! ### Descriptors (R395) -/

/-- The bytes of a descriptor. -/
def Desc.field (x : Desc) (off n : Nat) : Nat := leAt (lineBytes x.bytes 64) off n

/-- A descriptor's OP. -/
def Desc.op (x : Desc) : Nat := x.field 0 1
/-- A descriptor's FLAGS. -/
def Desc.flags (x : Desc) : Nat := x.field 1 1
/-- A descriptor's LENGTH. -/
def Desc.len (x : Desc) : Nat := x.field 4 4

/-- The operations that exist (R396). -/
def knownOp (op : Nat) : Bool := [0, 1, 2, 3, 4, 8, 9, 10, 11, 0x10, 0x11, 0x12, 0x13].contains op

/-- Whether a descriptor's format is bad (R395, R397, R399, R400). -/
def Desc.badFormat (x : Desc) : Bool :=
  let fl := x.flags
  let src := x.field 8 8
  let dst := x.field 0x10 8
  let srcSgl := fl.testBit 1
  let dstSgl := fl.testBit 2
  let comp := 0x10 ≤ x.op
  let copies := x.op = 1 || x.op = 0xA || x.op = 0xB
  16 ≤ fl || x.field 2 2 ≠ 0 || x.field 0x38 8 ≠ 0 || (!fl.testBit 3 && x.field 0x28 8 % 32 ≠ 0) ||
    (x.op ≠ 0 && x.len = 0) || (comp && (srcSgl || dstSgl)) ||
    (srcSgl && src % 16 ≠ 0) || (dstSgl && dst % 16 ≠ 0) ||
    (copies && !srcSgl && !dstSgl && src < dst + x.len && dst < src + x.len) ||
    (x.op = 0x10 && (x.field 0x18 8 % 4 = 3 || 0x1000000 < x.len))

/-- The status and result of a descriptor that ended. -/
def Desc.end_ (x : Desc) (status bytes : Nat) (result : Word) : Desc :=
  { x with ended := some (BitVec.ofNat 8 status, BitVec.ofNat 32 bytes, result) }

/-- Execute a descriptor (R396 to R400): the descriptor with its end, unless it waits. -/
def Dev.execDesc (a : Tables) (d : Dev) (s e f : Nat) (x : Desc) : Desc × Dev :=
  let src := x.field 8 8
  let dst := x.field 0x10 8
  let arg0 := x.field 0x18 8
  let arg1 := x.field 0x20 8
  let len := x.len
  if !knownOp x.op then (x.end_ 2 0 0, d)
  else if x.badFormat then (x.end_ 3 0 0, d)
  else if x.op = 0 then (x.end_ 1 0 0, d)
  else
    match fopOf x.op with
    | some o =>
      let cur := fun (sgl : Bool) (addr n : Nat) =>
        if sgl then ({ addr := 0, left := 0, entry := addr, n } : Cur) else { addr, left := len, entry := 0, n := 0 }
      let start : FProg :=
        { pos := 0, crc := (match o.poly with
            | some q => if q = polyC then arg0 % 2 ^ 32 else arg0
            | none => 0), diff := none,
          src := cur (x.flags.testBit 1) src (arg1 % 65536), dst := cur (x.flags.testBit 2) dst (arg1 / 65536 % 65536) }
      match d.ferryRun a (len + 1) s e f o len arg0 start with
      | (none, d) => (x, d)
      | (some (st, p), d) =>
        let result := if o.poly.isSome then word p.crc
          else if o.cmp then (match p.diff with
            | some i => word i
            | none => BitVec.allOnes 64)
          else 0
        (x.end_ st (if o.src then p.pos else 0) (if st = 1 then result else if o.poly.isSome then word p.crc else 0), d)
    | none =>
      match d.readFlat a (len + 1) s e f src len [] with
      | (none, d) => (x, d)
      | (some (bs, st), d) =>
        let unpack := x.op = 0x11 || x.op = 0x13
        let r : Unpacked := if x.op = 0x11 then inflate bs else if x.op = 0x13 then unlz4 bs
          else { out := ((List.range (Config.freeLength d.fresh)).map fun i => Config.freeByte d.fresh i).toArray,
                 used := len, stop := 0 }
        let d := if unpack then d else { d with fresh := d.fresh + 1 }
        let out := r.out.toList
        let keep := out.take arg1
        let status := if arg1 < out.length then 8
          else if !unpack && st ≠ 0 then st
          else if unpack && r.stop = 2 && st ≠ 0 then st
          else if unpack && r.stop ≠ 0 then 9
          else 1
        let used := if unpack then r.used else if st ≠ 0 then bs.length else len
        let keep := if !unpack && st ≠ 0 then [] else keep
        match d.writeFlat a (keep.length + 1) s e f dst keep with
        | (none, d) => (x, d)
        | (some 0, d) => (x.end_ status used (word keep.length), d)
        | (some ws, d) => (x.end_ ws used (word keep.length), d)

/-! ### Queues (R401 to R403) -/

/-- STATE of a queue: 0 disabled, 1 idle, 2 running, 3 halted. -/
def Dev.qState (d : Dev) (s fk i : Nat) : Nat := d.fld s .feQcStat fk i 63 61

/-- Set STATE and STATUS of a queue. -/
def Dev.setQState (d : Dev) (s fk i st status : Nat) : Dev :=
  (d.setFld s .feQcStat fk i 63 61 st).setFld s .feQcStat fk i 55 48 status

/-- HEAD of a queue. -/
def Dev.qHead (d : Dev) (s fk i : Nat) : Nat := d.fld s .feQcStat fk i 15 0
/-- TAIL of a queue. -/
def Dev.qTail (d : Dev) (s fk i : Nat) : Nat := d.fld s .feQcStat fk i 31 16
/-- The ring size of a queue (R401): LOG2SIZE 4 to 16. -/
def Dev.qSize (d : Dev) (s fk i : Nat) : Nat := 2 ^ Nat.max 4 (Nat.min 16 (d.fld s .feQcBase fk i 4 0))

/-- The queues of a function (R404): FE_FN_MAP.QCOUNT. -/
def Dev.qCount (d : Dev) (s e f : Nat) : Nat := if f = 0 then 16 else d.fld s .feFnMap e f 12 0

/-- Halt a queue with a cause. -/
def Dev.halt (d : Dev) (s fk i status : Nat) : Dev := d.setQState s fk i 3 status

/-- An enabled queue shows whether it has work. -/
def Dev.qShow (d : Dev) (s fk i : Nat) : Dev :=
  if d.qState s fk i = 1 || d.qState s fk i = 2 then
    d.setFld s .feQcStat fk i 63 61 (if d.qHead s fk i = d.qTail s fk i then 1 else 2)
  else d

/-- The descriptor slots in use on an engine, all or of one berth. -/
def Dev.slotsUsed (t : Tables) (d : Dev) (s e : Nat) (b : Option Nat) : Nat :=
  ((d.sock s).fns.filter fun x => x.1 / 256 = e && (b = none || b = some (t.berthOfFn s e (x.1 % 256)))).foldl
    (fun n x => n + x.2.run.length) 0

/-- Show FE_ENG_STAT.SLOTS. -/
def Dev.showSlots (t : Tables) (d : Dev) (s e : Nat) : Dev := d.setFld s .feEngStat e 0 53 48 (d.slotsUsed t s e none)

/-- The slots of an engine that a berth may hold: its occupancy limit in a queue of 32 under the cap in force (R38, R39, R403). -/
def Dev.slotCap (d : Dev) (s b : Nat) : Nat := (d.sock s).occupancy b 1 32

/-- Fetch the descriptor at a queue's HEAD into a slot, when the function may run: enabled and running queue, BME, berth and
engine running, a free slot within the berth's bound (R402, R403, R409). A fetch that fails R30 or meets poison halts the
queue. -/
def Dev.fetchDesc (a : Tables) (d : Dev) (s e f i : Nat) : Dev :=
  let fk := fnKey e f
  let x := d.fn s fk
  let b := a.berthOfFn s e f
  let cap := d.slotCap s b
  if (Tbl.find x.run i).isSome || d.qState s fk i ≠ 2 || d.qCount s e f ≤ i || !d.bme s e f || x.flr || d.engFenced s e ||
      !d.berthRuns a s b || 32 ≤ d.slotsUsed a s e none || cap ≤ d.slotsUsed a s e (some b) then d
  else
    let ring := d.fld s .feQcBase fk i 51 12 * 4096
    match d.ferryRead a s e f (ring + d.qHead s fk i % d.qSize s fk i * 64) 64 with
    | (.bytes bs, d) =>
      (d.onFn s fk fun x => { x with run := Tbl.put x.run i { bytes := lineOfBytes bs, ended := none } }).showSlots a s e
    | (.ends st, d) => d.halt s fk i st
    | (.waits, d) => d

/-- An operation command: the descriptor at the queue's HEAD runs, where its OP is the command's. -/
def Dev.runOp (a : Tables) (d : Dev) (s e f i op : Nat) : Dev :=
  let d := d.fetchDesc a s e f i
  match Tbl.find (d.fn s (fnKey e f)).run i with
  | some x =>
    if x.ended.isSome || x.op ≠ op || !d.bme s e f then d
    else
      let (x, d) := d.execDesc a s e f x
      d.onFn s (fnKey e f) fun y => { y with run := Tbl.put y.run i x }
  | none => d

/-- The 32 bytes of a completion record (R397). -/
def Desc.record (x : Desc) : List Byte :=
  match x.ended with
  | none => []
  | some (st, n, r) =>
    leBytes 1 st.toNat ++ leBytes 1 x.op ++ leBytes 2 0 ++ leBytes 4 n.toNat ++ leBytes 8 r.toNat ++ leBytes 8 (x.field 0x30 8) ++
      leBytes 8 0

/-- Whether a descriptor writes a record: not with NO_RECORD, nor at a misaligned address (assumption log 20). -/
def Desc.hasRecord (x : Desc) : Bool := !x.flags.testBit 3 && x.field 0x28 8 % 32 = 0

/-- Write a record (one PWR) and raise the vector; false while it waits. A record that fails R30 is not written. -/
def Dev.writeRecord (a : Tables) (d : Dev) (s e f i : Nat) (x : Desc) : Bool × Dev :=
  let vec := d.fld s .feQcCtl (fnKey e f) i 42 32
  let irq := fun (d : Dev) => if x.flags.testBit 0 then d.msixRaise a s e f vec else d
  if !x.hasRecord then (true, irq d)
  else
    match d.ferryWrite a s e f (x.field 0x28 8) x.record with
    | (none, d) => (false, d)
    | (some _, d) => (true, irq d)

/-- DESCRIPTOR_COMPLETION (R397, R402): the record is written, HEAD advances and the vector is raised. An unknown OP ends
here with BAD_OP. -/
def Dev.complete (a : Tables) (d : Dev) (s e f i : Nat) : Dev :=
  let fk := fnKey e f
  let d := d.fetchDesc a s e f i
  match Tbl.find (d.fn s fk).run i with
  | none => d
  | some x =>
    let x := if x.ended.isNone && !knownOp x.op then x.end_ 2 0 0 else x
    if x.ended.isNone || !d.bme s e f then d
    else
      match d.writeRecord a s e f i x with
      | (false, d) => d.onFn s fk fun y => { y with run := Tbl.put y.run i x }
      | (true, d) =>
        let d := d.onFn s fk fun y => { y with run := Tbl.erase y.run i }
        let d := d.setFld s .feQcStat fk i 15 0 ((d.qHead s fk i + 1) % 65536)
        let d := if d.fld s .feQcCtl fk i 63 63 = 0 && d.qState s fk i ≠ 3 then d.setQState s fk i 0 0 else d.qShow s fk i
        let d := d.uncore s .pcUncCfgEng .pcUncCntEng e 0x70 (a.berthOfFn s e f) 1
        let bad : Bool := match x.ended with
          | some (st, _, _) => st ≠ 1
          | none => false
        (if bad then d.uncore s .pcUncCfgEng .pcUncCntEng e 0x71 (a.berthOfFn s e f) 1 else d).showSlots a s e

/-- A doorbell (R401): TAIL, or a halt with BAD_TAIL. -/
def Dev.writeDb (d : Dev) (s e f i tail : Nat) : Dev :=
  let fk := fnKey e f
  if (d.fn s fk).flr || d.qCount s e f ≤ i then d
  else
    let d := d.setFld s .feQcStat fk i 31 16 tail
    let gap := (tail + 65536 - d.qHead s fk i) % 65536
    if d.qSize s fk i ≤ gap then d.halt s fk i 0x10 else d.qShow s fk i

/-- A write of FE_QC_CTL (R402): ENABLE runs or resumes a queue, or stops it after its descriptor in progress. -/
def Dev.writeQc (d : Dev) (s e f i : Nat) (v : Word) : Dev :=
  let fk := fnKey e f
  let d := d.setReg s .feQcCtl fk i (Reg.feQcCtl.written false false (d.reg s .feQcCtl fk i) v)
  if d.qCount s e f ≤ i then d
  else if bit v 63 then (d.setQState s fk i 1 0).qShow s fk i
  else if (Tbl.find (d.fn s fk).run i).isSome then d
  else d.setQState s fk i 0 0

/-! ### Bus Master Enable (R409) -/

/-- BME clears: descriptors in progress end with BME_ABORT, their records are held, their queues halt. -/
def Dev.bmeClear (t : Tables) (d : Dev) (s e f : Nat) : Dev :=
  let fk := fnKey e f
  let d := d.setFnCfg s e f wCommand (d.fnCfg s e f wCommand &&& ~~~ (4 : BitVec 32))
  let run := (d.fn s fk).run
  let d := run.foldl (fun d x =>
    let y := if x.2.ended.isSome then x.2 else x.2.end_ 6 0 0
    let d := d.onFn s fk fun z => { z with heldRec := z.heldRec ++ [(x.1, y)], run := Tbl.erase z.run x.1 }
    d.halt s fk x.1 6) d
  (d.setFld s .feFnStat fk 0 63 63 (!(d.fn s fk).heldRec.isEmpty).toNat).showSlots t s e

/-- Write held records in order. -/
def Dev.heldGo (a : Tables) (d : Dev) (s e f : Nat) (l : List (Nat × Desc)) : Dev :=
  match l with
  | [] => d
  | (i, x) :: r =>
    let fk := fnKey e f
    match d.writeRecord a s e f i x with
    | (false, d) => d
    | (true, d) =>
      let d := d.onFn s fk fun z => { z with heldRec := z.heldRec.drop 1 }
      Dev.heldGo a (d.setFld s .feQcStat fk i 15 0 ((d.qHead s fk i + 1) % 65536)) s e f r

/-- BME is set again: the held records are written, then the pending messages go. -/
def Dev.bmeSet (a : Tables) (d : Dev) (s e f : Nat) : Dev :=
  let fk := fnKey e f
  let d := d.setFnCfg s e f wCommand (d.fnCfg s e f wCommand ||| (4 : BitVec 32))
  let d := d.heldGo a s e f (d.fn s fk).heldRec
  (d.setFld s .feFnStat fk 0 63 63 (!(d.fn s fk).heldRec.isEmpty).toNat).msixAll a s e f

/-! ### Peer windows (R415, R416) -/

/-- COMMIT: the shadow set is checked and made active; each passing one counts in GEN. -/
def Dev.commitWindows (a : Tables) (d : Dev) (s e f : Nat) : Dev :=
  let fk := fnKey e f
  let b := a.berthOfFn s e f
  let ws := (List.range 4).filterMap fun w =>
    let bw := d.reg s .fePwBase fk w
    let lo := bits bw 51 12 * 4096
    let hi := (d.fld s .fePwLimit fk w 51 12 + 1) * 4096
    if bit bw 0 || bit bw 1 then some (lo, hi, bit bw 0, bit bw 1) else none
  let good := ws.all fun w =>
    let lo := w.1
    let hi := w.2.1
    let win := match regionOf lo, regionOf (hi - 1) with
      | .mmio t o, .mmio t' o' => t = s && t' = s && (match portWindow s o, portWindow s o' with
          | some (p, _), some (p', _) => p = p' && p / 16 = e / 2 && (o % 0x7800000000 < 0x40000000) = (o' % 0x7800000000 < 0x40000000)
          | _, _ => false)
      | _, _ => false
    lo < hi && win && (b = 0 || a.covers b lo hi)
  if good then
    let d := d.onFn s fk fun x => { x with active := ws }
    let d := d.setFld s .fePwCtl fk 0 62 62 0
    d.setFld s .fePwCtl fk 0 31 0 ((d.fld s .fePwCtl fk 0 31 0 + 1) % 2 ^ 32)
  else d.setFld s .fePwCtl fk 0 62 62 1

/-! ### Tags and time-outs (R413, R414) -/

/-- Show the tags that a function holds. -/
def Dev.showTags (d : Dev) (s fk : Nat) : Dev := d.setFld s .feFnStat fk 0 12 0 (d.fn s fk).tags.length

/-- A read of a function has no data in time: its descriptor ends with CPL_TIMEOUT, AER shows it, and its tag is
quarantined. -/
def Dev.ferryTimeout (d : Dev) (s e f tag : Nat) : Dev :=
  let fk := fnKey e f
  match (d.fn s fk).run.find? fun x => x.2.ended.isNone with
  | none => d
  | some (i, x) =>
    let d := { d with asked := d.asked.filter fun y => !(y.1.src = fnNode s e f && y.1.ty = MsgType.nrd && y.1.txn.toNat = tag % 4096) }
    let d := d.onFn s fk fun z =>
      { z with run := Tbl.put z.run i (x.end_ 7 0 0), tags := z.tags ++ [(tag, true)] }
    let d := d.setFnCfg s e f wAer (d.fnCfg s e f wAer ||| (0x4000 : BitVec 32))
    (d.notice s (engSrc e)).showTags s fk

/-- A quarantine ends 2T after its time-out. -/
def Dev.tagFree (d : Dev) (s e f tag : Nat) : Dev :=
  let fk := fnKey e f
  (d.onFn s fk fun z => { z with tags := z.tags.filter fun t => !(t.1 = tag && t.2) }).showTags s fk

/-! ### Function-level and engine reset (R417 to R419) -/

/-- The state of a function after FLR (R418): FE_FN_MAP and what other resets clear stay; writes issued are released still. -/
def Dev.fnReset (d : Dev) (s e f : Nat) : Dev :=
  let fk := fnKey e f
  let keep := (d.fn s fk).tags.filter fun t => t.2
  let writes := (d.fn s fk).writes
  let base := Reg.feFnInfo.at fk 0
  let d := d.onSock s fun k =>
    { k with bar := k.bar.filter fun x => x.1 < base || base + 0x80000 ≤ x.1 || x.1 < base + 8 }
  let d := d.onFn s fk fun _ => { Fn.reset with tags := keep, writes }
  (d.setFld s .feFnStat fk 0 44 32 (d.qCount s e f)).showTags s fk

/-- FLR (R417): fetch stops and what is not issued is dropped. With no read outstanding and every issued write released the function is
reset at once; else it waits for them, or for FLR_READ_END. PF0's is an engine reset. -/
def Dev.flrStart (t : Tables) (d : Dev) (s e f : Nat) : Dev :=
  let fk := fnKey e f
  if (d.fn s fk).flr then d
  else if (d.readsOut s e f).isEmpty && (d.fn s fk).writes.isEmpty then (d.fnReset s e f).showSlots t s e
  else (d.onFn s fk fun x => { x with flr := true, heldRec := [], run := [] }).showSlots t s e

/-- An engine reset is over when none of its functions' resets waits (R419). -/
def Dev.engineDone (d : Dev) (s e : Nat) : Dev :=
  if d.fld s .feEngStat e 0 63 60 = 1 && !((d.sock s).fns.any fun x => x.1 / 256 = e && x.2.flr) then
    d.setFld s .feEngStat e 0 63 60 0
  else d

/-- The function-level resets of an engine whose reads have ended and whose writes are released are complete. -/
def Dev.flrsGo (t : Tables) (d : Dev) (s e : Nat) : Dev :=
  let fs := (((d.sock s).fns.filter fun x => x.1 / 256 = e && x.2.flr).map fun x => x.1 % 256).filter fun f =>
    (d.readsOut s e f).isEmpty && (d.fn s (fnKey e f)).writes.isEmpty
  (fs.foldl (fun d f => (d.fnReset s e f).showSlots t s e) d).engineDone s e

/-- FLR_READ_END: the reads still outstanding end, each with a Note and its tag quarantined, and the FLR completes. -/
def Dev.flrReadEnd (t : Tables) (d : Dev) (s e f : Nat) : Dev :=
  let fk := fnKey e f
  if !(d.fn s fk).flr then d
  else
    let d := (d.readsOut s e f).foldl (fun d m =>
      (d.onFn s fk fun x => { x with tags := x.tags ++ [(m.txn.toNat, true)] }).notice s (engSrc e)) d
    let d := { d with asked := d.asked.filter fun x => !(x.1.src = fnNode s e f && x.1.ty = MsgType.nrd) }
    ((d.fnReset s e f).showSlots t s e).engineDone s e

/-- Engine reset: the sequence of FLR on every function at once; STATE shows it until the last is reset. -/
def Dev.engineReset (t : Tables) (d : Dev) (s e : Nat) : Dev :=
  let fs := ((d.sock s).fns.filter fun x => x.1 / 256 = e).map fun x => x.1 % 256
  let d := ((List.range 256).filter fun f => fs.contains f || (d.sock s).bar.any fun x =>
      Reg.feFnInfo.at (fnKey e f) 0 ≤ x.1 && x.1 < Reg.feFnInfo.at (fnKey e f) 0 + 0x80000).foldl
    (fun d f => d.flrStart t s e f) d
  if d.engFenced s e then d else (d.setFld s .feEngStat e 0 63 60 1).engineDone s e

/-- An engine is fenced (R419): outstanding reads are discarded, and descriptors in progress end without a record, each with its queue
halted with ENGINE_FAULT at it. -/
def Dev.fenceEngine (d : Dev) (s e : Nat) : Dev :=
  let mine := fun (n : Node) => match n with
    | .ferry t e' _ => t.val = s && e'.val = e
    | _ => false
  let d := { d with asked := d.asked.filter fun x => !(mine x.1.src && x.1.ty = MsgType.nrd) }
  let fs := (d.sock s).fns.filter fun x => x.1 / 256 = e
  let d := fs.foldl (fun d x => x.2.run.foldl (fun d q => d.halt s x.1 q.1 0x0C) d) d
  let d := fs.foldl (fun d x => d.onFn s x.1 fun y => { y with run := [] }) d
  (d.setFld s .feEngStat e 0 53 48 0).setFld s .feEngStat e 0 63 60 2

/-- An engine returns, with its queue contexts, MSI-X state and windows. -/
def Dev.admitEngine (t : Tables) (d : Dev) (s e : Nat) : Dev := (d.setFld s .feEngStat e 0 63 60 0).showSlots t s e

end Sys2Proof.Machine
end

