-- ==== Sys2Proof/Machine/Collector.lean ====
section
/-! DEFINITION. The fault collector: accepting messages, the latch, the queue, reactions, the fence table and re-admission
(R382 to R391, R512, R543). -/

namespace Sys2Proof.Machine

/-! ### Fields of a message (R376) -/

/-- SOURCE. -/
def FMsg.src (m : FMsg) : Nat := Machine.nbits m.toNat 127 116
/-- Class of KIND. -/
def FMsg.cls (m : FMsg) : Nat := Machine.nbits m.toNat 115 112
/-- SEV. -/
def FMsg.sev (m : FMsg) : Nat := Machine.nbits m.toNat 107 105
/-- BERTH. -/
def FMsg.berth (m : FMsg) : Nat := Machine.nbits m.toNat 104 99
/-- SUB. -/
def FMsg.sub (m : FMsg) : Nat := Machine.nbits m.toNat 76 69
/-- The high doubleword. -/
def FMsg.hi (m : FMsg) : Word := word (Machine.nbits m.toNat 127 64)
/-- The low doubleword. -/
def FMsg.lo (m : FMsg) : Word := word (Machine.nbits m.toNat 63 0)

/-! ### Latch and queue (R382, R383) -/

/-- Latch a message, or mark that a later one qualified. -/
def Dev.latch (d : Dev) (s : Nat) (m : FMsg) : Dev :=
  if m.sev < d.fld s .fcCtl 0 0 2 0 then d
  else if d.fld s .fcFirstCtl 0 0 63 63 = 1 then d.setFld s .fcFirstCtl 0 0 62 62 1
  else
    (((d.setReg s .fcFirstHi 0 0 m.hi).setReg s .fcFirstLo 0 0 m.lo).setReg s .fcFirstTime 0 0 d.now).setFld s
      .fcFirstCtl 0 0 63 63 1

/-- The queue after a message arrives, and how many messages were lost. -/
def queueIn (q : List FMsg) (m : FMsg) : List FMsg × Nat :=
  if q.length < 1024 then (q ++ [m], 0)
  else if m.sev ≤ 3 then (q, 1)
  else
    match (List.range q.length).reverse.find? fun i => (q.getD i 0).sev ≤ 3 with
    | some i => (q.eraseIdx i ++ [m], 1)
    | none => (q, 1)

/-- FC_QSTAT.COUNT and FC_QHEAD show the queue. -/
def Dev.showQueue (d : Dev) (s : Nat) : Dev :=
  let q := (d.sock s).faults.queue
  let h := q.headD 0
  ((d.setFld s .fcQstat 0 0 10 0 q.length).setReg s .fcQheadHi 0 0 h.hi).setReg s .fcQheadLo 0 0 h.lo

/-- Place a message in the queue. -/
def Dev.queueFault (d : Dev) (s : Nat) (m : FMsg) : Dev :=
  let (q, n) := queueIn (d.sock s).faults.queue m
  let d := d.onSock s fun k => { k with faults := { k.faults with queue := q } }
  (d.bump s .fcQstat 0 0 63 32 n).showQueue s

/-- POP: the oldest message leaves (R383). -/
def Dev.popFault (d : Dev) (s : Nat) : Dev :=
  (d.onSock s fun k => { k with faults := { k.faults with queue := k.faults.queue.drop 1 } }).showQueue s

/-- The sockets by number. -/
def sockets : List Nat := List.range 16

/-- The present sockets as one of them, the manager, sees them. -/
def Dev.members (d : Dev) (m : Nat) : List Nat := sockets.filter fun t => d.present m t

/-! ### CORE and POD reset (R508, R513) -/

/-- A CORE reset whose store buffer has not drained (R135): nothing executes, and the buffer drains. -/
def Core.resetting (c : Core) : Core :=
  let c := { c with lq := [], fetchQ := [], devLoad := none }
  if c.run = .fenced then { c with was := .resetting } else { c with run := .resetting }

/-- What a CORE reset leaves of a core: held, and fenced as before. -/
def Core.held (c : Core) : Core := { Core.reset with run := if c.run = .fenced then .fenced else .held }

/-- Whether a core is held, fenced or not. -/
def Core.isHeld (c : Core) : Bool := c.run = .held || (c.run = .fenced && c.was = .held)

/-- CORE reset of the cores of a list: each store buffer drains, dirty lines are written back, every register, TLB entry, predictor
and counter clears, and the core is held; one whose buffer cannot drain now is reset when it has (R135, R190). A fenced core stays
fenced. -/
def Dev.resetCores (a : Tables) (d : Dev) (hs : List Hart) : Dev :=
  let d := d.each hs fun d h => (d.drainAll a h).accessDone a h
  let ready := hs.filter fun h => (d.core h).sb.isEmpty
  let d := d.each (hs.filter fun h => !(d.core h).sb.isEmpty) fun d h => d.onCore h Core.resetting
  let d := d.each ready fun d h =>
    let d := ((d.flushL2 a h).accessDone a h).onCore h Core.held
    if isWheel h then d
    else
      let l := landingOf (podOf h)
      let i := h.core.val % 2
      d.setReg h.sock .ldCoreCtl l i (Reg.ldCoreCtl.cleared .core (d.reg h.sock .ldCoreCtl l i))
  match ready.filter fun h => !isWheel h with
  | [] => d
  | h :: r => d.slipsOfReset h.sock ((h :: r).map fun h => h.core.val)

/-- CORE reset. -/
def Dev.coreReset (a : Tables) (d : Dev) (h : Hart) : Dev := d.resetCores a [h]

/-- POD reset: CORE reset of both cores; one reset covers both (R438). -/
def Dev.podReset (a : Tables) (d : Dev) (s : Sock) (pod : Nat) : Dev := d.resetCores a [coreOf s pod 0, coreOf s pod 1]

/-- A reset that waits for its core's store buffer goes on (R135). -/
def Dev.resetGo (a : Admin) (d : Dev) (h : Hart) : Dev :=
  let c := d.core h
  if c.run = .resetting || (c.run = .fenced && c.was = .resetting) then d.coreReset a.tab h else d

/-- The cores of a socket whose reset waits. -/
def Dev.resetsGo (a : Admin) (d : Dev) (s : Sock) : Dev :=
  d.each ((d.sock s.val).cores.map Prod.fst) fun d c => if h : c < 212 then d.resetGo a { sock := s, core := ⟨c, h⟩ } else d

/-! ### Stopping (R384) -/

/-- What a stop makes of a core that runs or would. -/
def RunState.stop : RunState → RunState
  | .running | .waiting | .parked => .stopped
  | r => r

/-- A core stops at its next instruction boundary; a fenced core stays stopped when it is re-admitted. -/
def Core.stop (c : Core) : Core := if c.run = .fenced then { c with was := RunState.stop c.was } else { c with run := RunState.stop c.run }

/-- Stop the server cores of a socket that satisfy `p`. -/
def Dev.stopCores (d : Dev) (s : Nat) (p : Nat → Bool) : Dev :=
  d.onSock s fun k => { k with cores := k.cores.map fun e => if e.1 < 208 && p e.1 then (e.1, e.2.stop) else e }

/-- A socket enters HOLD from LOAD, RUN, DEGRADED RUN or MAINTAIN (R472): its berths' cores stop. -/
def Dev.hold (d : Dev) (s : Nat) : Dev :=
  if 2 ≤ d.mode s && d.mode s ≤ 5 then (d.setFld s .pwMode 0 0 2 0 modeHold).stopCores s fun _ => true else d

/-- The stop of a Fatal-socket (1) or Fatal-system (2) report (R384): the socket enters HOLD, and its management port reports it. -/
def Dev.fatalStop (d : Dev) (s k : Nat) : Dev :=
  ((d.hold s).onWheel s fun w => { w with fatal := Nat.max w.fatal k }).tellPort s (word (2 + k))

/-- A core stops at its next instruction boundary and is held from there, as the cores of a STOPPED berth are (R50); a reset that
waits goes on (R135). -/
def Core.stopHeld (c : Core) : Core :=
  let go := fun (r : RunState) => if r = .resetting then r else .held
  if c.run = .fenced then { c with was := go c.was } else { c with run := go c.run }

/-- Stop a berth on every socket (R384 Fatal-berth): its cores stop and are held, BT_CTRL.STATE becomes STOPPED, and with it its
ferry functions stop fetching and its root ports stop DMA (R50). -/
def stopBerth (a : Admin) (d : Dev) (b : Nat) : Admin × Dev :=
  let d := sockets.foldl (fun (d : Dev) s => d.onSock s fun k =>
    { k with cores := k.cores.map fun e =>
        if e.1 < 208 && a.tab.berthOfPod s (e.1 / 2) = b then (e.1, e.2.stopHeld) else e }) d
  if Tbl.get .free a.tab.state b = .free then (a, d)
  else ({ a with tab := { a.tab with state := Tbl.set .free a.tab.state b .stopped } }, d)

/-! ### DEGRADED RUN (R387) -/

/-- Whether R387 asks for DEGRADED RUN. -/
def Dev.degraded (d : Dev) (s : Nat) : Bool :=
  (List.range 512).any (fun n => d.fld s .fcFenceA n 0 63 63 = 1) || !(d.sock s).faults.extra.isEmpty ||
    (d.enabledPods s).length < 96

/-- A fenced pod is no spare pod (R8): it leaves the spares, and WH_SYSTEM.SPARES counts those that remain. -/
def Dev.showSpares (d : Dev) (s : Nat) : Dev :=
  let left := (d.wheel s).spares.filter fun p => !d.podFenced s p
  if left.length = (d.wheel s).spares.length then d
  else (d.onWheel s fun w => { w with spares := left }).setFld s .whSystem 0 0 63 56 left.length

/-- RUN or DEGRADED RUN follows the fence table and the enabled pods; FC_STAT.FENCED counts the table's fences; SPARES counts
the spare pods. -/
def Dev.degrade (d : Dev) (s : Nat) : Dev :=
  let d := d.showSpares s
  let n := ((List.range 512).filter fun n => d.fld s .fcFenceA n 0 63 63 = 1).length
  let d := d.setFld s .fcStat 0 0 9 0 n
  if d.runs s then d.setFld s .pwMode 0 0 2 0 (if d.degraded s then modeDegraded else modeRun) else d

/-! ### Fencing units (R386) -/

/-- A CXL or PCIe port's outstanding core loads end with BUS (R427). -/
def Dev.portLoadsEnd (d : Dev) (s p : Nat) : Dev :=
  let ls := (d.port s p).loads
  let me : Node := .port ⟨s % 16, Nat.mod_lt _ (by decide)⟩ ⟨p % 32, Nat.mod_lt _ (by decide)⟩
  let d := d.onPort s p fun x => { x with loads := [] }
  d.sendAll (ls.map fun l =>
    { ty := .drsp, src := me, dst := l.1, berth := 0, master := l.1.master, txn := BitVec.ofNat 12 l.2, age := 0,
      aux := false, addr := 0, len := 0, data := 0, poison := true })

/-- The CXL port of a root port (R318). -/
def cxlOf (p : Nat) : Option Nat := (List.range 4).find? fun i => cxlRoot i = p

/-- A core is fenced, and keeps what it returns to. -/
def Core.fence (c : Core) : Core := if c.run = .fenced then c else { c with run := .fenced, was := c.run }

/-- A fenced core returns to what it did. -/
def Core.unfence (c : Core) : Core := if c.run = .fenced then { c with run := c.was, was := .held } else c

/-- The step a pod runs at (R461): the slower of the request and the cap, neither below the floor. -/
def Dev.podStep (d : Dev) (s p : Nat) : Nat :=
  Nat.max (Nat.max (d.fld s .ckPod p 0 1 0) (d.fld s .pwTdp 0 0 25 24)) (d.fld s .ckPod p 0 5 4)

/-- CK_POD.CUR of a pod: 7 while it belongs to no berth, is no enabled pod or is fenced (R462). -/
def Dev.showStep (a : Tables) (d : Dev) (s p : Nat) : Dev :=
  let stopped := a.berthOfPod s p = 0 || !(d.enabledPods s).contains p || d.podFenced s p
  let cur := d.fld s .ckPod p 0 10 8
  if stopped then d.setFld s .ckPod p 0 10 8 7 else if cur = 7 then d.setFld s .ckPod p 0 10 8 (d.podStep s p) else d

/-- CK_POD.CUR of every pod of the sockets that are on. -/
def Dev.showSteps (a : Tables) (d : Dev) : Dev :=
  (d.socks.map Prod.fst).foldl (fun (d : Dev) s =>
    if d.mode s < 2 then d else (List.range 104).foldl (fun d p => d.showStep a s p) d) d

/-- Power-gate a fenced pod: it behaves as in POD reset, and its microcode is lost (R386, R515). -/
def Dev.gatePod (a : Tables) (d : Dev) (s : Sock) (pod : Nat) : Dev :=
  ((d.podReset a s pod).setReg s .ldPodUcode (landingOf pod) 0 0).setFld s .ckPod pod 0 10 8 7

/-- Fence a core: its store buffer drains, its dirty lines are written back (R191), and it stops; with both cores of its
pod fenced, the pod is power-gated. -/
def Dev.fenceCore (a : Tables) (d : Dev) (h : Hart) : Dev :=
  if (d.core h).run = .fenced then d
  else
    let d := ((d.drainAll a h).flushL2 a h).onCore h Core.fence
    if d.podFenced h.sock (podOf h) then d.gatePod a h.sock (podOf h) else d

/-- A fenced core returns to use where it stopped; a pod that was power-gated has its microcode again, and its cores are held
(R391, R505, R508). -/
def Dev.admitCore (a : Tables) (d : Dev) (h : Hart) : Dev :=
  let s := h.sock.val
  let p := podOf h
  let gated := d.podFenced s p
  let d := d.onCore h Core.unfence
  if !gated then d
  else
    let d := if (d.enabledPods s).contains p then d.setReg s .ldPodUcode (landingOf p) 0 (d.wheel s).ucode else d
    d.showStep a s p

/-- Isolate a unit and carry out what R386 makes follow. -/
def Dev.fenceUnit (a : Tables) (d : Dev) (s src sub : Nat) : Dev :=
  let sk : Sock := ⟨s % 16, Nat.mod_lt _ (by decide)⟩
  match hartOf s src with
  | some h => d.fenceCore a h
  | none =>
    if 0x100 ≤ src && src < 0x168 then
      if sub < 16 then d.fenceWay a sk ⟨(src - 0x100) % 104, Nat.mod_lt _ (by decide)⟩ sub else d
    else if 0x210 ≤ src && src < 0x21C then
      let ch := src - 0x210
      let d := if sub = 0xFF then d.setFld s .fmChCfg ch 0 63 60 4 else d
      (d.farUnit s ch).foldl (fun d u => d.evacuate a s (ch / 6) u.1 u.2) d
    else if 0x220 ≤ src && src < 0x230 then
      let ch := src - 0x220
      let d := (d.setFld s .nmChCfg ch 0 63 60 4).setFld s .nmChCfg ch 0 5 0 0
      d.evacuate a s (ch / 8) (0x8000 + ch / 8 * 0x400) 14
    else if 0xE00 ≤ src && src < 0xE08 then d.linkDown s (src - 0xE00)
    else if 0x800 ≤ src && src < 0x820 then
      let p := src - 0x800
      let d := ((d.setFld s .pxPortStat p 0 63 60 4).portLoadsEnd s p).onPort s p fun x => { x with perstLow := true }
      match cxlOf p with
      | some i =>
        let w := d.reg s .fmCxl (i / 2) (i % 2)
        if bits w 44 32 = 0 then d
        else (d.setFld s .fmCxl (i / 2) (i % 2) 63 60 4).evacuate a s (i / 2) (0x10000 + i * 0x4000) (bits w 44 32)
      | none => d
    else if src % 0x100 = 0 && 0x400 ≤ src && src ≤ 0x700 then d.fenceEngine s (src / 0x100 - 4)
    else d

/-- Return a unit to use: a core goes on, a link or port trains, memory serves, an engine fetches (assumption log 21). -/
def Dev.admitUnit (a : Tables) (d : Dev) (s src sub : Nat) : Dev :=
  let sk : Sock := ⟨s % 16, Nat.mod_lt _ (by decide)⟩
  match hartOf s src with
  | some h => d.admitCore a h
  | none =>
    if 0x100 ≤ src && src < 0x168 then d.unfenceWay sk ⟨(src - 0x100) % 104, Nat.mod_lt _ (by decide)⟩ sub
    else if 0x210 ≤ src && src < 0x21C then if sub = 0xFF then d.setFld s .fmChCfg (src - 0x210) 0 63 60 2 else d
    else if 0x220 ≤ src && src < 0x230 then
      (d.setFld s .nmChCfg (src - 0x220) 0 63 60 2).setFld s .nmChCfg (src - 0x220) 0 5 0 28
    else if 0xE00 ≤ src && src < 0xE08 then
      if d.linkState s (src - 0xE00) = 6 then d.setLink s (src - 0xE00) 1 else d
    else if 0x800 ≤ src && src < 0x820 then
      let p := src - 0x800
      let d := (d.setFld s .pxPortStat p 0 63 60 1).onPort s p fun x => { x with perstLow := false }
      match cxlOf p with
      | some i => if d.fld s .fmCxl (i / 2) (i % 2) 63 60 = 4 then d.setFld s .fmCxl (i / 2) (i % 2) 63 60 2 else d
      | none => d
    else if src % 0x100 = 0 && 0x400 ≤ src && src ≤ 0x700 then d.admitEngine a s (src / 0x100 - 4)
    else d

/-! ### The fence table (R388, R389) -/

/-- System time in ms, modulo 2^32. -/
def Dev.nowMs (d : Dev) : Nat := d.now.toNat / 1000000 % 2 ^ 32

/-- The entry held for a source and sub-unit. -/
def Dev.fenceOf (d : Dev) (s src sub : Nat) : Option Nat :=
  (List.range 512).find? fun n =>
    let w := d.reg s .fcFenceA n 0
    bits w 63 62 ≠ 0 && bits w 47 36 = src && bits w 35 28 = sub

/-- The entry a new fence takes: the lowest FREE one, else the ADMITTED one whose last fault is oldest. -/
def Dev.fenceSlot (d : Dev) (s : Nat) : Option Nat :=
  match (List.range 512).find? fun n => d.fld s .fcFenceA n 0 63 62 = 0 with
  | some n => some n
  | none =>
    let now := d.nowMs
    argMin ((List.range 512).filter fun n => d.fld s .fcFenceA n 0 63 62 = 1) fun n =>
      2 ^ 32 - (now + 2 ^ 32 - d.fld s .fcFenceB n 0 31 0) % 2 ^ 32

/-- Start or end the quiet period of an entry. -/
def Dev.setQuiet (d : Dev) (s n : Nat) (on : Bool) : Dev :=
  d.onSock s fun k =>
    let q := k.faults.quiet.filter fun i => i ≠ n
    { k with faults := { k.faults with quiet := if on then q ++ [n] else q } }

/-- Remember a PERMANENT fence across COLD starts, or forget it (R390, R512). -/
def Dev.recordFence (d : Dev) (s src sub : Nat) (on : Bool) : Dev :=
  d.onWheel s fun w =>
    let r := w.hepinRecord.filter fun x => x ≠ (src, sub)
    { w with hepinRecord := if on then r ++ [(src, sub)] else r }

/-- Whether an entry's unit is a core of a pod (its whole pod's replacement is Hepin's, R506). -/
def Dev.fenceKey (d : Dev) (s n : Nat) : Nat × Nat := (d.fld s .fcFenceA n 0 47 36, d.fld s .fcFenceA n 0 35 28)

/-- Count a fault on an entry (R389 steps 1 to 3). -/
def Dev.countFault (d : Dev) (s n : Nat) : Dev :=
  let now := d.nowMs
  let faults := d.fld s .fcFenceA n 0 23 16
  let start := d.fld s .fcFenceB n 0 63 32
  let fresh := faults = 0 || d.fld s .fcReadmit 0 0 55 32 ≤ (now + 2 ^ 32 - start) % 2 ^ 32
  let faults := if fresh then 1 else satAdd 8 faults 1
  let d := (d.setFld s .fcFenceA n 0 23 16 faults).setFld s .fcFenceB n 0 31 0 now
  let d := if fresh then d.setFld s .fcFenceB n 0 63 32 now else d
  if d.fld s .fcReadmit 0 0 63 56 < faults then
    let key := d.fenceKey s n
    ((d.setFld s .fcFenceA n 0 63 62 3).setQuiet s n false).recordFence s key.1 key.2 true
  else (d.setFld s .fcFenceA n 0 63 62 2).setQuiet s n true

/-- The reaction to Recoverable-unit: the entry, the count, and the fence (R386, R388, R389). A PERMANENT entry stays so and
shows the time of the fault (R390). -/
def Dev.fenceFault (a : Tables) (d : Dev) (s src sub : Nat) : Dev :=
  if (d.sock s).faults.extra.contains (src * 256 + sub) then d
  else
    match d.fenceOf s src sub with
    | some n =>
      let st := d.fld s .fcFenceA n 0 63 62
      if st = 3 then d.setFld s .fcFenceB n 0 31 0 d.nowMs
      else
        let d := d.countFault s n
        (if st = 1 then d.fenceUnit a s src sub else d).degrade s
    | none =>
      match d.fenceSlot s with
      | some n =>
        let d := (d.setReg s .fcFenceA n 0 (word (src * 2 ^ 36 + sub * 2 ^ 28))).setReg s .fcFenceB n 0 0
        ((d.countFault s n).fenceUnit a s src sub).degrade s
      | none =>
        let d := d.onSock s fun k => { k with faults := { k.faults with extra := k.faults.extra ++ [src * 256 + sub] } }
        ((d.setFld s .fcStat 0 0 63 63 1).fenceUnit a s src sub).degrade s

/-- A pod that was replaced and whose cores are re-admitted becomes a spare when 96 pods are enabled, and is enabled
otherwise (R512); its router injects again (R224). -/
def Dev.podReturns (a : Tables) (d : Dev) (s pod : Nat) : Dev :=
  let w := d.wheel s
  let still := d.fenced s (pod * 2) 0xFF || d.fenced s (pod * 2 + 1) 0xFF || (List.range 16).any fun k => d.fenced s (0x100 + pod) k
  if 104 ≤ pod || w.enabled.contains pod || w.spares.contains pod || still then d
  else
    let d := (d.onCore (coreOf (sk s) pod 0) Core.unfence).onCore (coreOf (sk s) pod 1) Core.unfence
    let d := if 96 ≤ w.enabled.length then d.onWheel s fun w => { w with spares := w.spares ++ [pod] }
      else (d.onWheel s fun w => { w with enabled := w.enabled ++ [pod] }).setReg s .ldPodUcode (landingOf pod) 0 w.ucode
    let d := (d.setFld s .whSystem 0 0 63 56 (d.wheel s).spares.length).setFld s .whSystem 0 0 55 48 (d.wheel s).enabled.length
    ((d.setFld s .ldMeshCtl (landingOf pod) 0 4 4 0).meshGo a (sk s) (landingOf pod)).showStep a s pod

/-- Take back an entry's unit: ADMITTED, RECOVER rises; a PERMANENT entry's FAULTS clear and it is no longer recorded. -/
def Dev.admitEntry (a : Tables) (d : Dev) (s n : Nat) : Dev :=
  let perm := d.fld s .fcFenceA n 0 63 62 = 3
  let key := d.fenceKey s n
  let d := ((d.setFld s .fcFenceA n 0 63 62 1).bump s .fcFenceA n 0 15 0 1).setQuiet s n false
  let d := if perm then (d.setFld s .fcFenceA n 0 23 16 0).recordFence s key.1 key.2 false else d
  let d := d.admitUnit a s key.1 key.2
  (d.podReturns a s (if key.1 < 208 then key.1 / 2 else if 0x100 ≤ key.1 && key.1 < 0x168 then key.1 - 0x100 else 104)).degrade s

/-- The end of an entry's quiet period: Hepin's check passes, or its failure counts as a new fault (R389); during a dip it
waits (R391). -/
def Dev.quietEnd (a : Tables) (d : Dev) (s n : Nat) (passed : Bool) : Dev :=
  if !(d.sock s).faults.quiet.contains n || d.dipping s then d
  else if passed then d.admitEntry a s n
  else (d.countFault s n).degrade s

/-- A write of FC_FENCE_A.STATE (R543). -/
def Dev.writeFence (a : Tables) (d : Dev) (s n st : Nat) : Dev :=
  let was := d.fld s .fcFenceA n 0 63 62
  let key := d.fenceKey s n
  if was = 0 || was = st then d
  else if st = 0 then
    if was = 1 then ((d.setReg s .fcFenceA n 0 0).setReg s .fcFenceB n 0 0).degrade s else d
  else if st = 1 then d.admitEntry a s n
  else
    let d := (d.setFld s .fcFenceA n 0 63 62 st).setQuiet s n (st = 2)
    let d := d.recordFence s key.1 key.2 (st = 3)
    (if was = 1 then d.fenceUnit a s key.1 key.2 else d).degrade s

/-- RE_ADMISSION of a PERMANENT unit on request (R512): a unit whose check passes returns to use. True when done. -/
def Dev.readmit (a : Tables) (d : Dev) (s n : Nat) (passed : Bool) : Bool × Dev :=
  if d.fld s .fcFenceA n 0 63 62 ≠ 3 || !passed then (false, d) else (true, d.admitEntry a s n)

/-- COLD start fences the recorded units again before any berth is released (R390). -/
def Dev.refence (a : Tables) (d : Dev) (s : Nat) : Dev :=
  let keys := (d.wheel s).hepinRecord
  let d := keys.foldl (fun (d : Dev) k =>
    match (List.range 512).find? fun n => d.fld s .fcFenceA n 0 63 62 = 0 with
    | some n =>
      let d := d.setReg s .fcFenceA n 0 (word (3 * 2 ^ 62 + k.1 * 2 ^ 36 + k.2 * 2 ^ 28))
      (d.setReg s .fcFenceB n 0 (word (d.nowMs * 2 ^ 32 + d.nowMs))).fenceUnit a s k.1 k.2
    | none =>
      let d := d.onSock s fun x => { x with faults := { x.faults with extra := x.faults.extra ++ [k.1 * 256 + k.2] } }
      (d.setFld s .fcStat 0 0 63 63 1).fenceUnit a s k.1 k.2) d
  d.degrade s

/-! ### Accepting a message -/

/-- The words of a fault notice (R440). -/
def noticeWords (m : FMsg) : List Word := [word (2 * 2 ^ 56), m.hi, m.lo]

/-- Post a fault notice to a berth: on its KIND 0 slip of the socket, else on its slip of the lowest socket that has one
(assumption log 21). -/
def Dev.faultNotice (d : Dev) (s b : Nat) (m : FMsg) : Dev :=
  match (s :: List.range 16).find? fun t => (d.slipOf t b 0).isSome with
  | some t => d.tellBerth t b true (noticeWords m)
  | none => d

/-- The reaction of R384 and R385. Fatal-system's stop messages arrive as STOP_MESSAGE commands (assumption log 8). -/
def react (a : Admin) (d : Dev) (s : Nat) (m : FMsg) : Admin × Dev :=
  let note := fun (d : Dev) (b : Nat) => if d.fld s .fcCtl 0 0 8 8 = 1 && b ≠ 0 then d.faultNotice s b m else d
  if m.cls = 0xA then (a, d)
  else if m.sev = 3 then (a, note d m.berth)
  else if m.sev = 4 then (a, note (d.fenceFault a.tab s m.src m.sub) m.berth)
  else if m.sev = 5 && m.berth ≠ 0 then
    let (a, d) := stopBerth a d m.berth
    (a, d.faultNotice s a.tab.admin m)
  else if 5 ≤ m.sev then (a, d.fatalStop s (if m.sev = 7 then 2 else 1))
  else (a, d)

/-- Accept the head message of the lowest source that has one (R382): count, latch, queue, react. FORCE clears once its
message has left (R381). -/
def collect (a : Admin) (d : Dev) (s : Nat) : Admin × Dev :=
  match (d.sock s).faults.send.find? fun e => !e.2.isEmpty with
  | some (src, m :: r) =>
    let d := d.onSock s fun k => { k with faults := { k.faults with send := Tbl.set [] k.faults.send src r } }
    let d := if m.getLsbD 78 then
        d.setFld s .fcSrcSev src 0 63 63 (r.any fun (x : FMsg) => x.getLsbD 78).toNat else d
    let d := d.bump s .fcCnt (m.sev - 1) 0 47 0 1
    react a ((d.latch s m).queueFault s m) s m
  | _ => (a, d)

/-- FIRST_REARM: FC_FIRST_CTL.VALID and OVF clear. -/
def Dev.firstRearm (d : Dev) (s : Nat) : Dev := d.setReg s .fcFirstCtl 0 0 0

/-- ERR_LOG_REARM: VALID of a log clears, and COUNT and LOST with it (R375). -/
def Dev.logRearm (d : Dev) (s src : Nat) : Dev :=
  d.onSock s fun k =>
    { k with faults := k.faults.setLog src 0 (putBits (putBits (k.faults.logWord src 0) 63 62 0) 55 40 0) }

end Sys2Proof.Machine
end

