-- ==== Sys2Proof/Machine/HostBus.lean ====
section
/-! DEFINITION. The host bus: root ports, device requests at ingress, peer traffic, hot-plug, keys, and the configuration
space and BARs of the integrated region (R405 to R428, R541). -/

namespace Sys2Proof.Machine

/-! ### Root ports (R420, R423) -/

/-- The lanes a port has under its group's bifurcation; none when its group does not create it. -/
def Dev.portLanes (d : Dev) (s p : Nat) : Option Nat :=
  match d.fld s .pxPortCfg (p / 4 * 4) 0 58 56, p % 4 with
  | 0, 0 => some 16
  | 1, 0 | 1, 2 => some 8
  | 2, 0 => some 8
  | 2, 2 | 2, 3 => some 4
  | 3, 0 | 3, 1 => some 4
  | 3, 2 => some 8
  | 4, _ => some 4
  | _, _ => none

/-- A port's agent. -/
def portNode (s p : Nat) : Node := .port ⟨s % 16, Nat.mod_lt _ (by decide)⟩ ⟨p % 32, Nat.mod_lt _ (by decide)⟩

/-- A port's master ID and, without the socket, its source ID. -/
def portMaster (s p : Nat) : Nat := s * 4096 + 0x800 + p

/-- An error that a port reports about a device request. -/
def Dev.portNote (t : Tables) (d : Dev) (s p cls access addr : Nat) : Dev :=
  d.report s { src := 0x800 + p, cls, sub := 0xFF, master := portMaster s p, berth := t.berthOfPort s p, access, addr }

/-- The first byte of a socket's MMIO window. -/
def mmioBase (s : Nat) : Nat := 0x000E000000000000 + s * 0x0000100000000000

/-- A configuration word of a root port after reset (R423; assumption log 14): a Type 1 header whose bus range and windows
the manifest fixes, a PCI Express capability at 0x40 and MSI at 0x80. -/
def Dev.portCfgReset (d : Dev) (s p w : Nat) : BitVec 32 :=
  let pre := mmioBase s + p * 0x7800000000 + 0x40000000
  let top := mmioBase s + p * 0x7800000000 + 0x7800000000 - 1
  BitVec.ofNat 32 (match w * 4 with
    | 0x00 => Config.portDevice.toNat * 65536 + 0x5459
    | 0x04 => 0x00100000
    | 0x08 => 0x06040000
    | 0x0C => 0x00010000
    | 0x18 => d.fld s .pxPortCfg p 0 31 24 * 65536 + d.fld s .pxPortCfg p 0 39 32 * 256
    | 0x20 => 0xFFF0C000
    | 0x24 => (top / 2 ^ 20 % 4096 * 16 + 1) * 65536 + pre / 2 ^ 20 % 4096 * 16 + 1
    | 0x28 => pre / 2 ^ 32
    | 0x2C => top / 2 ^ 32
    | 0x34 => 0x40
    | 0x40 => 0x01428010
    | 0x80 => 0x00800005
    | 0x100 => 0x00020001
    | _ => 0)

/-- A configuration word of a root port. -/
def Dev.portCfg (d : Dev) (s p w : Nat) : BitVec 32 := Tbl.get (d.portCfgReset s p w) (d.port s p).cfg w

/-- Store a configuration word of a root port. -/
def Dev.setPortCfg (d : Dev) (s p w : Nat) (v : BitVec 32) : Dev :=
  d.onPort s p fun x => { x with cfg := Tbl.set (d.portCfgReset s p w) x.cfg w v }

/-- A port's interrupt goes out through its MSI capability, when enabled with Bus Master Enable. -/
def Dev.portMsi (t : Tables) (d : Dev) (s p : Nat) : Dev :=
  let addr := (d.portCfg s p 0x21).toNat + (d.portCfg s p 0x22).toNat * 2 ^ 32
  let ok := 0x000FE00000000000 ≤ addr && addr < 0x000FE00001000000 && addr % 4 = 0
  if !(d.portCfg s p 0x20).getLsbD 16 || !(d.portCfg s p 1).getLsbD 2 then d
  else if ok then
    d.send (interruptMsg (portNode s p) (t.berthOfPort s p) (portMaster s p) addr (d.portCfg s p 0x23 &&& 0xFFFF))
  else d.notice s (0x800 + p)

/-! ### Device requests at ingress (R424, R425, R32, R107) -/

/-- What a device request meets: it is not taken, is unsupported, goes to memory, out of a peer's window, or to an interrupt
window. -/
inductive Ingress where
  | notTaken
  | unsupported
  | mem
  | peer (port : Nat)
  | irq
  deriving DecidableEq, Repr

/-- The checks on a request of `n` bytes with an access type. -/
def Dev.ingress (t : Tables) (d : Dev) (r : DmaReq) (n access : Nat) (write : Bool) : Ingress × Dev :=
  let s := r.sock.val
  let p := r.port.val
  let b := t.berthOfPort s p
  let addr := r.addr.toNat
  let owned := t.covers b addr (addr + n)
  let bad : Ingress × Dev := (.unsupported, d.portNote t s p 4 access addr)
  if b = 0 || !d.portUp s p || !d.berthRuns t s b then (.notTaken, d)
  else if r.translated || r.pasid || (addr < 0x100000000 && 0xC0000000 < addr + n) then (.unsupported, d)
  else
    match regionOf addr with
    | .far .. | .near .. | .cxl .. | .hole => if owned then (.mem, d) else bad
    | .intWin u _ => if write then (.irq, d) else (.unsupported, d.noteAccess u 0x206 (portMaster s p) b access addr)
    | .mmio u off =>
      match portWindow u off with
      | some (q, _) =>
        if u = s && q / 16 = p / 16 && owned && d.fld s .pxPortStat q 0 63 60 ≠ 4 then (.peer q, d)
        else if owned then (.unsupported, d)
        else bad
      | none => bad
    | .regs .. => bad

/-- The completion statuses of the host bus: successful, unsupported request, or not taken or not yet completed. -/
def plSuccess : Word := 0
/-- Unsupported Request. -/
def plUnsupported : Word := 1
/-- The request was not taken, or has no completion yet. -/
def plWaits : Word := 0xFE

/-- Bytes as doublewords, the first byte lowest. -/
def packBytes (bs : List Byte) : List Word := (chunks (bs.length + 1) 8 bs).map fun c => word (leNat c)

/-- The pieces of a stretch of bytes that lie in one line each: offset from its start, address, length. -/
def linePieces (fuel addr n done : Nat) : List (Nat × Nat × Nat) :=
  match fuel with
  | 0 => []
  | f + 1 =>
    if n = 0 then []
    else
      let k := Nat.min n (64 - addr % 64)
      (done, addr, k) :: linePieces f (addr + k) (n - k) (done + k)

/-- Read memory for a device, line by line: per line, whether its completion is poisoned, and its bytes. -/
def Dev.dmaLines (a : Tables) (d : Dev) (r : DmaReq) (ps : List (Nat × Nat × Nat)) : Option (List Word) × Dev :=
  match ps with
  | [] => (some [], d)
  | (_, addr, k) :: rest =>
    let s := r.sock.val
    let p := r.port.val
    let m : Msg :=
      { ty := .nrd, src := portNode s p, dst := d.homeSlice r.sock addr, berth := BitVec.ofNat 6 (a.berthOfPort s p),
        master := BitVec.ofNat 16 (portMaster s p), txn := 0, age := BitVec.ofNat 20 d.now.toNat, aux := false,
        addr := BitVec.ofNat 52 (lineBase addr), len := 64, data := 0, poison := false }
    match d.nrdLine a 8 m with
    | (none, d) => (none, d)
    | (some l, d) =>
      let d := if l.poison then d.portNote a s p 3 10 addr else d
      let bs := (List.range k).map fun i => lineByte l.data (addr % 64 + i)
      match Dev.dmaLines a d r rest with
      | (none, d) => (none, d)
      | (some ws, d) => (some (word l.poison.toNat :: packBytes bs ++ ws), d)

/-- A peer request leaves through a port with its bus address; a read's data is what the device answers (R425, R427). -/
def Dev.peerOut (d : Dev) (s q : Nat) (addr : Nat) (write : Bool) (bs : List Byte) (n : Nat) : Dev :=
  if !d.portUp s q then d.answer [plUnsupported]
  else
    let off := addr % 0x0000100000000000 % 0x7800000000
    let bus := if off < 0x40000000 then 0xC0000000 + off else addr
    let d := d.portSend s q bus write bs
    if write then d.answer [plSuccess]
    else
      let (xs, d) := d.deviceBytes n
      d.answer (plSuccess :: 0 :: packBytes xs)

/-- DMA_READ: one completion per line (R363), or UR. -/
def Dev.dmaRead (a : Tables) (d : Dev) (r : DmaReq) : Dev :=
  let addr := r.addr.toNat
  match d.ingress a r r.len 10 false with
  | (.notTaken, d) => d.answer [plWaits]
  | (.mem, d) =>
    match d.dmaLines a r (linePieces (r.len + 1) addr r.len 0) with
    | (some ws, d) => d.answer (plSuccess :: ws)
    | (none, d) => d.answer [plWaits]
  | (.peer q, d) => d.peerOut r.sock.val q addr false [] r.len
  | (_, d) => d.answer [plUnsupported]

/-- DMA_WRITE: full lines as NWR, others as PWR (R424), a poisoned TLP poisoning every line it touches (R362); a write to an
interrupt window is an interrupt message. -/
def Dev.dmaWrite (a : Tables) (d : Dev) (r : DmaReq) (bs : List Byte) (poisoned : Bool) : Dev :=
  let s := r.sock.val
  let p := r.port.val
  let addr := r.addr.toNat
  let b := a.berthOfPort s p
  match d.ingress a r bs.length 11 true with
  | (.notTaken, d) => d.answer [plWaits]
  | (.mem, d) =>
    let (ok, d) := (linePieces (bs.length + 1) addr bs.length 0).foldl (fun (acc : Bool × Dev) x =>
      if acc.1 then
        acc.2.uncachedWrite a (portNode s p) b (portMaster s p) 0 x.2.1 x.2.2 (lineOfBytes ((bs.drop x.1).take x.2.2)) poisoned r.relaxed
      else acc) (true, d)
    d.answer [if ok then plSuccess else plWaits]
  | (.peer q, d) => d.peerOut s q addr true bs 0
  | (.irq, d) =>
    let m := interruptMsg (portNode s p) b (portMaster s p) addr (BitVec.ofNat 32 (leNat (bs.take 4)))
    (d.send { m with len := BitVec.ofNat 7 (Nat.min 127 bs.length), poison := poisoned }).answer [plSuccess]
  | (.unsupported, d) => d.answer [plUnsupported]

/-- PEER_REQUEST: a device request whose address lies in a port window; any other address is unsupported as peer traffic. -/
def Dev.peerRequest (a : Tables) (d : Dev) (r : DmaReq) (write : Bool) (bs : List Byte) : Dev :=
  match d.ingress a r r.len (if write then 11 else 10) write with
  | (.notTaken, d) => d.answer [plWaits]
  | (.peer q, d) => d.peerOut r.sock.val q r.addr.toNat write bs r.len
  | (_, d) => d.answer [plUnsupported]

/-- ATOMICOP_REQUEST (R421): FetchAdd, Swap and CAS of 32 and 64 bits run as far atomics at the home slice; other sizes and
misaligned addresses complete with UR. The completion carries the old value, poisoned where the line is; the request is repeated while
it has none, and runs once. -/
def Dev.atomicRequest (a : Tables) (d : Dev) (r : DmaReq) (op size : Nat) (x y : BitVec 128) : Dev :=
  let s := r.sock.val
  let p := r.port.val
  let n := 4 * 2 ^ size
  let pa := r.addr.toNat
  match d.ingress a r n 6 true with
  | (.notTaken, d) => d.answer [plWaits]
  | (.mem, d) =>
    if 8 < n || pa % n ≠ 0 then d.answer [plUnsupported]
    else
      let code := if op = 0 then 0 else if op = 1 then 6 else 7
      let arg := if op = 2 then y else x
      let m : Msg :=
        { ty := .atm, src := portNode s p, dst := d.homeSlice r.sock pa, berth := BitVec.ofNat 6 (a.berthOfPort s p),
          master := BitVec.ofNat 16 (portMaster s p), txn := 0, age := BitVec.ofNat 20 d.now.toNat, aux := false,
          addr := BitVec.ofNat 52 pa, len := BitVec.ofNat 7 n,
          data := atmData code false (n = 8) 0 (arg.setWidth 64) (x.setWidth 64), poison := false }
      let d := if d.inbox.any fun x => x.dst = portNode s p && x.ty = .atr && lineOf x.pa = lineOf pa then d else (d.ask a 8 none m).2
      match d.take (portNode s p) (lineOf pa) (· = .atr) with
      | (some z, d) =>
        let d := if z.poison then d.portNote a s p 3 6 pa else d
        d.answer [plSuccess, word z.poison.toNat, word (nbits z.data.toNat (8 * n - 1) 0)]
      | (none, d) => d.answer [plWaits]
  | (_, d) => d.answer [plUnsupported]

/-! ### Hot-plug, removal, containment, keys (R427, R428, R421) -/

/-- SURPRISE_REMOVAL or DPC containment of a port that is in use: outstanding core loads end with BUS, the port's interrupts
go out, and a CXL port loses its expanders. -/
def Dev.surprise (a : Tables) (d : Dev) (s p : Nat) (dpc : Bool) : Dev :=
  if d.fld s .pxPortCfg p 0 63 63 = 0 || d.fld s .pxPortStat p 0 63 60 ≠ 2 then d
  else
    let d := d.portLoadsEnd s p
    let d := if dpc then d.setFld s .pxPortStat p 0 63 60 3
      else (d.setReg s .pxPortStat p 0 (word (2 ^ 60))).onPort s p fun x => { x with present := false, hotplug := true }
    let d := match cxlOf p with
      | some i => if d.fld s .pxPortCfg p 0 62 62 = 1 then d.cxlLost a s i else d
      | none => d
    d.portMsi a s p

/-- HOT_PLUG_INSERTION: a device that answers trains on a port in use, at the rate and the widest width both ends have
(R421); its presence interrupt goes out. FLIT mode is certain at 64 GT/s and open below (assumption log 5). -/
def Dev.hotPlug (a : Tables) (d : Dev) (s p speed width : Nat) : Dev :=
  match d.portLanes s p with
  | none => d
  | some lanes =>
    if d.fld s .pxPortCfg p 0 63 63 = 0 || d.fld s .pxPortStat p 0 63 60 ≠ 1 || speed = 0 || 6 < speed || width = 0 then d
    else
      let w := ([16, 8, 4, 2, 1].find? fun k => k ≤ width && k ≤ lanes).getD 1
      let (v, d) := if speed = 6 then ((1 : Word), d) else d.free
      let d := d.setReg s .pxPortStat p 0 (word (2 * 2 ^ 60 + speed * 2 ^ 48 + bits v 0 0 * 2 ^ 44 + w * 2 ^ 32))
      (d.onPort s p fun x => { x with present := true, hotplug := true }).portMsi a s p

/-- A write of PX_IDE_KEY: key, IV, or the slot's VALID, DIR and STREAM, a one in VALID loading the slot. -/
def Dev.writeIde (d : Dev) (s p slot i : Nat) (v : Word) : Dev :=
  if 7 ≤ i then d
  else d.onPort s p fun x =>
    { x with
      ide := Tbl.set 0 x.ide (slot * 8 + i) v
      ideLoaded := if i = 6 then Tbl.set false x.ideLoaded slot (bit v 63) else x.ideLoaded }

/-- CPL_TIMEOUT of a core's load through a root port (R414, R426): the load draws BUS, the port's AER shows the time-out,
and the port reports it. -/
def Dev.loadTimeout (d : Dev) (n : Node) (txn : Nat) : Dev :=
  let s := n.sock.val
  match (List.range 32).find? fun p => (d.port s p).loads.contains (n, txn) with
  | none => d
  | some p =>
    let d := d.onPort s p fun x => { x with loads := x.loads.erase (n, txn) }
    let d := d.send
      { ty := .drsp, src := portNode s p, dst := n, berth := 0, master := n.master, txn := BitVec.ofNat 12 txn, age := 0,
        aux := false, addr := 0, len := 0, data := 0, poison := true }
    (d.setPortCfg s p 0x41 (d.portCfg s p 0x41 ||| (0x4000 : BitVec 32))).notice s (0x800 + p)

/-! ### Configuration space (R541, R407) -/

/-- What an offset of the ECAM names. -/
inductive Ecam where
  | port (p w : Nat)
  | below (p : Nat)
  | fn (e f w : Nat)
  | absent
  deriving DecidableEq, Repr

/-- The function that an ECAM offset addresses. -/
def Dev.ecam (d : Dev) (s off : Nat) : Ecam :=
  let bus := off / 0x100000 % 256
  let dv := off / 0x8000 % 32
  let w := off % 0x1000 / 4
  if bus = 0 then
    if off / 0x1000 % 8 = 0 && (d.portLanes s dv).isSome then .port dv w else .absent
  else if 0xF0 ≤ bus && bus < 0xF4 then .fn (bus - 0xF0) (off / 0x1000 % 256) w
  else
    match (List.range 32).find? fun p =>
      (d.portLanes s p).isSome && d.fld s .pxPortCfg p 0 39 32 ≤ bus && bus ≤ d.fld s .pxPortCfg p 0 31 24 with
    | some p => .below p
    | none => .absent

/-- The berth that owns the function or port of an ECAM offset, and the source that reports a failed check. -/
def Dev.ecamOwner (t : Tables) (d : Dev) (s off : Nat) : Option (Nat × Nat) :=
  match d.ecam s off with
  | .port p _ | .below p => some (t.berthOfPort s p, 0x800 + p)
  | .fn e f _ => some (t.berthOfFn s e f, engSrc e)
  | .absent => none

/-- Read a doubleword of configuration space, checked already. -/
def Dev.cfgRead (d : Dev) (s off : Nat) : BitVec 32 × Dev :=
  match d.ecam s off with
  | .port p w => (d.portCfg s p w, d)
  | .fn e f w => (if d.engFenced s e then 0xFFFFFFFF else d.fnCfg s e f w, d)
  | .below p =>
    if d.portUp s p then
      let (bs, d) := (d.portSend s p off false []).deviceBytes 4
      (BitVec.ofNat 32 (leNat bs), d)
    else (0xFFFFFFFF, d)
  | .absent => (0xFFFFFFFF, d)

/-- Write a doubleword of a root port's configuration space (R423): the bus numbers and windows are fixed, and a berth's
write to them is logged; status bits clear by ones; the capabilities' words are stored. -/
def Dev.portCfgWrite (d : Dev) (s p w : Nat) (q : Requester) (v : BitVec 32) : Dev :=
  let old := d.portCfg s p w
  if 6 ≤ w && w ≤ 0xC then
    if q.berth = 0 then d
    else d.noteAccess s (0x800 + p) q.master.toNat q.berth.toNat 8 (mmioBase s + 0x0F0000000000 + p * 0x8000 + w * 4)
  else if w = 1 then d.setPortCfg s p w ((old &&& ~~~(0x547 : BitVec 32)) ||| (v &&& 0x547))
  else if w = 0x41 then d.setPortCfg s p w (old &&& ~~~v)
  else if w = 0x20 then d.setPortCfg s p w ((old &&& ~~~(0x10000 : BitVec 32)) ||| (v &&& 0x10000))
  else if w < 0x10 || w = 0x10 || w = 0x11 || w = 0x13 || w = 0x40 then d
  else d.setPortCfg s p w v

/-- Write a doubleword of a ferry function's configuration space: Command with Bus Master Enable (R409), Device Control with
Initiate FLR (R417), MSI-X control (R412), AER; Hepin alone writes SR-IOV (R405); the rest is read-only. -/
def Dev.fnCfgWrite (a : Tables) (d : Dev) (s e f w : Nat) (q : Requester) (v : BitVec 32) : Dev :=
  let old := d.fnCfg s e f w
  if d.engFenced s e then d
  else if w = wCommand then
    let d := d.setFnCfg s e f w ((old &&& ~~~(0x542 : BitVec 32)) ||| (v &&& 0x542))
    if v.getLsbD 2 && !old.getLsbD 2 then d.bmeSet a s e f
    else if !v.getLsbD 2 && old.getLsbD 2 then d.bmeClear a s e f
    else d
  else if w = wDevCtl then
    let d := d.setFnCfg s e f w ((old &&& 0xFFFF8000 &&& ~~~(v &&& (0xFFFF0000 : BitVec 32))) ||| (v &&& 0x7FFF))
    if v.getLsbD 15 then (if f = 0 then d.engineReset a s e else d.flrStart a s e f) else d
  else if w = wMsix then
    (d.setFnCfg s e f w ((old &&& 0x3FFFFFFF) ||| (v &&& (0xC0000000 : BitVec 32)))).msixAll a s e f
  else if w = wAer || w = 0x44 then d.setFnCfg s e f w (old &&& ~~~v)
  else if w = 0x42 || w = 0x43 || w = 0x45 || w = 0x46 then d.setFnCfg s e f w v
  else if 0x58 ≤ w && w < 0x68 && f = 0 then
    if isHepin s q.master.toNat then d.setFnCfg s e f w v
    else d.noteAccess s (engSrc e) q.master.toNat q.berth.toNat 8 (mmioBase s + 0x0F0000000000 + (0xF0 + e) * 0x100000 + w * 4)
  else d

/-- Write a doubleword of configuration space, checked already. -/
def Dev.cfgWrite (a : Tables) (d : Dev) (s off : Nat) (q : Requester) (v : BitVec 32) : Dev :=
  match d.ecam s off with
  | .port p w => d.portCfgWrite s p w q v
  | .fn e f w => d.fnCfgWrite a s e f w q v
  | .below p => if d.portUp s p then d.portSend s p off true (leBytes 4 v.toNat) else d
  | .absent => d

/-! ### BAR0 of a ferry function (R406) -/

/-- A doubleword of a function's BAR0 as software reads it. -/
def Dev.barRead (t : Tables) (d : Dev) (s e f o : Nat) : Word :=
  let fk := fnKey e f
  let x := d.fn s fk
  if 0x20000 ≤ o && o < 0x28000 then x.msixWord ((o - 0x20000) / 16) (o % 16 / 8)
  else if 0x28000 ≤ o && o < 0x28100 then
    word ((List.range 64).foldl (fun n i => n + (Tbl.get false x.pba ((o - 0x28000) * 8 + i)).toNat * 2 ^ i) 0)
  else
    match Reg.find true (fk * 0x80000 + o) with
    | some (.feFnInfo, _, _) =>
      word ((if f = 0 then 0x9F00 else 0x9F01) * 2 ^ 48 + e * 2 ^ 40 + s * 2 ^ 32 + t.berthOfFn s e f * 2 ^ 24 + f * 2 ^ 16 +
        0x7FF)
    | some (r, i, j) =>
      let v := r.visible true (d.reg s r i j)
      match r with
      | .feFnStat => putBits (putBits (putBit v 63 (!x.heldRec.isEmpty)) 44 32 (d.qCount s e f)) 12 0 (d.tagsHeld s e f)
      | .feDb => 0
      | .feQcBase | .feQcCtl | .feQcStat => if j < d.qCount s e f then v else 0
      | _ => v
    | none => 0

/-- A write to a doubleword of a function's BAR0. -/
def Dev.barWrite (a : Tables) (d : Dev) (s e f o : Nat) (v : Word) : Dev :=
  let fk := fnKey e f
  if 0x20000 ≤ o && o < 0x28000 then
    let vec := (o - 0x20000) / 16
    let v := if o % 16 = 0 then v &&& ~~~(3 : Word) else v &&& 0x1FFFFFFFF
    (d.onFn s fk fun x => x.setMsix vec (o % 16 / 8) v).msixSend a s e f vec
  else
    match Reg.find true (fk * 0x80000 + o) with
    | some (.feDb, _, i) => d.writeDb s e f i (bits v 15 0)
    | some (.feQcCtl, _, i) => d.writeQc s e f i v
    | some (.fePwCtl, _, _) => if bit v 63 then d.commitWindows a s e f else d
    | some (.feQcBase, i, j) =>
      if j < d.qCount s e f then d.setReg s .feQcBase i j (Reg.feQcBase.written false false (d.reg s .feQcBase i j) v) else d
    | some (r, i, j) => d.setReg s r i j (r.written true false (d.reg s r i j) v)
    | none => d

/-- Whether a value writes a one to a reserved bit of a function's BAR0 register (R3). -/
def barReserved (fk o : Nat) (v : Word) : Bool :=
  match Reg.find true (fk * 0x80000 + o) with
  | some (r, _, j) => r.badBits j true v
  | none => false

/-! ### The integrated region (R407, R541) -/

/-- The answer of a failed or absent read: all ones in configuration space, zero in a BAR. -/
def missing (off : Nat) : Word := if off < 0x10000000 then BitVec.allOnes 64 else 0

/-- Merge bytes into a doubleword. -/
def wordMerge (w : Word) (off n : Nat) (v : Word) : Word := (lineMerge (w.setWidth 512) off n (v.setWidth 512)).setWidth 64

/-- Whether a requester may reach the function or port of an offset; a failure is logged. -/
def Dev.integratedOk (t : Tables) (d : Dev) (q : Requester) (s off access : Nat) : Bool × Dev :=
  let own := if off < 0x10000000 then d.ecamOwner t s off
    else some (t.berthOfFn s ((off - 0x10000000) / 0x8000000 % 4) ((off - 0x10000000) / 0x80000 % 256),
      engSrc ((off - 0x10000000) / 0x8000000 % 4))
  match own with
  | none => (true, d)
  | some (b, src) =>
    if q.berth = 0 || q.berth.toNat = b then (true, d)
    else (false, d.noteAccess s src q.master.toNat q.berth.toNat access (mmioBase s + 0x0F0000000000 + off))

/-- A read of 1, 2, 4 or 8 bytes in the integrated region. -/
def Dev.integratedRead (t : Tables) (d : Dev) (q : Requester) (s off n : Nat) : Word × Dev :=
  match d.integratedOk t q s off 7 with
  | (false, d) => (word (bits (missing off) (8 * n - 1) 0), d)
  | (true, d) =>
    if off < 0x10000000 then
      let (lo, d) := d.cfgRead s (off / 4 * 4)
      let (hi, d) := if n = 8 then d.cfgRead s (off / 4 * 4 + 4) else (0, d)
      let v := word (lo.toNat + hi.toNat * 2 ^ 32)
      (word (nbits (v.toNat >>> (8 * (off % 4))) (8 * n - 1) 0), d)
    else
      let o := off - 0x10000000
      let e := o / 0x8000000 % 4
      if d.engFenced s e then (0, d)
      else
        let v := d.barRead t s e (o / 0x80000 % 256) (o % 0x80000 / 8 * 8)
        (word (nbits (v.toNat >>> (8 * (off % 8))) (8 * n - 1) 0), d)

/-- A write of 1, 2, 4 or 8 bytes in the integrated region. Ones that a berth writes to reserved bits of a BAR register are
logged (R3). A BAR register takes 8 bytes; the MSI-X table takes 4 as well
(assumption log 20). -/
def Dev.integratedWrite (a : Tables) (d : Dev) (q : Requester) (s off n : Nat) (v : Word) : Dev :=
  match d.integratedOk a q s off 8 with
  | (false, d) => d
  | (true, d) =>
    if off < 0x10000000 then
      if n = 8 then
        (d.cfgWrite a s off q (v.setWidth 32)).cfgWrite a s (off + 4) q ((v >>> 32).setWidth 32)
      else
        let (old, d) := match d.ecam s off with
          | .below _ => ((0 : BitVec 32), d)
          | _ => d.cfgRead s (off / 4 * 4)
        let old : Word := match d.ecam s off with
          | .fn _ _ w => if w = wAer || w = 0x44 then 0 else if w = wDevCtl then old.setWidth 64 &&& 0x7FFF else old.setWidth 64
          | .port _ w => if w = 0x41 then 0 else old.setWidth 64
          | _ => old.setWidth 64
        d.cfgWrite a s (off / 4 * 4) q ((wordMerge old (off % 4) n v).setWidth 32)
    else
      let o := off - 0x10000000
      let e := o / 0x8000000 % 4
      let f := o / 0x80000 % 256
      let r := o % 0x80000
      if d.engFenced s e then d
      else if n = 8 then
        let d := if q.berth ≠ 0 && barReserved (fnKey e f) r v then
            d.noteAccess s (engSrc e) q.master.toNat q.berth.toNat 8 (mmioBase s + 0x0F0000000000 + off)
          else d
        d.barWrite a s e f r v
      else if n = 4 && 0x20000 ≤ r && r < 0x28000 then
        d.barWrite a s e f (r / 8 * 8) (wordMerge (d.barRead a s e f (r / 8 * 8)) (r % 8) 4 v)
      else d.noteAccess s (engSrc e) q.master.toNat q.berth.toNat 8 (mmioBase s + 0x0F0000000000 + off)

end Sys2Proof.Machine
end

