-- ==== Sys2Proof/Machine/Counters.lean ====
section
/-! DEFINITION. Uncore counters' owners, sampling and snapshots (R445 to R457). -/

namespace Sys2Proof.Machine

/-! ### Uncore units -/

/-- The configuration and count registers of an uncore unit and its index there; units are numbered slices 0 to 103, far
channels 104 to 115, near channels 116 to 131, links 132 to 139, engines 140 to 143. -/
def uncUnit (u : Nat) : Option (Reg × Reg × Nat) :=
  if u < 104 then some (.pcUncCfgSlice, .pcUncCntSlice, u)
  else if u < 116 then some (.pcUncCfgFar, .pcUncCntFar, u - 104)
  else if u < 132 then some (.pcUncCfgNear, .pcUncCntNear, u - 116)
  else if u < 140 then some (.pcUncCfgLink, .pcUncCntLink, u - 132)
  else if u < 144 then some (.pcUncCfgEng, .pcUncCntEng, u - 140)
  else none

/-- The source ID of an uncore unit (R378). -/
def uncSrc (u : Nat) : Nat :=
  if u < 104 then 0x100 + u
  else if u < 116 then 0x210 + (u - 104)
  else if u < 132 then 0x220 + (u - 116)
  else if u < 140 then 0xE00 + (u - 132)
  else engSrc (u - 140)

/-- The count register that goes with a configuration register. -/
def uncCount (r : Reg) : Option Reg :=
  match r with
  | .pcUncCfgSlice => some .pcUncCntSlice
  | .pcUncCfgFar => some .pcUncCntFar
  | .pcUncCfgNear => some .pcUncCntNear
  | .pcUncCfgLink => some .pcUncCntLink
  | .pcUncCfgEng => some .pcUncCntEng
  | _ => none

/-- A write of PC_UNC_CFG.BERTH: EN and the count become 0 (R455). -/
def Dev.uncBerth (d : Dev) (s : Nat) (cfg cnt : Reg) (u i b : Nat) : Dev :=
  (d.setReg s cfg u i (putBit (putBits (d.reg s cfg u i) 53 48 b) 63 false)).setReg s cnt u i 0

/-- A whole write of PC_UNC_CFGi: one that changes BERTH is a write of BERTH (assumption log 22). -/
def Dev.writeUncCfg (d : Dev) (s : Nat) (cfg cnt : Reg) (u i : Nat) (berthView : Bool) (v : Word) : Dev :=
  let old := d.reg s cfg u i
  let w := cfg.written berthView false old v
  let d := d.setReg s cfg u i w
  if bits w 53 48 ≠ bits old 53 48 then d.uncBerth s cfg cnt u i (bits w 53 48) else d

/-! ### Sampling (R449) -/

/-- SAMPLE_COUNT_ZERO: the occurrence that brings SYS_PCSCNT to zero, while sampling is on. -/
def Dev.sampleZero (d : Dev) (h : Hart) (ip : Word) (killed : Bool) : Dev :=
  let c := d.core h
  let cfg := c.sysGet 0x211
  if !bit cfg 63 || bits cfg 47 0 = 0 || bit (c.sysGet 0x210) 0 || isWheel h then d
  else (d.onCore h fun c => c.sample ip killed).wake h

/-! ### Snapshots (R451 to R455) -/

/-- No snapshot has fallen due. -/
def Snap.reset : Snap := { seq := 0, lostSince := 0, record := [], lines := [] }

/-- The snapshot unit's state for a berth. -/
def Dev.snap (d : Dev) (s b : Nat) : Snap := Tbl.get Snap.reset (d.wheel s).snaps b

/-- Put the snapshot unit's state for a berth. -/
def Dev.setSnap (d : Dev) (s b : Nat) (x : Snap) : Dev := d.onWheel s fun w => { w with snaps := Tbl.set Snap.reset w.snaps b x }

/-- Word of a counter in a record. -/
def counterWord (src i : Nat) (v : Word) : Word := word (src * 2 ^ 52 + i * 2 ^ 48 + bits v 47 0)

/-- A core's counter by its index: PMC0 to PMC7, FCYC, FINST, FREF. -/
def Core.counter (c : Core) (i : Nat) : Word := c.sysGet (0x120 + i)

/-- The counter words of a berth's record (R453): cores in increasing number, then uncore units by source ID. -/
def Dev.counterWords (t : Tables) (d : Dev) (s b : Nat) : List Word :=
  let cores := (List.range 208).filter fun c => b ≠ 0 && t.berthOfPod s (c / 2) = b
  let cw := cores.flatMap fun c =>
    let x := Tbl.get Core.reset (d.sock s).cores c
    (List.range 11).map fun i => counterWord c i (x.counter i)
  let units := List.range 132 ++ [140, 141, 142, 143] ++ (List.range 8).map (132 + ·)
  let uw := units.flatMap fun u =>
    match uncUnit u with
    | some (cfg, cnt, k) => (List.range 4).filterMap fun i =>
        let w := d.reg s cfg k i
        if bit w 63 && bits w 53 48 = b then some (counterWord (uncSrc u) i (d.reg s cnt k i)) else none
    | none => []
  cw ++ uw

/-- The words of a record. -/
def recordWords (s b seq lost : Nat) (now : Word) (ws : List Word) : List Word :=
  let n := (8 + ws.length + 7) / 8 * 8
  [word (0x534E4150 * 2 ^ 32 + n), word seq, now, word (s * 2 ^ 48 + b * 2 ^ 40 + lost), 0, 0, 0, 0] ++ ws ++
    List.replicate (n - 8 - ws.length) 0

/-- SNAPSHOT: at a due time the counters of the berth are frozen into a record, or the snapshot is lost (R454). -/
def Dev.snapshot (t : Tables) (d : Dev) (s b : Nat) : Dev :=
  let cfg := d.reg s .pcSnapCfg b 0
  let k := bits cfg 60 56
  if !bit cfg 63 || k < 10 || 30 < k || d.now.toNat % 2 ^ k ≠ 0 then d
  else
    let x := d.snap s b
    let ws := d.counterWords t s b
    let rec_ := recordWords s b x.seq x.lostSince d.now ws
    let size := 2 ^ bits cfg 4 0
    let ptr := d.reg s .pcSnapPtr b 0
    let used := (bits ptr 31 0 + 2 ^ 32 - bits ptr 63 32) % 2 ^ 32
    let st := Tbl.get .free t.state b
    if d.fld s .pcSnapStat b 0 62 62 = 1 || size - used < rec_.length * 8 || (st ≠ .run && st ≠ .draining) then
      (d.bump s .pcSnapStat b 0 31 0 1).setSnap s b { x with seq := x.seq + 1, lostSince := satAdd 32 x.lostSince 1 }
    else
      (d.setFld s .pcSnapStat b 0 62 62 1).setSnap s b
        { seq := x.seq + 1, lostSince := 0, record := rec_,
          lines := [bits (d.reg s .pcSnapBase b 0) 51 12 * 4096, size, bits cfg 47 40, bits cfg 39 39, bits cfg 36 32] }

/-- SNAPSHOT_RECORD_DONE: the record's lines are written into the berth's ring as an ordered writer (R452); then WP advances
and the doorbell may ring. A record with an address that fails R30 is not written (R454). R5 gives the unit no agent number: it
writes and reports under 0xF00, the Wheelhouse's (DESIGN CHOICE, assumption log 30). -/
def Dev.snapshotDone (a : Tables) (d : Dev) (s b : Nat) : Dev :=
  let x := d.snap s b
  match x.lines with
  | [base, size, core, ring, bit_] =>
    let wp := d.fld s .pcSnapPtr b 0 31 0
    let addr := fun (i : Nat) => base + (wp + i * 64) % size
    let groups := chunks (x.record.length + 1) 8 x.record
    let idx := List.range groups.length
    let sk : Sock := ⟨s % 16, Nat.mod_lt _ (by decide)⟩
    let fin := fun (d : Dev) => (d.setFld s .pcSnapStat b 0 62 62 0).setSnap s b { x with record := [], lines := [] }
    if idx.any fun i => !a.covers b (addr i) (addr i + 64) then
      let d := ((fin d).setFld s .pcSnapCfg b 0 63 63 0).setFld s .pcSnapStat b 0 63 63 1
      d.noteAccess s 0xF12 (s * 4096 + 0xF00) b 3 (addr 0)
    else
      let (ok, d) := idx.foldl (fun (acc : Bool × Dev) i =>
        if acc.1 then
          acc.2.uncachedWrite a (.wheel sk) b (s * 4096 + 0xF00) 0 (addr i) 64
            (lineOfBytes ((groups.getD i []).flatMap fun (w : Word) => leBytes 8 w.toNat))
        else acc) (true, d)
      if !ok then d
      else
        let d := (fin d).setFld s .pcSnapPtr b 0 31 0 ((wp + x.record.length * 8) % 2 ^ 32)
        if ring = 1 then (d.ring s core bit_).ringWake s core else d
  | _ => d

/-- A write of PC_SNAP_CFG: setting EN starts SEQ at 0; a berth that names a core it does not own leaves DB_CORE, and the
write of it is logged (R457). -/
def Dev.writeSnapCfg (t : Tables) (d : Dev) (s b : Nat) (q : Requester) (v : Word) : Dev :=
  let old := d.reg s .pcSnapCfg b 0
  let core := bits v 47 40
  let bad := q.berth ≠ 0 && (208 ≤ core || t.berthOfPod s (core / 2) ≠ q.berth.toNat)
  let w := Reg.pcSnapCfg.written false false old v
  let w := if bad then putBits w 47 40 (bits old 47 40) else w
  let d := d.setReg s .pcSnapCfg b 0 w
  let d := if bit w 63 && !bit old 63 then d.setSnap s b { d.snap s b with seq := 0, lostSince := 0 } else d
  if bad then
    d.noteAccess s 0xF12 q.master.toNat q.berth.toNat 8 (0x000FF00000000000 + s * 0x100000000 + Reg.pcSnapCfg.at b 0)
  else d

end Sys2Proof.Machine
end

