-- ==== Sys2Proof/Machine/Crypto.lean ====
section
/-! DEFINITION. SHA-512 (FIPS 180-4) and Ed25519 (RFC 8032, pure and prehashed), which manifests, change orders and
attestation reports use (R40, R485, R495, R497; assumption log 11). -/

namespace Sys2Proof.Machine

/-! ### SHA-512 -/

/-- The round constants. -/
def shaK : List Word :=
  [0x428A2F98D728AE22, 0x7137449123EF65CD, 0xB5C0FBCFEC4D3B2F, 0xE9B5DBA58189DBBC,
   0x3956C25BF348B538, 0x59F111F1B605D019, 0x923F82A4AF194F9B, 0xAB1C5ED5DA6D8118,
   0xD807AA98A3030242, 0x12835B0145706FBE, 0x243185BE4EE4B28C, 0x550C7DC3D5FFB4E2,
   0x72BE5D74F27B896F, 0x80DEB1FE3B1696B1, 0x9BDC06A725C71235, 0xC19BF174CF692694,
   0xE49B69C19EF14AD2, 0xEFBE4786384F25E3, 0x0FC19DC68B8CD5B5, 0x240CA1CC77AC9C65] ++
  [0x2DE92C6F592B0275, 0x4A7484AA6EA6E483, 0x5CB0A9DCBD41FBD4, 0x76F988DA831153B5,
   0x983E5152EE66DFAB, 0xA831C66D2DB43210, 0xB00327C898FB213F, 0xBF597FC7BEEF0EE4,
   0xC6E00BF33DA88FC2, 0xD5A79147930AA725, 0x06CA6351E003826F, 0x142929670A0E6E70,
   0x27B70A8546D22FFC, 0x2E1B21385C26C926, 0x4D2C6DFC5AC42AED, 0x53380D139D95B3DF,
   0x650A73548BAF63DE, 0x766A0ABB3C77B2A8, 0x81C2C92E47EDAEE6, 0x92722C851482353B] ++
  [0xA2BFE8A14CF10364, 0xA81A664BBC423001, 0xC24B8B70D0F89791, 0xC76C51A30654BE30,
   0xD192E819D6EF5218, 0xD69906245565A910, 0xF40E35855771202A, 0x106AA07032BBD1B8,
   0x19A4C116B8D2D0C8, 0x1E376C085141AB53, 0x2748774CDF8EEB99, 0x34B0BCB5E19B48A8,
   0x391C0CB3C5C95A63, 0x4ED8AA4AE3418ACB, 0x5B9CCA4F7763E373, 0x682E6FF3D6B2B8A3,
   0x748F82EE5DEFB2FC, 0x78A5636F43172F60, 0x84C87814A1F0AB72, 0x8CC702081A6439EC] ++
  [0x90BEFFFA23631E28, 0xA4506CEBDE82BDE9, 0xBEF9A3F7B2C67915, 0xC67178F2E372532B,
   0xCA273ECEEA26619C, 0xD186B8C721C0C207, 0xEADA7DD6CDE0EB1E, 0xF57D4F7FEE6ED178,
   0x06F067AA72176FBA, 0x0A637DC5A2C898A6, 0x113F9804BEF90DAE, 0x1B710B35131C471B,
   0x28DB77F523047D84, 0x32CAAB7B40C72493, 0x3C9EBE0A15C9BEBC, 0x431D67C49C100D4C,
   0x4CC5D4BECB3E42B6, 0x597F299CFC657E2A, 0x5FCB6FAB3AD6FAEC, 0x6C44198C4A475817]

/-- The initial hash value. -/
def shaH : List Word :=
  [0x6A09E667F3BCC908, 0xBB67AE8584CAA73B, 0x3C6EF372FE94F82B, 0xA54FF53A5F1D36F1,
   0x510E527FADE682D1, 0x9B05688C2B3E6C1F, 0x1F83D9ABFB41BD6B, 0x5BE0CD19137E2179]

/-- Rotate right. -/
def shaRotr (w : Word) (n : Nat) : Word := (w >>> n) ||| (w <<< (64 - n))

/-- The message schedule of a block, newest word first, from its 16 words. -/
def shaSchedule (fuel : Nat) (w : Array Word) : Array Word :=
  match fuel with
  | 0 => w
  | f + 1 =>
    let n := w.size
    let a := w.getD (n - 15) 0
    let b := w.getD (n - 2) 0
    let s0 := shaRotr a 1 ^^^ shaRotr a 8 ^^^ (a >>> 7)
    let s1 := shaRotr b 19 ^^^ shaRotr b 61 ^^^ (b >>> 6)
    shaSchedule f (w.push (w.getD (n - 16) 0 + s0 + w.getD (n - 7) 0 + s1))

/-- The eight working variables. -/
structure Sha where
  a : Word
  b : Word
  c : Word
  d : Word
  e : Word
  f : Word
  g : Word
  h : Word
  deriving DecidableEq, Repr

/-- One round. -/
def Sha.round (x : Sha) (k w : Word) : Sha :=
  let s1 := shaRotr x.e 14 ^^^ shaRotr x.e 18 ^^^ shaRotr x.e 41
  let ch := (x.e &&& x.f) ^^^ (~~~x.e &&& x.g)
  let t1 := x.h + s1 + ch + k + w
  let s0 := shaRotr x.a 28 ^^^ shaRotr x.a 34 ^^^ shaRotr x.a 39
  let maj := (x.a &&& x.b) ^^^ (x.a &&& x.c) ^^^ (x.b &&& x.c)
  { a := t1 + (s0 + maj), b := x.a, c := x.b, d := x.c, e := x.d + t1, f := x.e, g := x.f, h := x.g }

/-- A big-endian number. -/
def beNat (bs : List Byte) : Nat := bs.foldl (fun n b => n * 256 + b.toNat) 0

/-- Compress one block of 128 bytes. -/
def Sha.block (x : Sha) (bs : List Byte) : Sha :=
  let w := shaSchedule 64 ((chunks 17 8 bs).map fun c => word (beNat c)).toArray
  let y := ((List.range 80).zip shaK).foldl (fun y ik => y.round ik.2 (w.getD ik.1 0)) x
  { a := x.a + y.a, b := x.b + y.b, c := x.c + y.c, d := x.d + y.d, e := x.e + y.e, f := x.f + y.f, g := x.g + y.g,
    h := x.h + y.h }

/-- SHA-512 of a list of bytes. -/
def sha512 (m : List Byte) : List Byte :=
  let pad := (239 - m.length % 128) % 128
  let msg := m ++ [0x80] ++ List.replicate pad 0 ++ (leBytes 16 (m.length * 8)).reverse
  let i := fun (n : Nat) => shaH.getD n 0
  let x := (chunks (msg.length + 1) 128 msg).foldl Sha.block
    { a := i 0, b := i 1, c := i 2, d := i 3, e := i 4, f := i 5, g := i 6, h := i 7 }
  [x.a, x.b, x.c, x.d, x.e, x.f, x.g, x.h].flatMap fun (w : Word) => (leBytes 8 w.toNat).reverse

/-! ### The curve -/

/-- The field prime. -/
def edP : Nat := 2 ^ 255 - 19
/-- The group order. -/
def edL : Nat := 2 ^ 252 + 27742317777372353535851937790883648493
/-- The curve constant d. -/
def edD : Nat := 37095705934669439343138083508754565189542113879843219016388785533085940283555

/-- b ^ e modulo m, for exponents below 2 ^ fuel. -/
def powMod (fuel b e m : Nat) : Nat :=
  match fuel with
  | 0 => 1
  | f + 1 =>
    let h := powMod f (b * b % m) (e / 2) m
    if e % 2 = 1 then b * h % m else h

/-- A point in extended coordinates. -/
structure EdPoint where
  x : Nat
  y : Nat
  z : Nat
  t : Nat
  deriving DecidableEq, Repr

/-- The neutral point. -/
def EdPoint.zero : EdPoint := { x := 0, y := 1, z := 1, t := 0 }

/-- Subtraction in the field. -/
def edSub (a b : Nat) : Nat := (a + edP - b % edP) % edP

/-- Point addition (RFC 8032, 5.1.4). -/
def EdPoint.add (p q : EdPoint) : EdPoint :=
  let a := edSub p.y p.x * edSub q.y q.x % edP
  let b := (p.y + p.x) * (q.y + q.x) % edP
  let c := p.t * 2 * edD % edP * q.t % edP
  let d := p.z * 2 * q.z % edP
  let e := edSub b a
  let f := edSub d c
  let g := (d + c) % edP
  let h := (b + a) % edP
  { x := e * f % edP, y := g * h % edP, z := f * g % edP, t := e * h % edP }

/-- Scalar multiplication, for scalars below 2 ^ fuel. -/
def EdPoint.mul (fuel n : Nat) (p : EdPoint) : EdPoint :=
  match fuel with
  | 0 => .zero
  | f + 1 =>
    let r := EdPoint.mul f (n / 2) (p.add p)
    if n % 2 = 1 then r.add p else r

/-- Equality of points. -/
def EdPoint.same (p q : EdPoint) : Bool := p.x * q.z % edP = q.x * p.z % edP && p.y * q.z % edP = q.y * p.z % edP

/-- Decode a point from 32 bytes (RFC 8032, 5.1.3). -/
def edDecode (bs : List Byte) : Option EdPoint :=
  let v := leNat (bs.take 32)
  let y := v % 2 ^ 255
  let sign := v / 2 ^ 255
  if edP ≤ y || bs.length < 32 then none
  else
    let y2 := y * y % edP
    let u := edSub y2 1
    let w := (edD * y2 + 1) % edP
    let x2 := u * powMod 256 w (edP - 2) edP % edP
    let c := powMod 256 x2 ((edP + 3) / 8) edP
    let x := if c * c % edP = x2 then c else c * powMod 256 2 ((edP - 1) / 4) edP % edP
    if x * x % edP ≠ x2 || (x = 0 && sign = 1) then none
    else
      let x := if x % 2 = sign then x else edP - x
      some { x, y, z := 1, t := x * y % edP }

/-- Encode a point. -/
def EdPoint.encode (p : EdPoint) : List Byte :=
  let i := powMod 256 p.z (edP - 2) edP
  leBytes 32 (p.y * i % edP + (p.x * i % edP) % 2 * 2 ^ 255)

/-- The base point: y = 4/5, x even. -/
def edBase : EdPoint := (edDecode (leBytes 32 (4 * powMod 256 5 (edP - 2) edP % edP))).getD .zero

/-! ### Signatures -/

/-- The domain prefix of the prehashed form with an empty context (RFC 8032, 5.1). -/
def edPhPrefix : List Byte :=
  [0x53, 0x69, 0x67, 0x45, 0x64, 0x32, 0x35, 0x35, 0x31, 0x39, 0x20, 0x6E, 0x6F, 0x20, 0x45, 0x64] ++
  [0x32, 0x35, 0x35, 0x31, 0x39, 0x20, 0x63, 0x6F, 0x6C, 0x6C, 0x69, 0x73, 0x69, 0x6F, 0x6E, 0x73, 0x01, 0x00]

/-- Verify a signature (RFC 8032, 5.1.7, with the cofactored equation) over a message, after a domain prefix. -/
def edVerify (prefix_ pk msg sig : List Byte) : Bool :=
  match edDecode pk, edDecode (sig.take 32) with
  | some a, some r =>
    let s := leNat ((sig.drop 32).take 32)
    let k := leNat (sha512 (prefix_ ++ sig.take 32 ++ pk.take 32 ++ msg)) % edL
    sig.length = 64 && s < edL && ((edBase.mul 256 (8 * s)).same ((r.mul 256 8).add (a.mul 256 (8 * k))))
  | _, _ => false

/-- Pure Ed25519. -/
def verifyPure (pk msg sig : List Byte) : Bool := edVerify [] pk msg sig

/-- Ed25519ph over a message. -/
def verifyPh (pk msg sig : List Byte) : Bool := edVerify edPhPrefix pk (sha512 msg) sig

/-- The secret scalar of a seed. -/
def edScalar (seed : List Byte) : Nat :=
  let v := leNat ((sha512 seed).take 32)
  v % 2 ^ 254 / 8 * 8 + 2 ^ 254

/-- The public key of a seed. -/
def edPublic (seed : List Byte) : List Byte := (edBase.mul 256 (edScalar seed)).encode

/-- Sign a message with a seed, pure form (RFC 8032, 5.1.6). -/
def edSign (seed msg : List Byte) : List Byte :=
  let h := sha512 seed
  let a := edScalar seed
  let r := leNat (sha512 (h.drop 32 ++ msg)) % edL
  let rb := (edBase.mul 256 r).encode
  let k := leNat (sha512 (rb ++ edPublic seed ++ msg)) % edL
  rb ++ leBytes 32 ((r + k * a) % edL)

end Sys2Proof.Machine
end

