-- ==== Sys2Proof/Machine/Manifest.lean ====
section
/-! DEFINITION. The flash map, the manifest's layout, its verification and the choice between copies (R477 to R486). -/

namespace Sys2Proof.Machine

/-! ### Flash -/

/-- The size of a manifest copy's region (R478). -/
def copySize : Nat := 12 * 1024 * 1024

/-- The journal's region: its first byte and its size (R478). -/
def journalBase : Nat := 0x01800000
/-- The size of the journal's region. -/
def journalSize : Nat := 0x400000

/-- Read bytes of flash; an erased byte reads 0xFF. -/
def Wheel.flashRead (w : Wheel) (off n : Nat) : List Byte := (List.range n).map fun i => Tbl.get 0xFF w.flash (off + i)

/-- Program bytes of flash. -/
def Wheel.flashWrite (w : Wheel) (off : Nat) (bs : List Byte) : Wheel :=
  { w with flash := (bs.zip (List.range bs.length)).foldl (fun t x => Tbl.set 0xFF t (off + x.2) x.1) w.flash }

/-- Erase a region of flash. -/
def Wheel.flashErase (w : Wheel) (off n : Nat) : Wheel := { w with flash := w.flash.filter fun c => c.1 < off || off + n ≤ c.1 }

/-! ### The status codes of WH_BOOT.STATUS (R498) -/

/-- A manifest runs. -/
def bootOk : Nat := 1
/-- No flash device with the features of R477. -/
def bootNoFlash : Nat := 2
/-- A copy that cannot be read. -/
def bootNoCopy : Nat := 3
/-- The signing key's hash is not fused in KEYSLOT, or the slot is revoked. -/
def bootKey : Nat := 4
/-- The signature fails. -/
def bootSignature : Nat := 5
/-- SVN is below the fused SVN. -/
def bootRollback : Nat := 6
/-- The layout fails. -/
def bootFormat : Nat := 7
/-- MAGIC, VERSION, PART or STEP differ. -/
def bootPart : Nat := 8

/-! ### Layout -/

/-- A header's SERIAL. -/
def manSerial (m : List Byte) : Nat := leAt m 0x10 8
/-- A header's SVN. -/
def manSvn (m : List Byte) : Nat := leAt m 0x18 4
/-- A header's LENGTH. -/
def manLength (m : List Byte) : Nat := leAt m 0x1C 4
/-- A header's SECTIONS. -/
def manSections (m : List Byte) : Nat := leAt m 0x0C 2
/-- A header's KEYSLOT. -/
def manSlot (m : List Byte) : Nat := leAt m 0x0B 1
/-- FLAGS bit 0, BURN_SVN. -/
def manBurn (m : List Byte) : Bool := (leAt m 0x06 2).testBit 0
/-- The key that signed the manifest. -/
def manSignKey (m : List Byte) : List Byte := (m.drop 0x20).take 32
/-- The change-order key (R40). -/
def manCoKey (m : List Byte) : List Byte := (m.drop 0x40).take 32

/-- An entry of the section table. -/
structure MSec where
  type : Nat
  mask : Nat
  off : Nat
  size : Nat
  zero : Nat
  deriving DecidableEq, Repr

/-- The section table. -/
def manTable (m : List Byte) : List MSec :=
  (List.range (manSections m)).map fun i =>
    let o := 0x80 + 16 * i
    { type := leAt m o 2, mask := leAt m (o + 2) 2, off := leAt m (o + 4) 4, size := leAt m (o + 8) 4, zero := leAt m (o + 12) 4 }

/-- A section's bytes. -/
def manBytes (m : List Byte) (x : MSec) : List Byte := (m.drop x.off).take x.size

/-- The sections of a type. -/
def manOf (m : List Byte) (type : Nat) : List MSec := (manTable m).filter fun x => x.type = type

/-- The sections of a type that a socket does not ignore. -/
def manFor (m : List Byte) (type s : Nat) : List MSec := (manOf m type).filter fun x => x.mask.testBit s

/-- The limits on the counts of section types (R480): type, fewest, most. -/
def sectionCounts : List (Nat × Nat × Nat) :=
  [(1, 1, 1), (2, 1, 1), (3, 1, 1), (4, 0, 32), (5, 0, 16), (6, 0, 1), (7, 0, 1), (8, 0, 61)]

/-- Whether the section table meets R479 and R480: types, counts, alignment, place, no overlap. -/
def tableOk (m : List Byte) : Bool :=
  let t := manTable m
  let lo := 0x80 + 16 * manSections m
  let hi := manLength m - 64
  (t.all fun x => 1 ≤ x.type && x.type ≤ 8 && x.zero = 0 && x.off % 64 = 0 && lo ≤ x.off && x.off + x.size ≤ hi) &&
    (sectionCounts.all fun c => c.2.1 ≤ (manOf m c.1).length && (manOf m c.1).length ≤ c.2.2) &&
    ((List.range t.length).all fun i => (List.range i).all fun j =>
      match t[i]?, t[j]? with
      | some x, some y => x.size = 0 || y.size = 0 || x.off + x.size ≤ y.off || y.off + y.size ≤ x.off
      | _, _ => true)

/-! ### SYSTEM (R483) -/

/-- The SYSTEM section as a socket reads it: every byte zero where SOCKMASK makes it ignore the section. -/
def manSystem (m : List Byte) (s : Nat) : List Byte :=
  match manFor m 3 s with
  | x :: _ => manBytes m x
  | [] => List.replicate 16 0 ++ List.replicate 128 0xFF

/-- n, the cube dimension. -/
def manCube (m : List Byte) (s : Nat) : Nat := leAt (manSystem m s) 0 1
/-- EXPECTED. -/
def manExpected (m : List Byte) (s : Nat) : Nat := leAt (manSystem m s) 2 2
/-- The spare pods of a socket (R9). -/
def manSpares (m : List Byte) (s : Nat) : List Nat :=
  let bs := ((manSystem m s).drop (16 + 8 * s)).take 8
  if bs.all fun b => b = 0xFF then [12, 25, 38, 51, 64, 77, 90, 103] else bs.map (·.toNat)

/-- Whether eight bytes select the default spares or name eight distinct pods (R9). -/
def sparesOk (bs : List Byte) : Bool := (bs.all fun b => b = 0xFF) || ((bs.all fun b => b.toNat < 104) && decide bs.Nodup)

/-- Whether a SYSTEM section meets R483. -/
def systemOk (b : List Byte) : Bool :=
  b.length = 256 && leAt b 0 1 ≤ 4 && leAt b 1 1 = 0 && 1 ≤ leAt b 4 4 && leAt b 4 4 ≤ 60000 && leAt b 8 8 = 0 &&
    ((b.drop 144).all fun x => x = 0) && (List.range 16).all fun s => sparesOk ((b.drop (16 + 8 * s)).take 8)

/-! ### REGLOAD (R481) -/

/-- The records of a REGLOAD section: offset, zero bytes, value. -/
def loadsOf (b : List Byte) : List (Nat × Nat × Word) :=
  (chunks (b.length + 1) 16 b).map fun c => (leAt c 0 4, leAt c 4 4, word (leAt c 8 8))

/-- The records a socket writes, in order. -/
def manLoads (m : List Byte) (s : Nat) : List (Nat × Word) :=
  (manFor m 4 s).flatMap fun x => (loadsOf (manBytes m x)).map fun r => (r.1, r.2.2)

/-- The value that the last record of an offset gives. -/
def manLoad (m : List Byte) (s off : Nat) : Option Word := ((manLoads m s).reverse.find? fun r => r.1 = off).map Prod.snd

/-- The landing-block offset that a broadcast offset acts on (R252). -/
def broadcast (off : Nat) : Option Nat :=
  if 0x1F000000 ≤ off ∧ off < 0x1F100000 then some (off - 0x1F000000) else none

/-- Whether an offset of the register space names a register: a field map's, a log's, or a slice register in the broadcast
block. -/
def regNamed (off : Nat) : Bool :=
  (Reg.find false off).isSome || (logAt off).isSome ||
    (match broadcast off with
     | some o => 0x100 ≤ o && o < 0x148 && (Reg.find false (0x10000000 + o)).isSome
     | none => false)

/-- Whether a REGLOAD section meets R481: whole records, each naming a register outside the BT block. -/
def regloadOk (b : List Byte) : Bool :=
  b.length % 16 = 0 && (loadsOf b).all fun r =>
    r.2.1 = 0 && !(0x02000000 ≤ r.1 && r.1 < 0x03000000) && regNamed r.1

/-! ### BERTHS and BOOT (R484) -/

/-- The operations of a list of 32-byte records (R41). -/
def opsOf (b : List Byte) : List COp :=
  (chunks (b.length + 1) 32 b).map fun c =>
    { opcode := leAt c 0 1, berth := leAt c 1 1, socket := leAt c 2 1, cls := leAt c 3 1,
      reserved := BitVec.ofNat 32 (leAt c 4 4), arg0 := word (leAt c 8 8), arg1 := word (leAt c 16 8), arg2 := word (leAt c 24 8) }

/-- The operations of the BERTHS section. -/
def manOps (m : List Byte) : List COp :=
  match manOf m 6 with
  | x :: _ => opsOf (manBytes m x)
  | [] => []

/-- A BOOT record. -/
structure MBoot where
  berth : Nat
  flags : Nat
  image : Nat
  zero : Nat
  load : Nat
  entry : Nat
  tail : Nat
  deriving DecidableEq, Repr

/-- The BOOT records. -/
def manBoots (m : List Byte) : List MBoot :=
  match manOf m 7 with
  | x :: _ =>
    (chunks (x.size + 1) 32 (manBytes m x)).map fun c =>
      { berth := leAt c 0 1, flags := leAt c 1 1, image := leAt c 2 2, zero := leAt c 4 4, load := leAt c 8 8,
        entry := leAt c 16 8, tail := leAt c 24 8 }
  | [] => []

/-- The BOOT record of a berth. -/
def manBoot (m : List Byte) (b : Nat) : Option MBoot := (manBoots m).find? fun r => r.berth = b

/-- The image of a BOOT record. -/
def manImage (m : List Byte) (r : MBoot) : Option (List Byte) :=
  ((manTable m)[r.image]?).bind fun x => if x.type = 8 then some (manBytes m x) else none

/-- Whether the BERTHS section gives a berth every byte of a stretch of addresses. -/
def opsGive (ops : List COp) (b lo hi : Nat) : Bool :=
  let mine := ops.filter fun o => o.opcode = 0x20 && o.berth = b
  (mine.foldl (fun (at_ : Nat) (_ : COp) =>
    mine.foldl (fun (at_ : Nat) (o : COp) =>
      if o.arg0.toNat ≤ at_ ∧ at_ < o.arg0.toNat + o.arg1.toNat then o.arg0.toNat + o.arg1.toNat else at_) at_) lo) ≥ hi

/-- Whether the BERTHS and BOOT sections meet R484. -/
def bootOk' (m : List Byte) : Bool :=
  let sizes := ((manOf m 6) ++ (manOf m 7)).all fun x => x.size % 32 = 0
  let ops := manOps m
  let rs := manBoots m
  sizes && decide (rs.map (·.berth)).Nodup &&
    (ops.all fun o => o.opcode ≠ 1 || rs.any fun r => r.berth = o.berth) &&
    rs.all fun r => r.flags < 4 && r.zero = 0 && r.tail = 0 &&
      (r.image = 0xFFFF || (match manImage m r with
        | some i => opsGive ops r.berth r.load (r.load + Nat.max 1 i.length)
        | none => false))

/-- Whether every hub whose tiering engine the manifest enables has its table in a far granule of that hub that no berth is
given (R482). -/
def tablesOk (m : List Byte) : Bool :=
  (List.range 32).all fun i =>
    let s := i / 2
    match manLoad m s (Reg.teHubCfg.at (i % 2) 0) with
    | none => true
    | some w =>
      let lo := bits w 51 30 * 0x40000000
      !bit w 63 ||
        ((match regionOf lo with
          | .far s' h _ => s' = s && h = i % 2
          | _ => false) &&
         (manOps m).all fun o => o.opcode ≠ 0x20 || lo + 0x40000000 ≤ o.arg0.toNat || o.arg0.toNat + o.arg1.toNat ≤ lo)

/-- Check 6 of R485. -/
def layoutOk (m : List Byte) : Bool :=
  leAt m 0x06 2 < 2 && leAt m 0x0E 2 = 0 && ((m.drop 0x60).take 32).all (· = 0) && 1 ≤ manSerial m && manSvn m ≤ 64 &&
    tableOk m && ((manOf m 3).all fun x => systemOk (manBytes m x)) &&
    ((manOf m 4).all fun x => regloadOk (manBytes m x)) && bootOk' m && tablesOk m

/-! ### Verification (R485) -/

/-- The key hash of a slot. -/
def hashOfSlot (z : Fuses) (slot : Nat) : Nat :=
  (match slot with
   | 0 => z.hash0
   | 1 => z.hash1
   | 2 => z.hash2
   | _ => z.hash3).toNat

/-- Check 1: MAGIC, VERSION, PART and STEP. -/
def partOk (z : Fuses) (m : List Byte) : Bool :=
  leAt m 0 4 = 0x58464E4D && leAt m 4 2 = 1 && leAt m 8 2 = 0x9192 && leAt m 0x0A 1 = 0 && leAt m 0x0A 1 = z.step.toNat

/-- Check 2: SECTIONS and LENGTH, against the bytes the copy holds. -/
def lengthOk (held : Nat) (m : List Byte) : Bool :=
  let l := manLength m
  1 ≤ manSections m && manSections m ≤ 64 && l % 64 = 0 && 0x80 + 16 * manSections m + 64 ≤ l && l ≤ copySize && l ≤ held

/-- Check 3: the signing key against the fuses. -/
def keyOk (z : Fuses) (m : List Byte) : Bool :=
  let k := manSlot m
  k < 4 && !z.revoked.getLsbD k && leNat ((sha512 (manSignKey m)).take 32) = hashOfSlot z k

/-- Checks 3 to 6 on a copy that passes the header check and checks 1 and 2. -/
def manVerify (z : Fuses) (m : List Byte) : Nat :=
  let l := manLength m
  if !keyOk z m then bootKey
  else if manSvn m < z.svn then bootRollback
  else if !verifyPh (manSignKey m) (m.take (l - 64)) ((m.drop (l - 64)).take 64) then bootSignature
  else if layoutOk m then bootOk
  else bootFormat

/-- The header check and checks 1 and 2, which the choice between copies makes on headers; 1 when they hold. -/
def manHeader (z : Fuses) (held : Nat) (m : List Byte) : Nat :=
  if m.length < 0x80 then bootFormat
  else if !partOk z m then bootPart
  else if !lengthOk held m then bootFormat
  else bootOk

/-- R485 on bytes received or kept. -/
def manStatus (z : Fuses) (m : List Byte) : Nat :=
  let h := manHeader z m.length m
  if h ≠ bootOk then h else manVerify z m

/-! ### The choice between copies (R486) -/

/-- The first byte of a copy's region. -/
def copyBase (c : Nat) : Nat := if c = 0 then 0 else 0x00C00000

/-- Try copies in order: the status, the copy and the bytes of the first that passes, else the last status. -/
def Wheel.tryCopies (w : Wheel) (cs : List Nat) (last : Nat) : Nat × Nat × List Byte :=
  match cs with
  | [] => (last, 0, [])
  | c :: r =>
    if w.board.flashBad.getLsbD (2 + c) then w.tryCopies r bootNoCopy
    else
      let m := w.flashRead (copyBase c) (manLength (w.flashRead (copyBase c) 0x80))
      let st := manVerify w.fuses m
      if st = bootOk then (bootOk, c, m) else w.tryCopies r st

/-- The running manifest that flash gives, or the status of the copy considered last. -/
def Wheel.chooseCopy (w : Wheel) : Nat × Nat × List Byte :=
  if !w.board.flashOk then (bootNoFlash, 0, [])
  else
    let heads := [0, 1].filterMap fun c => if w.board.flashBad.getLsbD c then none
      else some (c, w.flashRead (copyBase c) 0x80)
    let skipped := heads.filterMap fun h =>
      let st := manHeader w.fuses copySize h.2
      if st = bootOk then none else some st
    let good := heads.filter fun h => manHeader w.fuses copySize h.2 = bootOk
    let order := match good with
      | [x, y] => if manSerial x.2 < manSerial y.2 then [y.1, x.1] else [x.1, y.1]
      | l => l.map Prod.fst
    w.tryCopies order (if heads.length < 2 then bootNoCopy else skipped.getLast?.getD bootNoCopy)

/-- The journal's digest of a manifest's bytes for attestation (R497). -/
def manDigest (m : List Byte) : List Byte := sha512 (m.take (manLength m - 64))

end Sys2Proof.Machine
end

