-- ==== Sys2Proof/Machine/Power.lean ====
section
/-! DEFINITION. Clocks, supply dips, power and thermal caps, power domains, MAINTAIN, and epochs (R35 to R39, R458 to R475,
R529). -/

namespace Sys2Proof.Machine

/-! ### Epochs of bandwidth shares (R36 to R39) -/

/-- EPOCH_BOUNDARY: the shares and caps of the berth tables take effect at every arbiter of the socket (R39). -/
def Dev.epochBoundary (t : Tables) (d : Dev) (s : Nat) : Dev :=
  d.onSock s fun k => k.newEpoch ((t.shares.filter fun e => e.1 / 192 = s).map fun e => (e.1 % 192, e.2))

/-! ### Core steps (R461, R462) -/

/-- STEP_CHANGE: the pod's new step takes effect once its rail is ready; a rail that does not answer is reported and the
step stays (R464). A stopped pod has no step. -/
def Dev.stepChange (d : Dev) (s p : Nat) (railReady : Bool) : Dev :=
  if d.fld s .ckPod p 0 10 8 = 7 then d
  else if !railReady then d.reportUnit s 0xF10 6 (p / 13) 0 0 0
  else
    let (v, d) := d.free
    (d.setFld s .ckPod p 0 10 8 (d.podStep s p)).setFld s .pwRail (p / 13) 0 63 48 (bits v 15 0)

/-! ### Power and temperature (R465, R529) -/

/-- PW_TDP.CAP is the slower of the two demands. -/
def Dev.showCap (d : Dev) (s : Nat) : Dev :=
  d.setFld s .pwTdp 0 0 25 24 (Nat.max (d.wheel s).tdpDemand (d.wheel s).thermDemand)

/-- Whether a millisecond has passed since a time, or it is zero. -/
def Dev.msSince (d : Dev) (t : Word) : Bool := t = 0 || t.toNat + 1000000 ≤ d.now.toNat

/-- The mean of the samples of the last 10 ms, one each 100 µs (R465): samples that were not yet taken count as 0 W
(DESIGN CHOICE, assumption log 30). -/
def meanWatts (l : List Nat) : Nat := l.foldl (· + ·) 0 / 100

/-- The readings of the rails whose regulators answer: rail, millivolts, milliamperes. -/
def railReadings (mv ma : List Nat) (answered : BitVec 14) : List (Nat × Nat × Nat) :=
  (List.range 14).filterMap fun r =>
    match mv[r]?, ma[r]? with
    | some v, some i => if answered.getLsbD r then some (r, v, i) else none
    | _, _ => none

/-- The power of a set of readings in watts. -/
def wattsOf (l : List (Nat × Nat × Nat)) : Nat := (l.foldl (fun n x => n + x.2.1 * x.2.2) 0) / 1000000

/-- POWER_SAMPLE (R465): the readings of the rails in millivolts and milliamperes; READ of each rail and POWER, the mean over
the last 100 samples, follow them. A rail without an answer keeps READ and adds nothing (DESIGN CHOICE, assumption log 30). A mean above LIMIT raises the power demand, no more often than every 1 ms; 100 samples in a
row with a mean below 95 % of it lower it. -/
def Dev.powerSample (d : Dev) (s : Nat) (rails : List (Nat × Nat × Nat)) : Dev :=
  let d := rails.foldl (fun (d : Dev) x => d.setFld s .pwRail x.1 0 47 32 (Nat.min 65535 x.2.1)) d
  let w := d.wheel s
  let samples := (wattsOf rails :: w.watts).take 100
  let mean := meanWatts samples
  let limit := d.fld s .pwTdp 0 0 41 32
  let low := if mean * 100 < limit * 95 then w.lowSamples + 1 else 0
  let d := (d.setFld s .pwTdp 0 0 15 0 (Nat.min 65535 mean)).onWheel s fun w => { w with watts := samples, lowSamples := low }
  let d := if limit < mean && d.msSince w.tdpRaised then
      d.onWheel s fun w => { w with tdpDemand := Nat.min 3 (w.tdpDemand + 1), tdpRaised := d.now }
    else if 100 ≤ low then d.onWheel s fun w => { w with tdpDemand := w.tdpDemand - 1, lowSamples := 0 }
    else d
  d.showCap s

/-- The hottest of some temperatures. -/
def hottestOf (l : List Int) : Int := l.foldl (fun m t => if m < t then t else m) (l.headD 0)

/-- THERMAL_SAMPLE (R529): the power controller's reading of the sensors, in degrees Celsius: four of each tile, then four of
each hub. The hottest moves the thermal demand, up no more often than every 1 ms, and down after 100 samples (10 ms) in a row
below 100; at 125 the socket trips and every clock but the Wheelhouse's stops. -/
def Dev.thermalSample (d : Dev) (s : Nat) (temps : List Int) : Dev :=
  let w := d.wheel s
  let hottest := hottestOf temps
  let cool := if hottest < 100 then w.coolSamples + 1 else 0
  let d := d.onWheel s fun w => { w with temps, coolSamples := cool }
  let d := if 105 ≤ hottest && d.msSince w.thermRaised then
      d.onWheel s fun w => { w with thermDemand := Nat.min 3 (w.thermDemand + 1), thermRaised := d.now }
    else if 100 ≤ cool then d.onWheel s fun w => { w with thermDemand := w.thermDemand - 1, coolSamples := 0 }
    else d
  let d := d.showCap s
  if 125 ≤ hottest then
    let d := (d.onWheel s fun w => { w with thermtrip := true }).stopCores s fun _ => true
    (List.range 104).foldl (fun d p => d.setFld s .ckPod p 0 10 8 7) d
  else d

/-! ### Supply dips (R466, R467) -/

/-- SUPPLY_DIP: the dividers double, copies in their read phase are abandoned, and the event is reported. In OFF and STANDBY
only the reset comparators act (R523). -/
def Dev.supplyDip (d : Dev) (s rail : Nat) : Dev :=
  if d.dipping s || d.mode s ≤ 1 then d
  else
    let d := (d.setFld s .ckStat 0 0 56 56 1).bump s .pwDip 0 0 63 32 1
    let d := d.onWheel s fun w => { w with dipStart := d.now }
    (d.abandonAll s).reportUnit s 0xF10 0xC rail 0 0 0

/-- DIP_END: the dividers return, the longest dip is kept, deferred retrains begin. -/
def Dev.dipEnd (d : Dev) (s : Nat) : Dev :=
  if !d.dipping s then d
  else
    let w := d.wheel s
    let us := Nat.min (2 ^ 32 - 1) ((d.now.toNat - w.dipStart.toNat) / 1000)
    let d := d.setFld s .ckStat 0 0 56 56 0
    let d := d.setFld s .pwDip 0 0 31 0 (Nat.max us (d.fld s .pwDip 0 0 31 0))
    let d := d.onWheel s fun w => { w with dipDeferred := [] }
    w.dipDeferred.foldl (fun d x => if x.1 then d.linkRetrain s x.2 else d) d

/-! ### MAINTAIN (R472, R474) -/

/-- A mode request that R472 does not allow: ignored, with a Note. -/
def Dev.badMode (d : Dev) (s : Nat) : Dev := d.notice s 0xF10

/-- ENTER_MAINTAIN: every berth core stops with its store buffer drained. -/
def Dev.enterMaintain (a : Tables) (d : Dev) (s : Sock) : Dev :=
  if !d.runs s then d.badMode s
  else
    let hs := (d.sock s).cores.filterMap fun e => if e.1 < 208 then hartOf s e.1 else none
    let d := hs.foldl (fun d h =>
      if (d.core h).run = .running || (d.core h).run = .waiting then
        (d.drainAll a h).onCore h fun c => { c with run := .parked }
      else if (d.core h).run = .fenced && ((d.core h).was = .running || (d.core h).was = .waiting) then
        d.onCore h fun c => { c with was := .parked }
      else d) d
    d.setFld s .pwMode 0 0 2 0 modeMaintain

/-- LEAVE_MAINTAIN: every stopped unit resumes, in the mode that R387 gives. -/
def Dev.leaveMaintain (d : Dev) (s : Nat) : Dev :=
  if d.mode s ≠ modeMaintain then d.badMode s
  else
    let d := d.setFld s .pwMode 0 0 2 0 modeRun
    let d := d.onSock s fun k =>
      { k with cores := k.cores.map fun e =>
          if e.2.run = .parked then (e.1, { e.2 with run := .running })
          else if e.2.was = .parked then (e.1, { e.2 with was := .running })
          else e }
    d.degrade s

/-- A write of PW_MODE.REQ. -/
def Dev.writeModeReq (a : Tables) (d : Dev) (s : Sock) (req : Nat) : Dev :=
  if req = modeMaintain then d.enterMaintain a s
  else if req = modeRun && d.mode s = modeMaintain then d.leaveMaintain s
  else d.badMode s

/-! ### Power domains (R469, R470) -/

/-- Whether a domain may go off: a CORE domain only while no pod of its tile is owned and enabled, a STACK domain only while
no slice of its tile is in the slice map. -/
def Dev.mayGoOff (t : Tables) (d : Dev) (s i : Nat) : Bool :=
  if i < 8 then
    (List.range 13).all fun k => t.berthOfPod s (i * 13 + k) = 0 || !(d.enabledPods s).contains (i * 13 + k)
  else if i < 16 then
    (List.range 4096).all fun e => d.fld s .ldHmap e 0 6 0 / 13 ≠ i - 8
  else i ≠ 16

/-- What a domain loses when it goes off; FAR and NEAR put their devices in self-refresh. -/
def Dev.domainOff (d : Dev) (s i : Nat) : Dev :=
  if i < 8 then
    d.onSock s fun k => { k with cores := k.cores.filter fun e => 208 ≤ e.1 || e.1 / 26 ≠ i }
  else if i < 16 then d.onSock s fun k => { k with slices := k.slices.filter fun e => e.1 / 13 ≠ i - 8 }
  else
    let h := (i - 17) / 5
    match i with
    | 17 | 22 => (List.range 8).foldl (fun d c => d.onChan s (16 + h * 8 + c) fun x => { x with selfRefresh := true }) d
    | 18 | 23 => (List.range 6).foldl (fun d c => d.onChan s (h * 6 + c) fun x => { x with selfRefresh := true }) d
    | 19 | 24 => (List.range 16).foldl (fun d p =>
        ((d.portLoadsEnd s (h * 16 + p)).setReg s .pxPortStat (h * 16 + p) 0 0).onPort s (h * 16 + p) fun x =>
          { x with present := false }) d
    | 20 | 25 => (List.range 4).foldl (fun d k =>
        (d.setReg s .xlLinkStat (h * 4 + k) 0 0).onLink s (h * 4 + k) fun _ => XLink.reset) d
    | 21 | 26 => (d.onHub s h fun _ => Hub.reset).onSock s fun k => { k with fns := k.fns.filter fun e => e.1 / 512 ≠ h }
    | _ => d

/-- A domain comes on: FAR and NEAR devices leave self-refresh. -/
def Dev.domainOn (d : Dev) (s i : Nat) : Dev :=
  let h := (i - 17) / 5
  match i with
  | 17 | 22 => (List.range 8).foldl (fun d c => d.onChan s (16 + h * 8 + c) fun x => { x with selfRefresh := false }) d
  | 18 | 23 => (List.range 6).foldl (fun d c => d.onChan s (h * 6 + c) fun x => { x with selfRefresh := false }) d
  | _ => d

/-- The order in which domains are switched on: WH, FABRIC, STACK, FAR and NEAR, PCIE and XING, CORE, TEST. -/
def domainOrder : List Nat :=
  [16, 21, 26] ++ (List.range 8).map (8 + ·) ++ [18, 23, 17, 22, 19, 24, 20, 25] ++ List.range 8 ++ [27]

/-- DOMAIN_SET: PW_DOM.SET and the switching that follows; bit 16 always reads 1. -/
def Dev.domainSet (t : Tables) (d : Dev) (s set : Nat) : Dev :=
  let set := if set.testBit 16 then set else set + 2 ^ 16
  let d := d.setFld s .pwDom 0 0 27 0 set
  let d := domainOrder.reverse.foldl (fun d i =>
    if !set.testBit i && d.fld s .pwDom 0 0 (32 + i) (32 + i) = 1 && d.mayGoOff t s i then
      (d.domainOff s i).setFld s .pwDom 0 0 (32 + i) (32 + i) 0
    else d) d
  domainOrder.foldl (fun d i =>
    if set.testBit i && d.fld s .pwDom 0 0 (32 + i) (32 + i) = 0 then
      (d.domainOn s i).setFld s .pwDom 0 0 (32 + i) (32 + i) 1
    else d) d

end Sys2Proof.Machine
end

