-- ==== Sys2Proof/Machine/Resets.lean ====
section
/-! DEFINITION. The resets that leave the socket running (R4, R513, R514): CORE, POD, BERTH, WHR; held cores and GO (R508);
who owns a register instance (R539). -/

namespace Sys2Proof.Machine

/-! ### Owners of register instances -/

/-- The berth of the core at index `c` of a landing's pod. -/
def Tables.berthAtLanding (t : Tables) (s l : Nat) : Option Nat := (podAt l).map fun p => t.berthOfPod s p

/-- The berth that owns instance (i, j) of a register (R539); none where an instance belongs to no berth. -/
def regBerth (t : Tables) (d : Dev) (s : Nat) (r : Reg) (i j : Nat) : Option Nat :=
  let own := match r with
    | .whAttestNonce | .whAttestCmd | .btCtrl | .btPods0 | .btPods1 | .btWays | .btShare | .tePolicy
    | .pcSnapCfg | .pcSnapBase | .pcSnapPtr | .pcSnapStat => some i
    | .teState => some j
    | .ckPod => some (t.berthOfPod s i)
    | .mbData | .mbCtl | .mbDone | .mbStat | .mbDrop | .mbCfg =>
      if d.fld s .mbCfg i 0 63 62 = 3 then none else some (d.fld s .mbCfg i 0 53 48)
    | .dbPend | .dbMask => if i < 208 then some (t.berthOfPod s (i / 2)) else none
    | .bl | .blRel | .blCfg => some (d.fld s .blCfg i 0 5 0)
    | .ldId | .ldPodUcode | .ldCoreCtl => t.berthAtLanding s i
    | .pxPortCfg | .pxPortStat | .pxIdeKey => some (t.berthOfPort s i)
    | .pcUncCfgSlice | .pcUncCfgFar | .pcUncCfgNear | .pcUncCfgLink | .pcUncCfgEng => some (bits (d.reg s r i j) 53 48)
    | .pcUncCntSlice => some (d.fld s .pcUncCfgSlice i j 53 48)
    | .pcUncCntFar => some (d.fld s .pcUncCfgFar i j 53 48)
    | .pcUncCntNear => some (d.fld s .pcUncCfgNear i j 53 48)
    | .pcUncCntLink => some (d.fld s .pcUncCfgLink i j 53 48)
    | .pcUncCntEng => some (d.fld s .pcUncCfgEng i j 53 48)
    | .pcCore => some (t.berthOfPod s (i / 2))
    | _ => none
  if own = some 0 then none else own

/-- Return to their reset values the fields that a reset clears, in the register instances that a predicate takes
(R4). -/
def Dev.clearRegs (d : Dev) (s : Nat) (k : Reset) (mine : Reg → Nat → Nat → Bool) : Dev :=
  d.onSock s fun x =>
    { x with regs := x.regs.filterMap fun e =>
        match Reg.find false e.1 with
        | some (r, i, j) =>
          if mine r i j then
            let v := r.cleared k e.2
            if v = r.resetWord then none else some (e.1, v)
          else some e
        | none => some e }

/-! ### GO (R508) -/

/-- GO: a held core starts at ENTRY at level H in the state of R53 and R91; on a socket whose berths do not run it stands
ready at ENTRY, parked in MAINTAIN (R474), and a fenced core that is held starts when it is re-admitted. A GO to a core that is not held, or of a
power-gated pod, is ignored (R508), and so is one of a pod that no berth holds: it is unused (R26). -/
def Dev.coreGo (t : Tables) (d : Dev) (h : Hart) : Dev :=
  if !(d.core h).isHeld || isWheel h || d.podFenced h.sock (podOf h) || t.berthOf h = 0 then d
  else
    let at_ : Word := word (d.fld h.sock .ldCoreCtl (landingOf (podOf h)) (h.core.val % 2) 51 2 * 4)
    let run : RunState := if d.runs h.sock then .running else if d.mode h.sock = modeMaintain then .parked else .stopped
    d.onCore h fun c =>
      let c := { c with g := [], v := [], p := [], sys := [], iv := [], annul := 0, lq := [], pc := at_, fetchPc := at_, fetchQ := [] }
      if c.run = .fenced then { c with was := run } else { c with run }

/-- A write of LD_CORE_CTL: ENTRY is stored, then RESET and GO act (R508, R517). -/
def Dev.writeCoreCtl (a : Tables) (d : Dev) (h : Hart) (v : Word) : Dev :=
  let l := landingOf (podOf h)
  let d := d.setFld h.sock .ldCoreCtl l (h.core.val % 2) 51 2 (bits v 51 2)
  let d := if bit v 63 then d.coreReset a h else d
  if bit v 61 then d.coreGo a h else d

/-! ### BERTH reset (R513) -/

/-- Hot reset of a root port's link: outstanding core loads end, and the link trains again. -/
def Dev.hotReset (d : Dev) (s p : Nat) : Dev :=
  if d.fld s .pxPortStat p 0 63 60 ≠ 2 then d
  else (d.portLoadsEnd s p).setReg s .pxPortStat p 0 (word (2 ^ 60))

/-- The pods, ports and functions that a table gives a berth, as keys. -/
def ownedKeys (t : Tbl Nat) (b : Nat) : List Nat := (t.filter fun e => e.2 = b).map Prod.fst

/-- The value that CK_POD.REQ of a pod returns to: the manifest's (R482). -/
def Dev.reqReset (d : Dev) (s p : Nat) : Nat :=
  match manLoad (d.wheel s).kept s (Reg.ckPod.at p 0) with
  | some v => bits v 1 0
  | none => 0

/-- What a BERTH reset does on the sockets, beyond stopping the berth: its pods and ferry functions are reset, its links
go through hot reset, its lines leave the slices, its bollards are free, and the fields that a BERTH reset clears return
in the instances it owns; the slips' data clear with the reset of their receivers alone (R437). -/
def Dev.berthReset (a : Tables) (d : Dev) (b : Nat) : Dev :=
  let d := d.each (ownedKeys a.pods b) fun d k => d.podReset a (sk (k / 128)) (k % 128)
  let d := d.each (ownedKeys a.vfs b) fun d k => (d.fnReset (k / 1024) (k / 256 % 4) (k % 256)).showSlots a (k / 1024) (k / 256 % 4)
  let d := d.each (ownedKeys a.ports b) fun d k => d.hotReset (k / 32) (k % 32)
  let d := d.each sockets fun d s =>
    let d := d.each (a.ranges.filter fun r => r.berth = b && r.kind ≠ 3) fun d r => d.clearRange a (sk s) r.base r.limit
    let d := d.each (setBitsOf (Tbl.get 0 a.ways (s * 64 + b)).toNat 16) fun d w =>
      (d.invalidate a (sk s) (d.podsOf s none) 0 (2 ^ 52) (some w)).2
    let d := d.freeBollards s b
    let d := (d.clearRegs s .berth fun r i j => r ≠ .bl && r ≠ .mbData && r ≠ .mbCtl && regBerth a d s r i j = some b).onWheel s fun w =>
      { w with snaps := Tbl.erase w.snaps b }
    d.each (ownedKeys a.pods b) fun d k =>
      if k / 128 = s then d.setFld s .ckPod (k % 128) 0 1 0 (d.reqReset s (k % 128)) else d
  d

/-- BERTH reset of a berth that exists: it stops, and STATE is STOPPED. -/
def berthReset (a : Admin) (d : Dev) (b : Nat) : Admin × Dev :=
  if b = 0 || Tbl.get .free a.tab.state b = .free then (a, d)
  else
    let (a, d) := stopBerth a d b
    (a, d.berthReset a.tab b)

/-- The management cores of a socket start in the boot ROM. -/
def Dev.startWheel (d : Dev) (s : Nat) : Dev :=
  (List.range 4).foldl (fun (d : Dev) (i : Nat) =>
    d.onCore { sock := sk s, core := ⟨208 + i % 4, by omega⟩ } fun _ => Core.wheelStart) d

/-- What a WHR clears (R514): WH_REPAIR and PW_MODE.REQ; the management cores restart in boot ROM. -/
def Dev.whrClear (d : Dev) (s : Nat) : Dev := (d.clearRegs s .whr fun _ _ _ => true).startWheel s

end Sys2Proof.Machine
end

