-- ==== Sys2Proof/Machine/RegSpace.lean ====
section
/-! DEFINITION. Reads and writes of the register space: the two views (R32, R33, R539), the rules at every offset (R535,
R536), what the registers that show other state return, and what a write of each command bit starts. -/

namespace Sys2Proof.Machine

/-- The physical address of a register-space offset. -/
def regAddr (s off : Nat) : Nat := 0x000FF00000000000 + s * 0x100000000 + off

/-- Whether a requester may reach the register space: the Wheelhouse, or a core of a berth at level H (R32). -/
def Requester.mayReach (q : Requester) : Bool := q.berth = 0 || q.high

/-- A Note of the register-space decoder about a write. -/
def Dev.regNote (d : Dev) (s : Nat) (q : Requester) (off : Nat) : Dev :=
  d.noteAccess s 0xF12 q.master.toNat q.berth.toNat 8 (regAddr s off)

/-- Slips, doorbells and bollards report their own dropped writes; the decoder the others. -/
def Dev.dropNote (d : Dev) (s : Nat) (q : Requester) (off : Nat) : Dev :=
  if 0x04000000 ≤ off && off < 0x05000000 then d.slipNote s q off else d.regNote s q off

/-! ### Registers that show other state -/

/-- A map of the pods a berth holds on a socket, from pod `lo` on. -/
def Tables.podMap (t : Tables) (s b lo n : Nat) : Nat :=
  ((List.range n).filter fun i => t.berthOfPod s (lo + i) = b).foldl (fun acc i => acc + 2 ^ i) 0

/-- The code of a berth's state (R50). -/
def BState.code : BState → Nat
  | .free => 0
  | .building => 1
  | .run => 2
  | .draining => 3
  | .stopped => 4

/-- The slips a berth holds on a socket. -/
def Dev.slipCount (d : Dev) (s b : Nat) : Nat :=
  ((List.range 256).filter fun n => d.fld s .mbCfg n 0 63 62 ≠ 3 && d.fld s .mbCfg n 0 53 48 = b).length

/-- BT_CTRL of a berth on a socket. -/
def btCtrlWord (t : Tables) (d : Dev) (s b : Nat) : Word :=
  if b = 0 then 0
  else
    let pods := ((List.range 104).filter fun p => t.berthOfPod s p = b).length
    let ports := ((List.range 32).filter fun p => t.berthOfPort s p = b).length
    word ((Tbl.get BState.free t.state b).code * 2 ^ 61 + (decide (t.admin = b)).toNat * 2 ^ 60 +
      d.slipCount s b * 2 ^ 32 + ports * 2 ^ 16 + pods)

/-- BT_SHARE of a berth on a socket. -/
def btShareWord (t : Tables) (s b : Nat) : Word :=
  word ((List.range 3).foldl (fun acc c =>
    let x := Tbl.get (0, 256) t.shares ((s * 64 + b) * 3 + c)
    acc + (x.1 + (x.2 - 1) * 256) * 2 ^ (16 * c)) 0)

/-- Whether a socket's range table holds a range: it is homed there, or its berth holds a pod, port or function there
(R29). -/
def Tables.holdsRange (t : Tables) (s : Nat) (r : Range) : Bool :=
  (match regionOf r.base with
   | .mmio s' _ => s' = s
   | _ => homeSock r.base = s) ||
    (ownedKeys t.pods r.berth).any (fun k => k / 128 = s) || (ownedKeys t.ports r.berth).any (fun k => k / 32 = s) ||
    (ownedKeys t.vfs r.berth).any fun k => k / 1024 = s

/-- Entry n of a socket's range table. -/
def Tables.rangeEntry (t : Tables) (s n : Nat) : Option Range := (t.ranges.filter fun r => t.holdsRange s r)[n]?

/-- Functions 64i to 64i + 63 of an engine that belong to a berth. -/
def fnMine (t : Tables) (s e i b : Nat) : Word :=
  word (((List.range 64).filter fun j => 64 * i + j ≠ 0 && b ≠ 0 && t.berthOfFn s e (64 * i + j) = b).foldl
    (fun acc j => acc + 2 ^ j) (if b = 0 && i = 0 then 1 else 0))

/-- The word of a register instance as its block holds it, for a requester. -/
def shownWord (a : Admin) (d : Dev) (s : Nat) (q : Requester) (r : Reg) (i j : Nat) : Word :=
  let b := q.berth.toNat
  match r with
  | .ldId =>
    let kind := if !isBridge i then 0 else if i < 64 then 1 else 2
    word (i * 2 ^ 16 + tileOf i * 2 ^ 12 + kind * 2 ^ 8 + (podAt i).getD 0x7F)
  | .btCtrl => btCtrlWord a.tab d s i
  | .btPods0 => if i = 0 then 0 else word (a.tab.podMap s i 0 64)
  | .btPods1 => if i = 0 then 0 else word (a.tab.podMap s i 64 40)
  | .btWays => if (List.range 104).any fun p => i ≠ 0 && a.tab.berthOfPod s p = i then
      (Tbl.get 0 a.tab.ways (s * 64 + i)).setWidth 64 else
      if d.slipCount s i = 0 && (ownedKeys a.tab.ports i).all (fun k => k / 32 ≠ s) then 0
      else (Tbl.get 0 a.tab.ways (s * 64 + i)).setWidth 64
  | .btShare => btShareWord a.tab s i
  | .btRangeBase =>
    match a.tab.rangeEntry s i with
    | some e => word (2 ^ 63 + e.kind * 2 ^ 61 + e.berth * 2 ^ 52 + e.base / 0x4000000 * 0x4000000)
    | none => 0
  | .btRangeLimit =>
    match a.tab.rangeEntry s i with
    | some e => word ((e.limit - 1) / 0x4000000 * 0x4000000)
    | none => 0
  | .btSelf => word ((decide (b ≠ 0 && a.tab.admin = b)).toNat * 2 ^ 63 + b)
  | .btCoStatus => putBits (d.reg s r i j) 63 32 (a.seq.toNat % 2 ^ 32)
  | .blMine => word (((List.range 64).filter fun k => b ≠ 0 && d.fld s .blCfg k 0 5 0 = b).foldl (fun acc k => acc + 2 ^ k) 0)
  | .feMyfn => fnMine a.tab s i j b
  | .feEngStat => putBits (d.reg s r i j) 8 0 ((List.range 256).filter fun f => a.tab.berthOfFn s i f ≠ 0).length
  | .pxPortCfg => putBits (d.reg s r i j) 21 16 (a.tab.berthOfPort s i)
  | .ldSliceStat =>
    match podAt i with
    | none => 0
    | some p =>
      let x := d.slice s p
      let mapped := (List.range 4096).any fun e => d.fld s .ldHmap e 0 6 0 = p
      word (mapped.toNat * 2 ^ 63 + x.rsv.length % 16 * 2 ^ 16 + x.ev.length % 32 * 2 ^ 8 + x.open_ % 128)
  | .ldCoreCtl =>
    match podAt i with
    | none => 0
    | some p => putBit (d.reg s r i j) 62 (d.core (coreOf (sk s) p j)).isHeld
  | .xlXdirStat => putBits (d.reg s r i j) 63 42 (d.hub s i).xdir.length
  | .pcCore =>
    match hartOf s i with
    | some h => word (bits ((d.core h).counter j) 47 0)
    | none => 0
  | _ => d.reg s r i j

/-! ### The views -/

/-- Whether a register instance exists: slice and pod registers only at pod landings, MB/DB of existing cores. -/
def regHere (r : Reg) (i : Nat) : Bool :=
  match r with
  | .ldSliceWays | .ldSliceStat | .ldLockBase | .ldLockLimit | .ldLockCmd | .ldLockCount | .ldRinvBase | .ldRinvLimit
  | .ldRinvCmd | .ldPodUcode | .ldCoreCtl => (podAt i).isSome
  | .dbPend | .dbMask => i < 208 || i = 255
  | _ => true

/-- The registers that every berth sees in part. -/
def regCommon (r : Reg) : Bool :=
  match r with
  | .whId | .whSerial | .whDevid | .whSystem | .btSelf | .ckStat | .pwMode | .pwTdp | .blMine | .feMyfn => true
  | _ => false

/-- Whether a berth-view request sees an instance (R539). -/
def regSeen (a : Tables) (d : Dev) (s : Nat) (b : Nat) (r : Reg) (i j : Nat) : Bool :=
  regCommon r ||
    (match r with
     | .btRangeBase | .btRangeLimit => ((a.rangeEntry s i).map Range.berth) = some b
     | _ => regBerth a d s r i j = some b)

/-- A register's place for an offset, where an instance exists. -/
def regAt (off : Nat) : Option (Reg × Nat × Nat) :=
  match Reg.find false off with
  | some (r, i, j) => if regHere r i then some (r, i, j) else none
  | none => none

/-- A read of a slice register in the broadcast block: GO is OR-ed, STATUS the highest, counts their sum, the other fields
OR-ed (R252). -/
def broadcastRead (a : Admin) (d : Dev) (s : Nat) (q : Requester) (r : Reg) : Word :=
  let ws := (d.enabledPods s).map fun p => shownWord a d s q r (landingOf p) 0
  r.fields.foldl (fun (acc : Word) (f : Fld) =>
    let vs := ws.map fun w => bits w f.hi f.lo
    let top := 2 ^ (f.hi + 1 - f.lo) - 1
    let v :=
      if (r = .ldLockCmd && f.hi = 58) || (r = .ldRinvCmd && f.hi = 57) then vs.foldl Nat.max 0
      else if r = .ldLockCount || (r = .ldSliceStat && f.hi ≠ 63) then Nat.min top (vs.foldl (· + ·) 0)
      else vs.foldl Nat.lor 0
    putBits acc f.hi f.lo v) 0

/-- The register that a broadcast offset names. -/
def broadcastReg (off : Nat) : Option Reg :=
  match broadcast off with
  | some o =>
    if 0x100 ≤ o && o < 0x148 then
      (match Reg.find false (0x10000000 + o) with
       | some (r, 0, 0) => some r
       | _ => none)
    else none
  | none => none

/-- A read of the register that holds an offset, with every effect of an 8-byte read (R535, R536): in the berth view a
foreign instance reads zero and a bollard of another berth is not taken (R33, R441). -/
def Dev.regRead (a : Admin) (d : Dev) (s : Nat) (q : Requester) (off : Nat) : Word × Dev :=
  let bv := q.berth ≠ 0
  let off := off / 8 * 8
  match regAt off with
  | some (r, i, j) =>
    if bv && !regSeen a.tab d s q.berth.toNat r i j then (0, d)
    else
      match r with
      | .bl => d.readBollard s i q
      | _ => (r.visible bv (shownWord a d s q r i j), d)
  | none =>
    if bv then (0, d)
    else
      match logAt off with
      | some (src, k) => ((d.sock s).faults.logWord src k, d)
      | none =>
        match broadcastReg off with
        | some r => (r.visible false (broadcastRead a d s q r), d)
        | none => (0, d)

/-! ### Attestation (R495 to R497) -/

/-- The seed of the device identity key. -/
def Fuses.seed' (z : Fuses) : List Byte := (sha512 (leBytes 32 z.secret.toNat)).take 32

/-- The first eight bytes of the first section of a type: the version of Hepin (1) or the microcode (2). -/
def manVersion (m : List Byte) (type : Nat) : Word :=
  match manOf m type with
  | x :: _ => word (leAt (manBytes m x) 0 8)
  | [] => 0

/-- The report of a berth. -/
def attestReport (a : Admin) (d : Dev) (s b : Nat) : List Byte :=
  let w := d.wheel s
  let m := w.kept
  let body := leBytes 4 0x41545354 ++ leBytes 2 1 ++ leBytes 2 256 ++ leBytes 2 0x9192 ++ leBytes 1 w.fuses.step.toNat ++
    leBytes 1 s ++ leBytes 1 b ++ leBytes 1 (manSlot m) ++ leBytes 2 0 ++ leBytes 8 (manSerial m) ++ leBytes 8 a.seq.toNat ++
    leBytes 8 d.now.toNat ++ leBytes 4 w.fuses.svn ++ leBytes 4 0 ++ manDigest m ++ leBytes 8 (manVersion m 1).toNat ++
    leBytes 8 (manVersion m 2).toNat ++
    ((List.range 4).flatMap fun i => leBytes 8 (d.reg s .whAttestNonce b i).toNat) ++ edPublic (Fuses.seed' w.fuses)
  body ++ edSign (Fuses.seed' w.fuses) body

/-- Serve a berth's request: the report is written as an ordered writer with the berth's ID; an address that the berth does
not own leaves STATUS at OWNER and writes nothing. While the socket cannot take the lines the request stays pending. -/
def Dev.attest (a : Admin) (d : Dev) (s b : Nat) : Dev :=
  if !bit (d.reg s .whAttestCmd b 0) 63 then d
  else
    let addr := bits (d.reg s .whAttestCmd b 0) 51 8 * 256
    let finish := fun (d : Dev) (st : Nat) => (d.setFld s .whAttestCmd b 0 63 63 0).setFld s .whAttestCmd b 0 61 60 st
    if b = 0 || !a.tab.covers b addr (addr + 256) then finish d 3
    else
      let bs : List Byte := attestReport a d s b
      let (ok, d) := (List.range 4).foldl (fun (acc : Bool × Dev) i =>
        if acc.1 then
          acc.2.uncachedWrite a.tab (.wheel (sk s)) b (s * 4096 + 0xF00) 0 (addr + 64 * i) 64
            (lineOfBytes ((bs.drop (64 * i)).take 64))
        else acc) (true, d)
      if ok then finish d 2 else d

/-- A write of WH_ATTEST_CMD: ADDR is stored; GO starts a request, unless one is pending. -/
def Dev.writeAttest (a : Admin) (d : Dev) (s b : Nat) (v : Word) : Dev :=
  if bit (d.reg s .whAttestCmd b 0) 63 then
    if bit v 63 then d else d.setFld s .whAttestCmd b 0 51 8 (bits v 51 8)
  else
    let d := d.setFld s .whAttestCmd b 0 51 8 (bits v 51 8)
    if bit v 63 then ((d.setFld s .whAttestCmd b 0 63 63 1).setFld s .whAttestCmd b 0 61 60 1).attest a s b else d

/-! ### Writes -/

/-- A write of TE_POLICY: MODE under R346, the other fields at once. -/
def Dev.writePolicy (t : Tables) (d : Dev) (s b : Nat) (q : Requester) (v : Word) : Dev :=
  let old := d.reg s .tePolicy b 0
  let d := d.setReg s .tePolicy b 0 (putBits (Reg.tePolicy.written false false old v) 61 60 (bits old 61 60))
  if bits v 61 60 = bits old 61 60 then d else d.writeMode t s q b (bits v 61 60)

/-- A write of XL_LINK_CTL. -/
def Dev.writeLinkCtl (d : Dev) (s k : Nat) (locked : Bool) (v : Word) : Dev :=
  let old := d.reg s .xlLinkCtl k 0
  let d := d.setReg s .xlLinkCtl k 0 (putBits (Reg.xlLinkCtl.written false locked old v) 8 8 (bits old 8 8))
  let d := if bits v 8 8 = bits old 8 8 then d else d.linkDisable s k (bit v 8)
  if bit v 12 then d.linkRetrain s k else d

/-- Zero a crossing directory's counts (XL_XDIR_CTL.CLR). -/
def Dev.xdirClear (d : Dev) (s hub : Nat) : Dev := (d.setFld s .xlXdirStat hub 0 41 0 0).setReg s .xlXdirBcast hub 0 0

/-- A write of FC_SRC_SEV: the fields are stored, and FORCE raises the error when it read 0. -/
def Dev.writeSev (a : Tables) (d : Dev) (s src : Nat) (v : Word) : Dev :=
  let old := d.reg s .fcSrcSev src 0
  let d := d.setReg s .fcSrcSev src 0 (putBit (Reg.fcSrcSev.written false false old v) 63 (bit old 63))
  if bit v 63 && !bit old 63 && sourceExists src then d.force a s src else d

/-- A write of WH_REPAIR: the fields are stored, and GO starts the repair when it read 0. -/
def Dev.writeRepair (a : Tables) (d : Dev) (s : Sock) (v : Word) : Dev :=
  let old := d.reg s .whRepair 0 0
  let d := d.setReg s .whRepair 0 0 (Reg.whRepair.written false false old v)
  if bit v 63 && !bit old 63 then (d.setFld s .whRepair 0 0 58 56 1).softRepair a s else d

/-- A write of LD_LOCK_CMD in the blocks of some pods. -/
def Dev.writeLockCmd (a : Tables) (d : Dev) (s : Sock) (pods : List (Fin 104)) (v : Word) : Dev :=
  let d := d.each pods fun d p =>
    let l := landingOf p
    let d := d.setReg s .ldLockCmd l 0 (Reg.ldLockCmd.written false false (d.reg s .ldLockCmd l 0) v)
    if bit v 63 then d.setFld s .ldLockCmd l 0 58 56 1 else d
  d.lockFill a s pods

/-- A write of LD_RINV_CMD in the blocks of some pods. -/
def Dev.writeRinvCmd (a : Tables) (d : Dev) (s : Sock) (pods : List (Fin 104)) (v : Word) : Dev :=
  let d := d.each pods fun d p =>
    let l := landingOf p
    d.setReg s .ldRinvCmd l 0 (Reg.ldRinvCmd.written false false (d.reg s .ldRinvCmd l 0) v)
  d.runRinv a s pods

/-- A write to a slice register in the blocks of some pods. -/
def Dev.writeSlice (a : Tables) (d : Dev) (s : Nat) (q : Requester) (pods : List (Fin 104)) (r : Reg) (off : Nat) (v : Word) : Dev :=
  match r with
  | .ldSliceWays => d.writeLock a s q pods off (bits v 31 16)
  | .ldLockCmd => d.writeLockCmd a (sk s) pods v
  | .ldRinvCmd => d.writeRinvCmd a (sk s) pods v
  | _ => d.each pods fun d p =>
    let l := landingOf p
    d.setReg s r l 0 (r.written false false (d.reg s r l 0) v)

/-- A write to a register instance that the view shows. True means a bus error. -/
def Dev.regStore (a : Admin) (d : Dev) (s : Nat) (q : Requester) (r : Reg) (i j off : Nat) (v : Word) : Bool × Dev :=
  let t := a.tab
  let bv := q.berth ≠ 0
  let locked := d.fld s .whBoot 0 0 63 63 = 1
  let plain := fun (_ : Unit) => d.setReg s r i j (r.written bv locked (d.reg s r i j) v)
  match r with
  | .mbData => d.writeMbData s i j q v
  | .mbCtl => d.writeMbCtl s i q v
  | .mbDone => (false, d.writeMbDone s i q v)
  | .mbCfg => (false, d.writeMbCfg t s i q v)
  | .dbMask | .dbPend => (false, (plain ()).ringWake s i)
  | .blRel => (false, d.writeBlRel s i q v)
  | .blCfg => (false, let d := plain (); if bit v 63 then d.freeBollard s i else d)
  | .whRepair => (false, d.writeRepair t (sk s) v)
  | .whAttestCmd => (false, d.writeAttest a s i v)
  | .fcFirstCtl => (false, if bit v 63 then d.firstRearm s else d)
  | .fcQctl => (false, if bit v 0 then d.popFault s else d)
  | .fcFenceA => (false, if isHepin s q.master.toNat then d.writeFence t s i (bits v 63 62) else d)
  | .fcSrcSev => (false, d.writeSev a.tab s i v)
  | .pwMode => (false, d.writeModeReq t (sk s) (bits v 10 8))
  | .pwDom => (false, d.domainSet t s (bits v 27 0))
  | .ldSliceWays | .ldLockBase | .ldLockLimit | .ldLockCmd | .ldRinvBase | .ldRinvLimit | .ldRinvCmd =>
    (false, match podAt i with
      | some p => d.writeSlice t s q [⟨p % 104, Nat.mod_lt _ (by decide)⟩] r off v
      | none => d)
  | .ldMeshCtl => (false, (plain ()).meshGo t s i)
  | .ldCoreCtl =>
    (false, match podAt i with
      | some p => d.writeCoreCtl t (coreOf (sk s) p j) v
      | none => d)
  | .ldHmap => (false, d.writeHmap t (sk s) i v)
  | .teRunB =>
    (false,
      let d := d.setFld s .teRunB i j 62 62 (bits v 62 62)
      if bit v 63 then d.runGo a.tab s i j else d)
  | .tePolicy => (false, if bv then d.regNote s q off else d.writePolicy t s i q v)
  | .teState => (false, if bv then d.regNote s q off else d.writeDrain t s i j (bit v 63))
  | .xlLinkCtl => (false, d.writeLinkCtl s i locked v)
  | .xlXdirCtl => (false, if bit v 0 then d.xdirClear s i else d)
  | .pxIdeKey => (false, d.writeIde s i (j / 8) (j % 8) (Reg.named (r.fieldsAt j) bv v))
  | .feEngCtl => (false, if bit v 63 then d.engineReset t s i else d)
  | .pcUncCfgSlice => (false, d.writeUncCfg s r .pcUncCntSlice i j bv v)
  | .pcUncCfgFar => (false, d.writeUncCfg s r .pcUncCntFar i j bv v)
  | .pcUncCfgNear => (false, d.writeUncCfg s r .pcUncCntNear i j bv v)
  | .pcUncCfgLink => (false, d.writeUncCfg s r .pcUncCntLink i j bv v)
  | .pcUncCfgEng => (false, d.writeUncCfg s r .pcUncCntEng i j bv v)
  | .pcSnapCfg => (false, d.writeSnapCfg t s i q v)
  | _ => (false, plain ())

/-- An 8-byte write of a register (R33, R535, R536): the BT block ignores it, a foreign instance or a hole drops it with a
Note in the berth view, and so does a one in a bit the view does not have. True means a bus error. -/
def Dev.regWrite (a : Admin) (d : Dev) (s : Nat) (q : Requester) (off : Nat) (v : Word) : Bool × Dev :=
  let bv := q.berth ≠ 0
  if 0x02000000 ≤ off && off < 0x03000000 then (false, if bv then d.regNote s q off else d)
  else
    match regAt off with
    | some (r, i, j) =>
      if bv && !regSeen a.tab d s q.berth.toNat r i j then (false, d.dropNote s q off)
      else
        let d := if bv && r.badBits j true v then d.dropNote s q off else d
        if bv && r.fields.all (fun f => !f.viewB) then (false, d) else d.regStore a s q r i j off v
    | none =>
      if bv then (false, d.dropNote s q off)
      else
        match logAt off with
        | some (src, 0) => (false, if bit v 63 then d.logRearm s src else d)
        | some _ => (false, d)
        | none =>
          match broadcastReg off with
          | some r => (false, d.writeSlice a.tab s q (d.podsOf s none) r off v)
          | none => (false, d)

/-- A store of a size code to the register space: only an aligned 8-byte store acts; a smaller one is dropped with a Note
(R535). -/
def Dev.regStoreSized (a : Admin) (d : Dev) (s : Nat) (q : Requester) (off size : Nat) (v : Word) : Bool × Dev :=
  if size ≠ 3 || off % 8 ≠ 0 then (false, d.regNote s q off) else d.regWrite a s q off v

/-- A load of 1, 2, 4 or 8 bytes: the addressed bytes of the containing register. -/
def Dev.regLoad (a : Admin) (d : Dev) (s : Nat) (q : Requester) (off n : Nat) : Word × Dev :=
  let (w, d) := d.regRead a s q off
  (word (nbits (w.toNat >>> (8 * (off % 8))) (8 * n - 1) 0), d)

end Sys2Proof.Machine
end

