-- ==== Sys2Proof/Machine/Orders.lean ====
section
/-! DEFINITION. Berths and change orders: the operations on the berth tables (R41, R546), the checks on an order (R544), its
application with removal notices and drains (R43 to R48), the journal (R46, R494), and the removal of a socket's resources
(R298). -/

namespace Sys2Proof.Machine

/-! ### The range table (R29) -/

/-- Whether two ranges share no byte. -/
def Range.apart (x y : Range) : Bool := x.limit ≤ y.base || y.limit ≤ x.base

/-- Whether two ranges may be held in one entry. -/
def Range.alike (x y : Range) : Bool := x.kind = y.kind && x.berth = y.berth

/-- Put a range in its place in address order, merged with contiguous ranges of its berth and kind. -/
def rangeInsert (rs : List Range) (r : Range) : List Range :=
  match rs with
  | [] => [r]
  | x :: xs =>
    if r.limit < x.base then r :: x :: xs
    else if r.limit = x.base then (if r.alike x then { x with base := r.base } :: xs else r :: x :: xs)
    else if x.limit = r.base && x.alike r then rangeInsert xs { r with base := x.base }
    else x :: rangeInsert xs r

/-- What is left of a range after a stretch leaves it. -/
def Range.cut (x : Range) (b kind lo hi : Nat) : List Range :=
  if x.berth ≠ b || x.kind ≠ kind || x.limit ≤ lo || hi ≤ x.base then [x]
  else (if x.base < lo then [{ x with limit := lo }] else []) ++ (if hi < x.limit then [{ x with base := hi }] else [])

/-- Remove a stretch of a berth's memory of one kind. -/
def rangeRemove (rs : List Range) (b kind lo hi : Nat) : List Range := rs.flatMap fun x => x.cut b kind lo hi

/-- Add a range that overlaps no other. -/
def Tables.addRange (t : Tables) (r : Range) : Tables :=
  if r.base < r.limit && t.ranges.all fun x => x.apart r then { t with ranges := rangeInsert t.ranges r } else t

/-- Give a berth a way mask on a socket, unless it overlaps another berth's. -/
def Tables.setWays (t : Tables) (s b : Nat) (m : BitVec 16) : Tables :=
  if (List.range 64).all fun o => o = b || Tbl.get 0 t.ways (s * 64 + o) &&& m = 0 then
    { t with ways := Tbl.set 0 t.ways (s * 64 + b) m }
  else t

/-- Set a berth's state. -/
def Tables.setState (t : Tables) (b : Nat) (x : BState) : Tables := { t with state := Tbl.set .free t.state b x }

/-- A berth's state. -/
def Tables.stateOf (t : Tables) (b : Nat) : BState := Tbl.get .free t.state b

/-! ### What an operation is checked against -/

/-- The codes of a reply (R42). -/
def coDone : Nat := 0
/-- The signature fails. -/
def coSignature : Nat := 1
/-- SEQ or SERIAL. -/
def coSequence : Nat := 2
/-- Layout, opcode, alignment or value. -/
def coFormat : Nat := 3
/-- A pool cannot supply. -/
def coResource : Nat := 4
/-- Another berth's resource, or a berth-wide rule. -/
def coConflict : Nat := 5
/-- Another order is being applied. -/
def coBusy : Nat := 6
/-- No manager. -/
def coNoManager : Nat := 7
/-- The manager's mode. -/
def coMode : Nat := 8

/-- What the checks need to know of the system: n, the sockets whose pools can supply, the spare pods of a socket that has
not started yet, and whether the manifest's own build
is applied, which does not wait for sockets to join (assumption log 23). -/
structure OpEnv where
  cube : Nat
  present : Nat → Bool
  spares : Nat → List Nat
  build : Bool

/-- The environment of a change order. -/
def orderEnv (d : Dev) (m : Nat) : OpEnv :=
  { cube := d.fld m .whSystem 0 0 43 41, present := fun t => d.present m t || t = m, spares := fun _ => [], build := false }

/-- The environment of a manifest's build on a system of 2^n positions. -/
def buildEnv (m : List Byte) (mgr : Nat) : OpEnv :=
  { cube := manCube m mgr, present := fun t => t < 2 ^ manCube m mgr, spares := manSpares m, build := true }

/-- Whether a pod can be drawn from its pool (R26). -/
def podFree (v : OpEnv) (d : Dev) (s p : Nat) : Bool :=
  if v.build && (d.enabledPods s).isEmpty then !(v.spares s).contains p else (d.enabledPods s).contains p && !d.podFenced s p

/-- The pods of an operation's bitmap. -/
def COp.pods (o : COp) : List Nat := setBitsOf (o.arg0.toNat + o.arg1.toNat * 2 ^ 64) 104

/-- The granule of a class (R26). -/
def granule (cls : Nat) : Nat := if cls = 1 || cls = 3 then 0x4000000 else 0x40000000

/-- The region of a class that holds an address, as a key: kind, socket and hub, port or window (R306, R422). -/
def classRegion (pa : Nat) : Option (Nat × Nat × Nat) :=
  match regionOf pa with
  | .far s h _ => some (0, s, h)
  | .near s h _ => some (1, s, h)
  | .cxl s p _ => some (2, s, p)
  | .mmio s off => if off < 0x0F0000000000 then some (3, s, off / 0x7800000000) else none
  | _ => none

/-- Whether an operation's range is whole granules inside one region of its class. -/
def COp.rangeOk (o : COp) : Bool :=
  let lo := o.arg0.toNat
  let n := o.arg1.toNat
  o.cls < 4 && n ≠ 0 && lo % granule o.cls = 0 && n % granule o.cls = 0 && lo + n ≤ 2 ^ 52 &&
    (match classRegion lo with
     | some k => k.1 = o.cls && classRegion (lo + n - 1) = some k
     | none => false)

/-- Whether a granule is installed and decoded, and not held by berth 0 or a run. -/
def granuleThere (v : OpEnv) (d : Dev) (pa : Nat) : Bool :=
  match regionOf pa with
  | .mmio s off => (v.build && !d.present s s) || d.fld s .pxPortCfg (off / 0x7800000000) 0 63 63 = 1
  | _ =>
    let s := homeSock pa
    let off := (pa - windowBase s) / gib
    let serves := match d.service pa with
      | .hole => false
      | _ => true
    ((v.build && !d.present s s) || serves) && !d.heldGib s (pa / gib * gib) &&
      !((List.range 64).any fun i =>
        let aw := d.reg s .teRunA (i / 32) (i % 32)
        bit aw 63 && bits aw 42 25 ≤ off && off < bits aw 42 25 + bits aw 12 0)

/-- The operations that name a socket. -/
def COp.onSocket (o : COp) : Bool :=
  [0x10, 0x11, 0x18, 0x28, 0x30, 0x31, 0x38, 0x39, 0x40, 0x41].contains o.opcode

/-- The opcodes of R41. -/
def knownOps : List Nat :=
  [0x01, 0x02, 0x10, 0x11, 0x18, 0x20, 0x21, 0x28, 0x30, 0x31, 0x38, 0x39, 0x40, 0x41, 0x48, 0x50]

/-- The first checks of R544's step 5: opcode, reserved bits and value ranges. -/
def COp.badFormat (v : OpEnv) (o : COp) : Bool :=
  !knownOps.contains o.opcode || o.reserved ≠ 0 || (o.onSocket && (16 ≤ o.socket || 2 ^ v.cube ≤ o.socket)) ||
    (match o.opcode with
     | 0x01 => o.berth = 0 || 64 ≤ o.berth
     | 0x10 | 0x11 => bits o.arg1 63 40 ≠ 0
     | 0x18 => bits o.arg0 63 16 ≠ 0
     | 0x20 | 0x21 => !o.rangeOk
     | 0x28 => 3 ≤ o.cls || 252 < o.arg0.toNat || o.arg1.toNat = 0 || 256 < o.arg1.toNat || o.arg1.toNat < o.arg0.toNat
     | 0x30 | 0x31 => 32 ≤ o.arg0.toNat
     | 0x38 | 0x39 => 4 ≤ o.arg0.toNat
     | 0x40 => o.arg0 = 0
     | 0x41 => bits o.arg0 63 8 ≠ 0
     | 0x50 => o.arg0.toNat < 1000 || 10000000 < o.arg0.toNat
     | _ => false)

/-! ### The effect of an operation on the tables and the slips -/

/-- The VFs of a berth on an engine, lowest first. -/
def Tables.vfsOf (t : Tables) (s e b : Nat) : List Nat := (List.range 256).filter fun f => f ≠ 0 && b ≠ 0 && t.berthOfFn s e f = b

/-- The queue contexts of a berth on an engine. -/
def Tables.ctxsOf (t : Tables) (s e b : Nat) : Nat := Tbl.get 0 t.ctxs ((s * 4 + e) * 64 + b)

/-- The queue contexts of a VF (R404): a berth's contexts are dealt to its VFs in increasing number, the first ones taking
one more. -/
def Tables.deal (t : Tables) (s e f : Nat) : Nat :=
  let b := t.berthOfFn s e f
  let l := t.vfsOf s e b
  match l.idxOf? f with
  | some i => t.ctxsOf s e b / l.length + (decide (i < t.ctxsOf s e b % l.length)).toNat
  | none => 0

/-- Show an engine's function map. -/
def Dev.syncFns (t : Tables) (d : Dev) (s e : Nat) : Dev :=
  ((List.range 256).foldl (fun (acc : Nat × Dev) f =>
    let b := t.berthOfFn s e f
    if b = 0 then (acc.1, acc.2.setReg s .feFnMap e f (if f = 0 then 16 else 0))
    else
      let n := t.deal s e f
      let d := acc.2.setReg s .feFnMap e f (word (2 ^ 63 + b * 2 ^ 48 + acc.1 % 8192 * 2 ^ 16 + n))
      (acc.1 + n, (d.setFld s .feFnStat (fnKey e f) 0 44 32 n))) (16, d)).2

/-- Whether every socket's range table has room (R29). -/
def Tables.fits (t : Tables) : Bool :=
  t.ranges.length ≤ 1024 || sockets.all fun s => (t.ranges.filter fun r => t.holdsRange s r).length ≤ 1024

/-- A berth with nothing: the tables without any resource of it. -/
def Tables.without (t : Tables) (b : Nat) : Tables :=
  { t with
    state := Tbl.set .free t.state b .free
    ways := t.ways.filter fun e => e.1 % 64 ≠ b
    shares := t.shares.filter fun e => e.1 / 3 % 64 ≠ b
    pods := t.pods.filter fun e => e.2 ≠ b
    ports := t.ports.filter fun e => e.2 ≠ b
    vfs := t.vfs.filter fun e => e.2 ≠ b
    ctxs := t.ctxs.filter fun e => e.1 % 64 ≠ b
    ranges := t.ranges.filter fun r => r.berth ≠ b
    admin := if t.admin = b then 0 else t.admin }

/-- The slips of a berth on a socket follow its cores; without cores they return to the pool (R431). -/
def Dev.resetSlips (t : Tables) (d : Dev) (s b : Nat) : Dev := (d.fixSlips t s b).baseSlips t s b

/-- Free slips of a socket. -/
def Dev.freeSlips (d : Dev) (s : Nat) : Nat := ((List.range 256).filter fun n => d.fld s .mbCfg n 0 63 62 = 3).length

/-- The window of a root port. -/
def portRange (s p : Nat) : Nat × Nat := (mmioBase s + p * 0x7800000000, mmioBase s + (p + 1) * 0x7800000000)

/-- The effect of an operation on the tables and slips, or its status (R546). A root port comes with its MMIO window (R26):
ADD_PORT gives the berth the part of it that it does not hold yet, and REMOVE_PORT takes the window back. SET_DRAIN names no
berth: its BERTH byte has no use (DESIGN CHOICE, assumption log 23). -/
def opApply (v : OpEnv) (t : Tables) (d : Dev) (o : COp) : Except Nat (Tables × Dev) :=
  let b := o.berth
  let s := o.socket
  if o.badFormat v then .error coFormat
  else if o.opcode = 0x50 then .ok ({ t with drain := o.arg0.toNat }, d)
  else if o.opcode = 0x01 then
    if t.stateOf b = .free then .ok (t.setState b .building, d) else .error coConflict
  else if b = 0 || t.stateOf b = .free then .error coConflict
  else if o.onSocket && !v.present s then .error coResource
  else
    match o.opcode with
    | 0x02 =>
      .ok (t.without b, sockets.foldl (fun (d : Dev) s => d.fixSlips (t.without b) s b) d)
    | 0x10 =>
      if o.pods.any fun p => t.berthOfPod s p ≠ 0 && t.berthOfPod s p ≠ b then .error coConflict
      else
        let new := o.pods.filter fun p => t.berthOfPod s p = 0
        if new.any fun p => !podFree v d s p then .error coResource
        else if !new.isEmpty && (t.lowCore s b).isNone && d.freeSlips s < 2 then .error coResource
        else
          let t' := { t with pods := new.foldl (fun l p => Tbl.set 0 l (s * 128 + p) b) t.pods }
          if t'.fits then .ok (t', d.resetSlips t' s b) else .error coResource
    | 0x11 =>
      if o.pods.any fun p => t.berthOfPod s p ≠ b then .error coConflict
      else
        let t' := { t with pods := o.pods.foldl (fun l p => Tbl.set 0 l (s * 128 + p) 0) t.pods }
        .ok (t', d.fixSlips t' s b)
    | 0x18 =>
      let m := o.arg0.setWidth 16
      let others := (List.range 64).filter fun x => x ≠ b && Tbl.get 0 t.ways (s * 64 + x) ≠ 0
      if m ≠ 0 && 16 ≤ others.length then .error coResource
      else if others.any fun x => Tbl.get 0 t.ways (s * 64 + x) &&& m ≠ 0 then .error coConflict
      else .ok (t.setWays s b m, d)
    | 0x20 =>
      let r : Range := { base := o.arg0.toNat, limit := o.arg0.toNat + o.arg1.toNat, kind := o.cls, berth := b }
      let gs := (List.range ((r.limit - r.base) / granule o.cls)).map fun i => r.base + i * granule o.cls
      let port := match regionOf r.base with
        | .mmio s' off => t.berthOfPort s' (off / 0x7800000000)
        | _ => 0
      if t.ranges.any (fun x => !x.apart r) || (port ≠ 0 && port ≠ b) then .error coConflict
      else if gs.any fun g => !granuleThere v d g then .error coResource
      else if (t.addRange r).fits then .ok (t.addRange r, d)
      else .error coResource
    | 0x21 =>
      let lo := o.arg0.toNat
      let hi := lo + o.arg1.toNat
      if !((t.ranges.filter fun x => x.kind = o.cls && x.berth = b).any fun x => x.base ≤ lo && hi ≤ x.limit) then
        .error coConflict
      else
        let t' := { t with ranges := rangeRemove t.ranges b o.cls lo hi }
        if t'.fits then .ok (t', d) else .error coResource
    | 0x28 =>
      .ok ({ t with shares := Tbl.set (0, 256) t.shares ((s * 64 + b) * 3 + o.cls) (o.arg0.toNat, o.arg1.toNat) }, d)
    | 0x30 =>
      let p := o.arg0.toNat
      let w := portRange s p
      if t.berthOfPort s p ≠ 0 && t.berthOfPort s p ≠ b then .error coConflict
      else if t.ranges.any fun x => (x.berth ≠ b || x.kind ≠ 3) && x.base < w.2 && w.1 < x.limit then .error coConflict
      else if (d.present s s && d.fld s .pxPortCfg p 0 63 63 = 0) || d.fenced s (0x800 + p) 0xFF then .error coResource
      else
        let t' := { t with
          ports := Tbl.set 0 t.ports (s * 32 + p) b
          ranges := rangeInsert (rangeRemove t.ranges b 3 w.1 w.2) { base := w.1, limit := w.2, kind := 3, berth := b } }
        if t'.fits then .ok (t', d) else .error coResource
    | 0x31 =>
      let p := o.arg0.toNat
      let w := portRange s p
      if t.berthOfPort s p ≠ b then .error coConflict
      else .ok ({ t with ports := Tbl.set 0 t.ports (s * 32 + p) 0, ranges := rangeRemove t.ranges b 3 w.1 w.2 }, d)
    | 0x38 =>
      let e := o.arg0.toNat
      let free := (List.range 256).filter fun f => f ≠ 0 && t.berthOfFn s e f = 0
      let used := (List.range 64).foldl (fun n x => n + t.ctxsOf s e x) 0
      if free.length < o.arg1.toNat || 4080 < used + o.arg2.toNat then .error coResource
      else
        let t' := { t with
          vfs := (free.take o.arg1.toNat).foldl (fun l f => Tbl.set 0 l ((s * 4 + e) * 256 + f) b) t.vfs
          ctxs := Tbl.set 0 t.ctxs ((s * 4 + e) * 64 + b) (t.ctxsOf s e b + o.arg2.toNat) }
        if t'.fits then .ok (t', d.syncFns t' s e) else .error coResource
    | 0x39 =>
      let e := o.arg0.toNat
      let mine := t.vfsOf s e b
      if mine.length < o.arg1.toNat || t.ctxsOf s e b < o.arg2.toNat then .error coConflict
      else
        let t' := { t with
          vfs := (mine.drop (mine.length - o.arg1.toNat)).foldl (fun l f => Tbl.set 0 l ((s * 4 + e) * 256 + f) 0) t.vfs
          ctxs := Tbl.set 0 t.ctxs ((s * 4 + e) * 64 + b) (t.ctxsOf s e b - o.arg2.toNat) }
        .ok (t', d.syncFns t' s e)
    | 0x40 =>
      match t.lowCore s b with
      | none => .error coConflict
      | some c =>
        if d.freeSlips s < o.arg0.toNat then .error coResource
        else .ok (t, (List.range o.arg0.toNat).foldl (fun (d : Dev) _ => d.drawSlip s b 2 c) d)
    | 0x41 =>
      let n := bits o.arg0 7 0
      if d.fld s .mbCfg n 0 63 62 ≠ 2 || d.fld s .mbCfg n 0 53 48 ≠ b then .error coConflict
      else .ok (t, d.slipToPool s n)
    | _ => .ok ({ t with admin := b }, d)

/-! ### The rules on the state that an order leaves (step 6 of R544) -/

/-- Whether a berth keeps R28: a way mask on every socket where it holds a pod or memory homed there. -/
def Tables.waysOk (t : Tables) (b : Nat) : Bool :=
  sockets.all fun s =>
    let needs := (ownedKeys t.pods b).any (fun k => k / 128 = s) ||
      t.ranges.any fun r => r.berth = b && r.kind ≠ 3 && homeSock r.base = s
    !needs || Tbl.get 0 t.ways (s * 64 + b) ≠ 0

/-- Whether a berth keeps R330 on every hub where it is tiered. -/
def tierRule (t : Tables) (d : Dev) (b : Nat) : Bool :=
  sockets.all fun s => (List.range 2).all fun h =>
    let mode := d.fld s .tePolicy b 0 61 60
    let near := t.ranges.filter fun r => r.berth = b && r.kind = 1 && nearBase s h ≤ r.base && r.base < nearBase s h + 0x10000000000
    let far := (t.farRanges b s h).foldl (fun n r => n + (r.limit - r.base)) 0
    (mode ≠ 1 && mode ≠ 2) ||
      (match near with
       | [] => true
       | [x] => far ≤ 2048 * (x.limit - x.base)
       | _ => false)

/-- Whether an existing berth keeps R27, R28 and R330. -/
def berthRules (t : Tables) (d : Dev) (b : Nat) : Bool :=
  t.stateOf b = .free || (!(ownedKeys t.pods b).isEmpty && t.waysOk b && tierRule t d b)

/-- The shares of a class on a socket. -/
def Tables.shareTotal (t : Tables) (s c : Nat) : Nat :=
  (List.range 64).foldl (fun n b => n + (Tbl.get (0, 256) t.shares ((s * 64 + b) * 3 + c)).1) 0

/-- The last index of a list whose element satisfies `p`. -/
def lastIdx {α : Type} (l : List α) (p : α → Bool) : Nat := l.length - 1 - (l.reverse.findIdx? p).getD (l.length - 1)

/-- Step 6: the status and index of the first failure. `gone` is the administration berth that an operation destroyed. A
SET_DRAIN names no berth (assumption log 23). -/
def finalCheck (t : Tables) (d : Dev) (ops : List COp) (gone : Option Nat) : Option (Nat × Nat) :=
  let named := (List.range 64).filter fun b => ops.any fun o => o.berth = b && o.opcode ≠ 0x50
  match named.find? fun b => gone = some b || !berthRules t d b with
  | some b => some (coConflict, lastIdx ops fun o => o.berth = b && o.opcode ≠ 0x50)
  | none =>
    if t.admin = 0 || t.stateOf t.admin = .free then some (coConflict, ops.length - 1)
    else
      (List.range 48).findSome? fun k =>
        if 252 < t.shareTotal (k / 3) (k % 3) then
          some (coResource, lastIdx ops fun o => o.opcode = 0x28 && o.socket = k / 3 && o.cls = k % 3)
        else none

/-- Step 5: every operation on the state that the earlier ones leave; the tables and slips after them, or the status and
index of the first failure. -/
def tryOps (v : OpEnv) (t : Tables) (d : Dev) (ops : List COp) (i : Nat) (gone : Option Nat) :
    Except (Nat × Nat) (Tables × Dev × Option Nat) :=
  match ops with
  | [] => .ok (t, d, gone)
  | o :: r =>
    match opApply v t d o with
    | .error e => .error (e, i)
    | .ok (t', d') => tryOps v t' d' r (i + 1) (if o.opcode = 0x02 && o.berth = t.admin then some o.berth else gone)

/-- Validate operations as one order (R43): the tables and slips they leave, or a status and an index. -/
def validate (v : OpEnv) (t : Tables) (d : Dev) (ops : List COp) : Except (Nat × Nat) (Tables × Dev) :=
  match tryOps v t d ops 0 none with
  | .error e => .error e
  | .ok (t', d', gone) =>
    match finalCheck t' d' ops gone with
    | some e => .error e
    | none => .ok (t', d')

/-! ### Resets that an operation brings -/

/-- Remove a range's translations from the cores of a berth (R31 step 1). -/
def Dev.dropTlb (t : Tables) (d : Dev) (b lo hi : Nat) : Dev :=
  d.each sockets fun d s => d.onSock s fun k =>
    { k with cores := k.cores.map fun e =>
        if t.berthOfPod s (e.1 / 2) = b && e.1 < 208 then
          (e.1, { e.2 with tlb := e.2.tlb.filter fun x =>
            x.ppn * 4096 + 2 ^ x.bits ≤ lo || hi ≤ x.ppn * 4096 })
        else e }

/-- R31: a stretch of memory leaves a berth: translations, then lines in every socket's slices, then zeros. -/
def Dev.leaveRange (t : Tables) (d : Dev) (b kind lo hi : Nat) : Dev :=
  let d := d.dropTlb t b lo hi
  if kind = 3 then d
  else (d.each sockets fun d s => d.clearRange t (sk s) lo hi).zeroFill (homeSock lo) lo hi

/-- What a berth's range is cut to by ranges that another picture gives the same berth: the stretches that only the first
gives it. -/
def Range.beyond (r : Range) (keep : List Range) : List Range :=
  keep.foldl (fun l k => l.flatMap fun x => if k.berth = r.berth then x.cut r.berth r.kind k.base k.limit else [x]) [r]

/-- Drain a tiered berth on the hub of a range before its ranges change there (R346). -/
def Dev.drainFor (t : Tables) (d : Dev) (b pa : Nat) : Dev :=
  if (d.tierOf t (homeSock pa) (homeHub pa) b).isSome then d.drainBerth t (homeSock pa) (homeHub pa) b else d

/-- Runs whose source no berth's range covers any more end, and their destinations are free (R348). -/
def Dev.endRuns (t : Tables) (d : Dev) : Dev :=
  d.each sockets fun d s => (List.range 64).foldl (fun (d : Dev) (i : Nat) =>
    let aw := d.reg s .teRunA (i / 32) (i % 32)
    let lo := windowBase s + bits aw 60 43 * gib
    let hi := lo + bits aw 12 0 * gib
    if bit aw 63 && !t.ranges.any fun r => r.base < hi && lo < r.limit then
      (d.setReg s .teRunA (i / 32) (i % 32) 0).setReg s .teRunB (i / 32) (i % 32) 0
    else d) d

/-- What an operation that will succeed does to the sockets before the tables change: the reset of what leaves a berth
(R44), the lines of ways that leave a mask (R234), the drain of a tiered berth (R346). -/
def Dev.opReset (t : Tables) (d : Dev) (o : COp) : Dev :=
  let b := o.berth
  let s := o.socket
  match o.opcode with
  | 0x02 =>
    let d := d.berthReset t b
    d.each (t.ranges.filter fun r => r.berth = b) fun d r => d.leaveRange t b r.kind r.base r.limit
  | 0x11 => d.each o.pods fun d p => d.podReset t (sk s) p
  | 0x18 =>
    let out := (Tbl.get 0 t.ways (s * 64 + b) &&& ~~~ (o.arg0.setWidth 16)).toNat
    d.each (setBitsOf out 16) fun d w => (d.invalidate t (sk s) (d.podsOf s none) 0 (2 ^ 52) (some w)).2
  | 0x20 => if o.cls < 2 then d.drainFor t b o.arg0.toNat else d
  | 0x21 =>
    let d := if o.cls < 2 then d.drainFor t b o.arg0.toNat else d
    d.leaveRange t b o.cls o.arg0.toNat (o.arg0.toNat + o.arg1.toNat)
  | 0x31 => (d.dropTlb t b (portRange s o.arg0.toNat).1 (portRange s o.arg0.toNat).2).hotReset s o.arg0.toNat
  | 0x39 =>
    let e := o.arg0.toNat
    let mine := t.vfsOf s e b
    (d.each (mine.drop (mine.length - o.arg1.toNat)) fun d f => d.fnReset s e f).showSlots t s e
  | _ => d

/-- Undo on the sockets what a lost order had given berths beyond the tables `old` (R47): its pods, links and functions are
reset, the ways leave their masks, and the ranges leave under R31. -/
def Dev.undoOrder (t old : Tables) (d : Dev) : Dev :=
  let d := d.each (t.pods.filter fun e => e.2 ≠ 0 && Tbl.get 0 old.pods e.1 ≠ e.2) fun d e => d.podReset t (sk (e.1 / 128)) (e.1 % 128)
  let d := d.each (t.vfs.filter fun e => e.2 ≠ 0 && Tbl.get 0 old.vfs e.1 ≠ e.2) fun d e =>
    (d.fnReset (e.1 / 1024) (e.1 / 256 % 4) (e.1 % 256)).showSlots t (e.1 / 1024) (e.1 / 256 % 4)
  let d := d.each (t.ports.filter fun e => e.2 ≠ 0 && Tbl.get 0 old.ports e.1 ≠ e.2) fun d e => d.hotReset (e.1 / 32) (e.1 % 32)
  let d := d.each t.ways fun d e =>
    d.each (setBitsOf (e.2 &&& ~~~ Tbl.get 0 old.ways e.1).toNat 16) fun d w =>
      (d.invalidate t (sk (e.1 / 64)) (d.podsOf (e.1 / 64) none) 0 (2 ^ 52) (some w)).2
  d.each (t.ranges.flatMap fun r => r.beyond old.ranges) fun d r =>
    let d := if r.kind < 2 then d.drainFor t r.berth r.base else d
    d.leaveRange t r.berth r.kind r.base r.limit

/-- Whether an operation gives or takes ways or memory, which waits until every slice has reported completion (R31, R234). -/
def COp.clears (o : COp) : Bool := [0x02, 0x18, 0x20, 0x21].contains o.opcode

/-- Whether a slice of any socket walks. -/
def Dev.anyWalking (d : Dev) : Bool := sockets.any fun s => d.walking s

/-- The resets of a lawful operation (R44). -/
def Dev.opStart (d : Dev) (v : OpEnv) (t : Tables) (o : COp) : Dev :=
  match opApply v t d o with
  | .error _ => d
  | .ok _ => d.opReset t o

/-- The effect of an operation on the tables, after its resets. One that is no longer lawful is left unapplied
(assumption log 23). -/
def performOp (v : OpEnv) (t : Tables) (d : Dev) (o : COp) : Tables × Dev :=
  match opApply v t d o with
  | .error _ => (t, d)
  | .ok (t', d') =>
    let d' := if o.opcode = 0x21 || o.opcode = 0x02 then d'.endRuns t' else d'
    let undrain := (o.opcode = 0x20 || o.opcode = 0x21) && o.cls < 2
    let d' := if undrain then
        d'.setReg (homeSock o.arg0.toNat) .teState (homeHub o.arg0.toNat) o.berth
          (putBits (d'.reg (homeSock o.arg0.toNat) .teState (homeHub o.arg0.toNat) o.berth) 63 62 0)
      else d'
    let d' := if o.opcode = 0x02 then
        d'.each ((List.range 64).map fun i => (i / 4, i % 4)) fun (d : Dev) (x : Nat × Nat) => d.syncFns t' x.1 x.2
      else d'
    (t', d')

/-! ### The journal (R46, R494) -/

/-- The bytes of a journal record. -/
def journalRecord (seq : Nat) (order : List Byte) : List Byte :=
  let pad := (32 - order.length % 32) % 32
  leBytes 4 0x4345524A ++ leBytes 4 order.length ++ leBytes 8 seq ++ leBytes 8 (crc64Of order) ++ leBytes 8 0 ++ order ++
    List.replicate pad 0

/-- The bytes that the records of some orders take, after the header. -/
def journalBytes (l : List (List Byte)) : Nat := l.foldl (fun n o => n + 32 + (o.length + 31) / 32 * 32) 64

/-- Start a new journal for a manifest. -/
def Wheel.newJournal (w : Wheel) (serial : Nat) : Wheel :=
  { (w.flashErase journalBase journalSize).flashWrite journalBase
      (leBytes 4 0x4C4E524A ++ leBytes 8 serial ++ List.replicate 52 0) with journal := [] }

/-- Append an order to a socket's journal copy, and to its flash. -/
def Wheel.addJournal (w : Wheel) (seq : Nat) (order : List Byte) : Wheel :=
  { w.flashWrite (journalBase + journalBytes w.journal) (journalRecord seq order) with journal := w.journal ++ [order] }

/-- The operations of an order. -/
def orderOps (bs : List Byte) : List COp := opsOf ((bs.drop 32).take (bs.length - 96))

/-- Whether an order's signature verifies (R40). -/
def orderSigned (coKey bs : List Byte) : Bool := verifyPure coKey (bs.take (bs.length - 64)) (bs.drop (bs.length - 64))

/-- The records of a journal in flash that replay takes: SEQ runs on from 1, each CRC is good and each signature verifies;
and whether a record stopped the replay (R494). -/
def Wheel.readJournal (w : Wheel) (fuel at_ seq : Nat) (coKey : List Byte) : List (List Byte) × Bool :=
  match fuel with
  | 0 => ([], false)
  | fuel + 1 =>
    let h := w.flashRead at_ 32
    let n := leAt h 4 4
    if journalBase + journalSize < at_ + 32 || leAt h 0 4 ≠ 0x4345524A || leAt h 8 8 ≠ seq then ([], false)
    else if journalBase + journalSize < at_ + 32 + n || n < 128 then ([], true)
    else
      let o := w.flashRead (at_ + 32) n
      if crc64Of o ≠ leAt h 16 8 || !orderSigned coKey o then ([], true)
      else
        let (rest, bad) := w.readJournal fuel (at_ + 32 + (n + 31) / 32 * 32) (seq + 1) coKey
        (o :: rest, bad)

/-! ### Building the tables from manifest and journal (R484, R493, R494) -/

/-- Every slip of a socket in the pool. -/
def Dev.poolSlips (d : Dev) (s : Nat) : Dev :=
  (List.range 256).foldl (fun (d : Dev) (n : Nat) => d.setReg s .mbCfg n 0 (poolCfg s)) d

/-- The tables and slips that a manifest and orders give from nothing. A BERTHS section that fails R43 gives none, and an
order that fails leaves what stands (assumption log 23). -/
def buildTables (d : Dev) (m : List Byte) (mgr : Nat) (orders : List (List Byte)) : Tables × Dev :=
  let v := buildEnv m mgr
  let d := d.each sockets fun d s => d.poolSlips s
  let base := match validate v Tables.reset d (manOps m) with
    | .ok r => r
    | .error _ => (Tables.reset, d)
  orders.foldl (fun (x : Tables × Dev) o =>
    match validate v x.1 x.2 (orderOps o) with
    | .ok r => r
    | .error _ => x) base

/-- Copy a socket's slip configuration and function maps from another picture of the system. -/
def Dev.takeSlips (d from_ : Dev) (s : Nat) : Dev :=
  let d := (List.range 256).foldl (fun (d : Dev) (n : Nat) => d.setReg s .mbCfg n 0 (from_.reg s .mbCfg n 0)) d
  (List.range 1024).foldl (fun (d : Dev) (k : Nat) =>
    d.setReg s .feFnMap (k / 256) (k % 256) (from_.reg s .feFnMap (k / 256) (k % 256))) d

/-! ### A socket's resources leave the berths, and return (R298) -/

/-- The tables without the resources of a socket. -/
def Tables.loseSocket (t : Tables) (s : Nat) : Tables :=
  { t with
    ways := t.ways.filter fun e => e.1 / 64 ≠ s
    shares := t.shares.filter fun e => e.1 / 192 ≠ s
    pods := t.pods.filter fun e => e.1 / 128 ≠ s
    ports := t.ports.filter fun e => e.1 / 32 ≠ s
    vfs := t.vfs.filter fun e => e.1 / 1024 ≠ s
    ctxs := t.ctxs.filter fun e => e.1 / 256 ≠ s
    ranges := t.ranges.filter fun r => match regionOf r.base with
      | .mmio s' _ => s' ≠ s
      | _ => homeSock r.base ≠ s }

/-- Whether a range is homed on a socket. -/
def Range.on (r : Range) (s : Nat) : Bool :=
  match regionOf r.base with
  | .mmio s' _ => s' = s
  | _ => homeSock r.base = s

/-- The berths that hold a resource of a socket. -/
def Tables.berthsOn (t : Tables) (s : Nat) : List Nat :=
  (List.range 64).filter fun b => b ≠ 0 &&
    ((ownedKeys t.pods b).any (fun k => k / 128 = s) || (ownedKeys t.ports b).any (fun k => k / 32 = s) ||
     (ownedKeys t.vfs b).any (fun k => k / 1024 = s) ||
     t.ranges.any fun r => r.berth = b && (match regionOf r.base with
       | .mmio s' _ => s' = s
       | _ => homeSock r.base = s))

/-- Give berths that still exist the resources of a socket that another picture of the tables gives them. -/
def Tables.regain (t from_ : Tables) (s : Nat) : Tables :=
  let live := fun (b : Nat) => t.stateOf b ≠ .free
  let t := { t with
    shares := (from_.shares.filter fun e => e.1 / 192 = s && live (e.1 / 3 % 64)).foldl (fun l e => Tbl.set (0, 256) l e.1 e.2) t.shares
    pods := (from_.pods.filter fun e => e.1 / 128 = s && live e.2).foldl (fun l e => Tbl.set 0 l e.1 e.2) t.pods
    ports := (from_.ports.filter fun e => e.1 / 32 = s && live e.2).foldl (fun l e => Tbl.set 0 l e.1 e.2) t.ports
    vfs := (from_.vfs.filter fun e => e.1 / 1024 = s && live e.2).foldl (fun l e => Tbl.set 0 l e.1 e.2) t.vfs
    ctxs := (from_.ctxs.filter fun e => e.1 / 256 = s && live (e.1 % 64)).foldl (fun l e => Tbl.set 0 l e.1 e.2) t.ctxs }
  let t := (from_.ways.filter fun e => e.1 / 64 = s && live (e.1 % 64)).foldl (fun t e => t.setWays s (e.1 % 64) e.2) t
  (from_.ranges.filter fun r => live r.berth && (match regionOf r.base with
    | .mmio s' _ => s' = s
    | _ => homeSock r.base = s)).foldl (fun t r => t.addRange r) t

/-! ### Submission (R42, R544) -/

/-- The manager that a socket knows, while it is present and answers (R19). -/
def Dev.managerOf (d : Dev) (s : Nat) : Option Nat :=
  let m := d.fld s .whSystem 0 0 47 44
  if d.present s m && !(d.wheel s).unreached then some m else none

/-- The sockets that are standby managers to the manager. -/
def Dev.standbys (d : Dev) (m : Nat) : List Nat :=
  sockets.filter fun t => t ≠ m && (d.fld m .whSystem 0 0 31 16).testBit t && d.present m t

/-- Read bytes as the Wheelhouse, line by line; whether a line was poisoned; none while a line cannot be read. -/
def Dev.wheelRead (a : Tables) (fuel : Nat) (d : Dev) (s addr n : Nat) (acc : List Byte) (bad : Bool) :
    Option (List Byte × Bool) × Dev :=
  match fuel with
  | 0 => (some (acc, bad), d)
  | fuel + 1 =>
    if n = 0 then (some (acc, bad), d)
    else
      let k := Nat.min n (64 - addr % 64)
      let m : Msg :=
        { ty := .nrd, src := .wheel (sk s), dst := d.homeSlice (sk s) addr, berth := 0,
          master := BitVec.ofNat 16 (s * 4096 + 0xF00), txn := 0, age := BitVec.ofNat 20 d.now.toNat, aux := false,
          addr := BitVec.ofNat 52 (lineBase addr), len := 64, data := 0, poison := false }
      match d.nrdLine a 8 m with
      | (none, d) => (none, d)
      | (some l, d) =>
        d.wheelRead a fuel s (addr + k) (n - k) (acc ++ (List.range k).map fun i => lineByte l.data (addr % 64 + i))
          (bad || l.poison)

/-- The index of a failure that names no operation. -/
def noIndex : Nat := 2 ^ 64 - 1

/-- The sockets whose berth tables the manager of a socket writes; without one, its own alone. -/
def Dev.tableSocks (d : Dev) (s : Nat) : List Nat :=
  match d.managerOf s with
  | some m => d.members m
  | none => [s]

/-- BT_CO_STATUS.OP as the manager's table logic writes it on every socket (R49). -/
def Dev.showOp (d : Dev) (s op : Nat) : Dev := d.each (d.tableSocks s) fun d t => d.setFld t .btCoStatus 0 0 31 16 op

/-- BT_CO_STATUS.STATUS. -/
def Dev.showStatus (d : Dev) (s st : Nat) : Dev := d.each (d.tableSocks s) fun d t => d.setFld t .btCoStatus 0 0 3 0 st

/-- A SUBMIT reply on the KIND 0 slip of a berth on a socket (R42); the status of the last order shows it, but for BUSY
(assumption log 23). -/
def Dev.reply (d : Dev) (s b st : Nat) (seq : Word) (idx : Nat) : Dev :=
  (if st = coBusy then d else d.showStatus s st).tellBerth s b false [word st, seq, word idx]

/-- Whether an order takes something from a berth, so that its notice and drain come first (R44). -/
def COp.removes (o : COp) : Bool := [0x02, 0x11, 0x21, 0x31, 0x39, 0x41].contains o.opcode

/-- Whether anything would leave the berth: REMOVE_PODS with no bit set takes nothing (R546). -/
def COp.takes (o : COp) : Bool := o.removes && !(o.opcode = 0x11 && o.pods.isEmpty)

/-- The socket whose KIND 0 slip carries a removal notice: the operation's, else the range's home, else the lowest where the
berth has one (assumption log 23). -/
def noticeSock (d : Dev) (o : COp) : Option Nat :=
  let first := if o.onSocket then [o.socket] else if o.opcode = 0x21 then [homeSock o.arg0.toNat % 16] else []
  (first ++ sockets).find? fun s => (d.slipOf s o.berth 0).isSome

/-- The end of an order: the journal, the mirror, and the acknowledgement (R46). -/
def finishOrder (a : Admin) (d : Dev) (o : Order) : Admin × Dev :=
  let made := o.ops.filterMap fun x => if x.opcode = 1 then some x.berth else none
  let tab := made.foldl (fun t b => if t.stateOf b = .building then t.setState b .run else t) a.tab
  let mgr := (d.managerOf o.sock).getD o.sock
  let d := d.each (mgr :: d.standbys mgr) fun d s => d.onWheel s fun w => w.addJournal o.seq.toNat o.bytes
  ({ a with tab, mirror := tab, order := none, seq := o.seq, ackPresent := some (BitVec.ofNat 16 (d.presentMask mgr)) },
    (d.showOp o.sock 0xFFFF).reply o.sock o.berth coDone o.seq noIndex)

/-- The present operation takes effect and the order goes on with the next; one whose slices have not reported completion waits
for them (R31, R234). -/
def opDone (a : Admin) (d : Dev) (o : Order) (x : COp) : Admin × Dev × Order :=
  let v := orderEnv d ((d.managerOf o.sock).getD o.sock)
  let d := d.opStart v a.tab x
  if x.clears && d.anyWalking then
    let o := { o with waiting := false, settling := true }
    ({ a with order := some o }, d, o)
  else
    let (tab, d) := performOp v a.tab d x
    let tab := if tab.stateOf x.berth = .draining then tab.setState x.berth .run else tab
    let o := { o with idx := o.idx + 1, waiting := false, settling := false }
    ({ a with tab, order := some o }, d.showOp o.sock o.idx, o)

/-- Apply operations in order until one waits for its removal notice or the order ends (R43, R44). -/
def runOrder (fuel : Nat) (a : Admin) (d : Dev) (o : Order) : Admin × Dev :=
  match fuel with
  | 0 => (a, d)
  | fuel + 1 =>
    match o.ops[o.idx]? with
    | none => finishOrder a d o
    | some x =>
      match (if x.takes then noticeSock d x else none) with
      | some s =>
        let tab := if a.tab.stateOf x.berth = .run then a.tab.setState x.berth .draining else a.tab
        let d := d.tellBerth s x.berth false [word (2 ^ 56), word (x.opcode * 2 ^ 32 + o.idx), x.arg0]
        ({ a with tab, order := some { o with waiting := true } }, d.showOp o.sock o.idx)
      | none =>
        let (a, d, o) := opDone a d o x
        if o.settling then (a, d) else runOrder fuel a d o

/-- The removal that an order waits for goes ahead: on the berth's acknowledgement or at the drain timeout. -/
def goOn (a : Admin) (d : Dev) (o : Order) : Admin × Dev :=
  match o.ops[o.idx]? with
  | none => (a, d)
  | some x =>
    let (a, d, o) := opDone a d o x
    if o.settling then (a, d) else runOrder (o.ops.length + 2) a d o

/-- The operation that waits for slices to finish is taken up again; what it resets and clears may be cleared once more. -/
def orderGo (a : Admin) (d : Dev) : Admin × Dev :=
  match a.order with
  | some o => if o.settling then goOn a d o else (a, d)
  | none => (a, d)

/-- Whether a service operation that changes a berth's resources runs on a socket: a substitution or a leave (R500). -/
def Dev.svcBusy (d : Dev) : Bool :=
  sockets.any fun s => d.fld s .whSvc 0 0 58 56 = 1 && (d.fld s .whSvc 0 0 63 60 = 4 || d.fld s .whSvc 0 0 63 60 = 9)

/-- Check a submitted block and start it (R544); none while the block cannot be read, and nothing has happened then. -/
def submitBlock (a : Admin) (d : Dev) (s b : Nat) (addr len : Nat) : Option (Admin × Dev) :=
  let (unread, d0) := d.free
  match d.managerOf s with
  | none => some (a, d0.reply s b coNoManager unread noIndex)
  | some mgr =>
    if !d.runs mgr then some (a, d0.reply s b coMode unread noIndex)
    else if a.order.isSome || d.svcBusy then some (a, d0.reply s b coBusy unread noIndex)
    else if b ≠ a.tab.admin then some (a, d0.reply s b coConflict unread noIndex)
    else if addr % 64 ≠ 0 || len < 128 || 65536 < len || !a.tab.covers b addr (addr + len) then
      some (a, d0.reply s b coFormat unread noIndex)
    else
      match d.wheelRead a.tab 1100 s addr len [] false with
      | (none, _) => none
      | (some (bs, bad), d) =>
        let seq := word (leAt bs 0x10 8)
        let count := leAt bs 6 2
        let m := (d.wheel mgr).kept
        if bad || leAt bs 0 4 ≠ 0x524F4843 || leAt bs 4 2 ≠ 1 || count = 0 || 2044 < count || leAt bs 0x18 4 ≠ len ||
            len ≠ 96 + 32 * count || leAt bs 0x1C 4 ≠ 0 then
          some (a, d.reply s b coFormat seq noIndex)
        else if !orderSigned (manCoKey m) bs then some (a, d.reply s b coSignature seq noIndex)
        else if seq ≠ a.seq + 1 || leAt bs 8 8 ≠ manSerial m then some (a, d.reply s b coSequence seq noIndex)
        else
          match validate (orderEnv d mgr) a.tab d (orderOps bs) with
          | .error e => some (a, d.reply s b e.1 seq e.2)
          | .ok _ =>
            if journalSize < journalBytes ((d.wheel mgr).journal ++ [bs]) then
              some (a, d.reply s b coResource seq noIndex)
            else
              let o : Order :=
                { ops := orderOps bs, idx := 0, bytes := bs, seq, sock := s, berth := b, waiting := false, settling := false }
              some (runOrder (o.ops.length + 2) { a with order := some o } (d.showOp s 0) o)

/-- The words of a slip. -/
def Dev.slipWord (d : Dev) (s n i : Nat) : Word := d.reg s .mbData n i

/-- Whether a slip holds a message to the Wheelhouse. -/
def Dev.hepinHas (d : Dev) (s n : Nat) : Bool := d.slipFull s n && d.fld s .mbCfg n 0 63 62 = 1

/-- SUBMIT: the Wheelhouse takes a message from a KIND 1 slip. An unknown kind is answered with BAD_FORMAT (R440). An order
whose block cannot be read yet stays in its slip, and the command may come again. -/
def submit (a : Admin) (d : Dev) (s n : Nat) : Admin × Dev :=
  if !d.hepinHas s n || bits (d.slipWord s n 0) 63 56 = 1 then (a, d)
  else
    let b := d.fld s .mbCfg n 0 53 48
    let w0 := d.slipWord s n 0
    let addr := (d.slipWord s n 1).toNat
    let len := (d.slipWord s n 2).toNat
    let d0 := d
    let d := d.slipDone s n
    if w0 = 1 then (submitBlock a d s b addr len).getD (a, d0)
    else
      let (unread, d) := d.free
      (a, d.tellBerth s b false [word coFormat, unread, word noIndex])

/-- REMOVAL_ACK: the Wheelhouse takes a berth's acknowledgement; one that names the removal in progress lets it go ahead. -/
def removalAck (a : Admin) (d : Dev) (s n : Nat) : Admin × Dev :=
  if !d.hepinHas s n || bits (d.slipWord s n 0) 63 56 ≠ 1 then (a, d)
  else
    let b := d.fld s .mbCfg n 0 53 48
    let w1 := d.slipWord s n 1
    let d := d.slipDone s n
    match a.order with
    | none => (a, d)
    | some o =>
      match o.ops[o.idx]? with
      | none => (a, d)
      | some x =>
        if o.waiting && x.berth = b && w1 = word (x.opcode * 2 ^ 32 + o.idx) then goOn a d o else (a, d)

/-- DRAIN_TIMEOUT: the removal that waits goes ahead regardless. -/
def drainTimeout (a : Admin) (d : Dev) : Admin × Dev :=
  match a.order with
  | some o => if o.waiting then goOn a d o else (a, d)
  | none => (a, d)

end Sys2Proof.Machine
end

