-- ==== Sys2Proof/Machine/System.lean ====
section
/-! DEFINITION. The system of sockets: routes and the route switch (R291 to R294), leave and loss (R297, R298), heartbeats and
succession (R15 to R19, R300, R301), the time base (R302), and the stop message (R384). -/

namespace Sys2Proof.Machine

/-! ### Who is in the system -/

/-- Whether a socket's Wheelhouse takes part in the system: from LOAD to MAINTAIN (R471). -/
def Dev.awake (d : Dev) (s : Nat) : Bool := 2 ≤ d.mode s && d.mode s ≤ modeMaintain

/-- Whether a socket is the manager of the system it has joined. -/
def Dev.isManager (d : Dev) (s : Nat) : Bool := d.present s s && d.fld s .whSystem 0 0 47 44 = s

/-- The sockets that a socket can reach, itself among them. -/
def Dev.reach (d : Dev) (ps : List Nat) (s : Nat) : List Nat := (bfs (d.hopsAmong ps) 16 0 [(s, 0)]).map Prod.fst

/-! ### Routes (R292, R293) -/

/-- The sockets of the ascending dimension-order route, from its start. -/
def class0Route (s t : Nat) : List Nat :=
  (List.range 4).foldl (fun r i =>
    let u := r.getLastD s
    if u.testBit i = t.testBit i then r else r ++ [across u i]) [s]

/-- Whether class 0 serves a pair: each socket of its route is present and each hop has a usable link. -/
def class0Ok (hops : List (Nat × Nat)) (s t : Nat) : Bool :=
  let r := class0Route s t
  (r.zip (r.drop 1)).all fun e => hops.contains e

/-- The states of legal routes: socket × 2 + DOWN; up hops keep DOWN clear, down hops set it. -/
def legalEdges (hops levels : List (Nat × Nat)) : List (Nat × Nat) :=
  hops.flatMap fun e =>
    if hopUp levels e then [(e.1 * 2, e.2 * 2)] else [(e.1 * 2, e.2 * 2 + 1), (e.1 * 2 + 1, e.2 * 2 + 1)]

/-- The dimension of the first hop of a shortest legal route from a state, the lowest among equals. -/
def nextDim (edges dist : List (Nat × Nat)) (x : Nat) : Option Nat :=
  match distOf dist x with
  | none => none
  | some k =>
    (List.range 4).find? fun i => edges.any fun e =>
      e.1 = x && e.2 / 2 = across (x / 2) i && (match distOf dist e.2 with
        | some j => j + 1 = k
        | none => false)

/-- The XL_ROUTE word of socket `s` for destination `t`. -/
def routeWord (hops levels : List (Nat × Nat)) (s t : Nat) : Word :=
  if s = t then word (2 ^ 15)
  else
    let edges := legalEdges hops levels
    let dist := bfs edges 32 0 [(t * 2, 0), (t * 2 + 1, 0)]
    match nextDim edges dist (s * 2) with
    | none => 0
    | some up =>
      let down := match nextDim edges dist (s * 2 + 1) with
        | some i => 2 ^ 10 + i * 2 ^ 8
        | none => 0
      word (2 ^ 15 + (!class0Ok hops s t).toNat * 2 ^ 14 + up * 2 ^ 11 + down)

/-- The tables of every present socket, as (socket, words by destination). -/
def Dev.routeTables (d : Dev) (ps : List Nat) : List (Nat × Tbl Word) :=
  let hops := d.hopsAmong ps
  let root := ps.foldl Nat.min 15
  let levels := bfs hops 16 0 [(root, 0)]
  ps.map fun s => (s, (ps.map fun t => (t, routeWord hops levels s t)).filter fun e => e.2 ≠ 0)

/-- Install a route table: XL_ROUTE of every destination. -/
def Dev.installRoutes (d : Dev) (s : Nat) (tbl : Tbl Word) : Dev :=
  (List.range 16).foldl (fun (d : Dev) t => d.setReg s .xlRoute t 0 (Tbl.get 0 tbl t)) d

/-- A route switch inside a join, a leave or a loss: every present socket has its new table when the command ends. -/
def Dev.switchRoutes (d : Dev) (m : Nat) : Dev :=
  d.each (d.routeTables (d.members m)) fun d x => (d.installRoutes x.1 x.2).onWheel x.1 fun w => { w with routes := none }

/-- ROUTE_SWITCH: the manager sends new tables and a switch time, at least 20 µs ahead, to every present socket. -/
def Dev.routeSwitch (d : Dev) (at_ : Word) : Dev :=
  match sockets.find? fun m => d.isManager m && d.awake m with
  | none => d
  | some m =>
    let t : Word := if at_.toNat < d.now.toNat + 20000 then d.now + 20000 else at_
    d.each (d.routeTables (d.members m)) fun d x => d.onWheel x.1 fun w => { w with routes := some (t, x.2) }

/-- Whether a flit could not be sent again: its link is no longer ACTIVE. -/
def Dev.stranded (d : Dev) (s k : Nat) : Bool := d.linkState s k ≠ 4 && d.linkState s k ≠ 5

/-- Flits stranded on a link that went DOWN go out, in order, on the new route to its peer (R294). -/
def Dev.resendStranded (d : Dev) (s k : Nat) : Dev :=
  let peer := d.fld s .xlLinkStat k 0 47 44
  let w := d.reg s .xlRoute peer 0
  let dim := if bit w 14 then bits w 12 11 else ((List.range 4).find? fun i => peer.testBit i ≠ s.testBit i).getD 0
  match (if bit w 15 then d.usable s (across s dim) else []) with
  | [] => d
  | j :: _ =>
    let fs := (d.link s k).replay
    let d := d.onLink s k fun x => { x with replay := [] }
    fs.foldl (fun (d : Dev) f =>
      let x := d.link s j
      let hdr := putBits f.hdr 63 54 x.seq
      d.onLink s j fun x => { x with seq := (x.seq + 1) % 1024, replay := x.replay ++ [mkFlit hdr f.slots] }) d

/-- SWITCH_TIME: at T the links of the socket hold new sends; once none has an unacknowledged flit the table is installed and
sends resume. -/
def Dev.switchTime (d : Dev) (s : Nat) : Dev :=
  match (d.wheel s).routes with
  | none => d
  | some (_, tbl) =>
    let ks := List.range 8
    if ks.any fun k => !d.stranded s k && !(d.link s k).replay.isEmpty then
      d.each ks fun d k => d.onLink s k fun x => { x with hold := true }
    else
      let d := (d.installRoutes s tbl).onWheel s fun w => { w with routes := none }
      let d := d.each ks fun d k => d.onLink s k fun x => { x with hold := false }
      (d.each (ks.filter fun k => d.stranded s k && !(d.link s k).replay.isEmpty) fun d k => d.resendStranded s k).rxGo s

/-! ### Membership words -/

/-- Set or clear a socket's PRESENT and STANDBY bits on a socket. -/
def Dev.setMember (d : Dev) (at_ s : Nat) (present standby : Bool) : Dev :=
  let w := d.reg at_ .whSystem 0 0
  d.setReg at_ .whSystem 0 0 (putBit (putBit w s present) (16 + s) standby)

/-- A socket leaves every other's WH_SYSTEM. -/
def Dev.dropMember (d : Dev) (ms : List Nat) (s : Nat) : Dev := d.each ms fun d t => d.setMember t s false false

/-- A socket that is in no system: PRESENT, STANDBY and MANAGER are zero. -/
def Dev.alone (d : Dev) (s : Nat) : Dev :=
  (((d.setFld s .whSystem 0 0 15 0 0).setFld s .whSystem 0 0 31 16 0).setFld s .whSystem 0 0 47 44 0).setReg s .xlJoin 0 0 0

/-- Slips of every berth follow the tables on a socket: cores that left are replaced, base slips are drawn. -/
def Dev.slipsFollow (t : Tables) (d : Dev) (s : Nat) : Dev :=
  d.each ((List.range 63).map (· + 1)) fun d b =>
    let d := d.fixSlips t s b
    if t.stateOf b = .free then d else d.baseSlips t s b

/-! ### Leave (R297) -/

/-- The physical range homed on a socket. -/
def homeWindow (s : Nat) : Nat × Nat := (windowBase s, windowBase s + windowSize)

/-- An orderly leave: the berths' pods on the socket are reset and lose it, its slices are written back, every other socket
drops its copies of lines homed there, and the manager switches routes without it. A leave on request takes the socket's
resources from its berths (R499), its ranges under R31; with `keep`, the leave that opens a reset or a sleep, R297 alone applies and the berth
tables stay as they are. -/
def leaveSystem (a : Admin) (d : Dev) (s : Nat) (keep : Bool) : Admin × Dev :=
  if !d.present s s then (a, d)
  else
    let d := (d.abandonAll s).quiesce a.tab
    let d := d.each (a.tab.pods.filter fun e => e.1 / 128 = s && e.2 ≠ 0) fun d e => d.podReset a.tab (sk s) (e.1 % 128)
    let d := d.clearRange a.tab (sk s) 0 (2 ^ 52)
    let others := (d.members s).filter fun t => t ≠ s
    let d := d.each others fun d t => d.clearRange a.tab (sk t) (homeWindow s).1 (homeWindow s).2
    let d := if keep then d
      else d.each (a.tab.ranges.filter fun r => r.on s) fun d r => d.leaveRange a.tab r.berth r.kind r.base r.limit
    let d := (d.dropMember others s).alone s
    let d := match others.find? fun t => d.present t t with
      | some t => d.switchRoutes t
      | none => d
    let a := if keep then a else { a with tab := a.tab.loseSocket s, mirror := a.mirror.loseSocket s }
    let d := d.each ((List.range 63).map (· + 1)) fun d b => d.fixSlips a.tab s b
    (a, (List.range 4).foldl (fun (d : Dev) e => d.syncFns a.tab s e) d)

/-! ### Loss (R298) -/

/-- A crossing directory forgets a lost socket: a line that it owned is poisoned in memory (R271). -/
def Dev.xdirLose (a : Tables) (d : Dev) (s : Sock) (u : Fin 2) (lost : Nat) : Dev :=
  d.each ((d.hub s u).xdir.filter fun e => e.2.sp.contains lost) fun d e =>
    if e.2.own then (d.poisonLine (e.2.la * 64)).freeX a s u e.1 e.2
    else
      let sp := e.2.sp.filter fun t => t ≠ lost
      if sp.isEmpty && !e.2.hail then d.freeX a s u e.1 e.2 else d.putX s u e.1 { e.2 with sp }

/-- The words of a loss notice (R440). -/
def lossWords (lost : Nat) : List Word := [word (3 * 2 ^ 56), word lost]

/-- The sockets that stay drop every copy of the lines homed on a lost socket (R31 step 2): there is no home to write them back
to (assumption log 24). -/
def Dev.forgetHome (d : Dev) (t lost : Nat) : Dev :=
  let here := fun (la : Nat) => homeSock (la * 64) = lost
  d.onSock t fun k =>
    { k with
      cores := k.cores.map fun e => (e.1, { e.2 with
        l1i := e.2.l1i.filter fun x => !here x.2.la
        l1d := e.2.l1d.filter fun x => !here x.2.la
        l2 := e.2.l2.filter fun x => !here x.2.la })
      slices := k.slices.map fun e => (e.1, { e.2 with ents := e.2.ents.filter fun x => x.2.busy || !here x.2.la }) }

/-- The manager treats a socket as lost: its ranges leave their berths with their translations and cached lines (R31; nothing is
left to fill with zeros). -/
def loseMember (a : Admin) (d : Dev) (m lost : Nat) : Admin × Dev :=
  let held := a.tab.berthsOn lost
  let d := d.report m { src := 0xF00, cls := 0xA, sub := 0xFF, master := lost * 4096 + 0xF00, berth := 0, access := 0, addr := 0 }
  let ms := (d.members m).filter fun t => t ≠ lost
  let d := (d.dropMember ms lost).switchRoutes m
  let d := d.each ms fun d t => ((d.xdirLose a.tab (sk t) 0 lost).xdirLose a.tab (sk t) 1 lost)
  let d := d.each (a.tab.ranges.filter fun r => r.on lost) fun d r => d.dropTlb a.tab r.berth r.base r.limit
  let d := d.each ms fun d t => d.forgetHome t lost
  let a := { a with tab := a.tab.loseSocket lost, mirror := a.mirror.loseSocket lost }
  (a, d.each held fun d b =>
    match ms.find? fun t => (d.slipOf t b 0).isSome with
    | some t => d.tellBerth t b false (lossWords lost)
    | none => d)

/-! ### Succession (R18, R19, R301) -/

/-- Whether a standby manager reaches more than half of the sockets present at the last acknowledged order, or, before the first
one, of those it knows to be present, the silent manager among them (R301; assumption log 24). -/
def quorum (a : Admin) (d : Dev) (m old : Nat) : Bool :=
  let was := (a.ackPresent.getD (BitVec.ofNat 16 (d.presentMask m)))
  let r := d.reach ((d.members m).filter fun t => t ≠ old && d.awake t) m
  let n := (sockets.filter fun t => was.getLsbD t).length
  n < 2 * (r.filter fun t => was.getLsbD t).length

/-- The state of each berth as a takeover leaves it: a berth of the mirrored tables keeps running or stopped as it is; one
that the lost order was draining runs on. -/
def takeoverState (tab mirror : Tables) : Tbl BState :=
  ((List.range 64).filterMap fun b =>
    let x : BState := match mirror.stateOf b, tab.stateOf b with
      | .free, _ => .free
      | y, .free => y
      | _, .draining => .run
      | _, y => y
    if x = .free then none else some (b, x))

/-- A standby manager takes over: the tables of the last acknowledged order stand, and what an order in progress had given
berths beyond them is undone on the sockets (R47). -/
def takeOver (a : Admin) (d : Dev) (m old : Nat) : Admin × Dev :=
  let group := d.reach ((d.members m).filter fun t => t ≠ old && d.awake t) m
  let tab := { a.mirror with state := takeoverState a.tab a.mirror }
  let d := d.undoOrder a.tab a.mirror
  let d := d.each group fun d t =>
    let d := (d.setFld t .whSystem 0 0 47 44 m).setFld t .whSystem 0 0 (16 + m) (16 + m) 0
    d.onWheel t fun w => { w with unreached := false }
  let d := d.setFld m .whSystem 0 0 40 39 1
  let d := d.each group fun d t =>
    let d := (List.range 4).foldl (fun (d : Dev) e => d.syncFns tab t e) d
    d.slipsFollow tab t
  loseMember { a with tab, order := none } (d.showOp m 0xFFFF) m old

/-- SOCKET_SILENT: the manager treats a silent socket as lost; when the manager is silent the lowest standby manager that
meets R301 takes over, and until one does every socket that is left reports the loss through its management port and runs
without a manager (R19). The silent manager's bits stay set meanwhile: only a manager clears them (R298; assumption log 24). -/
def socketSilent (a : Admin) (d : Dev) (s silent : Nat) : Admin × Dev :=
  if s = silent || !d.present s s || !d.awake s then (a, d)
  else
    let m := d.fld s .whSystem 0 0 47 44
    if silent = m then
      let heirs := (d.members s).filter fun t =>
        t ≠ silent && (d.fld t .whSystem 0 0 31 16).testBit t && d.awake t && quorum a d t silent
      match heirs with
      | t :: _ => takeOver a d t silent
      | [] =>
        let left := d.reach ((d.members s).filter fun t => t ≠ silent && d.awake t) s
        (a, d.each (left.filter fun t => !(d.wheel t).unreached) fun d t => (d.tellPort t 2).onWheel t fun w => { w with unreached := true })
    else if s = m && d.present s silent then loseMember a d s silent
    else (a, d)

/-- A former manager that the present manager reaches again is demoted: it serves as a standby manager, with a Note; its
cores, which no berth holds any more, stay stopped. -/
def Dev.demote (d : Dev) (s m : Nat) : Dev :=
  let d := ((d.setFld s .whSystem 0 0 40 39 2).notice s 0xF00).stopCores s fun _ => true
  let d := d.each (d.members m) fun d t => d.setMember t s true true
  let w := d.reg m .whSystem 0 0
  let d := ((d.setFld s .whSystem 0 0 15 0 (bits w 15 0)).setFld s .whSystem 0 0 31 16 (bits w 31 16)).setFld s .whSystem 0 0 47 44 m
  d.switchRoutes m

/-- HEARTBEAT: the socket is heard by every socket that it sees present; a manager that is heard again is no longer missing.
A former manager is demoted by the first that shows it another manager (R301). -/
def Dev.heartbeat (d : Dev) (s : Nat) : Dev :=
  if !d.present s s || !d.awake s then d
  else
    let d := d.each ((d.members s).filter fun t => t ≠ s && d.awake t) fun d t =>
      d.onWheel t fun w =>
        { w with heard := Tbl.put w.heard s d.now
                 unreached := w.unreached && d.fld t .whSystem 0 0 47 44 ≠ s }
    match sockets.find? fun m => m ≠ s && d.isManager m && d.awake m && !d.present m s &&
        (d.reach (sockets.filter fun t => d.awake t) s).contains m with
    | some m => if d.isManager s then d.demote s m else d
    | none => d

/-! ### The time base (R302) -/

/-- The time parent: the neighbour with the fewest hops to the manager, the lowest ID among equals. -/
def Dev.timeParent (d : Dev) (s m : Nat) : Option Nat :=
  let ms := d.members m
  let seen := bfs (d.hopsAmong ms) 16 0 [(m, 0)]
  argMin ((ms.filter fun t => t ≠ s && d.hop s t).filter fun t => (distOf seen t).isSome) fun t => (distOf seen t).getD 99

/-- TIME_SYNC: a present socket other than the manager measures its offset from its parent. The model holds one system time
for every socket, so the slew itself changes nothing (assumption log 2). -/
def Dev.timeSync (d : Dev) (s : Nat) (offset : BitVec 8) : Dev :=
  match d.managerOf s with
  | none => d
  | some m =>
    if s = m || d.fld s .xlTime 0 0 63 63 = 0 || !d.awake s then d
    else
      match d.timeParent s m with
      | none => d
      | some p => (d.setFld s .xlTime 0 0 51 48 p).setFld s .xlTime 0 0 7 0 offset.toNat

/-- At a join the time base is set once. -/
def Dev.setTime (d : Dev) (s m : Nat) : Dev :=
  (d.setFld s .xlTime 0 0 63 63 1).setFld s .xlTime 0 0 51 48 ((d.timeParent s m).getD 0)

/-- TIME_BASE_LOCK_LOSS: the socket's time-base PLL is no longer locked; on the manager that is reported in class SYSTEM
(R379). -/
def Dev.timeLockLoss (d : Dev) (s : Nat) : Dev :=
  let d := (d.setFld s .ckStat 0 0 62 62 0).setFld s .xlTime 0 0 63 63 0
  if d.isManager s then d.reportUnit s 0xF10 0xE 0xFF 0 0 0 else d

end Sys2Proof.Machine
end

