-- ==== Sys2Proof/Machine/Startup.lean ====
section
/-! DEFINITION. Start-up (R488 to R494), joins (R295, R296), release of berths (R491), and COLD, WARM and Wheelhouse restarts
(R472, R493, R513, R514). -/

namespace Sys2Proof.Machine

/-! ### DIMMs, sets and training (R309 to R312, R327) -/

/-- The DIMMs in the slots of a far channel. -/
def dimmIn (b : Board) (ch slot : Nat) : Option Dimm :=
  (b.dimms.find? fun x => x.1.val = ch && x.2.1.val = slot).map fun x => x.2.2

/-- Capacity of a DIMM in GiB: logical ranks × 16 data devices × density. -/
def dimmGib (m : Dimm) : Nat := m.ranks * Nat.max 1 m.stack * 16 * m.density / 8

/-- Whether a DIMM alone is supported (R309). -/
def dimmOk (m : Dimm) : Bool :=
  m.rdimm && m.ecc && m.width = 4 && (m.density = 16 || m.density = 32) && [0, 1, 2, 4, 8].contains m.stack && 4800 ≤ m.mtps

/-- The DIMMs that a channel uses, or none where what it holds is unsupported; an empty list where it is empty. -/
def dimmsUsed (b : Board) (ch : Nat) : Option (List Dimm) :=
  let ranks := fun (ms : List Dimm) => ms.foldl (fun n m => n + m.ranks * Nat.max 1 m.stack) 0
  let ok := fun (ms : List Dimm) (most : Nat) =>
    ms.all (fun m => dimmOk m && dimmGib m ≤ most) && [1, 2, 4, 8, 16].contains (ranks ms)
  match dimmIn b ch 0, dimmIn b ch 1 with
  | none, none => some []
  | none, some _ => none
  | some m, none => if ok [m] 256 then some [m] else none
  | some m, some n => if m = n && ok [m, n] 512 then some [m, n] else none

/-- log2 of a small number. -/
def log2 (n : Nat) : Nat := if 16 ≤ n then 4 else if 8 ≤ n then 3 else if 4 ≤ n then 2 else if 2 ≤ n then 1 else 0

/-- The FM_CH_CFG fields that a channel's SPD gives. -/
def spdWord (ms : List Dimm) : Nat :=
  match ms with
  | [] => 0
  | m :: _ =>
    ms.foldl (fun n m => n + dimmGib m) 0 * 2 ^ 32 + log2 (ms.length * m.ranks * Nat.max 1 m.stack) * 2 ^ 16 +
      (if m.density = 32 then 2 ^ 8 else 0) + log2 (Nat.max 1 m.stack) * 2 ^ 2 + ms.length

/-- Read the SPD of every far channel: unsupported DIMMs are noted, and the socket's speed follows R310. -/
def Dev.readSpd (d : Dev) (s : Nat) (b : Board) (m : List Byte) : Dev :=
  let d := (List.range 12).foldl (fun (d : Dev) ch =>
    match dimmsUsed b ch with
    | none =>
      let n := (dimmIn b ch 0).isSome.toNat + (dimmIn b ch 1).isSome.toNat
      ((d.setReg s .fmChCfg ch 0 (word (5 * 2 ^ 60 + 7 * 2 ^ 48 + n))).onChan s ch fun x => { x with dimms := [] }).notice s (0x210 + ch)
    | some ms =>
      (d.setReg s .fmChCfg ch 0 (word ((if ms.isEmpty then 0 else 2 ^ 60) + 7 * 2 ^ 48 + spdWord ms))).onChan s ch fun x =>
        { x with dimms := ms }) d
  let used := (List.range 12).filterMap fun ch => dimmsUsed b ch
  let fast := used.all fun ms => ms.length ≤ 1 && ms.all fun x => 6400 ≤ x.mtps
  let named := match manLoad m s (Reg.fmGlobal.at 0 0) with
    | some v => bit v 0
    | none => false
  let d := d.setFld s .fmGlobal 0 0 0 0 (named || !fast).toNat
  if !named && !fast then d.notice s 0xF11 else d

/-- Train a channel from its seeds: in time it is ready; otherwise it is reported and left out (R327). -/
def Dev.trainChan (d : Dev) (s : Nat) (far : Bool) (ch : Nat) (ok : Bool) : Dev :=
  if far then
    if d.fld s .fmChCfg ch 0 63 60 ≠ 1 then d
    else if ok then d.setFld s .fmChCfg ch 0 63 60 2
    else d.reportUnit s (0x210 + ch) 6 0xFF 0 0 0
  else if ok then (d.setFld s .nmChCfg ch 0 63 60 2).setFld s .nmChCfg ch 0 5 0 28
  else (d.setFld s .nmChCfg ch 0 63 60 1).reportUnit s (0x220 + ch) 6 0xFF 0 0 0

/-- The DIMM facts that channels of one set share. -/
def Dev.chanKind (d : Dev) (s ch : Nat) : Nat := (d.reg s .fmChCfg ch 0).toNat % 2 ^ 48

/-- Group channels: the largest legal set of identical channels from the lowest one left, again and again (R312). -/
def groupChans (fuel : Nat) (kind : Nat → Nat) (l : List Nat) : List (List Nat) :=
  match fuel, l with
  | 0, _ => []
  | _, [] => []
  | fuel + 1, c :: r =>
    let same := c :: r.filter fun x => kind x = kind c
    let n := if 6 ≤ same.length then 6 else if 3 ≤ same.length then 3 else if 2 ≤ same.length then 2 else 1
    let set := same.take n
    set :: groupChans fuel kind ((c :: r).filter fun x => !set.contains x)

/-- The sets a manifest names for a hub, where every channel named is ready and each set is legal. -/
def Dev.namedSets (d : Dev) (s hub : Nat) (m : List Byte) (ready : List Nat) : Option (List (List Nat)) :=
  let ws := (List.range 4).filterMap fun i => manLoad m s (Reg.fmSet.at hub i)
  let sets := (ws.filter fun w => bit w 63).map fun w => (setBitsOf (bits w 53 48) 6).map fun j => hub * 6 + j
  let legal := sets.all fun l => [1, 2, 3, 6].contains l.length && l.all fun c => ready.contains c && d.chanKind s c = d.chanKind s (l.headD 0)
  if sets.isEmpty || !legal || sets.flatten.eraseDups.length ≠ sets.flatten.length then none else some sets

/-- Form the interleave sets of a hub from its ready channels. -/
def Dev.formSets (d : Dev) (s hub : Nat) (m : List Byte) : Dev :=
  let ready := ((List.range 6).map (hub * 6 + ·)).filter fun c => d.fld s .fmChCfg c 0 63 60 = 2
  let sets := (d.namedSets s hub m ready).getD ((groupChans 6 (d.chanKind s) ready).take 4)
  let d := (List.range 4).foldl (fun (d : Dev) i => d.setReg s .fmSet hub i 0) d
  ((List.range sets.length).foldl (fun (acc : Nat × Dev) i =>
    let l := sets.getD i []
    let size := l.length * d.fld s .fmChCfg (l.headD 0) 0 42 32
    let mask := l.foldl (fun n c => n + 2 ^ (c - hub * 6)) 0
    let d := acc.2.setReg s .fmSet hub i (word (2 ^ 63 + l.length * 2 ^ 56 + mask * 2 ^ 48 + acc.1 * 2 ^ 32 + size))
    (acc.1 + size, l.foldl (fun (d : Dev) c => d.setFld s .fmChCfg c 0 50 48 i) d)) (0, d)).2

/-- Memory at a cold start (R488 step 6, R327). -/
def Dev.memCold (d : Dev) (s : Nat) (b : Board) (m : List Byte) : Dev :=
  let d := d.readSpd s b m
  let d := (List.range 12).foldl (fun (d : Dev) c => d.trainChan s true c (b.farTrained.getLsbD c)) d
  let d := (List.range 16).foldl (fun (d : Dev) c => d.trainChan s false c (b.nearTrained.getLsbD c)) d
  (d.formSets s 0 m).formSets s 1 m

/-- Memory at a WARM start: each channel makes one retraining from its last settings, and sets and map stay (R327). `old`
is the socket as it was. -/
def Dev.memWarm (d old : Dev) (s : Nat) (b : Board) : Dev :=
  let d := (List.range 8).foldl (fun (d : Dev) i => d.setReg s .fmSet (i / 4) (i % 4) (old.reg s .fmSet (i / 4) (i % 4))) d
  let d := d.setFld s .fmGlobal 0 0 0 0 (old.fld s .fmGlobal 0 0 0 0)
  let d := (List.range 12).foldl (fun (d : Dev) c =>
    let st := old.fld s .fmChCfg c 0 63 60
    let d := d.setFld s .fmChCfg c 0 50 48 (old.fld s .fmChCfg c 0 50 48)
    if st = 0 || st = 4 || st = 5 then d.setFld s .fmChCfg c 0 63 60 st
    else ((d.setFld s .fmChCfg c 0 63 60 1).trainChan s true c (b.farTrained.getLsbD c)).onChan s c fun x => { x with selfRefresh := false }) d
  (List.range 16).foldl (fun (d : Dev) c =>
    let st := old.fld s .nmChCfg c 0 63 60
    if st = 0 || st = 4 then d.setFld s .nmChCfg c 0 63 60 st
    else (d.trainChan s false c (b.nearTrained.getLsbD c)).onChan s (16 + c) fun x => { x with selfRefresh := false }) d

/-- The scrub period that gives a pass of 24 hours, where no record names one (R373). -/
def Dev.scrubDefaults (d : Dev) (s : Nat) (m : List Byte) : Dev :=
  let day := 86400000000000
  let d := d.each (List.range 12) fun d c =>
    let lines := d.chanLines s true c
    if lines = 0 || (manLoad m s (Reg.fmScrub.at c 0)).isSome then d else d.setFld s .fmScrub c 0 31 0 (day / lines)
  d.each (List.range 16) fun d c =>
    if (manLoad m s (Reg.nmScrub.at c 0)).isSome then d else d.setFld s .nmScrub c 0 31 0 (day / d.chanLines s false c)

/-- The CXL ports: expanders that the start finds are enumerated in bus order (R319). -/
def Dev.cxlStart (d : Dev) (s : Nat) : Dev :=
  (List.range 4).foldl (fun (d : Dev) i =>
    let p := cxlRoot i
    if d.fld s .pxPortCfg p 0 62 62 = 0 || (d.port s p).expanders.isEmpty || d.fld s .pxPortStat p 0 63 60 = 0 then d
    else ((d.setFld s .pxPortStat p 0 63 60 2).onPort s p fun x => { x with present := true }).mapCxl s i) d

/-! ### Applying a manifest (R481, R482, R488 steps 6 to 9) -/

/-- The default fill of the slice map (R231). -/
def Dev.fillMap (d : Dev) (s : Nat) : Dev :=
  let ps := d.enabledPods s
  let run := (List.range 4096).filterMap fun e =>
    let p := defaultFill ps e
    if p = 0 then none else some (Reg.ldHmap.at e 0, word p)
  d.onSock s fun k => { k with regs := Tbl.putRun k.regs (Reg.ldHmap.at 0 0) (Reg.ldHmap.at 4096 0) run }

/-- Write the REGLOAD records whose register satisfies `p`, in order, through the Wheelhouse view (R481). -/
def Dev.applyLoads (a : Admin) (d : Dev) (s : Nat) (m : List Byte) (p : Nat → Bool) : Dev :=
  ((manLoads m s).filter fun r => p r.1).foldl (fun (d : Dev) r => (d.regWrite a s (hepinReq s) r.1 r.2).2) d

/-- Whether a record writes way locks, which are set when the masks are known. -/
def waysLoad (off : Nat) : Bool :=
  match regAt off, broadcastReg off with
  | some (r, _, _), _ => r = .ldSliceWays
  | none, some r => r = .ldSliceWays
  | none, none => false

/-- The values of manifest fields that depend on the cube and on bifurcation, where no record wrote them (R482). -/
def Dev.portDefaults (d : Dev) (s : Nat) (m : List Byte) : Dev :=
  (List.range 32).foldl (fun (d : Dev) p =>
    let d := if (manLoad m s (Reg.pxPortCfg.at p 0)).isSome then d
      else
        ((d.setFld s .pxPortCfg p 0 63 63 (d.portLanes s p).isSome.toNat).setFld s .pxPortCfg p 0 39 32 (1 + 7 * p)).setFld s .pxPortCfg p 0 31 24 (7 + 7 * p)
    let on : Bool := d.fld s .pxPortCfg p 0 63 63 = 1
    (d.setFld s .pxPortStat p 0 63 60 on.toNat).onPort s p fun x => { x with perstLow := !on }) d

/-- The crossing links of the cube's dimensions train; the others, and those that the manifest disables, are disabled. -/
def Dev.linkDefaults (d : Dev) (s : Nat) : Dev :=
  (List.range 8).foldl (fun (d : Dev) k => d.linkDisable s k (d.fld s .xlLinkCtl k 0 8 8 = 1)) d

/-- The microcode image of a manifest in every enabled pod (R488 step 9). -/
def Dev.loadMicrocode (d : Dev) (s : Nat) (m : List Byte) : Dev :=
  let v := manVersion m 2
  let d := ((d.enabledPods s).filter fun p => !d.podFenced s p).foldl (fun (d : Dev) p => d.setReg s .ldPodUcode (landingOf p) 0 v) d
  d.onWheel s fun w => { w with ucode := v }

/-- Blow SVN fuses up to the manifest's SVN (R487). -/
def Dev.burnSvn (d : Dev) (s : Nat) (m : List Byte) : Dev :=
  let d := if manBurn m then
      d.onWheel s fun w => { w with fuses := { w.fuses with svn := Nat.max w.fuses.svn (manSvn m) } }
    else d
  d.setFld s .whBoot 0 0 39 32 (d.wheel s).fuses.svn

/-- The running manifest of a socket, as WH_BOOT and WH_SERIAL show it: from flash (1), a crossing (2) or the kept copy (3). -/
def Dev.runManifest (d : Dev) (s : Nat) (m : List Byte) (source : Nat) : Dev :=
  let d := d.onWheel s fun w => { w with kept := m, keptSource := source }
  let d := (d.setFld s .whBoot 0 0 50 48 source).setFld s .whBoot 0 0 41 40 (manSlot m)
  (d.setFld s .whBoot 0 0 3 0 bootOk).setReg s .whSerial 0 0 (word (manSerial m))

/-- The units that a reset does not un-fence take no part again (R514). -/
def Dev.keepFences (d : Dev) (s : Nat) : Dev :=
  let keys := (((List.range 512).filter fun n => d.fld s .fcFenceA n 0 63 63 = 1).map fun n => d.fenceKey s n) ++
    (d.sock s).faults.extra.map fun x => (x / 256, x % 256)
  keys.foldl (fun (d : Dev) k =>
    let src := k.1
    match hartOf s src with
    | some h =>
      let d := d.onCore h Core.fence
      if d.podFenced s (podOf h) then d.setFld s .ckPod (podOf h) 0 10 8 7 else d
    | none =>
      if 0x100 ≤ src && src < 0x168 then
        d.setReg s .ldSliceWays (landingOf (src - 0x100)) 0 (putBit (d.reg s .ldSliceWays (landingOf (src - 0x100)) 0) (k.2 % 16) true)
      else if 0x210 ≤ src && src < 0x21C then if k.2 = 0xFF then d.setFld s .fmChCfg (src - 0x210) 0 63 60 4 else d
      else if 0x220 ≤ src && src < 0x230 then (d.setFld s .nmChCfg (src - 0x220) 0 63 60 4).setFld s .nmChCfg (src - 0x220) 0 5 0 0
      else if 0xE00 ≤ src && src < 0xE08 then d.setLink s (src - 0xE00) 6
      else if 0x800 ≤ src && src < 0x820 then
        (d.setFld s .pxPortStat (src - 0x800) 0 63 60 4).onPort s (src - 0x800) fun x => { x with perstLow := true }
      else if src % 0x100 = 0 && 0x400 ≤ src && src ≤ 0x700 then d.fenceEngine s (src / 0x100 - 4)
      else d) d

/-- Steps 6, 7 and 9 of R488 on one socket, on manifest `m`. `warm` holds the socket as it was before a WARM reset. -/
def Dev.bringUp (a : Admin) (d : Dev) (s : Nat) (m : List Byte) (source : Nat) (warm : Option Dev) : Dev :=
  let b := (d.wheel s).board
  let n := manCube m s
  let spares := manSpares m s
  let enabled := (List.range 104).filter fun p => !spares.contains p
  let d := (d.runManifest s m source).onWheel s fun w => { w with spares, enabled }
  let d := (d.setFld s .whSystem 0 0 63 56 spares.length).setFld s .whSystem 0 0 55 48 enabled.length
  let d := d.setFld s .whSystem 0 0 43 41 n
  let d := (List.range 8).foldl (fun (d : Dev) k => if k % 4 < n then d else d.setFld s .xlLinkCtl k 0 8 8 1) d
  let d := d.applyLoads a s m fun off => !waysLoad off
  let d := (d.setFld s .pwDom 0 0 27 0 0x7FFFFFF).setFld s .pwDom 0 0 59 32 0x7FFFFFF
  let d := ((d.portDefaults s m).linkDefaults s).burnSvn s m
  let d := match warm with
    | none => d.memCold s b m
    | some old => d.memWarm old s b
  let d := ((d.scrubDefaults s m).cxlStart s).fillMap s
  let d := match warm with
    | none => d.refence a.tab s
    | some _ => d.keepFences s
  let d := (List.range 64).foldl (fun (d : Dev) i => d.threshStart s i) d
  (d.loadMicrocode s m).setReg s .dbMask 255 0 0

/-- The end of step 8: way locks, which need the masks, and the manifest lock. -/
def Dev.lockManifest (a : Admin) (d : Dev) (s : Nat) (m : List Byte) : Dev :=
  (d.applyLoads a s m waysLoad).setFld s .whBoot 0 0 63 63 1

/-! ### RUN (R472, R488 step 12) -/

/-- The berths that hold pods of a socket. -/
def Tables.podBerths (t : Tables) (s : Nat) : List Nat :=
  ((t.pods.filter fun e => e.1 / 128 = s && e.2 ≠ 0).map Prod.snd).eraseDups

/-- A socket in LOAD that has joined enters RUN when it has released every berth it holds; cores that stood ready start. -/
def Dev.maybeRun (t : Tables) (d : Dev) (s : Nat) : Dev :=
  if d.mode s ≠ 2 || !d.present s s || !((t.podBerths s).all fun b => (d.wheel s).released.contains b) then d
  else
    let d := d.setFld s .pwMode 0 0 2 0 modeRun
    let d := d.onSock s fun k =>
      { k with cores := k.cores.map fun e =>
          if e.1 < 208 && e.2.run = .stopped && t.stateOf (t.berthOfPod s (e.1 / 2)) = .run then (e.1, { e.2 with run := .running })
          else e }
    d.degrade s

/-- A berth that a journalled order made and the manifest does not name runs at once: nothing releases it. -/
def Tables.unnamedRun (t : Tables) (m : List Byte) : Tables :=
  (List.range 64).foldl (fun t b =>
    if t.stateOf b = .building && (manBoot m b).isNone then t.setState b .run else t) t

/-- Berths of a socket that need no release count as released. -/
def Dev.unnamedReleased (t : Tables) (d : Dev) (s : Nat) (m : List Byte) : Dev :=
  d.onWheel s fun w => { w with released := (t.podBerths s).filter fun b => (manBoot m b).isNone }

/-! ### Starting as manager (R488) -/

/-- The sockets that run in a system without their manager. -/
def Dev.orphans (d : Dev) (s : Nat) : List Nat := sockets.filter fun t => t ≠ s && d.present t t && d.awake t

/-- Steps 6 to 10 on the manager, which then accepts joins and releases berths. Where other sockets run on, the tables in
force stand and the manager takes its own resources back; otherwise the tables come from the manifest and the journal. -/
def startManager (a : Admin) (d : Dev) (s : Nat) (m : List Byte) (source : Nat) (warm : Option Dev) : Admin × Dev :=
  let d := d.bringUp a s m source warm
  let w := d.wheel s
  let head := w.flashRead journalBase 64
  let (recs, bad) := if leAt head 0 4 = 0x4C4E524A && leAt head 4 8 = manSerial m then
      w.readJournal 65536 (journalBase + 64) 1 (manCoKey m)
    else ([], false)
  let d := if leAt head 0 4 = 0x4C4E524A && leAt head 4 8 = manSerial m then d.onWheel s fun w => { w with journal := recs }
    else d.onWheel s fun w => w.newJournal (manSerial m)
  let d := if bad then (d.notice s 0xF11).tellPort s 6 else d
  let orphans := d.orphans s
  let (t0, scratch) := buildTables d m s recs
  let tab := if orphans.isEmpty then t0.unnamedRun m else a.tab.regain t0 s
  let d := (d.takeSlips scratch s).slipsFollow tab s
  let a : Admin :=
    { tab, mirror := tab, order := none, seq := word recs.length,
      ackPresent := if orphans.isEmpty then none else a.ackPresent }
  let d := d.lockManifest a s m
  let d := (d.setFld s .whSystem 0 0 40 39 1).setReg s .xlJoin 0 0 2
  let d := d.each (s :: orphans) fun d t =>
    (d.setFld t .whSystem 0 0 47 44 s).onWheel t fun w => { w with unreached := false }
  let d := d.each (s :: orphans) fun d t => d.setMember t s true false
  let d := d.each orphans fun d t => d.setMember s t true (d.fld t .whSystem 0 0 40 39 = 2)
  let d := (d.unnamedReleased tab s m).switchRoutes s
  let d := d.onWheel s fun w => { w with joinWaiting := !(sockets.all fun t => !(manExpected m s).testBit t || d.present s t) }
  (a, d.maybeRun tab s)

/-- A verification failure goes to the management port and, from source 0xF11, to the log (R492). -/
def Dev.verifyFails (d : Dev) (s st : Nat) : Dev := (d.notice s 0xF11).tellPort s (word (0x200 + st))

/-- A boot that fails: STATUS shows it, and it is reported (R492). -/
def Dev.bootFails (d : Dev) (s st : Nat) : Dev := (d.setFld s .whBoot 0 0 3 0 st).verifyFails s st

/-- A socket boots as manager from its own flash. -/
def bootFlash (a : Admin) (d : Dev) (s : Nat) (warm : Option Dev) : Admin × Dev :=
  let (st, copy, m) := (d.wheel s).chooseCopy
  if st ≠ bootOk then (a, d.bootFails s st)
  else startManager a (d.setFld s .whBoot 0 0 44 44 copy) s m 1 warm

/-- A manager that still waits in LOAD for its own cold start gives way to a manager-strapped socket with a lower ID (R15). -/
def Dev.giveWay (d : Dev) (m : Nat) : Dev :=
  let d := ((d.alone m).setFld m .whSystem 0 0 40 39 2).notice m 0xF00
  d.onWheel m fun w => { w with joinWaiting := false, released := [] }

/-- LOAD to TEST (R472): the TEST domain comes on (R471). -/
def Dev.enterTest (d : Dev) (s : Nat) : Dev :=
  let w := d.reg s .pwDom 0 0
  (d.setReg s .pwDom 0 0 (putBit (putBit w 27 true) 59 true)).setFld s .pwMode 0 0 2 0 7

/-- What a socket does once its boot ROM runs: a manager-strapped socket boots the system unless one is present (R15); the
others train their links and wait for a manager. One strapped 0b11 stays in its boot ROM and reports a strap error (R14). A
socket that could not take the ID of its straps (assumption log 9) boots no system. -/
def startSocket (a : Admin) (d : Dev) (s : Nat) (warm : Option Dev) : Admin × Dev :=
  let w := d.wheel s
  let d := d.setFld s .pwMode 0 0 2 0 2
  let d := d.setFld s .whSystem 0 0 40 39 w.board.role.toNat
  if !w.board.rootLock then (a, (d.notice s 0xF11).tellPort s 5)
  else
    let d := ((d.setFld s .ckStat 0 0 63 63 1).setFld s .ckStat 0 0 62 62 w.board.timeLock.toNat).startWheel s
    if w.board.role = 3 then (a, d.tellPort s 1)
    else if w.board.testEn then (a, d.enterTest s)
    else
      let keptOk := warm.isSome && manStatus w.fuses w.kept = bootOk
      let d := if warm.isSome && !keptOk then d.verifyFails s (manStatus w.fuses w.kept) else d
      let boss := sockets.find? fun m => m ≠ s && d.isManager m && d.awake m
      let wins := match boss with
        | none => true
        | some m => d.mode m = 2 && (d.wheel m).released.isEmpty && s < m
      if w.board.role = 1 && wins && w.board.sockId.toNat = s then
        let d := match boss with
          | some m => d.giveWay m
          | none => d
        if keptOk then startManager a d s w.kept 3 warm else bootFlash a d s (if keptOk then warm else none)
      else
        let d := if w.board.role = 1 then (d.setFld s .whSystem 0 0 40 39 2).notice s 0xF00 else d
        if keptOk then (a, d.bringUp a s w.kept 3 warm)
        else (a, (List.range 8).foldl (fun (d : Dev) k => d.setLink s k 1) d)

/-! ### COLD reset (R471, R513) -/

/-- The device identity key in WH_DEVID (R495). -/
def Dev.showIdentity (d : Dev) (s : Nat) : Dev :=
  let k := edPublic (Fuses.seed' (d.wheel s).fuses)
  (List.range 4).foldl (fun (d : Dev) i => d.setReg s .whDevid i 0 (word (leAt k (8 * i) 8))) d

/-- What straps and fuses show. -/
def Dev.showPart (d : Dev) (s : Nat) : Dev :=
  let w := d.wheel s
  let d := d.setFld s .whId 0 0 31 16 (w.board.sockId.toNat + w.board.role.toNat * 16)
  let d := (d.setFld s .whId 0 0 15 8 w.fuses.pods.toNat).setFld s .whId 0 0 7 0 w.fuses.step.toNat
  (d.setFld s .whBoot 0 0 39 32 w.fuses.svn).setFld s .whBoot 0 0 19 16 w.fuses.revoked.toNat

/-- Whether a place of memory is in the far or near tier of a socket, whose contents a COLD reset loses. -/
def inTiers (s pa : Nat) : Bool :=
  match regionOf pa with
  | .far t _ _ => t = s
  | .near t _ _ => t = s
  | _ => false

/-- The socket after COLD reset, in STANDBY with the board it found: only fuses, flash and Hepin's records are kept. -/
def Dev.coldClear (d : Dev) (s : Nat) (b : Board) : Dev :=
  let w := d.wheel s
  let fresh := Socket.reset s
  let wheel := { fresh.wheel with
    board := { b with flash := none, fuses := none }
    fuses := b.fuses.getD w.fuses
    flash := match b.flash with
      | some l => l.foldl (fun (t : Tbl (BitVec 8)) e => Tbl.set 0xFF t e.1 e.2) []
      | none => w.flash
    hepinRecord := w.hepinRecord
    repairs := w.repairs
    role := b.role }
  let ports : Tbl Port := b.expanders.foldl (fun (t : Tbl Port) e =>
    let p := cxlRoot e.1.val
    let x := (Tbl.find t p).getD Port.reset
    Tbl.put t p { x with expanders := x.expanders ++ [e.2] }) []
  let d := { d.dropTraffic s with
    mem := d.mem.filter fun c => !inTiers s c.1
    meta_ := d.meta_.filter fun e => !inTiers s (e.1 * 64) }
  (d.setSock s { fresh with wheel, ports }).showPart s

/-- Bytes of two sockets' memory windows change places, as the sockets do. -/
def Dev.swapMem (d : Dev) (s x : Nat) : Dev :=
  let at_ := fun (pa : Nat) =>
    if pa < 16 * windowSize && pa / windowSize = s then pa % windowSize + windowBase x
    else if pa < 16 * windowSize && pa / windowSize = x then pa % windowSize + windowBase s else pa
  { d with
    mem := d.mem.foldl (fun m c => Memory.write m (at_ c.1) c.2) []
    meta_ := d.meta_.foldl (fun m e => Tbl.set 0 m (at_ (e.1 * 64) / 64) e.2) [] }

/-- Whether a socket is neither in a system nor powered beyond STANDBY, so that its number can change places with another's. -/
def Dev.idleSock (d : Dev) (s : Nat) : Bool := d.mode s ≤ 1 && !d.present s s

/-- The number under which a COLD reset's straps place a socket: SOCK_ID (R11), or the old one where another socket that is in
use has that ID (R21; assumption log 9). -/
def Dev.strapPlace (d : Dev) (s : Nat) (b : Board) : Nat :=
  if b.sockId.toNat = s || !d.idleSock b.sockId.toNat then s else b.sockId.toNat

/-- A socket that is in no system takes another number: the two places change what they hold. -/
def Dev.renumber (d : Dev) (s x : Nat) : Dev :=
  if s = x then d
  else
    let ks := d.sock s
    let kx := d.sock x
    (((d.setSock x ks).setSock s kx).swapMem s x)

/-- COLD_RESET: the socket falls silent to the others, samples its straps, and starts at once where AUTO_ON is 1; it waits in
STANDBY for a power-on request otherwise (R472). Its ID is SOCK_ID from then on (R11). -/
def coldReset (a : Admin) (d : Dev) (s : Nat) (b : Board) : Admin × Dev :=
  let alone := !(sockets.any fun t => t ≠ s && d.present t t && d.awake t)
  let x := d.strapPlace s b
  let d := ((d.coldClear s b).renumber s x).showIdentity x
  let a := if alone then Admin.reset else a
  if b.autoOn then startSocket a d x none else (a, d)

/-! ### WARM reset (R493, R513, R514) -/

/-- What a WARM reset clears, after the leave: registers, cores, slices and units; memory, fences, logs, fuses, flash and the
kept manifest stand. -/
def Dev.warmClear (d : Dev) (s : Nat) : Dev :=
  let d := (List.range 32).foldl (fun (d : Dev) p => d.portLoadsEnd s p) d
  let d := d.clearRegs s .warm fun _ _ _ => true
  (d.dropTraffic s).onSock s fun k =>
    { k with
      bar := [], cores := [], slices := [], hubs := [(0, { Hub.reset with warmed := true }), (1, { Hub.reset with warmed := true })], fns := [], shares := [], epoch := 0, slots := [], meshDown := [], meshQ := []
      links := k.links.mapV fun _ x => { XLink.reset with spareBad := x.spareBad }
      ports := k.ports.mapV fun _ x => { Port.reset with expanders := x.expanders, present := x.present, lost := x.lost }
      faults := { k.faults with send := [], queue := [] }
      wheel := { k.wheel with
        role := k.wheel.board.role, joinWaiting := false, joinDue := none, released := [], ucode := 0,
        slipWait := [], snaps := [], routes := none, heard := [], staged := [], thermDemand := 0, tdpDemand := 0,
        dipDeferred := [], resetPending := false, unreached := false, sleeping := false, replacing := none, writes := [], fatal := 0 } }

/-- The WARM reset itself: copies in their read phase are abandoned (R344), the lines go to memory (R251), and the socket starts
again. -/
def warmNow (a : Admin) (d : Dev) (s : Nat) : Admin × Dev :=
  let d := (d.abandonAll s).each (List.range 104) fun d p =>
    if (Tbl.find (d.sock s).cores (p * 2)).isSome || (Tbl.find (d.sock s).cores (p * 2 + 1)).isSome then d.podReset a.tab (sk s) p else d
  let d := d.clearRange a.tab (sk s) 0 (2 ^ 52)
  let (a, d) := leaveSystem a d s true
  let old := d
  let d := (d.warmClear s).showIdentity s
  startSocket a d s (some old)

/-- WARM_RESET: not in OFF or TEST; during a supply dip it waits for the dip's end (R475). The masks name the channels that
retrain. -/
def warmReset (a : Admin) (d : Dev) (s : Nat) (far : BitVec 12) (near : BitVec 16) : Admin × Dev :=
  if d.mode s = 0 || d.mode s = 7 then (a, d.badMode s)
  else
    let d := d.onWheel s fun w => { w with board := { w.board with farTrained := far, nearTrained := near } }
    if d.dipping s then (a, d.onWheel s fun w => { w with resetPending := true })
    else if d.mode s = 1 && !(d.wheel s).sleeping then startSocket a d s none
    else warmNow a d s

/-- After a Fatal-socket stop Hepin performs a WARM reset where FC_CTL.AUTO_WARM asks for it (R384); a Fatal-system stop waits for COLD. -/
def autoWarm (a : Admin) (d : Dev) (s : Nat) : Admin × Dev :=
  if (d.wheel s).fatal = 1 && d.mode s = modeHold && d.fld s .fcCtl 0 0 9 9 = 1 then
    warmReset a d s (d.wheel s).board.farTrained (d.wheel s).board.nearTrained
  else (a, d)

/-- DIP_END: a WARM reset that waited follows. -/
def dipEndAll (a : Admin) (d : Dev) (s : Nat) : Admin × Dev :=
  let due := (d.wheel s).resetPending && d.dipping s
  let d := d.dipEnd s
  if due then warmNow a d s else (a, d)

/-- RAIL_RESET_THRESHOLD (R468): VWH (rail 11) brings a COLD reset, any other rail a WARM reset. -/
def railReset (a : Admin) (d : Dev) (s rail : Nat) (b : Board) : Admin × Dev :=
  if rail = 11 then coldReset a d s b
  else if d.mode s ≤ 1 || d.mode s = 7 then (a, d)
  else warmReset a d s b.farTrained b.nearTrained

/-! ### Join (R295, R296) -/

/-- The status a JOIN is refused with: ID, CUBE or MANIFEST. -/
def joinRefused (d : Dev) (m s : Nat) (verified : Bool) : Option Nat :=
  let w := d.wheel s
  let man := (d.wheel m).kept
  if d.present m w.board.sockId.toNat then some 3
  else if 2 ^ d.fld m .whSystem 0 0 43 41 ≤ w.board.sockId.toNat then some 4
  else if !verified || manStatus w.fuses man ≠ bootOk then some 5
  else none

/-- An accepted joiner: it runs on the manager's manifest and journal, its resources return to their berths, routes and time
are set, and every socket shows it present. Its role is its strap's; a manager-strapped socket serves as a standby manager, and
the event is logged where its start has not logged it (R15). -/
def admitMember (a : Admin) (d : Dev) (m s : Nat) : Admin × Dev :=
  let man := (d.wheel m).kept
  let role := (d.wheel s).board.role
  let standby := role ≠ 0
  let d := if role = 1 && d.fld s .whSystem 0 0 40 39 ≠ 2 then d.notice s 0xF00 else d
  let d := d.setFld s .whSystem 0 0 40 39 (if standby then 2 else 0)
  let d := if (d.wheel s).kept = man && d.fld s .whBoot 0 0 3 0 = bootOk then d.runManifest s man 2
    else d.bringUp a s man 2 none
  let recs := (d.wheel m).journal
  let d := if standby then
      d.onWheel s fun w => (List.range recs.length).foldl (fun w i => w.addJournal (i + 1) (recs.getD i [])) (w.newJournal (manSerial man))
    else d
  let (t0, scratch) := buildTables d man m recs
  let tab := a.tab.regain t0 s
  let a := { a with tab, mirror := a.mirror.regain t0 s }
  let d := (d.takeSlips scratch s).slipsFollow tab s
  let d := (d.lockManifest a s man).setReg s .xlJoin 0 0 2
  let ms := d.members m
  let d := d.each ms fun d t => d.setMember t s true standby
  let w := d.reg m .whSystem 0 0
  let d := ((d.setFld s .whSystem 0 0 15 0 (bits w 15 0)).setFld s .whSystem 0 0 31 16 (bits w 31 16)).setFld s .whSystem 0 0 47 44 m
  let d := ((d.switchRoutes m).setTime s m).unnamedReleased tab s man
  let d := d.onWheel m fun w =>
    { w with joinWaiting := w.joinWaiting && !(sockets.all fun t => !(manExpected man m).testBit t || d.present m t) }
  (a, d.maybeRun tab s)

/-- Whether a link of a socket is wired as R12 says for a cube of n dimensions: to the neighbour in its own dimension, or, from
dimension n on, in parallel to the neighbour in dimension d mod n. -/
def wiredRight (n s k peer : Nat) : Bool :=
  n ≠ 0 && peer = across s (if k % 4 < n then k % 4 else k % 4 % n)

/-- The manager's check of a joiner's links (R281): one that breaks R12 is disabled at both ends and logged with Note severity. -/
def Dev.checkWiring (d : Dev) (m s : Nat) : Dev :=
  let n := d.fld m .whSystem 0 0 43 41
  (List.range 8).foldl (fun (d : Dev) k =>
    let peer := d.fld s .xlLinkStat k 0 47 44
    if d.linkState s k ≠ 4 || wiredRight n (d.sockId s) k peer then d
    else ((d.linkDisable s k true).linkDisable peer k true).notice s (0xE00 + k)) d

/-- The neighbours in the system that a socket reaches over a link that is usable in both directions. -/
def Dev.nearMembers (d : Dev) (s : Nat) : List Nat :=
  sockets.filter fun t =>
    t ≠ s && !(d.usable s t).isEmpty && !(d.usable t (d.sockId s)).isEmpty && d.present t t && d.awake t

/-- JOIN: a socket in LOAD asks to join through `via`, a present socket that it has a trained link to and that relays the request
to its manager (R295). It waits while a change order is being applied, and is refused when that neighbour has no manager. -/
def join (a : Admin) (d : Dev) (s via : Nat) (verified : Bool) : Admin × Dev :=
  if d.mode s ≠ 2 || d.present s s || (d.wheel s).board.role = 3 || !(d.nearMembers s).contains via then (a, d)
  else
    match (d.managerOf via).filter fun m => d.isManager m && d.awake m && d.present via m with
    | none => (a, d.setReg s .xlJoin 0 0 6)
    | some m =>
      if a.order.isSome then
        (a, (d.setReg s .xlJoin 0 0 1).onWheel s fun w => { w with joinDue := some (via, verified) })
      else
        match joinRefused d m s verified with
        | some st =>
          let d := if st = 5 then d.verifyFails s (manStatus (d.wheel s).fuses (d.wheel m).kept) else d
          (a, (d.setReg s .xlJoin 0 0 (word st)).onWheel s fun w => { w with joinDue := none })
        | none =>
          let d := (d.onWheel s fun w => { w with joinDue := none }).checkWiring m s
          if (d.nearMembers s).isEmpty then (a, d) else admitMember a d m s

/-- Joins that waited for the end of a change order go on, lowest socket first; where the neighbour that relayed one has gone, the
lowest other one relays it. -/
def joinsDue (a : Admin) (d : Dev) : Admin × Dev :=
  if a.order.isSome then (a, d)
  else
    sockets.foldl (fun (x : Admin × Dev) s =>
      match (x.2.wheel s).joinDue with
      | some (via, ok) =>
        let near := x.2.nearMembers s
        join x.1 x.2 s (if near.contains via then via else near.headD via) ok
      | none => x) (a, d)

/-- STANDBY_BOOT_TIMEOUT (R20): with no manager, the lowest waiting standby manager boots the system from its own flash. -/
def standbyBoot (a : Admin) (d : Dev) (s : Nat) (flashOk : Bool) : Admin × Dev :=
  let waits := fun (t : Nat) => d.mode t = 2 && !d.present t t && d.fld t .whSystem 0 0 40 39 = 2 && (d.wheel t).board.rootLock
  if !waits s || (sockets.any fun t => d.isManager t && d.awake t) || sockets.any fun t => t < s && waits t then (a, d)
  else bootFlash a (d.onWheel s fun w => { w with board := { w.board with flashOk } }) s none

/-- JOIN_WAIT_EXPIRY (R490). -/
def Dev.joinWaitOver (d : Dev) (s : Nat) : Dev := d.onWheel s fun w => { w with joinWaiting := false }

/-! ### Releasing a berth (R491) -/

/-- Write bytes to memory as the Wheelhouse's ordered writes, line by line. -/
def Dev.wheelWrite (a : Tables) (fuel : Nat) (d : Dev) (s b addr : Nat) (bs : List Byte) : Dev :=
  match fuel, bs with
  | 0, _ => d
  | _, [] => d
  | fuel + 1, bs =>
    let k := Nat.min bs.length (64 - addr % 64)
    let d := (d.uncachedWrite a (.wheel (sk s)) b (s * 4096 + 0xF00) 0 addr k (lineOfBytes (bs.take k))).2
    d.wheelWrite a fuel s b (addr + k) (bs.drop k)

/-- Zero-fill what a socket's own hubs home of a berth (R491 step 1), when it is the first release since COLD reset. -/
def Dev.zeroBerth (t : Tables) (d : Dev) (s b : Nat) : Dev :=
  if (d.wheel s).zeroed.contains b then d
  else
    let mine := t.ranges.filter fun r => r.berth = b && r.kind ≠ 3 && homeSock r.base = s
    (mine.foldl (fun (d : Dev) r => d.zeroFill s r.base r.limit) d).onWheel s fun w => { w with zeroed := w.zeroed ++ [b] }

/-- The cores of a berth on a socket start at ENTRY (R491 step 4). -/
def Dev.startBerth (t : Tables) (d : Dev) (s b entry : Nat) : Dev :=
  let ps := ((t.pods.filter fun e => e.1 / 128 = s && e.2 = b).map fun e => e.1 % 128)
  ps.foldl (fun (d : Dev) p => (List.range 2).foldl (fun (d : Dev) i =>
    (d.setFld s .ldCoreCtl (landingOf p) i 51 2 (entry / 4)).coreGo t (coreOf (sk s) p i)) d) d

/-- BERTH_RELEASE: once every socket that holds one of its pods has joined and trained, and the manager no longer waits, each
of them releases the berth. A STOPPED berth is released again where RESTART is set, after a BERTH reset (R384). -/
def berthRelease (a : Admin) (d : Dev) (b : Nat) : Admin × Dev :=
  match sockets.find? fun m => d.isManager m && d.awake m with
  | none => (a, d)
  | some m =>
    match manBoot (d.wheel m).kept b with
    | none => (a, d)
    | some r =>
      let ss := sockets.filter fun s => (a.tab.podBerths s).contains b
      let st := a.tab.stateOf b
      let due := ss.filter fun s => st ≠ .run || !(d.wheel s).released.contains b
      let may := st = .building || (st = .stopped && r.flags % 2 = 1) || (st = .run && !due.isEmpty)
      let ready := ss.all fun s => d.present s s && (d.mode s = 2 || d.runs s)
      if !may || !ready || (d.wheel m).joinWaiting then (a, d)
      else
        let d := if st = .stopped then d.berthReset a.tab b else d
        let d := if r.flags / 2 % 2 = 1 then due.foldl (fun (d : Dev) s => d.zeroBerth a.tab s b) d else d
        let d := match manImage (d.wheel m).kept r, due with
          | some img, s :: _ => d.wheelWrite a.tab (img.length / 64 + 2) s b r.load img
          | _, _ => d
        let a := { a with tab := a.tab.setState b .run }
        let d := due.foldl (fun (d : Dev) s =>
          let d := d.startBerth a.tab s b r.entry
          d.onWheel s fun w => { w with released := (w.released.filter (· ≠ b)) ++ [b] }) d
        (a, due.foldl (fun (d : Dev) s => d.maybeRun a.tab s) d)

/-! ### Wheelhouse restart (R502, R503) -/

/-- WHR: the management cores restart in boot ROM onto the staged copy where it verifies again, and onto the kept copy
otherwise; berths run on. OP and STATUS of the socket's BT_CO_STATUS clear (R514). -/
def wheelRestart (a : Admin) (d : Dev) (s : Nat) (reverified : Bool) : Admin × Dev :=
  let w := d.wheel s
  let d := d.whrClear s
  if w.staged.isEmpty then (a, d)
  else if !reverified || manStatus w.fuses w.staged ≠ bootOk then
    (a, (d.onWheel s fun w => { w with staged := [] }).setFld s .whSvc 0 0 58 56 4)
  else
    let m := w.staged
    let d := d.onWheel s fun w => { w with kept := m, staged := [], ucode := manVersion m 2 }
    let d := ((d.setFld s .whBoot 0 0 41 40 (manSlot m)).setReg s .whSerial 0 0 (word (manSerial m)))
    if d.fld s .whSystem 0 0 40 39 = 0 then (a, d)
    else
      let d := d.onWheel s fun w => w.newJournal (manSerial m)
      if d.isManager s then
        ({ a with seq := 0 }, d.setFld s .whBoot 0 0 44 44 (1 - d.fld s .whBoot 0 0 44 44))
      else (a, d)

end Sys2Proof.Machine
end

