-- ==== Sys2Proof/Machine/Service.lean ====
section
/-! DEFINITION. Live service (R499 to R512): firmware update and activation, the microcode roll-out, spare-pod substitution,
replacement of channels and expanders, re-admission, and leave on request. -/

namespace Sys2Proof.Machine

/-! ### WH_SVC (R500, R517) -/

/-- STATUS codes of WH_SVC. -/
def svcRunning : Nat := 1
/-- The operation ended as asked. -/
def svcDone : Nat := 2
/-- The staged copy is not compatible. -/
def svcMismatch : Nat := 3
/-- The copy fails R485. -/
def svcVerify : Nat := 4
/-- No spare pod remains. -/
def svcNoSpare : Nat := 5
/-- No free run or pool capacity. -/
def svcNoCapacity : Nat := 6
/-- Refused; nothing changed. -/
def svcRefused : Nat := 7

/-- Whether an operation may start on a socket: none runs but the one that its request started. -/
def Dev.svcFree (d : Dev) (s op arg : Nat) : Bool :=
  d.fld s .whSvc 0 0 58 56 ≠ svcRunning || (d.fld s .whSvc 0 0 63 60 = op && d.fld s .whSvc 0 0 47 32 = arg)

/-- WH_SVC shows an operation and its status. -/
def Dev.svcShow (d : Dev) (s op arg st : Nat) : Dev :=
  ((d.setFld s .whSvc 0 0 63 60 op).setFld s .whSvc 0 0 58 56 st).setFld s .whSvc 0 0 47 32 arg

/-- An operation has a status: WH_SVC shows it, and the end of one of those that SERVICE requests goes to the management port
(R526). -/
def Dev.svcEnd (d : Dev) (s op arg st : Nat) : Dev :=
  let d := d.svcShow s op arg st
  if 4 ≤ op && st ≠ svcRunning then d.tellPort s (word (0x100 + st)) else d

/-- Run an operation that answers its status; one that meets another running ends REFUSED in its answer and changes
nothing. -/
def Dev.svc (d : Dev) (s op arg : Nat) (f : Dev → Nat × Dev) : Dev :=
  if !d.svcFree s op arg then d.answer [word svcRefused]
  else
    let (st, d) := f (d.svcShow s op arg svcRunning)
    (d.svcEnd s op arg st).answer [word st]

/-- The same for an operation that changes the berth tables. -/
def svcTables (a : Admin) (d : Dev) (s op arg : Nat) (f : Admin → Dev → Nat × Admin × Dev) : Admin × Dev :=
  if !d.svcFree s op arg || a.order.isSome then (a, d.answer [word svcRefused])
  else
    let (st, a, d) := f a (d.svcShow s op arg svcRunning)
    (a, (d.svcEnd s op arg st).answer [word st])

/-! ### Firmware update (R501, R502) -/

/-- Write a manifest to one copy of a flash. -/
def Wheel.writeCopy (w : Wheel) (copy : Nat) (image : List Byte) : Wheel :=
  (w.flashErase (copyBase copy) copySize).flashWrite (copyBase copy) (image.take copySize)

/-- The sections of a type as bytes with their socket masks. -/
def secBytes (m : List Byte) (type : Nat) : List (Nat × List Byte) :=
  (manOf m type).map fun x => (x.mask, manBytes m x)

/-- Whether two pictures of the tables agree in everything but the berths' states of running. -/
def Tables.alike (t u : Tables) : Bool :=
  t.ways = u.ways && t.shares = u.shares && t.pods = u.pods && t.ports = u.ports && t.vfs = u.vfs && t.ctxs = u.ctxs &&
    t.ranges = u.ranges && t.admin = u.admin && t.drain = u.drain && t.state.map Prod.fst = u.state.map Prod.fst

/-- Whether a verified copy is compatible with the running manifest. -/
def compatible (a : Admin) (d : Dev) (m : Nat) (image : List Byte) : Bool :=
  let run := (d.wheel m).kept
  manSerial run < manSerial image && secBytes run 3 = secBytes image 3 && secBytes run 4 = secBytes image 4 &&
    (buildTables d image m []).1.alike a.mirror

/-- FIRMWARE_UPDATE: the manager writes the copy that is not running, and stages and checks it. -/
def Dev.firmwareUpdate (a : Admin) (d : Dev) (s : Nat) (image : List Byte) : Dev :=
  if !d.isManager s || !d.awake s then d.answer [word svcRefused]
  else
    d.svc s 1 0 fun d =>
      let spare := 1 - d.fld s .whBoot 0 0 44 44
      let d := d.each (s :: d.standbys s) fun d t => d.onWheel t fun w => w.writeCopy spare image
      let m := image.take (Nat.min copySize image.length)
      if manStatus (d.wheel s).fuses m ≠ bootOk then (svcVerify, d)
      else if !compatible a d s m then (svcMismatch, d)
      else (svcDone, d.onWheel s fun w => { w with staged := m })

/-- ACTIVATE: the staged copy goes to every socket, which restarts its Wheelhouse onto it: workers, then standby managers, each
in increasing socket ID, and the manager last. -/
def activate (a : Admin) (d : Dev) (s : Nat) : Admin × Dev :=
  if !d.isManager s || !d.awake s || (d.wheel s).staged.isEmpty then (a, d.answer [word svcRefused])
  else
    svcTables a d s 2 0 fun a d =>
      let m := (d.wheel s).staged
      let others := (d.members s).filter fun t => t ≠ s
      let st := d.fld s .whSystem 0 0 31 16
      let turn := (others.filter fun t => !st.testBit t) ++ (others.filter fun t => st.testBit t) ++ [s]
      let (a, d) := turn.foldl (fun (x : Admin × Dev) t =>
        wheelRestart x.1 (x.2.onWheel t fun w => { w with staged := m }) t true) (a, d)
      let ok := turn.all fun t => (d.wheel t).kept = m
      (if ok then svcDone else svcVerify, a, d)

/-! ### Microcode (R504, R505) -/

/-- POD_QUIESCE: both cores of an enabled pod stop with their store buffers drained and misses complete, the pod injects nothing
while the newest image is written (R224), and they go on where they stopped. A fenced pod is skipped. -/
def Dev.podQuiesce (a : Tables) (d : Dev) (s pod : Nat) : Dev :=
  if !(d.enabledPods s).contains pod || d.podFenced s pod then d
  else
    let stop := fun (d : Dev) (i : Nat) =>
      let h := coreOf (sk s) pod i
      match (d.core h).run with
      | .running | .waiting => d.drainAll a h
      | _ => d
    let d := ((stop (stop d 0) 1).quiesce a).setFld s .ldMeshCtl (landingOf pod) 0 4 4 1
    let d := (d.setReg s .ldPodUcode (landingOf pod) 0 (d.wheel s).ucode).setFld s .ldMeshCtl (landingOf pod) 0 4 4 0
    (d.meshGo a (sk s) (landingOf pod)).bump s .whSvc 0 0 54 48 1

/-- MICROCODE_ROLL_OUT: each enabled pod in increasing number. -/
def Dev.rollOut (a : Tables) (d : Dev) (s : Nat) : Dev :=
  if (d.wheel s).kept.isEmpty then d.answer [word svcRefused]
  else
    d.svc s 3 0 fun d =>
      let d := (d.setFld s .whSvc 0 0 54 48 0).onWheel s fun w => { w with ucode := manVersion w.kept 2 }
      (svcDone, d.each (d.enabledPods s) fun d p => d.podQuiesce a s p)

/-! ### Spare-pod substitution (R10, R506, R507) -/

/-- The spare that replaces a pod. -/
def Dev.chooseSpare (d : Dev) (s pod : Nat) : Option Nat :=
  let cs := ((List.range 104).filter fun p => (d.wheel s).spares.contains p && !d.podFenced s p)
  match cs.filter fun p => p / 13 = pod / 13 with
  | p :: _ => some p
  | [] => argMin cs fun p => meshCost (landingOf pod) (landingOf p)

/-- A pod's place in the tables goes to another. -/
def Tables.swapPod (t : Tables) (s old new : Nat) : Tables :=
  let b := t.berthOfPod s old
  if b = 0 then t else { t with pods := Tbl.set 0 (Tbl.set 0 t.pods (s * 128 + old) 0) (s * 128 + new) b }

/-- A pod number as a slice position. -/
def fin104 (p : Nat) : Fin 104 := ⟨p % 104, Nat.mod_lt _ (by decide)⟩

/-- Substitution, steps 1 and 2: the failed pod's cores are fenced, its map entries are held, and its slice is walked (R506). -/
def Dev.substituteStart (t : Tables) (d : Dev) (s pod : Nat) : Dev :=
  let d := (d.fenceCore t (coreOf (sk s) pod 0)).fenceCore t (coreOf (sk s) pod 1)
  (d.holdPod t (sk s) (fin104 pod)).onWheel s fun w => { w with replacing := some pod }

/-- The spare's cores are powered and given the newest microcode, and are held (R506 step 4); its router injects (R224). -/
def Dev.wakeSpare (d : Dev) (s p : Nat) : Dev :=
  let held := fun (d : Dev) (i : Nat) =>
    (d.onCore (coreOf (sk s) p i) fun _ => Core.reset).setReg s .ldCoreCtl (landingOf p) i Reg.ldCoreCtl.resetWord
  let d := (held (held d 0) 1).setReg s .ldPodUcode (landingOf p) 0 (d.wheel s).ucode
  (d.setFld s .ldMeshCtl (landingOf p) 0 4 4 0).setFld s .ckPod p 0 10 8 (d.fld s .ckPod p 0 5 4)

/-- Substitution, steps 3 to 7, once the old slice is empty; the status. The spare's slice serves from the moment the map names it.
With no spare the slice's share of the map goes to the pods that remain (R248). -/
def substituteEnd (a : Admin) (d : Dev) (s pod : Nat) : Nat × Admin × Dev :=
  let t := a.tab
  let left := (d.enabledPods s).filter fun p => p ≠ pod
  let d := (d.setFld s .ldMeshCtl (landingOf pod) 0 4 4 1).onWheel s fun w => { w with replacing := none }
  match d.chooseSpare s pod with
  | none =>
    let d := (d.giveMap t (sk s) (fin104 pod) left).onWheel s fun w => { w with enabled := left }
    (svcNoSpare, a, (d.setFld s .whSystem 0 0 55 48 left.length).degrade s)
  | some p =>
    let b := t.berthOfPod s pod
    let d := (d.wakeSpare s p).onWheel s fun w => { w with enabled := (List.range 104).filter fun x => x = p || w.enabled.contains x }
    let d := d.giveMap t (sk s) (fin104 pod) [p]
    let tab := t.swapPod s pod p
    let enabled := (List.range 104).filter fun x => x = p || left.contains x
    let d := d.onWheel s fun w => { w with enabled, spares := w.spares.filter fun x => x ≠ p }
    let d := (d.setFld s .whSystem 0 0 63 56 (d.wheel s).spares.length).setFld s .whSystem 0 0 55 48 enabled.length
    let d := d.fixSlips tab s b
    let d := if b = 0 then d
      else d.tellBerth s b false [word (2 ^ 56), word (0x11 * 2 ^ 32 + 0xFFFFFFFF), word pod, word p]
    (svcDone, { a with tab, mirror := a.mirror.swapPod s pod p }, d.degrade s)

/-- A substitution goes on when its slice is empty (R247 steps 2 and 3), and runs until then. -/
def substituteGo (a : Admin) (d : Dev) (s pod : Nat) : Nat × Admin × Dev :=
  let (empty, d) := d.emptySlice a.tab (sk s) (fin104 pod)
  if empty then substituteEnd a d s pod else (svcRunning, a, d)

/-- Substitute a pod; the status. -/
def substitute (a : Admin) (d : Dev) (s pod : Nat) : Nat × Admin × Dev :=
  substituteGo a (if (d.wheel s).replacing = some pod then d else d.substituteStart a.tab s pod) s pod

/-- SPARE_POD_SUBSTITUTION of an enabled pod. -/
def podSubstitution (a : Admin) (d : Dev) (s pod : Nat) : Admin × Dev :=
  svcTables a d s 4 pod fun a d =>
    if (d.enabledPods s).contains pod then substitute a d s pod else (svcRefused, a, d)

/-! ### Pods that the Wheelhouse replaces on its own (R249, R386) -/

/-- Whether a unit's fence is permanent: a PERMANENT entry, or a fence that no entry records (R388, R390). -/
def Dev.fencedForGood (d : Dev) (s src : Nat) : Bool :=
  (match d.fenceOf s src 0xFF with
    | some n => d.fld s .fcFenceA n 0 63 62 = 3
    | none => false) || (d.sock s).faults.extra.contains (src * 256 + 0xFF)

/-- Whether fencing leaves a pod's slice fewer than 12 usable ways, or a berth no usable candidate way in it (R249). -/
def Dev.sliceWorn (t : Tables) (d : Dev) (s p : Nat) : Bool :=
  let w := d.reg s .ldSliceWays (landingOf p) 0
  let open_ := (List.range 16).filter fun i => !bit w i
  bits w 15 0 ≠ 0 && (open_.length < 12 ||
    (t.masks s).any fun m => m.2 ≠ 0 && !open_.any fun i => m.2.testBit i && !bit w (16 + i))

/-- The lowest enabled pod that is to be replaced: fenced for good (R386), or with a slice that R249 gives up. -/
def Dev.wornPod (t : Tables) (d : Dev) (s : Nat) : Option Nat :=
  if d.fld s .fcStat 0 0 9 0 = 0 && (d.sock s).faults.extra.isEmpty then none
  else (d.enabledPods s).find? fun p =>
    (d.fencedForGood s (p * 2) && d.fencedForGood s (p * 2 + 1)) || d.sliceWorn t s p

/-- The Wheelhouse of a socket goes on with a substitution that waits, or starts the one that a pod needs, as R500 allows; WH_SVC shows
it as it shows a requested one (assumption log 21). -/
def podsGo (a : Admin) (d : Dev) (s : Nat) : Admin × Dev :=
  let go := fun (pod : Nat) =>
    let (st, a, d) := substitute a (d.svcShow s 4 pod svcRunning) s pod
    (a, d.svcEnd s 4 pod st)
  match (d.wheel s).replacing with
  | some pod => go pod
  | none =>
    if !d.runs s || a.order.isSome || d.fld s .whSvc 0 0 58 56 = svcRunning then (a, d)
    else
      match d.wornPod a.tab s with
      | some pod => go pod
      | none => (a, d)

/-! ### Channels and expanders (R321, R509 to R511) -/

/-- Whether a stretch can be evacuated: it already is, or a run and a destination are free. -/
def Dev.canEvacuate (t : Tables) (d : Dev) (s hub src len : Nat) : Bool :=
  ((List.range 32).any fun r => bit (d.reg s .teRunA hub r) 63 && d.fld s .teRunA hub r 60 43 = src) ||
    (((List.range 32).any fun r => !bit (d.reg s .teRunA hub r) 63) && (d.freeStretch t s src len).isSome)

/-- Whether a stretch of a hub is redirected by a run (R348). -/
def Dev.redirects (d : Dev) (s hub src : Nat) : Bool :=
  (List.range 32).any fun r =>
    bit (d.reg s .teRunA hub r) 63 && d.fld s .teRunA hub r 60 43 = src && d.fld s .teRunB hub r 58 56 = 2

/-- Whether a run empties a stretch of a hub, or copies it back. -/
def Dev.hasRun (d : Dev) (s hub src : Nat) : Bool :=
  (List.range 32).any fun r => bit (d.reg s .teRunA hub r) 63 && d.fld s .teRunA hub r 60 43 = src

/-- Removal of a channel once every run of its set redirects (R510 step 2): it stops in self-refresh. Until then the operation runs. -/
def Dev.channelOut (d : Dev) (s ch : Nat) : Nat × Dev :=
  if (d.farUnit s ch).all fun u => d.redirects s (ch / 6) u.1 then
    (svcDone, (d.setFld s .fmChCfg ch 0 63 60 4).onChan s ch fun x => { x with selfRefresh := true })
  else (svcRunning, d)

/-- CHANNEL_REMOVAL: the set that holds the channel is evacuated, and the channel stops in self-refresh. -/
def Dev.channelRemoval (a : Tables) (d : Dev) (s ch : Nat) : Dev :=
  d.svc s 5 ch fun d =>
    let units := d.farUnit s ch
    let st := d.fld s .fmChCfg ch 0 63 60
    if st = 0 || st = 1 then (svcRefused, d)
    else if !(units.all fun u => d.canEvacuate a s (ch / 6) u.1 u.2) then (svcNoCapacity, d)
    else (units.foldl (fun (d : Dev) u => d.evacuate a s (ch / 6) u.1 u.2) d).channelOut s ch

/-- Copy back every run that empties a stretch (R348). -/
def Dev.revertRuns (a : Tables) (d : Dev) (s hub src : Nat) : Dev :=
  (List.range 32).foldl (fun (d : Dev) r =>
    if bit (d.reg s .teRunA hub r) 63 && d.fld s .teRunA hub r 60 43 = src then
      (d.setFld s .teRunB hub r 62 62 1).runGo a s hub r
    else d) d

/-- A returned channel whose runs are all copied back is back in service (R510 step 5). Until then the operation runs. -/
def Dev.channelIn (d : Dev) (s ch : Nat) : Nat × Dev :=
  if (d.farUnit s ch).any fun u => d.hasRun s (ch / 6) u.1 then (svcRunning, d) else (svcDone, d)

/-- CHANNEL_RETURN: a channel with DIMMs identical to those it had trains, its runs are copied back, and it is ready. -/
def Dev.channelReturn (a : Tables) (d : Dev) (s ch : Nat) (dimms : List Dimm) (trained : Bool) : Dev :=
  d.svc s 6 ch fun d =>
    if d.fld s .fmChCfg ch 0 63 60 ≠ 4 || (d.chan s ch).dimms ≠ dimms || dimms.isEmpty || !trained then (svcRefused, d)
    else
      let d := (d.setFld s .fmChCfg ch 0 63 60 2).onChan s ch fun x => { x with selfRefresh := false }
      ((d.farUnit s ch).foldl (fun (d : Dev) u => d.revertRuns a s (ch / 6) u.1) d).channelIn s ch

/-- The first GiB of a CXL port's part of the window (R318). -/
def cxlGib (p : Nat) : Nat := 0x10000 + p * 0x4000

/-- Removal of an expander once its ranges are on other memory (R321): they are invalidated, leave the pool, and the link goes down.
Until then the operation runs. -/
def Dev.expanderOut (a : Tables) (d : Dev) (s p : Nat) : Nat × Dev :=
  let w := d.reg s .fmCxl (p / 2) (p % 2)
  let lo := cxlBase s p
  if !(a.owners lo (lo + bits w 44 32 * gib)).isEmpty && !d.redirects s (p / 2) (cxlGib p) then (svcRunning, d)
  else
    let d := d.each sockets fun d t => d.clearRange a (sk t) lo (lo + bits w 44 32 * gib)
    let d := d.setReg s .fmCxl (p / 2) (p % 2) (putBits (putBits (putBits w 44 32 0) 51 48 0) 63 60 0)
    let d := d.onPort s (cxlRoot p) fun x => { x with expanders := [], present := false }
    (svcDone, d.setReg s .pxPortStat (cxlRoot p) 0 (word (2 ^ 60)))

/-- EXPANDER_REMOVAL: the port's part is evacuated and invalidated, leaves the pool, and the link goes down. -/
def Dev.expanderRemoval (a : Tables) (d : Dev) (s p : Nat) : Dev :=
  d.svc s 7 p fun d =>
    let w := d.reg s .fmCxl (p / 2) (p % 2)
    let lo := cxlBase s p
    let held := !(a.owners lo (lo + bits w 44 32 * gib)).isEmpty
    if bits w 63 60 ≠ 2 then (svcRefused, d)
    else if held && !d.canEvacuate a s (p / 2) (cxlGib p) (bits w 44 32) then (svcNoCapacity, d)
    else
      let d := d.setFld s .fmCxl (p / 2) (p % 2) 63 60 3
      (if held then d.evacuate a s (p / 2) (cxlGib p) (bits w 44 32) else d).expanderOut a s p

/-- The removals and the return that wait for their runs go on (R321, R510). -/
def Dev.servicesGo (a : Tables) (d : Dev) (s : Nat) : Dev :=
  let w := d.reg s .whSvc 0 0
  let op := bits w 63 60
  let arg := bits w 47 32
  let go := fun (x : Nat × Dev) => if x.1 = svcRunning then d else x.2.svcEnd s op arg x.1
  if bits w 58 56 ≠ svcRunning then d
  else if op = 5 && ((d.farUnit s arg).any fun u => d.hasRun s (arg / 6) u.1) then go (d.channelOut s arg)
  else if op = 6 && arg < 12 && d.fld s .fmChCfg arg 0 63 60 = 2 then go (d.channelIn s arg)
  else if op = 7 && arg < 4 && d.fld s .fmCxl (arg / 2) (arg % 2) 63 60 = 3 then go (d.expanderOut a s arg)
  else d

/-! ### Re-admission and leave -/

/-- RE_ADMISSION of a fence-table entry (R512). -/
def Dev.reAdmission (a : Tables) (d : Dev) (s n : Nat) (passed : Bool) : Dev :=
  d.svc s 8 n fun d =>
    let (ok, d) := d.readmit a s n passed
    (if ok then svcDone else svcRefused, d)

/-- LEAVE on request (R297). -/
def leaveRequest (a : Admin) (d : Dev) (s : Nat) : Admin × Dev :=
  svcTables a d s 9 0 fun a d =>
    if d.present s s then
      let (a, d) := leaveSystem a d s false
      (svcDone, a, d)
    else (svcRefused, a, d)

end Sys2Proof.Machine
end

