-- ==== Sys2Proof/Machine/Package.lean ====
section
/-! DEFINITION. The management port (R525, R526), orderly sleep (R473, R523) and JTAG's request to enter TEST (R472, R528).
An OEM command answers with its completion code and data; in OFF and TEST the port does not answer. -/

namespace Sys2Proof.Machine

/-- Completion code of a request that was accepted. -/
def ccOk : Word := 0

/-- Completion code of a request that R472 or R500 does not allow. -/
def ccRefused : Word := 0x80

/-- Whether the management port answers. -/
def Dev.i3c (d : Dev) (s : Nat) : Bool := d.mode s ≠ 0 && d.mode s ≠ 7

/-- Orderly sleep: the socket leaves, writes back, places its memory in self-refresh, and keeps only WH, FAR and NEAR. -/
def sleepSocket (a : Admin) (d : Dev) (s : Nat) : Admin × Dev :=
  let d := (d.abandonAll s).each (List.range 104) fun d p =>
    if (Tbl.find (d.sock s).cores (p * 2)).isSome || (Tbl.find (d.sock s).cores (p * 2 + 1)).isSome then d.podReset a.tab (sk s) p else d
  let d := d.clearRange a.tab (sk s) 0 (2 ^ 52)
  let (a, d) := leaveSystem a d s true
  let keep := [16, 17, 18, 22, 23]
  let d := domainOrder.reverse.foldl (fun (d : Dev) i => if keep.contains i then d else d.domainOff s i) d
  let on := keep.foldl (fun n i => n + 2 ^ i) 0
  let d := (d.setFld s .pwDom 0 0 27 0 on).setFld s .pwDom 0 0 59 32 on
  let d := (List.range 12 ++ (List.range 16).map (16 + ·)).foldl (fun (d : Dev) c => d.onChan s c fun x => { x with selfRefresh := true }) d
  (a, (d.setFld s .pwMode 0 0 2 0 1).onWheel s fun w => { w with sleeping := true })

/-- POWER: 1 power-on, 2 sleep, 3 COLD reset, 4 WARM reset. A power-on from a STANDBY entered from OFF starts as COLD reset
does, and one from a sleep as WARM reset does. `b` is the board as a start finds it. -/
def powerRequest (a : Admin) (d : Dev) (s : Nat) (req : Nat) (b : Board) : Admin × Dev :=
  let ok := fun (x : Admin × Dev) => (x.1, x.2.answer [ccOk])
  if !d.i3c s then (a, d.answer [])
  else
    match req with
    | 1 =>
      if d.mode s ≠ 1 then (a, d.answer [ccRefused])
      else if (d.wheel s).sleeping then ok (warmReset a d s b.farTrained b.nearTrained)
      else ok (coldReset a d s { b with autoOn := true })
    | 2 => if d.runs s || d.mode s = modeMaintain then ok (sleepSocket a d s) else (a, d.answer [ccRefused])
    | 3 => ok (coldReset a d s b)
    | 4 => ok (warmReset a d s b.farTrained b.nearTrained)
    | _ => (a, d.answer [ccRefused])

/-- SERVICE: operations 4 to 9 start as R500 allows; WH_SVC shows the operation running until the command that carries it
out ends it (assumption log 24). -/
def Dev.serviceRequest (a : Admin) (d : Dev) (s op arg : Nat) : Dev :=
  if !d.i3c s then d.answer []
  else
    let tables := op = 4 || op = 9
    if op < 4 || 9 < op || d.fld s .whSvc 0 0 58 56 = svcRunning || (tables && a.order.isSome) then d.answer [ccRefused]
    else (d.svcShow s op arg svcRunning).answer [ccOk]

/-- STATUS: its four fields (R526), and after them the reports that wait on the port, which the answer takes (R14, R19;
assumption log 30). -/
def Dev.statusRequest (d : Dev) (s : Nat) : Dev :=
  if !d.i3c s then d.answer []
  else
    let ws := [ccOk, word (d.mode s), word (d.fld s .whBoot 0 0 3 0), word (d.fld s .xlJoin 0 0 2 0),
      word (d.fld s .whSystem 0 0 15 0)] ++ (d.wheel s).reports
    (d.onWheel s fun w => { w with reports := [] }).answer ws

/-- The numeric sensors of Platform Monitoring (R526, R530): the last temperature of each sensor of the tiles and hubs (R529),
READ of each rail, and PW_TDP.POWER. No row of the table reads them; the port reports them to its controller. -/
def Dev.pldmSensors (d : Dev) (s : Nat) : List Int × List Nat × Nat :=
  ((List.range 40).map fun i => (d.wheel s).temps.getD i 0, (List.range 14).map fun r => d.fld s .pwRail r 0 47 32,
    d.fld s .pwTdp 0 0 15 0)

/-- FAULTS: the latch and the oldest queued message, which is removed. -/
def Dev.faultsRequest (d : Dev) (s : Nat) : Dev :=
  if !d.i3c s then d.answer []
  else
    let ws := [ccOk, d.reg s .fcFirstHi 0 0, d.reg s .fcFirstLo 0 0, d.reg s .fcFirstTime 0 0, d.reg s .fcFirstCtl 0 0,
      d.reg s .fcQheadHi 0 0, d.reg s .fcQheadLo 0 0]
    (d.popFault s).answer ws

/-- IDENTITY: the certificate that Tyfort signed, whose bytes the spec does not give: a free value stands for it. -/
def Dev.identityRequest (d : Dev) (s : Nat) : Dev :=
  if !d.i3c s then d.answer []
  else
    let (v, d) := d.free
    d.answer [ccOk, v]

/-- TRAINING: the seed record of a channel that is ready or a link that is ACTIVE, whose bytes the spec does not give: a free
value stands for it. -/
def Dev.trainingRequest (d : Dev) (s unit : Nat) : Dev :=
  let there :=
    if 0x210 ≤ unit && unit < 0x21C then d.fld s .fmChCfg (unit - 0x210) 0 63 60 = 2
    else if 0x220 ≤ unit && unit < 0x230 then d.fld s .nmChCfg (unit - 0x220) 0 63 60 = 2
    else if 0xE00 ≤ unit && unit < 0xE08 then d.linkState s (unit - 0xE00) = 4
    else false
  if !d.i3c s then d.answer []
  else if !there then d.answer [ccRefused]
  else
    let (v, d) := d.free
    d.answer [ccOk, v]

/-- JTAG_TEST_REQUEST: accepted only in LOAD; the TEST domain comes on. -/
def Dev.jtagRequest (d : Dev) (s : Nat) : Dev :=
  if d.mode s ≠ 2 then d.badMode s else d.enterTest s

/-! ### The TAP (R528): no command of the table shifts an instruction in -/

/-- Instructions of the TAP. -/
inductive TapInstr where
  | idcode | bypass | samplePreload | extest | clamp | highz
  deriving DecidableEq, Repr

/-- What IDCODE shifts out. -/
def tapIdcode : BitVec 32 := 0x0919254F

/-- The instruction that the TAP executes when one is loaded: outside TEST every other than IDCODE loads BYPASS. -/
def TapInstr.loads (inTest : Bool) (i : TapInstr) : TapInstr := if inTest || i = .idcode then i else .bypass

end Sys2Proof.Machine
end

