-- ==== Sys2Proof/Machine/Target.lean ====
section
/-! DEFINITION. The device targets of a socket (R64, R106, R107, R422 to R426, R535 to R537): what a device read or write of its
register space, interrupt window, root-port windows and integrated region does. -/

namespace Sys2Proof.Machine

/-- The requester that a device access comes from; a core checks its own level before it sends (R32). -/
def requesterOf (m : Msg) : Requester :=
  { master := m.master, berth := m.berth, high := match m.src with
      | .core .. => true
      | _ => false }

/-- The size code of a length in bytes. -/
def sizeCode (n : Nat) : Nat := if n = 8 then 3 else if n = 4 then 2 else if n = 2 then 1 else 0

/-- Answer a device read. -/
def Dev.drdData (d : Dev) (m : Msg) (v : Line) : Dev := d.deviceAnswer m.dst m v false

/-- A device access that meets a bus error: a load draws BUS, a store is dropped (R107, R307, R426). -/
def Dev.busAnswer (d : Dev) (m : Msg) : Dev := d.deviceAnswer m.dst m 0 true

/-- An access to the register space: 64 bytes as eight accesses in increasing address order (R535). -/
def Dev.serveRegs (a : Admin) (d : Dev) (s off : Nat) (m : Msg) : Dev :=
  let q := requesterOf m
  let n := m.len.toNat
  if !Requester.mayReach q then d.busAnswer m
  else if m.ty = .drd then
    let k := if n = 64 then 8 else 1
    let (bs, d) := (List.range k).foldl (fun (x : List Byte × Dev) i =>
      let (v, d) := x.2.regLoad a s q (off + 8 * i) (Nat.min n 8)
      (x.1 ++ leBytes 8 v.toNat, d)) ([], d)
    d.drdData m (lineOfBytes (bs.take n))
  else
    let k := if n = 64 then 8 else 1
    let (bad, d) := (List.range k).foldl (fun (x : Bool × Dev) i =>
      let v := word (leNat (lineBytes (lineSlice m.data (8 * i) (Nat.min n 8)) (Nat.min n 8)))
      let (e, d) := x.2.regStoreSized a s q (off + 8 * i) (if n = 64 then 3 else sizeCode n) v
      (x.1 || e, d)) (false, d)
    if bad then d.busAnswer m else d.drdData m 0

/-- An access to the integrated region of a socket: ECAM and ferry BARs. -/
def Dev.serveIntegrated (t : Tables) (d : Dev) (s off : Nat) (m : Msg) : Dev :=
  let q := requesterOf m
  let n := Nat.min m.len.toNat 8
  if m.ty = .drd then
    let (v, d) := d.integratedRead t q s off n
    d.drdData m (lineOfBytes (leBytes n v.toNat))
  else (d.integratedWrite t q s off n (word (leNat (lineBytes m.data n)))).drdData m 0

/-- An access to a window of a root port: a read waits for the device's completion; a write leaves as a posted request. A port
without a link, or contained, answers as after UR (R426, R427). -/
def Dev.servePort (d : Dev) (s p addr : Nat) (m : Msg) : Dev :=
  if !d.portUp s p then d.busAnswer m
  else
    let n := m.len.toNat
    let d := d.portSend s p addr (m.ty = .dwr) (if m.ty = .dwr then lineBytes m.data n else [])
    if m.ty = .dwr then d.drdData m 0
    else d.onPort s p fun x => { x with loads := x.loads ++ [(m.src, m.txn.toNat)] }

/-- Serve one device access at a socket's target. A store of poisoned data to a register or a device is dropped. -/
def Dev.serveTarget (a : Admin) (d : Dev) (t : Sock) (m : Msg) : Dev :=
  let s := t.val
  let master := m.master.toNat
  match regionOf m.pa with
  | .intWin s' off =>
    if m.ty = .drd then
      (d.noteAccess s (0x206 + off / 0x1000 / 104 % 2) master m.berth.toNat 7 m.pa).busAnswer m
    else
      (d.interrupt a.tab s' off m.len.toNat (m.data.setWidth 32) m.berth.toNat master m.poison).deviceAnswer m.dst m 0 m.poison
  | r =>
    if m.ty = .dwr && m.poison then d.busAnswer m
    else
      match r with
      | .regs s' off => d.serveRegs a s' off m
      | .mmio s' off =>
        if 0x0F0000000000 ≤ off && off < 0x0F0030000000 then d.serveIntegrated a.tab s' (off - 0x0F0000000000) m
        else
          match portWindow s' off with
          | some (p, addr) => d.servePort s' p addr m
          | none => (d.noteAccess s 0x200 master m.berth.toNat (if m.ty = .drd then 7 else 8) m.pa).busAnswer m
      | _ => (d.noteAccess s 0x200 master m.berth.toNat (if m.ty = .drd then 7 else 8) m.pa).busAnswer m

/-- Whether a message waits for a device target. -/
def toTarget (m : Msg) : Bool :=
  (m.ty = .drd || m.ty = .dwr) && match m.dst with
    | .target _ => true
    | _ => false

/-- Serve the device accesses that have reached their targets, oldest first. -/
def Dev.serveAll (a : Admin) (fuel : Nat) (d : Dev) : Dev :=
  match fuel with
  | 0 => d
  | fuel + 1 =>
    match d.inbox.find? toTarget with
    | none => d
    | some m =>
      let d : Dev := { d with inbox := d.inbox.erase m }
      match m.dst with
      | .target t => ((d.serveTarget a t m).quiesce a.tab).serveAll a fuel
      | _ => d

end Sys2Proof.Machine
end

