-- ==== Sys2Proof/Machine/Integer.lean ====
section
/-! DEFINITION. The integer instructions (R57, R58): none writes a flag or raises a fault. -/

namespace Sys2Proof.Machine

/-- An instruction that writes rd from two registers. -/
def Dev.aluRR (d : Dev) (h : Hart) (rd ra rb : GReg) (f : Word → Word → Word) : Dev :=
  d.regInsn h fun c => c.setG rd (f (c.getG ra) (c.getG rb))

/-- An instruction that writes rd from one register. -/
def Dev.aluR (d : Dev) (h : Hart) (rd ra : GReg) (f : Word → Word) : Dev :=
  d.regInsn h fun c => c.setG rd (f (c.getG ra))

/-- 1 or 0. -/
def ofBool (b : Bool) : Word := if b then 1 else 0

/-- DIV: the quotient rounded toward zero; all ones by zero (R57, R58). -/
def divS (a b : Word) : Word := if b = 0 then BitVec.allOnes 64 else BitVec.ofInt 64 (a.toInt.tdiv b.toInt)

/-- REM: the remainder with the dividend's sign; the dividend by zero (R57, R58). -/
def remS (a b : Word) : Word := if b = 0 then a else BitVec.ofInt 64 (a.toInt.tmod b.toInt)

/-- DIVU (R57, R58). -/
def divU (a b : Word) : Word := if b = 0 then BitVec.allOnes 64 else BitVec.ofNat 64 (a.toNat / b.toNat)

/-- REMU (R57, R58). -/
def remU (a b : Word) : Word := if b = 0 then a else BitVec.ofNat 64 (a.toNat % b.toNat)

/-- The high 64 bits of the signed 128-bit product. -/
def mulHigh (a b : Word) : Word := BitVec.ofInt 64 ((a.toInt * b.toInt) / 2 ^ 64)

/-- The high 64 bits of the unsigned 128-bit product. -/
def mulHighU (a b : Word) : Word := BitVec.ofNat 64 (a.toNat * b.toNat / 2 ^ 64)

/-- The answer of an instruction: the next state. -/
abbrev Answer := Host.Outcome State Fault Refusal

/-- ADD: rd = ra + rb, modulo 2^64 (R57). -/
def execAdd (h : Hart) (rd ra rb : GReg) (s : State) : Answer :=
  .next (s.onDev fun _ d => d.aluRR h rd ra rb fun a b => a + b)

/-- SUB: rd = ra - rb, modulo 2^64 (R57). -/
def execSub (h : Hart) (rd ra rb : GReg) (s : State) : Answer :=
  .next (s.onDev fun _ d => d.aluRR h rd ra rb fun a b => a - b)

/-- AND, bitwise (R57). -/
def execAnd (h : Hart) (rd ra rb : GReg) (s : State) : Answer :=
  .next (s.onDev fun _ d => d.aluRR h rd ra rb fun a b => a &&& b)

/-- OR, bitwise (R57). -/
def execOr (h : Hart) (rd ra rb : GReg) (s : State) : Answer :=
  .next (s.onDev fun _ d => d.aluRR h rd ra rb fun a b => a ||| b)

/-- XOR, bitwise (R57). -/
def execXor (h : Hart) (rd ra rb : GReg) (s : State) : Answer :=
  .next (s.onDev fun _ d => d.aluRR h rd ra rb fun a b => a ^^^ b)

/-- ANDN: rd = ra AND NOT rb (R57). -/
def execAndn (h : Hart) (rd ra rb : GReg) (s : State) : Answer :=
  .next (s.onDev fun _ d => d.aluRR h rd ra rb fun a b => a &&& ~~~ b)

/-- SLL by bits [5:0] of rb (R57). -/
def execSll (h : Hart) (rd ra rb : GReg) (s : State) : Answer :=
  .next (s.onDev fun _ d => d.aluRR h rd ra rb fun a b => a <<< (b.toNat % 64))

/-- SRL by bits [5:0] of rb (R57). -/
def execSrl (h : Hart) (rd ra rb : GReg) (s : State) : Answer :=
  .next (s.onDev fun _ d => d.aluRR h rd ra rb fun a b => a >>> (b.toNat % 64))

/-- SRA by bits [5:0] of rb (R57). -/
def execSra (h : Hart) (rd ra rb : GReg) (s : State) : Answer :=
  .next (s.onDev fun _ d => d.aluRR h rd ra rb fun a b => a.sshiftRight (b.toNat % 64))

/-- ROTR by bits [5:0] of rb (R57). -/
def execRotr (h : Hart) (rd ra rb : GReg) (s : State) : Answer :=
  .next (s.onDev fun _ d => d.aluRR h rd ra rb fun a b => a.rotateRight (b.toNat % 64))

/-- SLT: 1 if ra < rb signed (R57). -/
def execSlt (h : Hart) (rd ra rb : GReg) (s : State) : Answer :=
  .next (s.onDev fun _ d => d.aluRR h rd ra rb fun a b => ofBool (a.slt b))

/-- SLTU: 1 if ra < rb unsigned (R57). -/
def execSltu (h : Hart) (rd ra rb : GReg) (s : State) : Answer :=
  .next (s.onDev fun _ d => d.aluRR h rd ra rb fun a b => ofBool (a.ult b))

/-- MIN, signed (R57). -/
def execMin (h : Hart) (rd ra rb : GReg) (s : State) : Answer :=
  .next (s.onDev fun _ d => d.aluRR h rd ra rb fun a b => if a.slt b then a else b)

/-- MAX, signed (R57). -/
def execMax (h : Hart) (rd ra rb : GReg) (s : State) : Answer :=
  .next (s.onDev fun _ d => d.aluRR h rd ra rb fun a b => if a.slt b then b else a)

/-- MINU, unsigned (R57). -/
def execMinu (h : Hart) (rd ra rb : GReg) (s : State) : Answer :=
  .next (s.onDev fun _ d => d.aluRR h rd ra rb fun a b => if a.ult b then a else b)

/-- MAXU, unsigned (R57). -/
def execMaxu (h : Hart) (rd ra rb : GReg) (s : State) : Answer :=
  .next (s.onDev fun _ d => d.aluRR h rd ra rb fun a b => if a.ult b then b else a)

/-- MUL: the low 64 bits of the product (R57). -/
def execMul (h : Hart) (rd ra rb : GReg) (s : State) : Answer :=
  .next (s.onDev fun _ d => d.aluRR h rd ra rb fun a b => a * b)

/-- MULH: the high 64 bits of the signed product (R57). -/
def execMulh (h : Hart) (rd ra rb : GReg) (s : State) : Answer :=
  .next (s.onDev fun _ d => d.aluRR h rd ra rb fun a b => mulHigh a b)

/-- MULHU: the high 64 bits of the unsigned product (R57). -/
def execMulhu (h : Hart) (rd ra rb : GReg) (s : State) : Answer :=
  .next (s.onDev fun _ d => d.aluRR h rd ra rb fun a b => mulHighU a b)

/-- DIV (R57, R58). -/
def execDiv (h : Hart) (rd ra rb : GReg) (s : State) : Answer :=
  .next (s.onDev fun _ d => d.aluRR h rd ra rb fun a b => divS a b)

/-- DIVU (R57, R58). -/
def execDivu (h : Hart) (rd ra rb : GReg) (s : State) : Answer :=
  .next (s.onDev fun _ d => d.aluRR h rd ra rb fun a b => divU a b)

/-- REM (R57, R58). -/
def execRem (h : Hart) (rd ra rb : GReg) (s : State) : Answer :=
  .next (s.onDev fun _ d => d.aluRR h rd ra rb fun a b => remS a b)

/-- REMU (R57, R58). -/
def execRemu (h : Hart) (rd ra rb : GReg) (s : State) : Answer :=
  .next (s.onDev fun _ d => d.aluRR h rd ra rb fun a b => remU a b)

/-- SEXTB: sign-extend from bit 7 (R57). -/
def execSextb (h : Hart) (rd ra : GReg) (s : State) : Answer :=
  .next (s.onDev fun _ d => d.aluR h rd ra fun a => sext 8 a)

/-- SEXTH: sign-extend from bit 15 (R57). -/
def execSexth (h : Hart) (rd ra : GReg) (s : State) : Answer :=
  .next (s.onDev fun _ d => d.aluR h rd ra fun a => sext 16 a)

/-- SEXTW: sign-extend from bit 31 (R57). -/
def execSextw (h : Hart) (rd ra : GReg) (s : State) : Answer :=
  .next (s.onDev fun _ d => d.aluR h rd ra fun a => sext 32 a)

/-- ZEXTW: zero-extend from bit 31 (R57). -/
def execZextw (h : Hart) (rd ra : GReg) (s : State) : Answer :=
  .next (s.onDev fun _ d => d.aluR h rd ra fun a => (a.setWidth 32).setWidth 64)

/-- ADDI: rd = ra + sign-extended imm16 (R57). -/
def execAddi (h : Hart) (rd ra : GReg) (imm : BitVec 16) (s : State) : Answer :=
  .next (s.onDev fun _ d => d.aluR h rd ra fun a => a + imm.signExtend 64)

/-- ANDI with zero-extended imm16 (R57). -/
def execAndi (h : Hart) (rd ra : GReg) (imm : BitVec 16) (s : State) : Answer :=
  .next (s.onDev fun _ d => d.aluR h rd ra fun a => a &&& imm.setWidth 64)

/-- ORI with zero-extended imm16 (R57). -/
def execOri (h : Hart) (rd ra : GReg) (imm : BitVec 16) (s : State) : Answer :=
  .next (s.onDev fun _ d => d.aluR h rd ra fun a => a ||| imm.setWidth 64)

/-- XORI with zero-extended imm16 (R57). -/
def execXori (h : Hart) (rd ra : GReg) (imm : BitVec 16) (s : State) : Answer :=
  .next (s.onDev fun _ d => d.aluR h rd ra fun a => a ^^^ imm.setWidth 64)

/-- SLTI with sign-extended imm16 (R57). -/
def execSlti (h : Hart) (rd ra : GReg) (imm : BitVec 16) (s : State) : Answer :=
  .next (s.onDev fun _ d => d.aluR h rd ra fun a => ofBool (a.slt (imm.signExtend 64)))

/-- SLTIU with sign-extended imm16, compared unsigned (R57). -/
def execSltiu (h : Hart) (rd ra : GReg) (imm : BitVec 16) (s : State) : Answer :=
  .next (s.onDev fun _ d => d.aluR h rd ra fun a => ofBool (a.ult (imm.signExtend 64)))

/-- SLLI by the shift amount field (R57). -/
def execSlli (h : Hart) (rd ra : GReg) (sh : BitVec 6) (s : State) : Answer :=
  .next (s.onDev fun _ d => d.aluR h rd ra fun a => a <<< sh.toNat)

/-- SRLI by the shift amount field (R57). -/
def execSrli (h : Hart) (rd ra : GReg) (sh : BitVec 6) (s : State) : Answer :=
  .next (s.onDev fun _ d => d.aluR h rd ra fun a => a >>> sh.toNat)

/-- SRAI by the shift amount field (R57). -/
def execSrai (h : Hart) (rd ra : GReg) (sh : BitVec 6) (s : State) : Answer :=
  .next (s.onDev fun _ d => d.aluR h rd ra fun a => a.sshiftRight sh.toNat)

/-- RORI by the shift amount field (R57). -/
def execRori (h : Hart) (rd ra : GReg) (sh : BitVec 6) (s : State) : Answer :=
  .next (s.onDev fun _ d => d.aluR h rd ra fun a => a.rotateRight sh.toNat)

/-- SETQ: rd = sign-extended imm16 shifted left by 16 × q (R57). -/
def execSetq (h : Hart) (rd : GReg) (q : Fin 4) (imm : BitVec 16) (s : State) : Answer :=
  .next (s.onDev fun _ d => d.regInsn h fun c => c.setG rd (imm.signExtend 64 <<< (16 * q.val)))

/-- INSQ: quarter q of rd = imm16, the other bits unchanged (R57). -/
def execInsq (h : Hart) (rd : GReg) (q : Fin 4) (imm : BitVec 16) (s : State) : Answer :=
  .next (s.onDev fun _ d => d.regInsn h fun c =>
    c.setG rd (putBits (c.getG rd) (16 * q.val + 15) (16 * q.val) imm.toNat))

end Sys2Proof.Machine
end

