-- ==== Sys2Proof/Machine/Mmu.lean ====
section
/-! DEFINITION. A core's accesses by physical address with store-to-load forwarding (R136 to R139), its store buffer's intake
(R133, R134), and address translation (R92 to R96, R30, R32, R64, R545). -/

namespace Sys2Proof.Machine

/-! ### Loads by physical address -/

/-- One part of a load as performed: its bytes, poison, where it came from (0 forwarded or L1D, 1 L2, 2 beyond L2), and
whether it made a partial-overlap wait. -/
structure Part where
  data : Line
  poison : Bool
  lvl : Nat
  waited : Bool
  deriving DecidableEq, Repr

/-- The byte mask of the youngest store of an entry that writes any of `n` bytes at `pa`; a device store has no mask. -/
def SbEntry.youngest (e : SbEntry) (pa n : Nat) : Option (BitVec 64) :=
  if e.dev then (if e.pa < pa + n ∧ pa < e.pa + e.len then some 0 else none)
  else if lineOf e.pa = lineOf pa then e.stores.reverse.find? fun m => (m &&& maskOf (pa % 64) n) ≠ 0
  else none

/-- The youngest store in the buffer that writes any of `n` bytes at `pa`, with its entry. -/
def Core.youngest (c : Core) (pa n : Nat) : Option (SbEntry × BitVec 64) :=
  c.sb.reverse.findSome? fun e => (e.youngest pa n).map fun m => (e, m)

/-- Perform one part of a cacheable load (R136 to R139): forwarded when the youngest overlapping store contains it, after that
store has been written when it does not; none while it cannot be performed. Every older device store is performed before it
(R87). `old` is whether the access is the oldest instruction's. -/
def Dev.loadPart (a : Tables) (fuel : Nat) (d : Dev) (h : Hart) (pa n : Nat) (waited : Bool) (old : Bool := true) : Option Part × Dev :=
  match fuel with
  | 0 => (none, d)
  | fuel + 1 =>
    let c := d.core h
    if c.sb.any fun e => e.dev then
      match d.drainOne a h with
      | (true, d) => Dev.loadPart a fuel d h pa n waited old
      | (false, d) => (none, d)
    else
      match c.youngest pa n with
      | some (e, m) =>
        if !bit (c.sysGet 0x20B) 1 && (maskOf (pa % 64) n &&& ~~~ m) = 0 then
          (some { data := lineSlice e.data (pa % 64) n, poison := false, lvl := 0, waited }, d)
        else
          match d.drainOne a h with
          | (true, d) => Dev.loadPart a fuel d h pa n true old
          | (false, d) => (none, d)
      | none =>
        match d.readLine a h pa old with
        | (some (l, lvl), d) => (some { data := lineSlice l.data (pa % 64) n, poison := l.poison, lvl, waited }, d)
        | (none, d) => (none, d)

/-- Fuel for the drains of one load: the entries of the store buffer. -/
def drainFuel : Nat := 80

/-! ### The store buffer's intake -/

/-- A store of `n` bytes within one line, as an entry. -/
def storeEntry (va : Word) (pa n : Nat) (v : Line) (dev first : Bool) : SbEntry :=
  if dev then { pa, len := n, stores := [], data := lineSlice v 0 n, dev, va, first }
  else { pa := lineBase pa, len := 64, stores := [maskOf (pa % 64) n], data := lineSlice v 0 n <<< (8 * (pa % 64)), dev, va, first }

/-- Put a retiring store in the buffer (R133): a cacheable one that is not part of a split store is merged into the youngest
entry when that is for the same line. -/
def Core.pushStore (c : Core) (e : SbEntry) (split : Bool) : Core :=
  match c.sb.reverse with
  | l :: r =>
    if !split && !e.dev && !l.dev && !l.first && l.pa = e.pa then
      { c with sb := r.reverse ++ [{ l with stores := l.stores ++ e.stores, data := maskMerge l.data e.data e.mask }] }
    else { c with sb := c.sb ++ [e] }
  | [] => { c with sb := [e] }

/-- Make room for `n` entries in the 64-entry store buffer; false while retirement is held because it is full. -/
def Dev.sbRoom (a : Tables) (fuel : Nat) (d : Dev) (h : Hart) (n : Nat) : Bool × Dev :=
  match fuel with
  | 0 => (false, d)
  | fuel + 1 =>
    if (d.core h).sb.length + n ≤ 64 then (true, d)
    else
      match (d.onCore h fun c => c.event 0x22 1 c.pc).drainOne a h with
      | (true, d) => Dev.sbRoom a fuel d h n
      | (false, d) => (false, d)

/-! ### Translation -/

/-- The kinds of access that translation tells apart. -/
inductive Access where
  | fetch | load | store | atomic
  deriving DecidableEq, Repr

/-- The cause of a translation fault (R99). -/
def Access.tr : Access → Nat
  | .fetch => 0x05
  | .load => 0x06
  | .store | .atomic => 0x07

/-- The access type of a report (R376). -/
def Access.code : Access → Nat
  | .fetch => 5
  | .load => 1
  | .store => 3
  | .atomic => 6

/-- A fault: its cause and TVAL (R99), and what the fault collector is told (class, access type, physical address). -/
structure Flt where
  cause : Nat
  tval : Word
  rep : Option (Nat × Nat × Nat)
  deriving DecidableEq, Repr

/-- A fault without a report. -/
def flt (cause : Nat) (tval : Word) : Flt := { cause, tval, rep := none }

/-- The outcome of a translation: an address and whether the access is a device access, a fault, or not yet. -/
inductive Xl where
  | ok (pa : Nat) (dev : Bool)
  | bad (f : Flt)
  | wait
  deriving DecidableEq, Repr

/-- The outcome of a walk: a leaf's output base, its size in address bits and its entry. -/
inductive Walk where
  | leaf (base size : Nat) (e : Word)
  | bad (f : Flt)
  | wait
  deriving DecidableEq, Repr

/-- A table entry as read. -/
inductive TRead where
  | entry (e : Word)
  | bad (f : Flt)
  | wait
  deriving DecidableEq, Repr

/-- An entry's permission for an access (R93); `ua` is looked at only in the first stage of the S regime. -/
def permits (rd wr ex ua s1 : Bool) (acc : Access) (lvl : Nat) : Bool :=
  let need := match acc with
    | .fetch => ex
    | .load => rd
    | .store | .atomic => wr
  need && (!s1 || ((lvl ≠ 0 || ua) && !(acc = .fetch && lvl = 1 && ua)))

/-- A leaf's permission for an access (R93). -/
def leafPermits (e : Word) (s1 : Bool) (acc : Access) (lvl : Nat) : Bool :=
  !(bit e 3 && !bit e 2) && permits (bit e 2) (bit e 3) (bit e 4) (bit e 5) s1 acc lvl

/-- A walk of a table of `fuel` levels (R92, R93), reading entries with `rd`. -/
def walkTable (rd : Dev → Nat → TRead × Dev) (fail : Flt) (ok : Word → Bool) (fuel table addr : Nat) (d : Dev) : Walk × Dev :=
  match fuel with
  | 0 => (.bad fail, d)
  | n + 1 =>
    let size := 12 + 9 * n
    match rd d (table + addr / 2 ^ size % 512 * 8) with
    | (.bad f, d) => (.bad f, d)
    | (.wait, d) => (.wait, d)
    | (.entry e, d) =>
      let base := bits e 51 12 * 4096
      if !bit e 0 || bits e 63 52 ≠ 0 || bits e 11 8 ≠ 0 || (!bit e 1 && bits e 7 2 ≠ 0) then (.bad fail, d)
      else if bit e 1 then
        (if n = 3 || base % 2 ^ size ≠ 0 || !ok e then .bad fail else .leaf base size e, d)
      else if n = 0 then (.bad fail, d)
      else walkTable rd fail ok n base addr d

/-- Read a table entry at a physical address: a cacheable load (R95); poison is consumed by the translated access (R363); a
region that only device accesses reach raises MT (R64). -/
def Dev.tableRead (a : Tables) (h : Hart) (va : Word) (d : Dev) (pa : Nat) : TRead × Dev :=
  if (regionOf pa).deviceOnly then (.bad (flt 0x04 va), d)
  else
    match d.loadPart a drainFuel h pa 8 false with
    | (none, d) => (.wait, d)
    | (some p, d) =>
      if p.poison then (.bad { cause := 0x0A, tval := va, rep := some (3, 9, pa) }, d) else (.entry (p.data.setWidth 64), d)

/-- The second stage's translation of an intermediate address (R94). -/
def Dev.stage2 (a : Tables) (d : Dev) (h : Hart) (va : Word) (ia : Nat) (acc : Access) : Walk × Dev :=
  walkTable (fun d pa => d.tableRead a h va pa) (flt 0x0F (word ia)) (fun e => leafPermits e false acc 2) 4
    (bits ((d.core h).sysGet 0x208) 51 12 * 4096) ia d

/-- A table read of the S-regime walk under a second stage: its address is intermediate and needs RD there (R94). -/
def Dev.tableRead2 (a : Tables) (h : Hart) (va : Word) (acc : Access) (d : Dev) (ia : Nat) : TRead × Dev :=
  if 2 ^ 48 ≤ ia then (.bad (flt acc.tr va), d)
  else
    match d.stage2 a h va ia .load with
    | (.leaf base size _, d) => d.tableRead a h va (base + ia % 2 ^ size)
    | (.bad f, d) => (.bad f, d)
    | (.wait, d) => (.wait, d)

/-- What a TLB lookup compares beside the page: regime, first stage off, second stage on, ASID and VMID (R95, R545). -/
def TlbEntry.tagged (e : TlbEntry) (c : Core) (hreg raw s2 : Bool) : Bool :=
  e.hreg = hreg && e.raw = raw && e.s2 = s2 && (hreg || e.glob || e.asid = (c.sysGet 0x107).setWidth 16) &&
    (!s2 || e.vmid.toNat = nbits (c.sysGet 0x208).toNat 63 52)

/-- Whether an entry holds a virtual address. -/
def TlbEntry.covers (e : TlbEntry) (va : Word) : Bool := va.toNat / 2 ^ e.bits = e.vpn

/-- The entry that translates an address. -/
def Core.tlbFind (c : Core) (hreg raw s2 : Bool) (va : Word) : Option TlbEntry :=
  c.tlb.find? fun e => e.tagged c hreg raw s2 && e.covers va

/-- Whether an entry permits an access. -/
def TlbEntry.permits (e : TlbEntry) (acc : Access) (lvl : Nat) : Bool :=
  (e.raw && !e.s2) || Sys2Proof.Machine.permits e.rd e.wr e.ex e.ua (!e.hreg && !e.raw) acc lvl

/-- The ranges that the check at TLB fill leaves out: the interrupt windows (R96), the integrated region (R407) and the
register space, which the decoder checks (R30). -/
def fillExempt (pa : Nat) : Bool :=
  match regionOf pa with
  | .intWin .. | .regs .. => true
  | .mmio _ off => 0x0F0000000000 ≤ off && off < 0x0F0030000000
  | _ => false

/-- Whether a berth may translate to bytes from `lo` to below `hi` (R30); the Wheelhouse may to any. -/
def Tables.mayMap (t : Tables) (b lo hi : Nat) : Bool := b = 0 || t.covers b lo hi

/-- The checks on the physical address of every access: the register space from level H or W alone (R32), whose failure is reported
(R30), and the regions that only device accesses reach (R64). -/
def xlCheck (lvl : Nat) (acc : Access) (va : Word) (pa : Nat) (dev : Bool) : Xl :=
  match regionOf pa with
  | .regs .. => if lvl < 2 then .bad { cause := 0x09, tval := va, rep := some (4, acc.code, pa) } else if dev then .ok pa dev else .bad (flt 0x04 va)
  | r => if r.deviceOnly && !dev then .bad (flt 0x04 va) else .ok pa dev

/-- Fill the TLB with a translation and finish the access (R30, R545): the whole leaf when the berth's ranges cover it, else
the 4 KiB page; a page that is not the berth's installs nothing and draws OW. -/
def Dev.tlbFill (a : Tables) (d : Dev) (h : Hart) (lvl : Nat) (acc : Access) (va : Word) (e : TlbEntry) (size pa : Nat) : Xl × Dev :=
  let b := a.berthOf h
  let page := pa / 4096 * 4096
  if !fillExempt pa && !a.mayMap b page (page + 4096) then
    (.bad { cause := 0x08, tval := va, rep := some (4, acc.code, pa) }, d)
  else
    let base := pa / 2 ^ size * 2 ^ size
    let n := if a.mayMap b base (base + 2 ^ size) then size else 12
    let e := { e with vpn := va.toNat / 2 ^ n, bits := n, ppn := pa / 2 ^ n * 2 ^ n / 4096 }
    (xlCheck lvl acc va pa e.dev, d.onCore h fun c => { c with tlb := e :: c.tlb })

/-- Translate an address for an access at a level (R92 to R96, R545). -/
def Dev.translate (a : Tables) (d : Dev) (h : Hart) (lvl : Nat) (acc : Access) (va : Word) : Xl × Dev :=
  let c := d.core h
  let hreg : Bool := 2 ≤ lvl
  let s1 := if hreg then bit (c.sysGet 0x200) 3 else bit (c.sysGet 0x104) 0
  let s2 := !hreg && bit (c.sysGet 0x209) 0
  let blank : TlbEntry :=
    { hreg, s2, vpn := 0, bits := 12, ppn := 0, rd := true, wr := true, ex := true, ua := true, dev := false, glob := false,
      raw := !s1, asid := (c.sysGet 0x107).setWidth 16, vmid := BitVec.ofNat 12 (bits (c.sysGet 0x208) 63 52) }
  if s1 && sext 48 va ≠ va then (.bad (flt acc.tr va), d)
  else if !s1 && !s2 && bits va 63 52 ≠ 0 then (.bad (flt acc.tr va), d)
  else if !s1 && s2 && 2 ^ 48 ≤ va.toNat then (.bad (flt 0x0F va), d)
  else
    let hit := (c.tlbFind hreg (!s1) s2 va).filter fun e => e.permits acc lvl
    match hit with
    | some e =>
      let pa := e.ppn * 4096 + va.toNat % 2 ^ e.bits
      (xlCheck lvl acc va pa e.dev, d)
    | none =>
      let d := d.onCore h fun c =>
        { c with tlb := c.tlb.filter fun e => !(e.tagged c hreg (!s1) s2 && e.covers va) }
      if !s1 && !s2 then
        let pa := va.toNat
        d.tlbFill a h lvl acc va { blank with dev := (regionOf pa).deviceOnly } 12 pa
      else
        let d := d.onCore h fun c => c.event 0x0C 1 c.pc
        let v48 := va.toNat % 2 ^ 48
        let first : Walk × Dev :=
          if s1 then
            let root := bits (c.sysGet (if hreg then 0x204 else 0x104)) 51 12 * 4096
            let rd := if s2 then fun d ia => Dev.tableRead2 a h va acc d ia else fun d pa => Dev.tableRead a h va d pa
            walkTable rd (flt acc.tr va) (fun e => leafPermits e (!hreg) acc lvl) 4 root v48 d
          else (.leaf 0 48 0x5C, d)
        match first with
        | (.bad f, d) => (.bad f, d)
        | (.wait, d) => (.wait, d)
        | (.leaf base size e1, d) =>
          let out := base + v48 % 2 ^ size
          let ent := { blank with
            rd := bit e1 2, wr := bit e1 3, ex := bit e1 4, ua := bit e1 5, glob := s1 && !hreg && bit e1 6
            dev := s1 && bit e1 7 }
          if !s2 then d.tlbFill a h lvl acc va ent size out
          else if 2 ^ 48 ≤ out then (.bad (flt acc.tr va), d)
          else
            match d.stage2 a h va out acc with
            | (.bad f, d) => (.bad f, d)
            | (.wait, d) => (.wait, d)
            | (.leaf base2 size2 e2, d) =>
              let ent := { ent with
                rd := ent.rd && bit e2 2, wr := ent.wr && bit e2 3, ex := ent.ex && bit e2 4, dev := ent.dev || bit e2 7 }
              let n := if s1 then Nat.min size size2 else 12
              d.tlbFill a h lvl acc va ent n (base2 + out % 2 ^ size2)

/-- TLBI (R95): drop the issuing core's entries of the selected scope. -/
def Core.tlbi (c : Core) (ra : Word) : Core :=
  let hsel := 2 ≤ c.level && bit ra 9
  let s2 := bit (c.sysGet 0x209) 0
  let mine := fun (e : TlbEntry) => e.hreg = hsel &&
    (2 ≤ c.level || (e.s2 = s2 && (!s2 || e.vmid.toNat = bits (c.sysGet 0x208) 63 52)))
  let page := ra.toNat / 4096 * 4096
  let here := fun (e : TlbEntry) => page / 2 ^ e.bits = e.vpn
  let now := fun (e : TlbEntry) => e.asid = (c.sysGet 0x107).setWidth 16
  let gone := fun (e : TlbEntry) => mine e && match bits ra 11 10 with
    | 0 => true
    | 1 => !hsel && !e.glob && now e
    | 2 => here e && (hsel || e.glob || now e)
    | _ => here e
  { c with tlb := c.tlb.filter fun e => !gone e }

/-! ### Whole accesses -/

/-- The parts of an access of `n` bytes: it is split at 64-byte lines (R62, R116). -/
def accessParts (fuel : Nat) (va : Word) (n : Nat) : List (Word × Nat) :=
  match fuel with
  | 0 => []
  | fuel + 1 =>
    let k := Nat.min n (64 - va.toNat % 64)
    if n = 0 then [] else (va, k) :: accessParts fuel (va + word k) (n - k)

/-- The order in which the faults of one instruction are reported (R101). -/
def fltRank (f : Flt) : Nat :=
  match f.cause with
  | 0x05 | 0x06 | 0x07 => 0
  | 0x0F => 1
  | 0x08 => 2
  | 0x09 => 3
  | 0x03 | 0x04 => 4
  | 0x0E => 5
  | _ => 6

/-- The first fault in the order of R101, of the lower part among equals. -/
def worstFlt (fs : List Flt) : Option Flt := argMin fs fltRank

/-- What the checks of a whole access give: its parts by physical address, with the device mark, a fault, or not yet. -/
inductive Checked where
  | go (parts : List (Nat × Nat)) (dev : Bool)
  | bad (f : Flt)
  | wait
  deriving DecidableEq, Repr

/-- Translate and check every part of an access of `n` bytes (R62, R64, R101, R116). `plain` is whether device memory allows
the access's form: a scalar, VL or VS. -/
def Dev.check (a : Tables) (d : Dev) (h : Hart) (lvl : Nat) (acc : Access) (va : Word) (n : Nat) (plain : Bool) : Checked × Dev :=
  let ps := accessParts 4 va n
  let (xs, d) := ps.foldl (fun (x : List Xl × Dev) p =>
    let (r, d) := x.2.translate a h lvl acc p.1
    (x.1 ++ [r], d)) ([], d)
  if xs.any fun x => x = .wait then (.wait, d)
  else
    let dev := xs.any fun x => match x with
      | .ok _ dv => dv
      | _ => false
    let mis := va.toNat % n ≠ 0
    let own := if !dev then [] else if !plain then [flt 0x04 va] else if mis then [flt 0x03 va] else []
    let bad := xs.filterMap fun x => match x with
      | .bad f => some (if f.cause = 0x04 then { f with tval := va } else f)
      | _ => none
    match worstFlt (bad ++ own) with
    | some f => (.bad f, d)
    | none => (.go ((xs.zip ps).map fun x => (match x.1 with
        | .ok pa _ => pa
        | _ => 0, x.2.2)) dev, d)

/-- The whole value of an access's parts as a number, first part lowest. -/
def joinNat (ps : List (Nat × Nat)) (vs : List Part) : Nat :=
  ((ps.zip vs).foldl (fun (x : Nat × Nat) (p : (Nat × Nat) × Part) =>
    (x.1 + p.1.2, x.2 + p.2.data.toNat * 2 ^ (8 * x.1))) ((0 : Nat), (0 : Nat))).2

/-- The whole value of an access of at most 64 bytes. -/
def joinParts (ps : List (Nat × Nat)) (vs : List Part) : Line := BitVec.ofNat 512 (joinNat ps vs)

/-- The first poisoned part of an access at `va`: its first byte and its physical address. -/
def firstPoison (va : Word) (ps : List (Nat × Nat)) (vs : List Part) : Option (Word × Nat) :=
  match ps, vs with
  | p :: ps, v :: vs => if v.poison then some (va, p.1) else firstPoison (va + word p.2) ps vs
  | _, _ => none

/-- Perform every part of a cacheable load; none while one cannot be performed. -/
def Dev.loadParts (a : Tables) (d : Dev) (h : Hart) (ps : List (Nat × Nat)) (old : Bool := true) : Option (List Part) × Dev :=
  ps.foldl (fun (x : Option (List Part) × Dev) p =>
    match x.1 with
    | none => x
    | some l =>
      match x.2.loadPart a drainFuel h p.1 p.2 false old with
      | (some v, d) => (some (l ++ [v]), d)
      | (none, d) => (none, d)) (some [], d)

end Sys2Proof.Machine
end

