-- ==== Sys2Proof/Machine/Trap.lean ====
section
/-! DEFINITION. Taking a trap or an interrupt, and returning from one (R99 to R118). -/

namespace Sys2Proof.Machine

/-- The code of a cause (R99). -/
def causeCode : Cause → Nat
  | .il => 0x01
  | .pv => 0x02
  | .al => 0x03
  | .mt => 0x04
  | .trFetch => 0x05
  | .trLoad => 0x06
  | .trStore => 0x07
  | .ow => 0x08
  | .ra => 0x09
  | .pc => 0x0A
  | .trap => 0x0B
  | .brk => 0x0C
  | .bus => 0x0E
  | .tr2 => 0x0F

/-- The cause code FRAME. -/
def causeFrame : Nat := 0x0D

/-- The source ID of a core's reports (R378). -/
def coreSource (h : Hart) : Nat := if isWheel h then 0xF00 + (h.core.val - 208) else h.core.val

/-- Report what a core met at an address. -/
def Dev.coreReport (a : Tables) (d : Dev) (h : Hart) (cls access addr : Nat) : Dev :=
  d.report h.sock { src := coreSource h, cls, sub := 0xFF, master := (masterOf h).toNat, berth := a.berthOf h, access, addr }

/-- Report what a fault tells the fault collector (R30, R117). -/
def Dev.fltReport (a : Tables) (d : Dev) (h : Hart) (f : Flt) : Dev :=
  match f.rep with
  | some (cls, access, pa) => d.coreReport a h cls access pa
  | none => d

/-- The register bank of a level: S, or H for the levels above. -/
def bankOf (lvl : Nat) : Nat := if lvl = 1 then 0x100 else 0x200

/-- Words as a line, the first lowest. -/
def lineOfWords (ws : List Word) : Line :=
  match ws with
  | [] => 0
  | w :: r => (lineOfWords r <<< 64) ||| w.setWidth 512

/-- Word `i` of a line. -/
def lineWord (l : Line) (i : Nat) : Word := l.extractLsb' (64 * i) 64

/-- Kill every unretired instruction and go on at `npc` (R152); a sampled load among them is marked KILLED (R449). -/
def Core.jump (c : Core) (npc : Word) : Core :=
  let ip := c.sysGet 0x213
  let c := if bit ip 0 && c.lq.any (fun e => (e.pc &&& ~~~ (3 : Word)) = (ip &&& ~~~ (3 : Word))) then
      c.sysSet 0x213 (putBit ip 1 true)
    else c
  { c.refetch npc with pc := npc, lq := [] }

/-! ### Which vector is taken (R110) -/

/-- The state that decides what is taken: level, IE and running priority of S and of H. -/
structure TakeState where
  lvl : Nat
  sie : Bool
  hie : Bool
  spri : Nat
  hpri : Nat
  deriving DecidableEq, Repr

/-- A core's own. -/
def Core.takeState (c : Core) : TakeState :=
  { lvl := c.level, sie := bit (c.sysGet 0x100) 2, hie := bit (c.sysGet 0x200) 2, spri := bits (c.sysGet 0x105) 3 0,
    hpri := bits (c.sysGet 0x205) 3 0 }

/-- Whether a vector's configuration lets it be taken in a state. -/
def TakeState.takes (t : TakeState) (v : Word) : Bool :=
  bit v 15 &&
    (if bit v 14 then t.lvl < 2 || (t.hie && bits v 10 8 < t.hpri)
     else (t.lvl = 0 || (t.lvl = 1 && t.sie)) && bits v 10 8 < t.spri)

/-- The rank of a vector: H-targeted before S-targeted, lower PRIO first, lower vector first. -/
def takeRank (v : Word) (n : Nat) : Nat := (if bit v 14 then 0 else 8192) + bits v 10 8 * 1024 + n

/-- A vector that can be pending at all. -/
def vectorLives (n : Nat) : Bool := (1 ≤ n && n ≤ 5) || (16 ≤ n && n < 1024)

/-- The vector taken at once in a state. -/
def Dev.select (d : Dev) (h : Hart) (t : TakeState) : Option Nat :=
  let c := d.core h
  argMin ((c.iv.map Prod.fst).filter fun n => vectorLives n && d.pend h n && t.takes (c.ivGet n)) fun n => takeRank (c.ivGet n) n

/-- The level a vector is taken at; a management core has no level S (R90). -/
def Core.targetOf (c : Core) (h : Hart) (n : Nat) : Nat := if bit (c.ivGet n) 14 || isWheel h then 2 else 1

/-! ### Entry (R103, R105) -/

/-- The outcome of an entry: done, failed with the frame's or the handler table's address, or not yet. -/
inductive Entered where
  | done
  | failed (tval : Word)
  | wait
  deriving DecidableEq, Repr

/-- A handler's address. -/
inductive Handler where
  | addr (w : Word)
  | failed (tval : Word)
  | wait
  deriving DecidableEq, Repr

/-- Read a vector's handler-table entry in the regime of its level. -/
def Dev.handlerOf (a : Tables) (d : Dev) (h : Hart) (lvl n : Nat) : Handler × Dev :=
  let va := (d.core h).sysGet (bankOf lvl + 2) + word (8 * n)
  match d.check a h lvl .load va 8 false with
  | (.wait, d) => (.wait, d)
  | (.bad f, d) => (.failed va, d.fltReport a h f)
  | (.go ps _, d) =>
    match d.loadParts a h ps with
    | (none, d) => (.wait, d)
    | (some vs, d) =>
      if vs.any fun p => p.poison then (.failed va, d.coreReport a h 3 1 (ps.headD (0, 0)).1)
      else (.addr ((joinParts ps vs).setWidth 64 &&& ~~~ (3 : Word)), d)

/-- The PRIO of a vector. -/
def Core.prioOf (c : Core) (n : Nat) : Nat := bits (c.ivGet n) 10 8

/-- Clear a vector's PEND as it is taken (R108). -/
def Core.taken (c : Core) (n : Nat) : Core := c.ivSet n (putBit (c.ivGet n) 63 false)

/-- Enter a level for a trap (`vec` none) or an interrupt (R103). A device mapping under the frame or the table is no access
that R64 allows, so the entry fails. -/
def Dev.enter (a : Tables) (d : Dev) (h : Hart) (lvl : Nat) (cause tval epc : Word) (vec : Option Nat) : Entered × Dev :=
  let c := d.core h
  let bank := bankOf lvl
  let f := c.sysGet (bank + 3) - 64
  if f.toNat % 64 ≠ 0 then (.failed f, d)
  else
    match d.check a h lvl .store f 64 false with
    | (.wait, d) => (.wait, d)
    | (.bad e, d) => (.failed f, d.fltReport a h e)
    | (.go ps _, d) =>
      let target : Handler × Dev := match vec with
        | none => (.addr (c.sysGet (bank + 1) &&& ~~~ (3 : Word)), d)
        | some n => d.handlerOf a h lvl n
      match target with
      | (.wait, d) => (.wait, d)
      | (.failed t, d) => (.failed t, d)
      | (.addr npc, d) =>
        match d.sbRoom a drainFuel h 1 with
        | (false, d) => (.wait, d)
        | (true, d) =>
          let pri := bits (c.sysGet (bank + 5)) 3 0
          let status := word (c.level + (bit (c.sysGet bank) 2).toNat * 4 + pri * 16)
          let frame := lineOfWords [epc, status, cause, tval, c.getG 1, c.getG 2, c.getG 3, c.getG 4]
          (.done, d.onCore h fun c =>
            let c := c.pushStore (storeEntry f (ps.headD (0, 0)).1 64 frame false false) false
            let c := c.sysSet (bank + 3) f
            let c := match vec with
              | none => c.sysSet bank (putBit (c.sysGet bank) 2 false)
              | some n => (c.sysSet (bank + 5) (word (c.prioOf n))).taken n
            (c.setLevel (if lvl = 1 then 1 else if isWheel h then 3 else 2)).jump npc)

/-- A failed entry at H: the core stops and the event is reported (R105). -/
def Dev.stopCore (a : Tables) (d : Dev) (h : Hart) : Dev :=
  (d.onCore h fun c => { c with run := .entryFailed, lq := [] }).coreReport a h 0xB 0 0

/-- A failed entry at a level becomes a FRAME trap at the next level up; at H it stops the core (R105). `inner` is the CAUSE of
what was being entered. -/
def Dev.frameTrap (a : Tables) (d : Dev) (h : Hart) (lvl : Nat) (inner tval epc : Word) : Dev :=
  if 2 ≤ lvl then d.stopCore a h
  else
    let cause := word (causeFrame + bits inner 9 0 * 2 ^ 32 + (bit inner 63).toNat * 2 ^ 47)
    match d.enter a h 2 cause tval epc none with
    | (.done, d) => d
    | (.failed _, d) => d.stopCore a h
    | (.wait, d) => d

/-- The level a trap is taken at (R100); a management core has no level S (R90). -/
def Core.trapLevel (c : Core) (h : Hart) (cause : Nat) : Nat :=
  if isWheel h || 2 ≤ c.level || cause = causeFrame || cause = 0x0F || (cause = 0x0B && c.level = 1) || !bit (c.sysGet 0x207) cause then 2
  else 1

/-- Take a synchronous trap (R103); a PC trap is counted. -/
def Dev.takeTrap (a : Tables) (d : Dev) (h : Hart) (cause : Nat) (tval epc : Word) : Dev :=
  let lvl := (d.core h).trapLevel h cause
  let d1 := if cause = 0x0A then d.onCore h fun c => c.event 0x13 1 c.pc else d
  match d1.enter a h lvl (word cause) tval epc none with
  | (.done, d) => d
  | (.failed t, d) => d.frameTrap a h lvl (word cause) t epc
  | (.wait, _) => d

/-- Take a vector (R103, R108); the spec gives an interrupt's frame no TVAL, which is a free value. A failed entry takes
nothing. -/
def Dev.takeVector (a : Tables) (d : Dev) (h : Hart) (n : Nat) (epc : Word) : Dev :=
  let lvl := (d.core h).targetOf h n
  let cause := word (2 ^ 63 + n)
  let (tval, d1) := d.free
  match d1.enter a h lvl cause tval epc (some n) with
  | (.done, d) => d.onCore h fun c => c.event 0x11 1 c.pc
  | (.failed t, d) => d.frameTrap a h lvl cause t epc
  | (.wait, _) => d

/-- An instruction's fault: an interrupt that may be taken at the boundary before it goes first (R102). -/
def Dev.fault (a : Tables) (d : Dev) (h : Hart) (f : Flt) (epc : Word) : Dev :=
  match d.select h (d.core h).takeState with
  | some n => d.takeVector a h n (d.core h).pc
  | none => (d.fltReport a h f).takeTrap a h f.cause f.tval epc

/-- A fault whose EPC is the instruction. -/
def Dev.faultHere (a : Tables) (d : Dev) (h : Hart) (f : Flt) : Dev := d.fault a h f (d.core h).pc

/-- IL or PV with the instruction word as TVAL. -/
def Dev.wordFault (a : Tables) (d : Dev) (h : Hart) (cause : Nat) (w : Word) : Dev := d.faultHere a h (flt cause w)

/-! ### Interrupt entry (R110 to R114) -/

/-- The vector an entry turns to (R114): one of the same target level that ranks ahead and becomes takeable in time. -/
def Dev.lateFor (d : Dev) (h : Hart) (n : Nat) (late : Option Nat) : Nat :=
  match late with
  | none => n
  | some v =>
    let c := d.core h
    if vectorLives v && d.pend h v && c.takeState.takes (c.ivGet v) && c.targetOf h v = c.targetOf h n &&
        takeRank (c.ivGet v) v < takeRank (c.ivGet n) n then v
    else n

/-- An interrupt is taken at an instruction boundary, if one may be: not inside an annulled window, nor while a device load waits
(R111). `late` is a vector whose message arrives by cycle 5 of the entry. -/
def Dev.interruptEntry (a : Tables) (d : Dev) (h : Hart) (late : Option Nat) : Dev :=
  let d := d.wake h
  let c := d.core h
  if (c.run ≠ .running && c.run ≠ .waiting) || 0 < c.annul || c.devLoad.isSome then d
  else
    match d.select h c.takeState with
    | none => d
    | some n =>
      let d := match late with
        | some v => if v = 3 || v = 5 || (16 ≤ v && v < 1024) then d.onCore h fun c => c.raise v else d
        | none => d
      let d := d.onCore h fun c => { c with run := .running }
      d.takeVector a h (d.lateFor h n late) c.pc

/-! ### TRET (R104, R115) -/

/-- The instruction word of TRET. -/
def wordTret : Word := wordRR 0x3A 0 0 0 0x010

/-- TRET chains to a vector (R115): only CAUSE of the frame is rewritten. -/
def Dev.chain (a : Tables) (d : Dev) (h : Hart) (lvl n : Nat) (sp epc : Word) : Dev :=
  let cause := word (2 ^ 63 + n)
  let bank := bankOf lvl
  match d.check a h lvl .store (sp + 16) 8 false with
  | (.wait, d) => d
  | (.bad f, d) => (d.fltReport a h f).frameTrap a h lvl cause sp epc
  | (.go ps _, d) =>
    match d.handlerOf a h lvl n with
    | (.wait, d) => d
    | (.failed t, d) => d.frameTrap a h lvl cause t epc
    | (.addr npc, d) =>
      match d.sbRoom a drainFuel h ps.length with
      | (false, d) => d
      | (true, d) =>
        d.onCore h fun c =>
          let c := c.countInst
          let c := (ps.foldl (fun (x : Nat × Core) p =>
            (x.1 + p.2, x.2.pushStore (storeEntry (sp + 16) p.1 p.2 (cause.setWidth 512 >>> (8 * x.1)) false false) (1 < ps.length)))
            (0, c)).2
          let c := (c.sysSet (bank + 5) (word (c.prioOf n))).taken n
          (c.jump npc).event 0x12 1 npc

/-- TRET at level S, H or W. Bits [1:0] of the frame's EPC, of which the spec says nothing here, are cleared: DESIGN CHOICE
(assumption log 30). -/
def Dev.tret (a : Tables) (d : Dev) (h : Hart) : Dev :=
  let c := d.core h
  let lvl := c.level
  let bank := bankOf lvl
  if lvl = 0 then d.wordFault a h 0x02 wordTret
  else
    let sp := c.sysGet (bank + 3)
    match d.check a h lvl .load sp 64 false with
    | (.wait, d) => d
    | (.bad f, d) => d.faultHere a h f
    | (.go ps _, d) =>
      match d.loadParts a h ps with
      | (none, d) => d
      | (some vs, d) =>
        match firstPoison sp ps vs with
        | some x => d.faultHere a h { cause := 0x0A, tval := x.1, rep := some (3, 1, x.2) }
        | none =>
          let l := joinParts ps vs
          let epc := lineWord l 0
          let st := lineWord l 1
          let prev := bits st 1 0
          if lvl < prev || (prev = 3 && !isWheel h) || (isWheel h && (prev = 1 || prev = 2)) then d.wordFault a h 0x02 wordTret
          else
            let t := c.takeState
            let ie := bit st 2
            let pri := bits st 7 4
            let t := if lvl = 1 then { t with lvl := prev, sie := ie, spri := pri } else { t with lvl := prev, hie := ie, hpri := pri }
            let chained := (d.select h t).filter fun n => (d.core h).targetOf h n = (if lvl = 1 then 1 else 2)
            match chained with
            | some n => d.chain a h lvl n sp epc
            | none =>
              d.onCore h fun c =>
                let c := c.countInst
                let c := (((c.setG 1 (lineWord l 4)).setG 2 (lineWord l 5)).setG 3 (lineWord l 6)).setG 4 (lineWord l 7)
                let c := c.sysSet bank (putBit (c.sysGet bank) 2 ie)
                let c := c.sysSet (bank + 5) (word pri)
                let c := c.sysSet (bank + 3) (sp + 64)
                (c.setLevel prev).jump (epc &&& ~~~ (3 : Word))

/-! ### Device stores that met an error (R118) -/

/-- A device store met uncorrectable data or a bus error: SYS_BERR takes its address and vector 5 is raised; where SYS_BERR holds one
already, only the fault collector counts the event, by a report of the core. `pa` is the address that was written, or 0. -/
def Dev.storeBusError (a : Tables) (d : Dev) (h : Hart) (va : Word) (pa : Nat) : Dev :=
  if bit ((d.core h).sysGet 0x20A) 63 then d.coreReport a h 2 8 pa
  else (d.onCore h fun c => c.sysSet 0x20A (word (2 ^ 63 + bits va 47 0))).raise h 5

end Sys2Proof.Machine
end

