-- ==== Sys2Proof/Machine/Access.lean ====
section
/-! DEFINITION. The memory accesses of instructions: loads and their retirement, device loads, stores, atomics, gathers (R61 to
R70, R116, R117, R127 to R142, R250, R273 to R276), the window of instructions that wait behind an unretired one, and what reaches a
core from a device. -/

namespace Sys2Proof.Machine

/-! ### Retirement of a load -/

/-- A load's destination takes its value (R61). -/
def Core.loadReg (c : Core) (e : LqEntry) (v : Line) : Core :=
  if e.vec then c.setV (BitVec.ofNat 5 e.rd) v
  else
    let w : Word := v.setWidth 64 &&& word (2 ^ (8 * e.size) - 1)
    c.setG (BitVec.ofNat 5 e.rd) (if e.signed then sext (8 * e.size) w else w)

/-- The events of a retired load or element (R448). -/
def Core.loadEvents (c : Core) (lvl : Nat) (waited : Bool) (ip : Word) : Core :=
  let c := c.event 0x06 1 ip
  let c := c.event 0x08 (if 1 ≤ lvl then 1 else 0) ip
  let c := c.event 0x0A (if 2 ≤ lvl then 1 else 0) ip
  c.event 0x0D waited.toNat ip

/-- Retire a performed load, the oldest instruction: poison raises PC (R117). -/
def Dev.retireLoad (a : Tables) (d : Dev) (h : Hart) (e : LqEntry) : Dev :=
  match e.poison with
  | some (va, pa) => d.faultHere a h { cause := 0x0A, tval := va, rep := some (3, 1, pa) }
  | none => d.onCore h fun c => ((c.loadReg e (e.value.getD 0)).loadEvents e.lvl e.waited e.pc).next

/-! ### The window (R119, R127 to R132, R142) -/

/-- The address of a store in the store queue. -/
def StForm.addr (f : StForm) (c : Core) : Word :=
  match f.rb with
  | some (b, k) => idxAddr (c.getG (BitVec.ofNat 5 f.ra)) (c.getG (BitVec.ofNat 5 b)) k
  | none => effAddr (c.getG (BitVec.ofNat 5 f.ra)) f.imm

/-- Its data. -/
def StForm.data (f : StForm) (c : Core) : Line :=
  if f.vec then c.getV (BitVec.ofNat 5 f.rs) else (c.getG (BitVec.ofNat 5 f.rs)).setWidth 512

/-- An entry of the window before anything is known of it. -/
def windowEntry (kind : WKind) (pc va : Word) (rd : Nat) (vec signed : Bool) (size : Nat) : LqEntry :=
  { pc, va, rd, vec, signed, size, parts := [], value := none, poison := none, lvl := 0, waited := false, orderKill := false,
    depKill := false, txn := 0, atom := false, acq := false, kind, id := 0, gen := false, dev := false, src := [], given := [] }

/-- A load as it is before it is performed. -/
def loadEntry (pc va : Word) (rd : Nat) (vec signed : Bool) (size : Nat) : LqEntry := windowEntry .load pc va rd vec signed size

/-- Whether an entry of the window writes a register. -/
def LqEntry.writes (e : LqEntry) (vec : Bool) (r : Nat) : Bool := e.vec = vec && e.rd = r && (vec || r ≠ 0) &&
  (match e.kind with
    | .load | .branch .. => true
    | .store _ | .fence => false)

/-- The address of the instruction behind an entry. -/
def LqEntry.npc (e : LqEntry) : Word :=
  match e.kind with
  | .branch _ _ _ n _ => n
  | .load | .store _ | .fence => e.pc + 4

/-- Whether an entry is a store. -/
def LqEntry.isStore (e : LqEntry) : Bool :=
  match e.kind with
  | .store _ => true
  | .load | .fence | .branch .. => false

/-- Whether an entry is a branch. -/
def LqEntry.isBranch (e : LqEntry) : Bool :=
  match e.kind with
  | .branch .. => true
  | .load | .fence | .store _ => false

/-- The address of the instruction behind the window. -/
def Core.windowPc (c : Core) : Word :=
  match c.lq.getLast? with
  | some e => e.npc
  | none => if c.atomOut then c.pc + 4 else c.pc

/-- An instruction comes behind one that has not retired: an entry of the window, or a far atomic that has been sent. -/
def Core.behind (c : Core) : Bool := c.run = .running && c.annul = 0 && (!c.lq.isEmpty || c.atomOut)

/-- Whether the window takes an instruction (R119, R154): not with SERIAL set, not behind an atomic that orders younger accesses
(R141) or a device load, and not in a core without L2, which performs in program order (R250), or without a window. -/
def Core.mayQueue (h : Hart) (c : Core) : Bool :=
  l2On h c && !bit (c.sysGet 0x20B) 3 && c.lq.length < 768 && !(c.devLoad.any fun e => !e.atom || e.acq)

/-- Whether a register waits for an instruction of the window. -/
def Core.pendingReg (c : Core) (vec : Bool) (r : Nat) : Bool :=
  (c.lq.any fun e => e.writes vec r) || c.devLoad.any fun e => e.writes vec r

/-- Put an entry behind the window. -/
def Core.queue (c : Core) (e : LqEntry) : Core :=
  { c with lq := c.lq ++ [{ e with id := (c.lq.getLast?.map LqEntry.id).getD 0 + 1 }] }

/-- How many entries of the window satisfy `p`. -/
def Core.queued (c : Core) (p : LqEntry → Bool) : Nat := (c.lq.filter p).length

/-- Take an instruction that may enter the window (R127, R132, R142): behind an unretired one it does so where `ok` and the window
allow it, and otherwise waits outside; with nothing before it, `now` executes it. -/
def Dev.inWindow (d : Dev) (h : Hart) (ok : Core → Bool) (behind now : Dev → Dev) : Dev :=
  let d := d.wake h
  let c := d.core h
  if c.behind then (if c.mayQueue h && ok c then behind d else d) else d.insn h now

/-- What the stores of the window do for a part of a load (R136, R137): no byte of it is written, one forwards, or it waits, in a
partial-overlap wait or for the store's data. -/
inductive Fwd where
  | none
  | got (id : Nat) (v : Line)
  | wait (partial_ : Bool)
  deriving DecidableEq, Repr

/-- The parts of a store with the offset of each in its data. -/
def storeOffsets (off : Nat) (ps : List (Nat × Nat)) : List (Nat × Nat × Nat) :=
  match ps with
  | [] => []
  | p :: r => (p.1, p.2, off) :: storeOffsets (off + p.2) r

/-- Search the stores of the window, youngest first, for a part of a load. -/
def windowFwd (c : Core) (young : List LqEntry) (pa n : Nat) : Fwd :=
  match young with
  | [] => .none
  | e :: older =>
    match e.kind with
    | .load | .fence | .branch .. => windowFwd c older pa n
    | .store f =>
      let hits := (storeOffsets 0 e.parts).filter fun p => p.1 < pa + n && pa < p.1 + p.2.1
      match hits with
      | [] => windowFwd c older pa n
      | _ :: _ =>
        match hits.find? fun p => p.1 ≤ pa && pa + n ≤ p.1 + p.2.1 with
        | none => .wait true
        | some p =>
          if bit (c.sysGet 0x20B) 1 then .wait true
          else if (older.any fun x => x.writes f.vec f.rs) || c.devLoad.any (fun x => x.writes f.vec f.rs) then .wait false
          else .got e.id (lineSlice (f.data c) (p.2.2 + (pa - p.1)) n)

/-! ### Loads -/

/-- What the parts of a load give: the store of the window each came from, or 0; with whether one made a partial-overlap wait. -/
def Dev.windowParts (a : Tables) (d : Dev) (h : Hart) (older : List LqEntry) (given : List (Nat × PLine)) (ps : List (Nat × Nat)) :
    Option (List (Part × Nat)) × Bool × Dev :=
  if older.isEmpty && given.isEmpty then
    match d.loadParts a h ps (!(d.core h).atomOut) with
    | (some vs, d) => (some (vs.map fun v => (v, 0)), false, d)
    | (none, d) => (none, false, d)
  else
    ps.foldl (fun (x : Option (List (Part × Nat)) × Bool × Dev) p =>
      match x with
      | (none, w, d) => (none, w, d)
      | (some l, w, d) =>
        match windowFwd (d.core h) older.reverse p.1 p.2 with
        | .got id v => (some (l ++ [({ data := v, poison := false, lvl := 0, waited := false }, id)]), w, d)
        | .wait b => (none, w || b, d)
        | .none =>
          match given.find? fun g => g.1 = lineOf p.1 with
          | some g => (some (l ++ [({ data := lineSlice g.2.data (p.1 % 64) p.2, poison := g.2.poison, lvl := 2, waited := false }, 0)]), w, d)
          | none =>
            match d.loadPart a drainFuel h p.1 p.2 false (older.isEmpty && !(d.core h).atomOut) with
            | (some v, d) => (some (l ++ [(v, 0)]), w, d)
            | (none, d) => (none, w, d)) (some [], false, d)

/-- Perform a load whose parts are known behind the entries `older`, if its lines can be had (R127, R136). A device store among
them is performed first (R87). -/
def Dev.performLoad (a : Tables) (d : Dev) (h : Hart) (older : List LqEntry) (e : LqEntry) : LqEntry × Dev :=
  if older.any fun x => x.isStore && x.dev then (e, d)
  else
    match d.windowParts a h older e.given e.parts with
    | (none, w, d) => ({ e with waited := e.waited || w }, d)
    | (some vs, _, d) =>
      let ps := vs.map Prod.fst
      ({ e with
        value := some (joinParts e.parts ps), poison := firstPoison e.va e.parts ps
        lvl := ps.foldl (fun m v => Nat.max m v.lvl) 0, waited := e.waited || ps.any fun v => v.waited
        src := vs.map Prod.snd }, d)

/-- Whether the line of every part of a performed load that no store gave it is still where its leaving is seen (R128): in L1D, or,
with L1D disabled, in L2 (R188). -/
def Core.covers (h : Hart) (c : Core) (e : LqEntry) : Bool :=
  e.lvl = 0 || e.parts.all fun p => if l1dOn h c then (c.lineD (lineOf p.1)).isSome else (c.line2 (lineOf p.1)).isSome

/-- Try to perform a load of the window behind the entries `older` (R127 to R131, R178): not while its wait bit or MDP_OFF keeps it
behind a store without an address; one whose line has gone already, or was never held, is marked when what is older makes that
unsafe (R128, R182). An access that no private cache may hold waits until it is the oldest. -/
def Dev.tryLoad (a : Tables) (d : Dev) (h : Hart) (older : List LqEntry) (e : LqEntry) : LqEntry × Dev :=
  let c := d.core h
  let first := older.isEmpty && !c.atomOut
  let waits := Tbl.get false c.mdp (bits e.pc 12 2) || bit (c.sysGet 0x20B) 0
  if (waits && older.any fun x => x.isStore && !x.gen) || (!first && e.parts.any fun p => d.uncached a h p.1) then (e, d)
  else
    let (e, d) := d.performLoad a h older e
    let danger := (d.core h).atomOut || older.any LqEntry.unsafeFor
    if e.value.isSome && danger && !(d.core h).covers h e then ({ e with orderKill := true }, d) else (e, d)

/-- Send a device load (R138): the store buffer is empty first; the instruction waits for the completion. -/
def Dev.sendDevLoad (a : Tables) (d : Dev) (h : Hart) (e : LqEntry) : Dev :=
  let d := d.drainAll a h
  if !(d.core h).sb.isEmpty then d
  else
    let (t, d) := d.nextTxn h
    let p := e.parts.headD (0, 0)
    let m := { coreMsg a d h .drd (deviceNode h.sock p.1) t p.1 with len := BitVec.ofNat 7 p.2 }
    (d.onCore h fun c => { c with devLoad := some { e with txn := t } }).send m

/-- A load at `va` as the oldest instruction: it retires at once when it can be performed, and waits in the load queue
otherwise (R127, R178). -/
def Dev.loadNow (a : Tables) (d : Dev) (h : Hart) (e : LqEntry) : Dev :=
  match d.check a h (d.core h).level .load e.va e.size true with
  | (.wait, d) => d
  | (.bad f, d) => d.faultHere a h f
  | (.go ps dev, d) =>
    let e := { e with parts := ps }
    if dev then d.sendDevLoad a h e
    else
      let (e, d) := d.performLoad a h [] e
      let d := if e.value.isSome then d.retireLoad a h e else d.onCore h fun c => c.queue e
      d.accessDone a h

/-- A load behind instructions that have not retired: it may be performed before them (R127), to cacheable memory alone and with
its address known; it retires after them. -/
def Dev.loadAhead (a : Tables) (d : Dev) (h : Hart) (e : LqEntry) : Dev :=
  match d.check a h (d.core h).level .load e.va e.size true with
  | (.go ps false, d) =>
    let (e, d) := d.tryLoad a h (d.core h).lq { e with parts := ps }
    (d.onCore h fun c => c.queue e).accessDone a h
  | (_, d) => d

/-- A load instruction (R61) whose address is made from the registers `deps`. The load queue holds 256, and 160 of the 192
physical vector registers are not architectural (R119). -/
def Dev.loadInsn (a : Tables) (d : Dev) (h : Hart) (deps : List GReg) (va : Core → Word) (rd : BitVec 5) (vec signed : Bool)
    (size : Nat) : Dev :=
  d.inWindow h
    (fun c => !(deps.any fun r => c.pendingReg false r.toNat) && c.queued (fun e => e.kind = .load) < 256 &&
      (!vec || c.queued (fun e => e.kind = .load && e.vec) < 160))
    (fun d => d.loadAhead a h (loadEntry (d.core h).windowPc (va (d.core h)) rd.toNat vec signed size))
    (fun d => d.loadNow a h (loadEntry (d.core h).pc (va (d.core h)) rd.toNat vec signed size))

/-! ### Stores -/

/-- The events of a retired store (R448): whether its line was owned in L1D, and in L2. -/
def Core.storeEvents (c : Core) (ps : List (Nat × Nat)) (ip : Word) : Core :=
  let c' := c.event 0x07 1 ip
  let inL1 := ps.all fun p => (c.lineD (lineOf p.1)).any fun e => e.own
  let inL2 := ps.all fun p => c.has (lineOf p.1) true
  (c'.event 0x08 (!inL1).toNat ip).event 0x0A (!inL2).toNat ip

/-- A store's early ownership request (R132, R177). -/
def Dev.ownEarly (a : Tables) (d : Dev) (h : Hart) (ps : List (Nat × Nat)) : Dev :=
  d.each ps fun d p =>
    let c := d.core h
    if bit (c.sysGet 0x20B) 2 || d.uncached a h p.1 || (c.lineD (lineOf p.1)).any (fun e => e.own) || 24 < c.missD.length then d
    else (d.ownLine a h p.1 0).2

/-- Put the parts of a store in the buffer; those of a split store are consecutive entries (R134). -/
def Core.pushParts (c : Core) (va : Word) (ps : List (Nat × Nat)) (v : Line) (dev split : Bool) : Core :=
  match ps with
  | [] => c
  | p :: r =>
    Core.pushParts (c.pushStore (storeEntry va p.1 p.2 v dev (split && !r.isEmpty)) split) (va + word p.2) r (v >>> (8 * p.2)) dev
      split

/-- A store of `n` bytes at `va` (R61, R132, R133): it retires into the store buffer. -/
def Dev.storeNow (a : Tables) (d : Dev) (h : Hart) (va : Word) (n : Nat) (v : Line) : Dev :=
  match d.check a h (d.core h).level .store va n true with
  | (.wait, d) => d
  | (.bad f, d) => d.faultHere a h f
  | (.go ps dev, d) =>
    match d.sbRoom a drainFuel h ps.length with
    | (false, d) => d
    | (true, d) =>
      let d := if dev then d.onCore h fun c => c.event 0x07 1 c.pc
        else (d.onCore h fun c => c.storeEvents ps c.pc).ownEarly a h ps
      (d.onCore h fun c => (c.pushParts va ps v dev (1 < ps.length)).next).accessDone a h

/-- Mark the younger loads that read bytes which a store's address now shows to be its own, and took them neither from it nor from a
store younger than it (R129), part by part (R137). -/
def LqEntry.markDep (e st : LqEntry) : LqEntry :=
  let hit := fun (p : (Nat × Nat) × Nat) =>
    p.2 < st.id && st.parts.any fun q => q.1 < p.1.1 + p.1.2 && p.1.1 < q.1 + q.2
  if st.id < e.id && e.kind = .load && e.value.isSome && (e.parts.zip e.src).any hit then { e with depKill := true } else e

/-- A store of the window generates its address once no older instruction is still to write its registers (R129, R132): younger
performed loads are compared with it, and its early ownership request goes out. -/
def Dev.genStore (a : Tables) (d : Dev) (h : Hart) (i : Nat) : Dev :=
  let c := d.core h
  match c.lq[i]? with
  | none => d
  | some e =>
    match e.kind with
    | .load | .fence | .branch .. => d
    | .store f =>
      let need := fun (r : Nat) => (c.lq.take i).any (fun x => x.writes false r) || c.devLoad.any fun x => x.writes false r
      if e.gen || need f.ra || (match f.rb with
          | some x => need x.1
          | none => false) then d
      else
        let va := f.addr c
        match d.check a h c.level .store va f.n true with
        | (.wait, d) => d
        | (.bad _, d) => d.onCore h fun c => { c with lq := c.lq.set i { e with gen := true, va } }
        | (.go ps dev, d) =>
          let e := { e with gen := true, va, parts := ps, dev }
          let d := d.onCore h fun c => { c with lq := (c.lq.set i e).map fun x => x.markDep e }
          if dev then d else d.ownEarly a h ps

/-- Every store of the window whose address can be generated generates it, oldest first. -/
def Dev.genStores (a : Tables) (d : Dev) (h : Hart) : Dev :=
  d.each (List.range (d.core h).lq.length) fun d i => d.genStore a h i

/-- A store instruction (R61): behind an unretired instruction it waits in the store queue of 160 (R119, R132). -/
def Dev.storeInsn (a : Tables) (d : Dev) (h : Hart) (f : StForm) : Dev :=
  d.inWindow h (fun c => c.queued LqEntry.isStore < 160)
    (fun d => ((d.onCore h fun c => c.queue (windowEntry (.store f) c.windowPc 0 0 false false f.n)).genStores a h).accessDone a h)
    (fun d => d.storeNow a h (f.addr (d.core h)) f.n (f.data (d.core h)))

/-! ### Retirement from the window (R126, R130, R142) -/

/-- Retire instructions of the window from the oldest on: up to a load that is not performed or is marked for a kill, a store that
the store buffer has no room for, or a FENCE whose stores have not drained. Whatever takes a trap empties the window. -/
def Dev.retireWindow (a : Tables) (fuel : Nat) (d : Dev) (h : Hart) : Dev :=
  match fuel, (d.core h).lq with
  | fuel + 1, e :: r =>
    let c := d.core h
    let on := fun (d : Dev) =>
      if (d.core h).lq.isEmpty || (d.core h).pc = c.pc then d
      else
        let d := d.onCore h fun c => { c with lq := c.lq.drop 1 }
        Dev.retireWindow a fuel (if r.any fun x => x.isStore && !x.gen then d.genStores a h else d) h
    if c.run ≠ .running || c.atomOut then d
    else
      match e.kind with
      | .load => if e.value.isNone || e.orderKill || e.depKill then d else on (d.retireLoad a h e)
      | .store f => on (d.storeNow a h (f.addr c) f.n (f.data c))
      | .fence =>
        let d := d.drainAll a h
        if (d.core h).sb.isEmpty then on (d.onCore h Core.next) else d
      | .branch k taken target npc f =>
        let d := d.onCore h fun c =>
          { (if e.rd = 0 then c else c.setG (BitVec.ofNat 5 e.rd) (c.pc + 4)).retireBranch f (BKind.ofNum k) true taken target npc with lq := r }
        Dev.retireWindow a fuel (if r.any fun x => x.isStore && !x.gen then d.genStores a h else d) h
  | _, _ => d

/-- Retire what can retire. -/
def Dev.windowGo (a : Tables) (d : Dev) (h : Hart) : Dev := if (d.core h).lq.isEmpty then d else d.retireWindow a 768 h

/-! ### What a device's answer does at a core -/

/-- Train the contention predictor's entry of an atomic (R273): `up` true raises, false lowers, the counter; `alloc` allocates
on a tag miss. -/
def Core.trainAtom (c : Core) (pc : Word) (pa : Nat) (up alloc : Bool) : Core :=
  let i := bits pc 9 2 ^^^ nbits pa 13 6
  let tag := bits pc 15 10 ^^^ nbits pa 19 14
  match Tbl.find c.cont i with
  | some (t, n) =>
    if t = tag then { c with cont := Tbl.put c.cont i (tag, if up then Nat.min 3 (n + 1) else n - 1) }
    else if alloc then { c with cont := Tbl.put c.cont i (tag, 1) }
    else c
  | none => if alloc then { c with cont := Tbl.put c.cont i (tag, 1) } else c

/-- A far atomic's answer has come (R273, R276): poison raises PC, else the old value is written and the atomic retires. -/
def Dev.atomDone (a : Tables) (d : Dev) (h : Hart) (e : LqEntry) (old : Word) (poison other : Bool) : Dev :=
  let pa := (e.parts.headD (0, 0)).1
  let d := d.onCore h fun c => { c with far := none, devLoad := none }
  if poison then d.faultHere a h { cause := 0x0A, tval := e.va, rep := some (3, 6, pa) }
  else
    d.onCore h fun c =>
      let c := if l2On h c then c.trainAtom c.pc pa other false else c
      ((c.setG (BitVec.ofNat 5 e.rd) (old &&& word (2 ^ (8 * e.size) - 1))).event 0x10 1 c.pc).next

/-- A device answer reaches its core: a store's acknowledgement, or the completion of the device load that waits (R118,
R143). The boundary before a device load has passed when it is sent, and a sent one is never killed (R111, R145): its BUS is taken
before an interrupt. LEN 0 is an ownership error: the load makes its check again, and a store is dropped (R30; assumption log 16). -/
def Dev.coreAnswer (a : Tables) (d : Dev) (h : Hart) (m : Msg) : Dev :=
  let c := d.core h
  if m.aux then
    match c.devOut.find? fun x => x.1 = m.txn.toNat with
    | none => d
    | some x =>
      let d := d.onCore h fun c => { c with devOut := c.devOut.erase x }
      if m.poison && m.len ≠ 0 then d.storeBusError a h x.2 m.pa else d
  else
    match c.devLoad with
    | some e =>
      if e.atom || e.txn ≠ m.txn.toNat then d
      else
        let d := d.onCore h fun c => { c with devLoad := none }
        if m.len = 0 then d.onCore h fun c => c.disown m.pa
        else if m.poison then d.takeTrap a h 0x0E e.va (d.core h).pc
        else d.retireLoad a h { e with value := some m.data }
    | none => d

/-- Whether a far atomic of the core has its answer and has not taken it. -/
def Core.atomDue (c : Core) : Bool := c.far.isSome && c.devLoad.any fun x => x.atom

/-- The cores that a far atomic's answer has come for. -/
def Dev.atomWaiting (d : Dev) : List Hart := d.coresWith Core.atomDue

/-- Hand every device answer to its core and end the far atomics whose answer has come; answers for other agents have no
waiter. -/
def Dev.coreAnswers (a : Tables) (d : Dev) : Dev :=
  let ms := d.inbox.filter fun (m : Msg) => m.ty = MsgType.drsp
  let d := { d with inbox := d.inbox.filter fun (m : Msg) => m.ty ≠ MsgType.drsp }
  let d := d.each ms fun d m =>
    match m.dst with
    | .core s c => d.coreAnswer a { sock := s, core := c } m
    | _ => d
  d.each d.atomWaiting fun d h =>
    match (d.core h).far, (d.core h).devLoad with
    | some (old, poison, other), some e => (d.atomDone a h e old poison other).windowGo a h
    | _, _ => d

/-- End a command: its traffic runs to its end, device targets serve what has reached them, and the cores take the answers. -/
def Dev.finish (a : Admin) (d : Dev) : Dev := ((d.quiesce a.tab).serveAll a 64).coreAnswers a.tab

/-- An illegal instruction: IL with its word (R55). -/
def Dev.illegal (a : Admin) (d : Dev) (h : Hart) (w : Word) : Dev := (d.wordFault a.tab h 0x01 w).finish a

/-- An instruction of a group that management cores do not implement (R90): there it is illegal. -/
def Dev.serverInsn (a : Admin) (d : Dev) (h : Hart) (w : Word) (f : Core → Core) : Dev :=
  d.insn h fun d => if isWheel h then d.illegal a h w else d.onCore h fun c => (f c).next

/-! ### Gather, scatter and unpack (R69, R70, R74) -/

/-- Check the accesses of a list of elements (index, address); the fault is that of the lowest-numbered faulting element. -/
def Dev.checkElems (a : Tables) (d : Dev) (h : Hart) (acc : Access) (n : Nat) (es : List (Nat × Word)) :
    Option Flt × Bool × List (Nat × Word × List (Nat × Nat)) × Dev :=
  es.foldl (fun (x : Option Flt × Bool × List (Nat × Word × List (Nat × Nat)) × Dev) e =>
    if x.1.isSome || x.2.1 then x
    else
      match x.2.2.2.check a h (x.2.2.2.core h).level acc e.2 n false with
      | (.bad f, d) => (some f, false, x.2.2.1, d)
      | (.wait, d) => (none, true, x.2.2.1, d)
      | (.go ps _, d) => (none, false, x.2.2.1 ++ [(e.1, e.2, ps)], d)) (none, false, [], d)

/-- The addresses of the active elements of a gather or scatter (R69). -/
def elemAddrs (w : Fin 4) (base : Word) (ix : Line) (p : Word) (scale : Fin 4) : List (Nat × Word) :=
  ((List.range (elems w)).filter fun i => bit p i).map fun i => (i, base + (sext (ewBits w) (elem w ix i) <<< scale.val))

/-- The loads of the elements of a gather, in element order (R70): the fault of the lowest-numbered element that has one, or the
performed elements; none while one waits. -/
def Dev.gatherLoads (a : Tables) (d : Dev) (h : Hart) (n : Nat) (es : List (Nat × Word)) : Option (Sum Flt (List (Nat × LqEntry))) × Dev :=
  es.foldl (fun (x : Option (Sum Flt (List (Nat × LqEntry))) × Dev) e =>
    match x with
    | (some (.inr l), d) =>
      match d.check a h (d.core h).level .load e.2 n false with
      | (.wait, d) => (none, d)
      | (.bad f, d) => (some (.inl f), d)
      | (.go ps _, d) =>
        let (q, d) := d.performLoad a h [] { loadEntry 0 e.2 0 false false n with parts := ps }
        match q.value, q.poison with
        | none, _ => (none, d)
        | some _, some (va, pa) => (some (.inl { cause := 0x0A, tval := va, rep := some (3, 1, pa) }), d)
        | some _, none => (some (.inr (l ++ [(e.1, q)])), d)
    | _ => x) (some (.inr []), d)

/-- VGATH: every active element is a load of its own; a fault of any loads none. -/
def Dev.gatherElems (a : Tables) (d : Dev) (h : Hart) (w : Fin 4) (vd : VReg) (es : List (Nat × Word)) : Dev :=
  match d.gatherLoads a h (2 ^ w.val) es with
  | (none, d) => d.accessDone a h
  | (some (.inl f), d) => (d.accessDone a h).faultHere a h f
  | (some (.inr l), d) =>
    let d := d.accessDone a h
    d.onCore h fun c =>
      let old := c.getV vd
      let pick := fun (i : Nat) => match l.find? fun x => x.1 = i with
        | some x => (x.2.value.getD 0).setWidth 64
        | none => elem w old i
      let c := l.foldl (fun c x => c.loadEvents x.2.lvl x.2.waited c.pc) c
      (c.setV vd (ofElems w ((List.range (elems w)).map pick))).next

/-- VSCATT: the stores become visible in increasing element order. -/
def Dev.scatterElems (a : Tables) (d : Dev) (h : Hart) (w : Fin 4) (vd : VReg) (es : List (Nat × Word)) : Dev :=
  match d.checkElems a h .store (2 ^ w.val) es with
  | (some f, _, _, d) => d.faultHere a h f
  | (none, true, _, d) => d
  | (none, false, xs, d) =>
    match d.sbRoom a drainFuel h ((xs.map fun x => x.2.2.length).sum) with
    | (false, d) => d
    | (true, d) =>
      let d := xs.foldl (fun d x => (d.onCore h fun c => c.storeEvents x.2.2 c.pc).ownEarly a h x.2.2) d
      let v := (d.core h).getV vd
      let d := d.onCore h fun c =>
        (xs.foldl (fun c x => c.pushParts x.2.1 x.2.2 ((elem w v x.1).setWidth 512) false (1 < x.2.2.length)) c).next
      d.accessDone a h

/-- The number of bytes that VUNPK reads for a cursor and `k` bits an element. -/
def unpackBytes (cursor k : Nat) : Nat := (cursor % 8 + 16 * k - 1) / 8 + 1

/-- VUNPK's elements from the bytes read: sixteen values of `k` bits, zero-extended to 32. -/
def unpackElems (bytes cursor k : Nat) : Line :=
  ofElems 2 ((List.range 16).map fun i => word (bytes >>> (cursor % 8 + i * k) % 2 ^ k))

/-- VUNPK (R74): one access, whole or not at all. -/
def Dev.unpack (a : Tables) (d : Dev) (h : Hart) (vd : VReg) (base cursor : Word) (k : Nat) : Dev :=
  let va := base + (cursor >>> 3)
  match d.check a h (d.core h).level .load va (unpackBytes cursor.toNat k) false with
  | (.wait, d) => d
  | (.bad f, d) => d.faultHere a h f
  | (.go ps _, d) =>
    match d.loadParts a h ps with
    | (none, d) => d.accessDone a h
    | (some vs, d) =>
      let d := d.accessDone a h
      match firstPoison va ps vs with
      | some (va, pa) => d.faultHere a h { cause := 0x0A, tval := va, rep := some (3, 1, pa) }
      | none =>
        d.onCore h fun c =>
          let c := c.loadEvents (vs.foldl (fun m v => Nat.max m v.lvl) 0) (vs.any fun v => v.waited) c.pc
          (c.setV vd (unpackElems (joinNat ps vs) cursor.toNat k)).next

/-! ### Atomics (R65, R66, R141, R273 to R276) -/

/-- Whether an atomic runs far: by SYS_ATOMCTL.MODE, else by the contention predictor; always with L2 disabled (R250). -/
def Dev.runsFar (a : Tables) (d : Dev) (h : Hart) (pa : Nat) : Bool :=
  let c := d.core h
  d.uncached a h pa ||
    (match bits (c.sysGet 0x20F) 1 0 with
    | 1 => false
    | 2 => true
    | _ =>
      match Tbl.find c.cont (bits c.pc 9 2 ^^^ nbits pa 13 6) with
      | some (t, n) => t = bits c.pc 15 10 ^^^ nbits pa 19 14 && 2 ≤ n
      | none => false)

/-- A near atomic (R274): in the owned line. -/
def Dev.atomNear (a : Tables) (d : Dev) (h : Hart) (e : LqEntry) (pa op : Nat) (uns dword : Bool) (rb rd : Word) : Dev :=
  let la := lineOf pa
  let owned := ((d.core h).lineD la).any fun x => x.own
  let had := (d.core h).has la true
  let (ok, d) := d.ownLine a h pa 1
  if !ok then d.accessDone a h
  else
    match (d.core h).copyOf la with
    | none => d.accessDone a h
    | some l =>
      if l.poison then (d.accessDone a h).faultHere a h { cause := 0x0A, tval := e.va, rep := some (3, 6, pa) }
      else
        let (old, l') := atomicLine l (pa % 64) op uns dword rb rd
        let d := d.onCore h fun c =>
          let fwd := !had && c.fillFwd
          let c := if l' = l then c else c.writeLine h la (maskOf (pa % 64) e.size) l'.data
          let c := if owned then c.trainAtom c.pc pa false false else if fwd then c.trainAtom c.pc pa true true else c
          ((c.setG (BitVec.ofNat 5 e.rd) (old &&& word (2 ^ (8 * e.size) - 1))).event 0x0F 1 c.pc).next
        d.accessDone a h

/-- A far atomic (R275): ATM goes to the home slice and the core waits for ATR; refused, it is sent again with the same TXN and AGE
(R237). One that was refused, and whose instruction was not executed again, gives way to the next. -/
def Dev.atomFar (a : Tables) (d : Dev) (h : Hart) (e : LqEntry) (pa : Nat) (data : Line) : Dev :=
  let me : Node := .core h.sock h.core
  let (t, d) := d.nextTxn h
  let m := { coreMsg a d h .atm (d.homeSlice h.sock pa) t pa with len := BitVec.ofNat 7 e.size, data }
  let mine := fun (x : Msg × Bool) => x.1.src = me && x.1.ty = .atm
  let d := { d with asked := d.asked.filter fun x => !mine x || sameAsk x.1 m }
  let txn := ((d.asked.find? mine).map fun x => x.1.txn.toNat).getD t
  let d := d.onCore h fun c => { c with far := none, devLoad := some { e with txn, atom := true, acq := nbits data.toNat 133 133 = 1 } }
  let (ok, d) := d.ask a 8 (some h) m
  if ok || d.asked.any fun x => mine x && !x.2 then d else d.onCore h fun c => { c with devLoad := none }

/-- An atomic instruction (R65): operation code and the unsigned bit of its func. -/
def Dev.atomInsn (a : Tables) (d : Dev) (h : Hart) (op : Nat) (uns : Bool) (o : AOp) : Dev :=
  d.insn h fun d =>
    let c := d.core h
    let va := c.getG o.ra
    let n := if o.dword then 8 else 4
    if va.toNat % n ≠ 0 then d.faultHere a h (flt 0x03 va)
    else
      match d.check a h c.level .atomic va n false with
      | (.wait, d) => d
      | (.bad f, d) => d.faultHere a h f
      | (.go ps _, d) =>
        let d := d.drainAll a h
        if !(d.core h).sb.isEmpty then d
        else
          let pa := (ps.headD (0, 0)).1
          let e := { loadEntry c.pc va o.rd.toNat false false n with parts := ps }
          let rb := c.getG o.rb
          let rd := c.getG o.rd
          if d.runsFar a h pa then d.atomFar a h e pa (atmData op uns o.dword o.order.val rb rd)
          else d.atomNear a h e pa op uns o.dword rb rd

/-! ### The load queue's events (R128 to R130, R178) -/

/-- A load of the window whose access drew an ownership error makes its check again (R30): it takes the fault when it is the oldest. -/
def Dev.recheck (a : Tables) (d : Dev) (h : Hart) (i : Nat) (e : LqEntry) : Dev :=
  match d.check a h (d.core h).level .load e.va e.size true with
  | (.go ps false, d) => d.onCore h fun c => { c with lq := c.lq.set i { e with parts := ps } }
  | (.bad f, d) => if i = 0 && !(d.core h).atomOut then d.faultHere a h f else d
  | (_, d) => d

/-- LOAD_REISSUE (R178): every load that waits is tried again, oldest first, and what can retire does so in order. -/
def Dev.loadReissue (a : Tables) (d : Dev) (h : Hart) : Dev :=
  if (d.core h).run ≠ .running then d
  else
    let d := (List.range (d.core h).lq.length).foldl (fun d i =>
      match (d.core h).lq[i]? with
      | some e =>
        if e.value.isSome || e.kind ≠ .load then d
        else if e.parts.isEmpty then d.recheck a h i e
        else
          let (e', d) := d.tryLoad a h ((d.core h).lq.take i) e
          d.onCore h fun c => { c with lq := c.lq.set i { e' with orderKill := e'.orderKill || (c.lq[i]?.map LqEntry.orderKill).getD false } }
      | none => d) d
    ((d.genStores a h).windowGo a h).accessDone a h

/-- Kill the oldest load and every younger one; fetch restarts at it (R130). -/
def Core.killLoads (c : Core) : Core := (c.event 0x0E 1 c.pc).jump c.pc

end Sys2Proof.Machine
end

