-- ==== Sys2Proof/Machine/Control.lean ====
section
/-! DEFINITION. Control transfer (R75 to R81). -/

namespace Sys2Proof.Machine

/-- The window of an annulled branch (R79): A with an offset from 2 to 17. -/
def annulWindow {n : Nat} (annul : Bool) (off : BitVec n) : Option Nat :=
  if annul && 2 ≤ off.toInt && off.toInt ≤ 17 then some (off.toInt.toNat - 1) else none

/-- An opener of a window (R78): it annuls the next `n` instructions when its condition holds. -/
def Core.openWindow (c : Core) (holds : Bool) (n : Nat) : Core :=
  let c := c.next
  if holds then { c with annul := n } else c

/-- A BC, BZ or JALR that executes behind an unretired instruction (R122, R152, R160): it resolves now, and retires in its turn. -/
def Core.queueBranch (c : Core) (k : BKind) (rd : GReg) (taken : Bool) (target npc : Word) : Core :=
  let i := c.lq.length + c.atomOut.toNat
  let f := match c.fetchQ[i]? with
    | some e => if e.pc = c.windowPc then some e else none
    | none => none
  let c' := c.resolveAt i f k true taken c.windowPc target npc
  c'.queue (windowEntry (.branch k.num taken target npc f) c.windowPc 0 rd.toNat false false 0)

/-- BC or BZ. An annulled one resolves as not taken (R151, R168). One whose registers `deps` are known may resolve behind an unretired
instruction, while one of the 128 checkpoints is free (R119). -/
def Dev.branch {n : Nat} (d : Dev) (h : Hart) (deps : List GReg) (annul : Bool) (off : BitVec n) (holds : Core → Bool) : Dev :=
  let c := d.core h
  if c.run = .running && 0 < c.annul then
    match annulWindow annul off with
    | some _ => d.insn h fun d => d
    | none => d.onCore h fun c => { c.resolve h .cond false false (branchTarget c.pc off) (c.pc + 4) with annul := c.annul - 1 }
  else
    d.inWindow h
      (fun c => (annulWindow annul off).isNone && !(deps.any fun r => c.pendingReg false r.toNat) && c.queued LqEntry.isBranch < 128)
      (fun d => d.onCore h fun c =>
        let target := branchTarget c.windowPc off
        c.queueBranch .cond 0 (holds c) target (if holds c then target else c.windowPc + 4))
      fun d => d.onCore h fun c =>
        match annulWindow annul off with
        | some k => c.openWindow (holds c) k
        | none =>
          let target := branchTarget c.pc off
          c.resolve h .cond true (holds c) target (if holds c then target else c.pc + 4)

/-- BC (R76, R79). -/
def execBc (h : Hart) (ra rb : GReg) (cond : Fin 8) (a : Bool) (off : BitVec 12) (s : State) : Answer :=
  .next (s.onDev fun _ d => d.branch h [ra, rb] a off fun c => condHolds cond (c.getG ra) (c.getG rb))

/-- BZ: compares with zero (R76, R79). -/
def execBz (h : Hart) (ra : GReg) (cond : Fin 8) (a : Bool) (off : BitVec 17) (s : State) : Answer :=
  .next (s.onDev fun _ d => d.branch h [ra] a off fun c => condHolds cond (c.getG ra) 0)

/-- SKIP with n − 1 in its field (R78). -/
def execSkip (h : Hart) (ra rb : GReg) (cond : Fin 8) (n : Fin 4) (s : State) : Answer :=
  .next (s.onDev fun _ d => d.insn h fun d => d.onCore h fun c =>
    c.openWindow (condHolds cond (c.getG ra) (c.getG rb)) (n.val + 1))

/-- J (R76). -/
def execJ (h : Hart) (off : BitVec 26) (s : State) : Answer :=
  .next (s.onDev fun _ d => d.insn h fun d => d.onCore h fun c =>
    c.resolve h .jump true true (branchTarget c.pc off) (branchTarget c.pc off))

/-- JAL: g1 takes the address of the next instruction (R76, R77). -/
def execJal (h : Hart) (off : BitVec 26) (s : State) : Answer :=
  .next (s.onDev fun _ d => d.insn h fun d => d.onCore h fun c =>
    (c.setG 1 (c.pc + 4)).resolve h .call true true (branchTarget c.pc off) (branchTarget c.pc off))

/-- JALR: a target that is not a multiple of 4 raises AL and writes no register (R76, R77). -/
def execJalr (h : Hart) (rd ra : GReg) (imm : BitVec 16) (s : State) : Answer :=
  .next (s.onDev fun a d => d.inWindow h
    (fun c => (effAddr (c.getG ra) imm).toNat % 4 = 0 && !c.pendingReg false ra.toNat && c.queued LqEntry.isBranch < 128)
    (fun d => d.onCore h fun c =>
      let target := effAddr (c.getG ra) imm
      c.queueBranch (jalrKind rd ra) rd true target target)
    fun d =>
      let target := effAddr ((d.core h).getG ra) imm
      if target.toNat % 4 ≠ 0 then (d.faultHere a.tab h (flt 0x03 target)).finish a
      else d.onCore h fun c => (c.setG rd (c.pc + 4)).resolve h (jalrKind rd ra) true true target target)

end Sys2Proof.Machine
end

