-- ==== Sys2Proof/Machine/Database.lean ====
section
/-! DEFINITION. The database scalar instructions (R71 to R73): none writes a flag or raises a fault on a server core; on a
management core the group raises IL (R90). -/

namespace Sys2Proof.Machine

/-- An instruction of the DB group. -/
def Dev.dbInsn (a : Admin) (d : Dev) (h : Hart) (func : Nat) (rd ra rb : GReg) (f : Word → Word → Word) : Dev :=
  d.serverInsn a h (wordRR 0x24 rd ra rb func) fun c => c.setG rd (f (c.getG ra) (c.getG rb))

/-- CRC32C.B: 1 byte of rb (R71). -/
def execCrc32cB (h : Hart) (rd ra rb : GReg) (s : State) : Answer :=
  .next (s.onDev fun a d => d.dbInsn a h 0 rd ra rb fun x y => crcStep polyC 32 1 x y)

/-- CRC32C.H: 2 bytes of rb (R71). -/
def execCrc32cH (h : Hart) (rd ra rb : GReg) (s : State) : Answer :=
  .next (s.onDev fun a d => d.dbInsn a h 1 rd ra rb fun x y => crcStep polyC 32 2 x y)

/-- CRC32C.W: 4 bytes of rb (R71). -/
def execCrc32cW (h : Hart) (rd ra rb : GReg) (s : State) : Answer :=
  .next (s.onDev fun a d => d.dbInsn a h 2 rd ra rb fun x y => crcStep polyC 32 4 x y)

/-- CRC32C.D: 8 bytes of rb (R71). -/
def execCrc32cD (h : Hart) (rd ra rb : GReg) (s : State) : Answer :=
  .next (s.onDev fun a d => d.dbInsn a h 3 rd ra rb fun x y => crcStep polyC 32 8 x y)

/-- CRC64.B: 1 byte of rb (R71). -/
def execCrc64B (h : Hart) (rd ra rb : GReg) (s : State) : Answer :=
  .next (s.onDev fun a d => d.dbInsn a h 4 rd ra rb fun x y => crcStep poly64 64 1 x y)

/-- CRC64.H: 2 bytes of rb (R71). -/
def execCrc64H (h : Hart) (rd ra rb : GReg) (s : State) : Answer :=
  .next (s.onDev fun a d => d.dbInsn a h 5 rd ra rb fun x y => crcStep poly64 64 2 x y)

/-- CRC64.W: 4 bytes of rb (R71). -/
def execCrc64W (h : Hart) (rd ra rb : GReg) (s : State) : Answer :=
  .next (s.onDev fun a d => d.dbInsn a h 6 rd ra rb fun x y => crcStep poly64 64 4 x y)

/-- CRC64.D: 8 bytes of rb (R71). -/
def execCrc64D (h : Hart) (rd ra rb : GReg) (s : State) : Answer :=
  .next (s.onDev fun a d => d.dbInsn a h 7 rd ra rb fun x y => crcStep poly64 64 8 x y)

/-- HMIX (R72). -/
def execHmix (h : Hart) (rd ra rb : GReg) (s : State) : Answer :=
  .next (s.onDev fun a d => d.dbInsn a h 8 rd ra rb fun x y => hmix x y)

/-- POPC: the number of set bits. -/
def execPopc (h : Hart) (rd ra : GReg) (s : State) : Answer :=
  .next (s.onDev fun a d => d.dbInsn a h 9 rd ra 0 fun x _ => word (popcount x))

/-- SELB (R73). -/
def execSelb (h : Hart) (rd ra rb : GReg) (s : State) : Answer :=
  .next (s.onDev fun a d => d.dbInsn a h 10 rd ra rb fun x y => selb x y)

/-- CLZ: 64 for zero. -/
def execClz (h : Hart) (rd ra : GReg) (s : State) : Answer :=
  .next (s.onDev fun a d => d.dbInsn a h 11 rd ra 0 fun x _ => clz x)

/-- CTZ: 64 for zero. -/
def execCtz (h : Hart) (rd ra : GReg) (s : State) : Answer :=
  .next (s.onDev fun a d => d.dbInsn a h 12 rd ra 0 fun x _ => ctz x)

/-- BSWAP. -/
def execBswap (h : Hart) (rd ra : GReg) (s : State) : Answer :=
  .next (s.onDev fun a d => d.dbInsn a h 13 rd ra 0 fun x _ => bswap x)

end Sys2Proof.Machine
end

