-- ==== Sys2Proof/Machine/SystemCommands.lean ====
section
/-! DEFINITION. The commands of a system of sockets: resets (R513), change orders (R40 to R46, R544), crossing links and routes
(R280 to R294), membership and time (R295 to R302), start-up and live service (R488 to R512). -/

namespace Sys2Proof.Machine

/-- A command that changes the berth tables, and the traffic it starts. -/
def State.onTables (s : State) (f : Admin → Dev → Admin × Dev) : State :=
  s.onBoth fun a d =>
    let r := f a d
    (r.1, (r.2.finish r.1).showSteps r.1.tab)

/-- A command that changes only the sockets, and the traffic it starts. -/
def State.onSockets (s : State) (f : Admin → Dev → Dev) : State := s.onDev fun a d => (f a d).finish a

/-! ### Resets -/

/-- COLD_RESET (R513). -/
def execColdReset (sk : Sock) (b : Board) (s : State) : Answer := .next (s.onTables fun a d => coldReset a d sk.val b)

/-- WARM_RESET (R513). -/
def execWarmReset (sk : Sock) (far : BitVec 12) (near : BitVec 16) (s : State) : Answer :=
  .next (s.onTables fun a d => warmReset a d sk.val far near)

/-- BERTH_RESET (R513). -/
def execBerthReset (b : BitVec 6) (s : State) : Answer := .next (s.onTables fun a d => berthReset a d b.toNat)

/-- POD_RESET (R513). -/
def execPodReset (sk : Sock) (pod : Fin 104) (s : State) : Answer :=
  .next (s.onSockets fun a d => d.podReset a.tab sk pod.val)

/-- CORE_RESET (R513). -/
def execCoreReset (h : Hart) (s : State) : Answer := .next (s.onSockets fun a d => d.coreReset a.tab h)

/-- WHR (R502, R513). -/
def execWhr (sk : Sock) (reverified : Bool) (s : State) : Answer :=
  .next (s.onTables fun a d => wheelRestart a d sk.val reverified)

/-- FLR (R417, R418); PF0's resets its engine (R419). -/
def execFlr (sk : Sock) (e : Fin 4) (f : Fin 256) (s : State) : Answer :=
  .next (s.onSockets fun a d =>
    if f.val = 0 then d.engineReset a.tab sk.val e.val else d.flrStart a.tab sk.val e.val f.val)

/-- STANDBY_BOOT_TIMEOUT (R20). -/
def execStandbyBootTimeout (sk : Sock) (flashOk : Bool) (s : State) : Answer :=
  .next (s.onTables fun a d => standbyBoot a d sk.val flashOk)

/-! ### Change orders; a join that waited for the end of an order follows it (R295) -/

/-- SUBMIT (R42, R544). -/
def execSubmit (sk : Sock) (slip : BitVec 8) (s : State) : Answer :=
  .next (s.onTables fun a d =>
    let r := submit a d sk.val slip.toNat
    joinsDue r.1 r.2)

/-- REMOVAL_ACK (R44). -/
def execRemovalAck (sk : Sock) (slip : BitVec 8) (s : State) : Answer :=
  .next (s.onTables fun a d =>
    let r := removalAck a d sk.val slip.toNat
    joinsDue r.1 r.2)

/-- DRAIN_TIMEOUT (R44). -/
def execDrainTimeout (s : State) : Answer :=
  .next (s.onTables fun a d =>
    let r := drainTimeout a d
    joinsDue r.1 r.2)

/-- EPOCH_BOUNDARY (R37, R39). -/
def execEpochBoundary (sk : Sock) (s : State) : Answer := .next (s.onDev fun a d => d.epochBoundary a.tab sk.val)

/-! ### Crossing links -/

/-- LINK_DETECT (R280). -/
def execLinkDetect (sk : Sock) (k : Fin 8) (lanes : BitVec 17) (s : State) : Answer :=
  .next (s.onDev fun _ d => d.linkDetect sk.val k.val lanes)

/-- LINK_EQUALIZE (R280). -/
def execLinkEqualize (sk : Sock) (k : Fin 8) (lanes : BitVec 17) (s : State) : Answer :=
  .next (s.onDev fun _ d => d.linkEqualize sk.val k.val lanes)

/-- IDENTIFY (R281). -/
def execIdentify (sk : Sock) (k : Fin 8) (peer : BitVec 4) (peerLink : BitVec 3) (s : State) : Answer :=
  .next (s.onDev fun _ d => d.linkIdentify sk.val k.val peer.toNat peerLink.toNat)

/-- TRAINING_TIMEOUT (R282). -/
def execTrainingTimeout (sk : Sock) (k : Fin 8) (s : State) : Answer :=
  .next (s.onDev fun _ d => d.trainingTimeout sk.val k.val)

/-- FLIT (R283 to R288): the messages it completes go on into the mesh. -/
def execFlit (sk : Sock) (k : Fin 8) (f : Flit) (s : State) : Answer :=
  .next (s.onSockets fun _ d => d.flit sk.val k.val f)

/-- NAK (R287). -/
def execNak (sk : Sock) (k : Fin 8) (ack : BitVec 10) (s : State) : Answer :=
  .next (s.onDev fun _ d => d.nakd sk.val k.val ack.toNat)

/-- LANE_CHECK (R290). -/
def execLaneCheck (sk : Sock) (k : Fin 8) (failed : BitVec 17) (s : State) : Answer :=
  .next (s.onDev fun _ d => d.laneCheck sk.val k.val failed)

/-! ### Routes, membership, time -/

/-- ROUTE_SWITCH (R294). -/
def execRouteSwitch (at_ : Word) (s : State) : Answer := .next (s.onDev fun _ d => d.routeSwitch at_)

/-- SWITCH_TIME (R294). -/
def execSwitchTime (sk : Sock) (s : State) : Answer := .next (s.onDev fun _ d => d.switchTime sk.val)

/-- JOIN (R295). -/
def execJoin (sk via : Sock) (verified : Bool) (s : State) : Answer :=
  .next (s.onTables fun a d => join a d sk.val via.val verified)

/-- LEAVE (R297). -/
def execLeave (sk : Sock) (s : State) : Answer := .next (s.onTables fun a d => leaveRequest a d sk.val)

/-- HEARTBEAT (R300). -/
def execHeartbeat (sk : Sock) (s : State) : Answer := .next (s.onDev fun _ d => d.heartbeat sk.val)

/-- SOCKET_SILENT (R298, R300, R301). -/
def execSocketSilent (sk silent : Sock) (s : State) : Answer :=
  .next (s.onTables fun a d => socketSilent a d sk.val silent.val)

/-- CROSSING_TIMEOUT (R299). -/
def execCrossingTimeout (n : Node) (txn : BitVec 12) (s : State) : Answer :=
  .next (s.onSockets fun a d => d.crossingTimeout a.tab n txn)

/-- TIME_SYNC (R302). -/
def execTimeSync (sk : Sock) (offset : BitVec 8) (s : State) : Answer := .next (s.onDev fun _ d => d.timeSync sk.val offset)

/-- STOP_MESSAGE (R384): a Fatal-system stop message that came over an ACTIVE crossing from a neighbour. -/
def execStopMessage (sk from_ : Sock) (s : State) : Answer :=
  .next (s.onDev fun _ d => if (d.usable sk.val from_.val).isEmpty then d else d.fatalStop sk.val 2)

/-! ### Start-up -/

/-- JOIN_WAIT_EXPIRY (R490). -/
def execJoinWaitExpiry (sk : Sock) (s : State) : Answer := .next (s.onDev fun _ d => d.joinWaitOver sk.val)

/-- BERTH_RELEASE (R491). -/
def execBerthRelease (b : BitVec 6) (s : State) : Answer := .next (s.onTables fun a d => berthRelease a d b.toNat)

/-! ### Live service -/

/-- FIRMWARE_UPDATE (R501). -/
def execFirmwareUpdate (sk : Sock) (image : List Byte) (s : State) : Answer :=
  .next (s.onDev fun a d => d.firmwareUpdate a sk.val image)

/-- ACTIVATE (R502). -/
def execActivate (sk : Sock) (s : State) : Answer := .next (s.onTables fun a d => activate a d sk.val)

/-- MICROCODE_ROLL_OUT (R504). -/
def execMicrocodeRollOut (sk : Sock) (s : State) : Answer := .next (s.onSockets fun a d => d.rollOut a.tab sk.val)

/-- POD_QUIESCE (R504). -/
def execPodQuiesce (sk : Sock) (pod : Fin 104) (s : State) : Answer :=
  .next (s.onSockets fun a d => d.podQuiesce a.tab sk.val pod.val)

/-- SPARE_POD_SUBSTITUTION (R506). -/
def execSparePodSubstitution (sk : Sock) (pod : Fin 104) (s : State) : Answer :=
  .next (s.onTables fun a d => podSubstitution a d sk.val pod.val)

/-- CHANNEL_REMOVAL (R510). -/
def execChannelRemoval (sk : Sock) (ch : Fin 12) (s : State) : Answer :=
  .next (s.onSockets fun a d => d.channelRemoval a.tab sk.val ch.val)

/-- CHANNEL_RETURN (R510). -/
def execChannelReturn (sk : Sock) (ch : Fin 12) (dimms : List Dimm) (trained : Bool) (s : State) : Answer :=
  .next (s.onSockets fun a d => d.channelReturn a.tab sk.val ch.val dimms trained)

/-- EXPANDER_REMOVAL (R321, R511). -/
def execExpanderRemoval (sk : Sock) (port : Fin 4) (s : State) : Answer :=
  .next (s.onSockets fun a d => d.expanderRemoval a.tab sk.val port.val)

/-- RE_ADMISSION (R512). -/
def execReAdmission (sk : Sock) (n : Fin 512) (passed : Bool) (s : State) : Answer :=
  .next (s.onSockets fun a d => d.reAdmission a.tab sk.val n.val passed)

end Sys2Proof.Machine
end

