-- ==== Sys2Proof/Machine/FerryCommands.lean ====
section
/-! DEFINITION. The work of the ferry engines and of the host bus as commands (R394 to R428): a descriptor operation runs the
descriptor at its queue's HEAD. -/

namespace Sys2Proof.Machine

/-! ### Descriptor operations -/

/-- NOP (R396). -/
def execNop (sk : Sock) (e : Fin 4) (f : Fin 256) (i : Fin 4096) (s : State) : Answer :=
  .next (s.onSockets fun a d => d.runOp a.tab sk.val e.val f.val i.val 0)

/-- COPY (R396). -/
def execCopy (sk : Sock) (e : Fin 4) (f : Fin 256) (i : Fin 4096) (s : State) : Answer :=
  .next (s.onSockets fun a d => d.runOp a.tab sk.val e.val f.val i.val 1)

/-- FILL (R396). -/
def execFill (sk : Sock) (e : Fin 4) (f : Fin 256) (i : Fin 4096) (s : State) : Answer :=
  .next (s.onSockets fun a d => d.runOp a.tab sk.val e.val f.val i.val 2)

/-- COMPARE (R396). -/
def execCompare (sk : Sock) (e : Fin 4) (f : Fin 256) (i : Fin 4096) (s : State) : Answer :=
  .next (s.onSockets fun a d => d.runOp a.tab sk.val e.val f.val i.val 3)

/-- COMPARE_PAT (R396). -/
def execComparePat (sk : Sock) (e : Fin 4) (f : Fin 256) (i : Fin 4096) (s : State) : Answer :=
  .next (s.onSockets fun a d => d.runOp a.tab sk.val e.val f.val i.val 4)

/-- CRC32C (R396). -/
def execCrc32c (sk : Sock) (e : Fin 4) (f : Fin 256) (i : Fin 4096) (s : State) : Answer :=
  .next (s.onSockets fun a d => d.runOp a.tab sk.val e.val f.val i.val 8)

/-- CRC64 (R396). -/
def execCrc64 (sk : Sock) (e : Fin 4) (f : Fin 256) (i : Fin 4096) (s : State) : Answer :=
  .next (s.onSockets fun a d => d.runOp a.tab sk.val e.val f.val i.val 9)

/-- COPY_CRC32C (R396). -/
def execCopyCrc32c (sk : Sock) (e : Fin 4) (f : Fin 256) (i : Fin 4096) (s : State) : Answer :=
  .next (s.onSockets fun a d => d.runOp a.tab sk.val e.val f.val i.val 10)

/-- COPY_CRC64 (R396). -/
def execCopyCrc64 (sk : Sock) (e : Fin 4) (f : Fin 256) (i : Fin 4096) (s : State) : Answer :=
  .next (s.onSockets fun a d => d.runOp a.tab sk.val e.val f.val i.val 11)

/-- DEFLATE_C (R400). -/
def execDeflateC (sk : Sock) (e : Fin 4) (f : Fin 256) (i : Fin 4096) (s : State) : Answer :=
  .next (s.onSockets fun a d => d.runOp a.tab sk.val e.val f.val i.val 16)

/-- DEFLATE_D (R400). -/
def execDeflateD (sk : Sock) (e : Fin 4) (f : Fin 256) (i : Fin 4096) (s : State) : Answer :=
  .next (s.onSockets fun a d => d.runOp a.tab sk.val e.val f.val i.val 17)

/-- LZ4_C (R400). -/
def execLz4C (sk : Sock) (e : Fin 4) (f : Fin 256) (i : Fin 4096) (s : State) : Answer :=
  .next (s.onSockets fun a d => d.runOp a.tab sk.val e.val f.val i.val 18)

/-- LZ4_D (R400). -/
def execLz4D (sk : Sock) (e : Fin 4) (f : Fin 256) (i : Fin 4096) (s : State) : Answer :=
  .next (s.onSockets fun a d => d.runOp a.tab sk.val e.val f.val i.val 19)

/-- DESCRIPTOR_COMPLETION (R397, R402). -/
def execDescriptorCompletion (sk : Sock) (e : Fin 4) (f : Fin 256) (i : Fin 4096) (s : State) : Answer :=
  .next (s.onSockets fun a d => d.complete a.tab sk.val e.val f.val i.val)

/-! ### Time-outs, tags, messages -/

/-- A read without its data in time (R414, R426): a ferry function's descriptor, or the core load behind a root port. -/
def Dev.cplTimeout (d : Dev) (n : Node) (txn : Nat) : Dev :=
  match n with
  | .ferry s e f => d.ferryTimeout s.val e.val f.val txn
  | .port s p => ((d.port s.val p.val).loads.filter fun x => x.2 = txn).foldl (fun d x => d.loadTimeout x.1 x.2) d
  | _ => d.loadTimeout n txn

/-- CPL_TIMEOUT (R414). -/
def execCplTimeout (n : Node) (txn : BitVec 12) (s : State) : Answer := .next (s.onSockets fun _ d => d.cplTimeout n txn.toNat)

/-- TAG_QUARANTINE_END (R414). -/
def execTagQuarantineEnd (sk : Sock) (e : Fin 4) (f : Fin 256) (tag : BitVec 14) (s : State) : Answer :=
  .next (s.onDev fun _ d => d.tagFree sk.val e.val f.val tag.toNat)

/-- FLR_READ_END (R417). -/
def execFlrReadEnd (sk : Sock) (e : Fin 4) (f : Fin 256) (s : State) : Answer :=
  .next (s.onDev fun a d => d.flrReadEnd a.tab sk.val e.val f.val)

/-- MSI_X_MESSAGE (R412). -/
def execMsiXMessage (sk : Sock) (e : Fin 4) (f : Fin 256) (vec : Fin 2048) (s : State) : Answer :=
  .next (s.onSockets fun a d => d.msixSend a.tab sk.val e.val f.val vec.val)

/-! ### Root ports -/

/-- DMA_READ (R424). -/
def execDmaRead (r : DmaReq) (s : State) : Answer := .next (s.onSockets fun a d => d.dmaRead a.tab r)

/-- DMA_WRITE (R424). -/
def execDmaWrite (r : DmaReq) (bytes : List Byte) (poisoned : Bool) (s : State) : Answer :=
  .next (s.onSockets fun a d => d.dmaWrite a.tab r bytes poisoned)

/-- PEER_REQUEST (R425). -/
def execPeerRequest (r : DmaReq) (write : Bool) (bytes : List Byte) (s : State) : Answer :=
  .next (s.onSockets fun a d => d.peerRequest a.tab r write bytes)

/-- ATOMICOP_REQUEST (R421). -/
def execAtomicopRequest (r : DmaReq) (op size : Fin 3) (x y : BitVec 128) (s : State) : Answer :=
  .next (s.onSockets fun a d => d.atomicRequest a.tab r op.val size.val x y)

/-- SURPRISE_REMOVAL (R427). -/
def execSurpriseRemoval (sk : Sock) (port : Fin 32) (dpc : Bool) (s : State) : Answer :=
  .next (s.onSockets fun a d => d.surprise a.tab sk.val port.val dpc)

/-- HOT_PLUG_INSERTION (R421). -/
def execHotPlugInsertion (sk : Sock) (port : Fin 32) (speed : BitVec 4) (width : BitVec 5) (s : State) : Answer :=
  .next (s.onSockets fun a d => d.hotPlug a.tab sk.val port.val speed.toNat width.toNat)

end Sys2Proof.Machine
end

