-- ==== Sys2Proof/Machine/Float.lean ====
section
/-! DEFINITION. Scalar floating point (R59, R60): results rounded by SYS_FCSR.RM, flags set in SYS_FCSR.FLAGS, no trap; on a
management core the groups raise IL (R90). -/

namespace Sys2Proof.Machine

/-- The answer of a floating-point instruction retires: rd and the sticky flags. -/
def Core.fpDone (c : Core) (rd : GReg) (r : Word × BitVec 5) : Core := (c.setG rd r.1).setFlags r.2

/-- A scalar floating-point instruction. -/
def Dev.fpInsn (a : Admin) (d : Dev) (h : Hart) (w : Word) (rd : GReg) (f : Core → Word × BitVec 5) : Dev :=
  d.serverInsn a h w fun c => c.fpDone rd (f c)

/-- An instruction word of FP-R: func with the width in bit 10. -/
def wordFp (d : Bool) (rd ra rb : GReg) (func : Nat) : Word := wordRR 0x0C rd ra rb (func + d.toNat * 1024)

/-- An instruction word of FP-F. -/
def wordFma (d : Bool) (rd ra rb rc : GReg) (k : Nat) : Word := wordRR 0x0D rd ra rb (rc.toNat * 64 + k * 2 + d.toNat)

/-- A fused multiply-add of two encodings and a third, the product and the addend negated as asked. -/
def fpFma (d : Bool) (rm : Rm) (negProd negAdd : Bool) (x y z : Word) : Word × BitVec 5 :=
  let f := fmtOf d
  let a := if negProd then (f.unpack x).neg else f.unpack x
  let c := if negAdd then (f.unpack z).neg else f.unpack z
  let r := f.fma rm a (f.unpack y) c
  (word r.1, r.2)

/-- A relation's result as rd and flags. -/
def fpRel (d : Bool) (k : Nat) (x y : Word) : Word × BitVec 5 :=
  let r := (fmtOf d).rel k x y
  (ofBool r.1, r.2)

/-- FADD (R59). -/
def execFadd (h : Hart) (dbl : Bool) (rd ra rb : GReg) (s : State) : Answer :=
  .next (s.onDev fun a d => d.fpInsn a h (wordFp dbl rd ra rb 0) rd fun c => fpBin dbl c.rm Fmt.add (c.getG ra) (c.getG rb))

/-- FSUB (R59). -/
def execFsub (h : Hart) (dbl : Bool) (rd ra rb : GReg) (s : State) : Answer :=
  .next (s.onDev fun a d => d.fpInsn a h (wordFp dbl rd ra rb 1) rd fun c => fpBin dbl c.rm Fmt.sub (c.getG ra) (c.getG rb))

/-- FMUL (R59). -/
def execFmul (h : Hart) (dbl : Bool) (rd ra rb : GReg) (s : State) : Answer :=
  .next (s.onDev fun a d => d.fpInsn a h (wordFp dbl rd ra rb 2) rd fun c => fpBin dbl c.rm Fmt.mul (c.getG ra) (c.getG rb))

/-- FDIV (R59). -/
def execFdiv (h : Hart) (dbl : Bool) (rd ra rb : GReg) (s : State) : Answer :=
  .next (s.onDev fun a d => d.fpInsn a h (wordFp dbl rd ra rb 3) rd fun c => fpBin dbl c.rm Fmt.div (c.getG ra) (c.getG rb))

/-- A result of the format as a register value. -/
def fpRes (r : FRes) : Word × BitVec 5 := (word r.1, r.2)

/-- FSQRT (R59). -/
def execFsqrt (h : Hart) (dbl : Bool) (rd ra : GReg) (s : State) : Answer :=
  .next (s.onDev fun a d => d.fpInsn a h (wordFp dbl rd ra 0 4) rd fun c => fpRes ((fmtOf dbl).sqrt c.rm ((fmtOf dbl).unpack (c.getG ra))))

/-- FMIN: minimumNumber (R59). -/
def execFmin (h : Hart) (dbl : Bool) (rd ra rb : GReg) (s : State) : Answer :=
  .next (s.onDev fun a d => d.fpInsn a h (wordFp dbl rd ra rb 5) rd fun c => fpMinmax dbl false (c.getG ra) (c.getG rb))

/-- FMAX: maximumNumber (R59). -/
def execFmax (h : Hart) (dbl : Bool) (rd ra rb : GReg) (s : State) : Answer :=
  .next (s.onDev fun a d => d.fpInsn a h (wordFp dbl rd ra rb 6) rd fun c => fpMinmax dbl true (c.getG ra) (c.getG rb))

/-- FEQ, quiet (R59). -/
def execFeq (h : Hart) (dbl : Bool) (rd ra rb : GReg) (s : State) : Answer :=
  .next (s.onDev fun a d => d.fpInsn a h (wordFp dbl rd ra rb 8) rd fun c => fpRel dbl 0 (c.getG ra) (c.getG rb))

/-- FLT, signalling (R59). -/
def execFlt (h : Hart) (dbl : Bool) (rd ra rb : GReg) (s : State) : Answer :=
  .next (s.onDev fun a d => d.fpInsn a h (wordFp dbl rd ra rb 9) rd fun c => fpRel dbl 1 (c.getG ra) (c.getG rb))

/-- FLE, signalling (R59). -/
def execFle (h : Hart) (dbl : Bool) (rd ra rb : GReg) (s : State) : Answer :=
  .next (s.onDev fun a d => d.fpInsn a h (wordFp dbl rd ra rb 10) rd fun c => fpRel dbl 2 (c.getG ra) (c.getG rb))

/-- FCVT.I: to a signed 64-bit integer by RM (R59). -/
def execFcvtI (h : Hart) (dbl : Bool) (rd ra : GReg) (s : State) : Answer :=
  .next (s.onDev fun a d => d.fpInsn a h (wordFp dbl rd ra 0 12) rd fun c => (fmtOf dbl).toInt c.rm (c.getG ra))

/-- FCVT.F: from a signed 64-bit integer by RM (R59). -/
def execFcvtF (h : Hart) (dbl : Bool) (rd ra : GReg) (s : State) : Answer :=
  .next (s.onDev fun a d => d.fpInsn a h (wordFp dbl rd ra 0 13) rd fun c => fpRes ((fmtOf dbl).ofInt c.rm (c.getG ra)))

/-- FCVT.W: binary32 to binary64, or binary64 to binary32 (R59). -/
def execFcvtW (h : Hart) (dbl : Bool) (rd ra : GReg) (s : State) : Answer :=
  .next (s.onDev fun a d => d.fpInsn a h (wordFp dbl rd ra 0 14) rd fun c => fpRes ((fmtOf dbl).ofFmt (fmtOf (!dbl)) c.rm (c.getG ra)))

/-- FMA: ra × rb + rc, one rounding (R59). -/
def execFma (h : Hart) (dbl : Bool) (rd ra rb rc : GReg) (s : State) : Answer :=
  .next (s.onDev fun a d => d.fpInsn a h (wordFma dbl rd ra rb rc 0) rd fun c =>
    fpFma dbl c.rm false false (c.getG ra) (c.getG rb) (c.getG rc))

/-- FMS: ra × rb − rc, one rounding (R59). -/
def execFms (h : Hart) (dbl : Bool) (rd ra rb rc : GReg) (s : State) : Answer :=
  .next (s.onDev fun a d => d.fpInsn a h (wordFma dbl rd ra rb rc 1) rd fun c =>
    fpFma dbl c.rm false true (c.getG ra) (c.getG rb) (c.getG rc))

/-- FNMA: −(ra × rb) + rc, one rounding (R59). -/
def execFnma (h : Hart) (dbl : Bool) (rd ra rb rc : GReg) (s : State) : Answer :=
  .next (s.onDev fun a d => d.fpInsn a h (wordFma dbl rd ra rb rc 2) rd fun c =>
    fpFma dbl c.rm true false (c.getG ra) (c.getG rb) (c.getG rc))

/-- FNMS: −(ra × rb) − rc, one rounding (R59). -/
def execFnms (h : Hart) (dbl : Bool) (rd ra rb rc : GReg) (s : State) : Answer :=
  .next (s.onDev fun a d => d.fpInsn a h (wordFma dbl rd ra rb rc 3) rd fun c =>
    fpFma dbl c.rm true true (c.getG ra) (c.getG rb) (c.getG rc))

end Sys2Proof.Machine
end

