-- ==== Sys2Proof/Machine/MemCommands.lean ====
section
/-! DEFINITION. The events of memory (R319 to R372), tiering (R335 to R345), fault collection (R382, R389), counters (R451 to
R454) and power (R461 to R468, R529). -/

namespace Sys2Proof.Machine

/-! ### Memory channels and expanders -/

/-- CHANNEL_RETRAIN (R323 to R326). -/
def execChannelRetrain (sk : Sock) (far : Bool) (ch : Fin 16) (ok : Bool) (ns : BitVec 16) (s : State) : Answer :=
  .next (s.onDev fun _ d => d.retrain sk.val far ch.val ok ns.toNat)

/-- CXL_MEM_TIMEOUT (R320). -/
def execCxlMemTimeout (sk : Sock) (port : Fin 4) (s : State) : Answer :=
  .next (s.onDev fun _ d => d.cxlTimeout sk.val port.val)

/-- CXL_HOT_ADD (R321). -/
def execCxlHotAdd (sk : Sock) (port : Fin 4) (gibs : Nat) (s : State) : Answer :=
  .next (s.onDev fun _ d => d.cxlAdd sk.val port.val gibs)

/-- CXL_SURPRISE_REMOVAL (R321). -/
def execCxlSurpriseRemoval (sk : Sock) (port : Fin 4) (s : State) : Answer :=
  .next (s.onDev fun a d => d.cxlLost a.tab sk.val port.val)

/-- SCRUB_READ (R359, R360). -/
def execScrubRead (sk : Sock) (far : Bool) (ch : Fin 16) (r : ReadResult) (s : State) : Answer :=
  .next (s.onDev fun a d => d.scrub a.tab sk.val far ch.val r)

/-- GDDR6_CRC_RETRY (R355). -/
def execGddr6CrcRetry (sk : Sock) (ch : Fin 16) (write : Bool) (la : PAddr) (retries : Fin 5) (s : State) : Answer :=
  .next (s.onDev fun a d => d.gddr6 a.tab sk.val ch.val write la.toNat retries.val)

/-- UNCORRECTABLE_REREAD (R357). -/
def execUncorrectableReread (sk : Sock) (far : Bool) (ch : Fin 16) (la : PAddr) (second : ReadResult) (s : State) : Answer :=
  .next (s.onDev fun a d => d.reread a.tab sk.val far ch.val la.toNat second)

/-- SOFT_PPR (R371, R372). -/
def execSoftPpr (sk : Sock) (ch : Fin 12) (rank : Fin 16) (sub : Fin 2) (bg : Fin 8) (bank : Fin 4) (row : BitVec 18) (s : State) :
    Answer :=
  .next (s.onDev fun _ d => d.softPpr sk.val ch.val
    { ch := ch.val, rank := rank.val, sub := sub.val, bg := bg.val, bank := bank.val, row := row.toNat, col := 0 })

/-! ### Tiering -/

/-- COPY_START (R342). -/
def execCopyStart (sk : Sock) (u : Fin 2) (s : State) : Answer := .next (s.onDev fun a d => d.copyStart a.tab sk.val u.val)

/-- COPY_WRITE_PHASE (R342): the requests that waited for its pages go on. -/
def execCopyWritePhase (sk : Sock) (u : Fin 2) (slot : Fin 8) (s : State) : Answer :=
  .next (s.onSockets fun a d => d.copyWrite a.tab sk.val u.val slot.val)

/-- COPY_ABANDON (R343). -/
def execCopyAbandon (sk : Sock) (u : Fin 2) (slot : Fin 8) (s : State) : Answer :=
  .next (s.onSockets fun _ d => d.copyAbandon sk.val u.val slot.val)

/-- TIERING_EPOCH_END (R341). -/
def execTieringEpochEnd (sk : Sock) (s : State) : Answer := .next (s.onDev fun _ d => d.tieringEpochEnd sk.val)

/-- REMAP_CACHE_FILL (R335): a hub has 458,752 sets, and an engine that is off makes no lookup. -/
def execRemapCacheFill (sk : Sock) (u : Fin 2) (set : Nat) (s : State) : Answer :=
  .next (s.onDev fun _ d =>
    if set < 458752 && d.fld sk.val .teHubCfg u.val 0 63 63 = 1 then d.fillSet sk.val u.val set else d)

/-! ### Fault collection -/

/-- FAULT_MESSAGE (R382, R384). -/
def execFaultMessage (sk : Sock) (s : State) : Answer := .next (s.onTables fun a d => collect a d sk.val)

/-- QUIET_PERIOD_END (R389). -/
def execQuietPeriodEnd (sk : Sock) (n : Fin 512) (passed : Bool) (s : State) : Answer :=
  .next (s.onSockets fun a d => d.quietEnd a.tab sk.val n.val passed)

/-! ### Counters -/

/-- SNAPSHOT (R451, R454). -/
def execSnapshot (sk : Sock) (b : BitVec 6) (s : State) : Answer := .next (s.onDev fun a d => d.snapshot a.tab sk.val b.toNat)

/-- SNAPSHOT_RECORD_DONE (R452). -/
def execSnapshotRecordDone (sk : Sock) (b : BitVec 6) (s : State) : Answer :=
  .next (s.onSockets fun a d => d.snapshotDone a.tab sk.val b.toNat)

/-! ### Clocks and power -/

/-- SUPPLY_DIP (R466). -/
def execSupplyDip (sk : Sock) (rail : Fin 14) (s : State) : Answer :=
  .next (s.onSockets fun _ d => d.supplyDip sk.val rail.val)

/-- DIP_END (R467, R475). -/
def execDipEnd (sk : Sock) (s : State) : Answer := .next (s.onTables fun a d => dipEndAll a d sk.val)

/-- RAIL_RESET_THRESHOLD (R468). -/
def execRailResetThreshold (sk : Sock) (rail : Fin 14) (b : Board) (s : State) : Answer :=
  .next (s.onTables fun a d => railReset a d sk.val rail.val b)

/-- POWER_SAMPLE (R465). -/
def execPowerSample (sk : Sock) (millivolts milliamperes : List Nat) (answered : BitVec 14) (s : State) : Answer :=
  .next (s.onDev fun _ d => d.powerSample sk.val (railReadings millivolts milliamperes answered))

/-- THERMAL_SAMPLE (R529). -/
def execThermalSample (sk : Sock) (tiles hubs : List Int) (s : State) : Answer :=
  .next (s.onDev fun _ d => d.thermalSample sk.val (tiles ++ hubs))

/-- STEP_CHANGE (R461). -/
def execStepChange (sk : Sock) (pod : Fin 104) (railReady : Bool) (s : State) : Answer :=
  .next (s.onDev fun _ d => d.stepChange sk.val pod.val railReady)

/-- TIME_BASE_LOCK_LOSS (R379, R460). -/
def execTimeBaseLockLoss (sk : Sock) (s : State) : Answer := .next (s.onDev fun _ d => d.timeLockLoss sk.val)

/-! ### The management port (R526) -/

/-- POWER. -/
def execPower (sk : Sock) (req : Byte) (b : Board) (s : State) : Answer :=
  .next (s.onTables fun a d => powerRequest a d sk.val req.toNat b)

/-- SERVICE (R500). -/
def execService (sk : Sock) (op : BitVec 4) (arg : BitVec 16) (s : State) : Answer :=
  .next (s.onDev fun a d => d.serviceRequest a sk.val op.toNat arg.toNat)

/-- STATUS. -/
def execStatus (sk : Sock) (s : State) : Answer := .next (s.onDev fun _ d => d.statusRequest sk.val)

/-- FAULTS. -/
def execFaults (sk : Sock) (s : State) : Answer := .next (s.onDev fun _ d => d.faultsRequest sk.val)

/-- IDENTITY. -/
def execIdentity (sk : Sock) (s : State) : Answer := .next (s.onDev fun _ d => d.identityRequest sk.val)

/-- TRAINING. -/
def execTraining (sk : Sock) (unit_ : BitVec 12) (s : State) : Answer :=
  .next (s.onDev fun _ d => d.trainingRequest sk.val unit_.toNat)

/-- JTAG_TEST_REQUEST (R472). -/
def execJtagTestRequest (sk : Sock) (s : State) : Answer := .next (s.onDev fun _ d => d.jtagRequest sk.val)

end Sys2Proof.Machine
end

