-- ==== Sys2Proof/Machine/MemInsn.lean ====
section
/-! DEFINITION. The memory instructions (R61 to R66, R69, R70, R74). -/

namespace Sys2Proof.Machine

/-- A load of the I format. -/
def Dev.loadI (a : Admin) (d : Dev) (h : Hart) (rd ra : GReg) (imm : BitVec 16) (signed : Bool) (size : Nat) : Dev :=
  (d.loadInsn a.tab h [ra] (fun c => effAddr (c.getG ra) imm) rd false signed size).finish a

/-- A store of the I format. -/
def Dev.storeI (a : Admin) (d : Dev) (h : Hart) (rs ra : GReg) (imm : BitVec 16) (size : Nat) : Dev :=
  (d.storeInsn a.tab h { ra := ra.toNat, rb := none, imm, rs := rs.toNat, vec := false, n := size }).finish a

/-- LB: 1 byte, sign-extended (R61). -/
def execLb (h : Hart) (rd ra : GReg) (imm : BitVec 16) (s : State) : Answer :=
  .next (s.onDev fun a d => d.loadI a h rd ra imm true 1)

/-- LBU: 1 byte, zero-extended (R61). -/
def execLbu (h : Hart) (rd ra : GReg) (imm : BitVec 16) (s : State) : Answer :=
  .next (s.onDev fun a d => d.loadI a h rd ra imm false 1)

/-- LH: 2 bytes, sign-extended (R61). -/
def execLh (h : Hart) (rd ra : GReg) (imm : BitVec 16) (s : State) : Answer :=
  .next (s.onDev fun a d => d.loadI a h rd ra imm true 2)

/-- LHU: 2 bytes, zero-extended (R61). -/
def execLhu (h : Hart) (rd ra : GReg) (imm : BitVec 16) (s : State) : Answer :=
  .next (s.onDev fun a d => d.loadI a h rd ra imm false 2)

/-- LW: 4 bytes, sign-extended (R61). -/
def execLw (h : Hart) (rd ra : GReg) (imm : BitVec 16) (s : State) : Answer :=
  .next (s.onDev fun a d => d.loadI a h rd ra imm true 4)

/-- LWU: 4 bytes, zero-extended (R61). -/
def execLwu (h : Hart) (rd ra : GReg) (imm : BitVec 16) (s : State) : Answer :=
  .next (s.onDev fun a d => d.loadI a h rd ra imm false 4)

/-- LD: 8 bytes (R61). -/
def execLd (h : Hart) (rd ra : GReg) (imm : BitVec 16) (s : State) : Answer :=
  .next (s.onDev fun a d => d.loadI a h rd ra imm false 8)

/-- SB: the low 1 byte of rs (R61). -/
def execSb (h : Hart) (rs ra : GReg) (imm : BitVec 16) (s : State) : Answer :=
  .next (s.onDev fun a d => d.storeI a h rs ra imm 1)

/-- SH: the low 2 bytes of rs (R61). -/
def execSh (h : Hart) (rs ra : GReg) (imm : BitVec 16) (s : State) : Answer :=
  .next (s.onDev fun a d => d.storeI a h rs ra imm 2)

/-- SW: the low 4 bytes of rs (R61). -/
def execSw (h : Hart) (rs ra : GReg) (imm : BitVec 16) (s : State) : Answer :=
  .next (s.onDev fun a d => d.storeI a h rs ra imm 4)

/-- SD: the low 8 bytes of rs (R61). -/
def execSd (h : Hart) (rs ra : GReg) (imm : BitVec 16) (s : State) : Answer :=
  .next (s.onDev fun a d => d.storeI a h rs ra imm 8)

/-- VL: 64 bytes to a v register (R61). -/
def execVl (h : Hart) (vd : VReg) (ra : GReg) (imm : BitVec 16) (s : State) : Answer :=
  .next (s.onDev fun a d => (d.loadInsn a.tab h [ra] (fun c => effAddr (c.getG ra) imm) vd true false 64).finish a)

/-- VS: 64 bytes from a v register (R61). -/
def execVs (h : Hart) (vs : VReg) (ra : GReg) (imm : BitVec 16) (s : State) : Answer :=
  .next (s.onDev fun a d => (d.storeInsn a.tab h { ra := ra.toNat, rb := none, imm, rs := vs.toNat, vec := true, n := 64 }).finish a)

/-- LDX: ra plus rb shifted by the scale; with vector, 64 bytes to a v register (R61). -/
def execLdx (h : Hart) (rd ra rb : GReg) (size : Fin 4) (zext : Bool) (scale : Fin 4) (vector : Bool) (s : State) : Answer :=
  .next (s.onDev fun a d => (d.loadInsn a.tab h [ra, rb] (fun c => idxAddr (c.getG ra) (c.getG rb) scale) rd vector (!zext)
    (if vector then 64 else sizeOf' size)).finish a)

/-- STX: the store data register is the rd field (R61). -/
def execStx (h : Hart) (rs ra rb : GReg) (size : Fin 4) (scale : Fin 4) (vector : Bool) (s : State) : Answer :=
  .next (s.onDev fun a d => (d.storeInsn a.tab h
    { ra := ra.toNat, rb := some (rb.toNat, scale), imm := 0, rs := rs.toNat, vec := vector, n := if vector then 64 else sizeOf' size }).finish a)

/-- AADD: stores old + rb, rd takes the old value (R65). -/
def execAadd (h : Hart) (o : AOp) (s : State) : Answer :=
  .next (s.onDev fun a d => (d.atomInsn a.tab h 0 false o).finish a)

/-- AAND: stores old AND rb, rd takes the old value (R65). -/
def execAand (h : Hart) (o : AOp) (s : State) : Answer :=
  .next (s.onDev fun a d => (d.atomInsn a.tab h 1 false o).finish a)

/-- AOR: stores old OR rb, rd takes the old value (R65). -/
def execAor (h : Hart) (o : AOp) (s : State) : Answer :=
  .next (s.onDev fun a d => (d.atomInsn a.tab h 2 false o).finish a)

/-- AXOR: stores old XOR rb, rd takes the old value (R65). -/
def execAxor (h : Hart) (o : AOp) (s : State) : Answer :=
  .next (s.onDev fun a d => (d.atomInsn a.tab h 3 false o).finish a)

/-- AMIN: stores the signed minimum, rd takes the old value (R65). -/
def execAmin (h : Hart) (o : AOp) (s : State) : Answer :=
  .next (s.onDev fun a d => (d.atomInsn a.tab h 4 false o).finish a)

/-- AMAX: stores the signed maximum, rd takes the old value (R65). -/
def execAmax (h : Hart) (o : AOp) (s : State) : Answer :=
  .next (s.onDev fun a d => (d.atomInsn a.tab h 5 false o).finish a)

/-- AMINU: stores the unsigned minimum, rd takes the old value (R65). -/
def execAminu (h : Hart) (o : AOp) (s : State) : Answer :=
  .next (s.onDev fun a d => (d.atomInsn a.tab h 4 true o).finish a)

/-- AMAXU: stores the unsigned maximum, rd takes the old value (R65). -/
def execAmaxu (h : Hart) (o : AOp) (s : State) : Answer :=
  .next (s.onDev fun a d => (d.atomInsn a.tab h 5 true o).finish a)

/-- ASWAP: stores rb, rd takes the old value (R65). -/
def execAswap (h : Hart) (o : AOp) (s : State) : Answer :=
  .next (s.onDev fun a d => (d.atomInsn a.tab h 6 false o).finish a)

/-- CAS: stores rb if the old value equals rd, rd takes the old value (R65). -/
def execCas (h : Hart) (o : AOp) (s : State) : Answer :=
  .next (s.onDev fun a d => (d.atomInsn a.tab h 7 false o).finish a)

/-- An instruction word of VEC-GS. -/
def wordVgs (vd : VReg) (ra : GReg) (vb : VReg) (pg : PReg) (w scale : Fin 4) (store : Bool) : Word :=
  wordV 0x2A vd ra vb pg w (scale.val * 16 + store.toNat * 8)

/-- VGATH (R69, R70); an 8- or 16-bit width is illegal. -/
def execVgath (h : Hart) (vd : VReg) (ra : GReg) (vb : VReg) (pg : PReg) (w : Fin 4) (scale : Fin 4) (s : State) : Answer :=
  .next (s.onDev fun a d => d.insn h fun d =>
    let c := d.core h
    if isWheel h || w.val < 2 then d.illegal a h (wordVgs vd ra vb pg w scale false)
    else (d.gatherElems a.tab h w vd (elemAddrs w (c.getG ra) (c.getV vb) (c.getP pg) scale)).finish a)

/-- VSCATT (R69, R70); an 8- or 16-bit width is illegal. -/
def execVscatt (h : Hart) (vd : VReg) (ra : GReg) (vb : VReg) (pg : PReg) (w : Fin 4) (scale : Fin 4) (s : State) : Answer :=
  .next (s.onDev fun a d => d.insn h fun d =>
    let c := d.core h
    if isWheel h || w.val < 2 then d.illegal a h (wordVgs vd ra vb pg w scale true)
    else (d.scatterElems a.tab h w vd (elemAddrs w (c.getG ra) (c.getV vb) (c.getP pg) scale)).finish a)

/-- VUNPK with k − 1 in its field (R74). -/
def execVunpk (h : Hart) (vd : VReg) (ra rb : GReg) (k : Fin 32) (s : State) : Answer :=
  .next (s.onDev fun a d => d.insn h fun d =>
    if isWheel h then d.illegal a h (wordRR 0x2B vd ra rb (k.val * 64))
    else (d.unpack a.tab h vd ((d.core h).getG ra) ((d.core h).getG rb) (k.val + 1)).finish a)

end Sys2Proof.Machine
end

