-- ==== Sys2Proof/Machine/Messages.lean ====
section
/-! DEFINITION. The coherence messages as commands (R257): a message reaches the agent that its DEST names, which does what
R226 to R276 give it; what it sends in answer is in flight afterwards. With them the replays, time-outs and faults of the mesh. -/

namespace Sys2Proof.Machine

/-- A message of a type reaches its agent. A device target serves what has reached it, and a core takes a device's or a far
atomic's answer at once. -/
def Dev.receive (a : Admin) (d : Dev) (ty : MsgType) (m : Msg) : Dev :=
  ((d.message a.tab { m with ty }).serveAll a 64).coreAnswers a.tab

/-- A device's answer to a core's load through a root port ends that load; one that no load awaits is discarded with a Note (R414,
R426). -/
def Dev.portDone (a : Admin) (d : Dev) (m : Msg) : Dev :=
  match m.src with
  | .port s p =>
    if (d.port s p).loads.contains (m.dst, m.txn.toNat) then
      (d.onPort s p fun x => { x with loads := x.loads.erase (m.dst, m.txn.toNat) }).receive a .drsp m
    else if d.net.contains m then d.receive a .drsp m
    else d.unexpected m.src
  | _ => d.receive a .drsp m

/-- RDS: a read for a data load reaches its home slice (R261). -/
def execRds (m : Msg) (s : State) : Answer := .next (s.onDev fun a d => d.receive a .rds m)

/-- RDC: a read for fetch, served shared (R261). -/
def execRdc (m : Msg) (s : State) : Answer := .next (s.onDev fun a d => d.receive a .rdc m)

/-- RDM: a read for ownership (R261). -/
def execRdm (m : Msg) (s : State) : Answer := .next (s.onDev fun a d => d.receive a .rdm m)

/-- UPG: ownership of a held S copy (R261). -/
def execUpg (m : Msg) (s : State) : Answer := .next (s.onDev fun a d => d.receive a .upg m)

/-- EVS: a dropped S copy (R264). -/
def execEvs (m : Msg) (s : State) : Answer := .next (s.onDev fun a d => d.receive a .evs m)

/-- EVC: a dropped E copy, answered with WBACK (R264). -/
def execEvc (m : Msg) (s : State) : Answer := .next (s.onDev fun a d => d.receive a .evc m)

/-- NRD: a non-allocating read (R261). -/
def execNrd (m : Msg) (s : State) : Answer := .next (s.onDev fun a d => d.receive a .nrd m)

/-- DRD: a device read reaches its device target (R261). -/
def execDrd (m : Msg) (s : State) : Answer := .next (s.onDev fun a d => d.receive a .drd m)

/-- HRDS: a line wanted shared reaches its home agent (R269). -/
def execHrds (m : Msg) (s : State) : Answer := .next (s.onDev fun a d => d.receive a .hrds m)

/-- HRDM: a line wanted exclusive reaches its home agent (R269). -/
def execHrdm (m : Msg) (s : State) : Answer := .next (s.onDev fun a d => d.receive a .hrdm m)

/-- HUPG: exclusivity wanted for a held line (R272). -/
def execHupg (m : Msg) (s : State) : Answer := .next (s.onDev fun a d => d.receive a .hupg m)

/-- HEVS: a socket dropped a shared remote line (R272). -/
def execHevs (m : Msg) (s : State) : Answer := .next (s.onDev fun a d => d.receive a .hevs m)

/-- FWDS: an owner sends data to the requester and keeps S (R261). -/
def execFwds (m : Msg) (s : State) : Answer := .next (s.onDev fun a d => d.receive a .fwds m)

/-- FWDM: an owner sends data to the requester and invalidates (R261). -/
def execFwdm (m : Msg) (s : State) : Answer := .next (s.onDev fun a d => d.receive a .fwdm m)

/-- FWDR: an owner sends a copy to a non-allocating reader (R261). -/
def execFwdr (m : Msg) (s : State) : Answer := .next (s.onDev fun a d => d.receive a .fwdr m)

/-- INV: a pod invalidates its S copies (R229). -/
def execInv (m : Msg) (s : State) : Answer := .next (s.onDev fun a d => d.receive a .inv m)

/-- BINV: a core back-invalidates (R227). -/
def execBinv (m : Msg) (s : State) : Answer := .next (s.onDev fun a d => d.receive a .binv m)

/-- HPRS: a slice keeps at most shared (R269). -/
def execHprs (m : Msg) (s : State) : Answer := .next (s.onDev fun a d => d.receive a .hprs m)

/-- HPRM: a slice invalidates its socket's copies (R269). -/
def execHprm (m : Msg) (s : State) : Answer := .next (s.onDev fun a d => d.receive a .hprm m)

/-- HPRR: a slice sends a copy if it holds the line exclusively (R269). -/
def execHprr (m : Msg) (s : State) : Answer := .next (s.onDev fun a d => d.receive a .hprr m)

/-- ACK: an invalidation acknowledgement (R259). -/
def execAck (m : Msg) (s : State) : Answer := .next (s.onDev fun a d => d.receive a .ack m)

/-- FACK: an owner answered a forward or probe with data (R259). -/
def execFack (m : Msg) (s : State) : Answer := .next (s.onDev fun a d => d.receive a .fack m)

/-- PACK: a slice answers a probe without data (R269). -/
def execPack (m : Msg) (s : State) : Answer := .next (s.onDev fun a d => d.receive a .pack m)

/-- CMPACK: the requester has installed (R259). -/
def execCmpack (m : Msg) (s : State) : Answer := .next (s.onDev fun a d => d.receive a .cmpack m)

/-- GRANT: ownership without data (R261). -/
def execGrant (m : Msg) (s : State) : Answer := .next (s.onDev fun a d => d.receive a .grant m)

/-- WBACK: a writeback was absorbed (R264). -/
def execWback (m : Msg) (s : State) : Answer := .next (s.onDev fun a d => d.receive a .wback m)

/-- RETRY: a refused request stays in its miss register (R236). -/
def execRetry (m : Msg) (s : State) : Answer := .next (s.onDev fun a d => d.receive a .retry m)

/-- DATS: data in state S (R261). -/
def execDats (m : Msg) (s : State) : Answer := .next (s.onDev fun a d => d.receive a .dats m)

/-- DATE: data in state E (R261). -/
def execDate (m : Msg) (s : State) : Answer := .next (s.onDev fun a d => d.receive a .date m)

/-- DATM: data in state M, or exclusivity for a slice (R261). -/
def execDatm (m : Msg) (s : State) : Answer := .next (s.onDev fun a d => d.receive a .datm m)

/-- WBM: a dirty line is written back (R264). -/
def execWbm (m : Msg) (s : State) : Answer := .next (s.onDev fun a d => d.receive a .wbm m)

/-- WBS: data of a downgraded M copy (R261). -/
def execWbs (m : Msg) (s : State) : Answer := .next (s.onDev fun a d => d.receive a .wbs m)

/-- NWR: a full-line write (R261). -/
def execNwr (m : Msg) (s : State) : Answer := .next (s.onDev fun a d => d.receive a .nwr m)

/-- PWR: a partial write (R261). -/
def execPwr (m : Msg) (s : State) : Answer := .next (s.onDev fun a d => d.receive a .pwr m)

/-- ATM: a far atomic at its executing slice (R275). -/
def execAtm (m : Msg) (s : State) : Answer := .next (s.onDev fun a d => d.receive a .atm m)

/-- ATR: a far atomic's old value (R276). -/
def execAtr (m : Msg) (s : State) : Answer := .next (s.onDev fun a d => d.receive a .atr m)

/-- DWR: a device write reaches its device target (R261). -/
def execDwr (m : Msg) (s : State) : Answer := .next (s.onDev fun a d => d.receive a .dwr m)

/-- DRSP: device read data returns to the core (R261). -/
def execDrsp (m : Msg) (s : State) : Answer := .next (s.onDev fun a d => d.portDone a { m with ty := .drsp })

/-! ### Replays and time-outs -/

/-- REQUEST_REPLAY (R236, R247, R270): an agent, or a slice towards its home agent, sends again the request that was refused. -/
def execRequestReplay (n : Node) (la : PAddr) (s : State) : Answer :=
  .next (s.onDev fun a d =>
    match n with
    | .core sk c => (d.replayCore a.tab { sock := sk, core := c } (some (lineOf la.toNat))).replayAsked fun m => m.src = n && lineOf m.pa = lineOf la.toNat
    | .slice _ _ => d.replaySlices (some (n, lineOf la.toNat))
    | _ => d.replayAsked fun m => m.src = n && lineOf m.pa = lineOf la.toNat)

/-- A kept reservation was not used in its 64 mesh cycles: it is dropped, and the resource, which is still free, is kept for the
next oldest (R238). -/
def Slice.dropReservation (x : Slice) (i : Nat) : Slice :=
  match x.rsv[i]? with
  | some r => if r.kept then { x with rsv := keepFor (x.rsv.eraseIdx i) r.what r.set r.ways } else x
  | none => x

/-- RESERVATION_TIMEOUT (R238). -/
def execReservationTimeout (sk : Sock) (pod : Fin 104) (i : Fin 8) (s : State) : Answer :=
  .next (s.onDev fun _ d => d.onSlice sk.val pod.val fun x => x.dropReservation i.val)

/-! ### Faults of the mesh -/

/-- UNKNOWN_MESSAGE_TYPE (R257): the message is discarded and the receiving landing's router reports a protocol fault. A listed
type is no such event. -/
def execUnknownMessageType (sk : Sock) (landing : Fin 128) (ty : BitVec 6) (master : BitVec 16) (berth : BitVec 6) (addr : PAddr)
    (s : State) : Answer :=
  .next (s.onDev fun _ d =>
    if (typeOfCode ty.toNat).isSome then d
    else d.report sk.val { src := 0x180 + landing.val, cls := 9, sub := 0xFF, master := master.toNat, berth := berth.toNat,
                           access := 14, addr := addr.toNat })

/-- MESH_HEADER_ERROR (R222). -/
def execMeshHeaderError (sk : Sock) (landing : Fin 128) (port : Fin 4) (plane : Fin 3) (s : State) : Answer :=
  .next (s.onDev fun _ d => d.headerError sk.val landing.val port.val plane.val)

end Sys2Proof.Machine
end

