-- ==== Sys2Proof/Machine/Pipeline.lean ====
section
/-! DEFINITION. The events of a core's pipeline (R120 to R166), traps, interrupts and timers as events (R103 to R118), and the
sampling event (R449). -/

namespace Sys2Proof.Machine

/-! ### Fetch (R120, R157, R161, R162) -/

/-- What a word is to the predictor: kind, direct target, and whether its offset is negative; none for every other word,
annulled branches included (R157). -/
def controlOf (pc : Word) (w : BitVec 32) : Option (BKind × Option Word × Bool) :=
  let o12 : BitVec 12 := w.setWidth 12
  let o17 : BitVec 17 := w.setWidth 17
  let o26 : BitVec 26 := w.setWidth 26
  let opens := fun (a : Bool) (i : Int) => a && 2 ≤ i && i ≤ 17
  match wfield w 31 26 with
  | 0x30 => if opens (w.getLsbD 12) o12.toInt then none else some (.cond, some (branchTarget pc o12), o12.msb)
  | 0x31 => if opens (w.getLsbD 17) o17.toInt then none else some (.cond, some (branchTarget pc o17), o17.msb)
  | 0x34 => some (.jump, some (branchTarget pc o26), o26.msb)
  | 0x35 => some (.call, some (branchTarget pc o26), o26.msb)
  | 0x36 => some (jalrKind (BitVec.ofNat 5 (wfield w 25 21)) (BitVec.ofNat 5 (wfield w 20 16)), none, false)
  | _ => none

/-- The prediction of a control transfer: taken, and the target. -/
def Predictor.predict (p : Predictor) (ctl : Word) (pc : Word) (k : BKind) (target : Option Word) (neg : Bool) : Bool × Word :=
  let ind := match Tbl.find p.indirect (indKey pc p.path) with
    | some e => (true, e.2)
    | none => (false, pc + 4)
  match k with
  | .cond =>
    ((Tbl.find p.btb pc.toNat).isSome && (if bit ctl 1 then neg else (p.direction pc (p.view p.head) p.path).1), target.getD (pc + 4))
  | .jump | .call => (true, target.getD (pc + 4))
  | .ret => if bit ctl 2 then ind else (true, p.topVal)
  | .ind | .icall => ind

/-- The instructions of a group from `words` on, with the predictor after it and the address fetched next. -/
def fetchWords (wheel : Bool) (ctl group : Word) (poison : Bool) (p : Predictor) (pc : Word) (ws : List (BitVec 32)) :
    List Fetched × Predictor × Word :=
  match ws with
  | [] => ([], p, pc)
  | w :: r =>
    let plain : Fetched :=
      { pc, word := w, taken := false, target := pc + 4, group, chk := none, enters := false, rtop := p.top, rtopVal := p.topVal, poison }
    match (if wheel then none else controlOf pc w) with
    | none =>
      let x := fetchWords wheel ctl group poison p (pc + 4) r
      (plain :: x.1, x.2)
    | some (k, target, neg) =>
      let (taken, dest) := p.predict ctl pc k target neg
      let p := if bit ctl 0 then p else
        let p := p.writeBtb pc k (target.getD 0)
        if taken then p.writeL0 group pc dest else p
      let chk : Checkpoint := { head := p.head, path := p.path, top := p.top, topVal := p.topVal }
      let p := if bit ctl 2 then p else p.rasStep k (pc + 4)
      let p := p.append pc (if k = .cond then taken else true)
      let e := { plain with
        taken, target := if taken then dest else pc + 4, enters := true, rtop := p.top, rtopVal := p.topVal
        chk := if k = .jump || k = .call then none else some chk }
      if taken then ([e], p, dest)
      else
        let x := fetchWords wheel ctl group poison p (pc + 4) r
        (e :: x.1, x.2)

/-- Instruction `i` of a line. -/
def lineInsn (l : Line) (i : Nat) : BitVec 32 := l.extractLsb' (32 * i) 32

/-- Whether a word is a load, and whether it is a store, to the load and store queues (R119). -/
def queuesOf (w : BitVec 32) : Bool × Bool :=
  let m := wfield w 31 26
  if m = 0x1E then (!w.getLsbD 10, w.getLsbD 10)
  else if m = 0x2A then (!w.getLsbD 3, w.getLsbD 3)
  else ((0x10 ≤ m && m ≤ 0x16) || m = 0x1C || m = 0x2B, (0x18 ≤ m && m ≤ 0x1B) || m = 0x1D)

/-- How many of the fetched instructions have left the fetch queue for the reorder window (R119): in order, while the window has
room for 768, the load queue for 256, the store queue for 160, and the checkpoints for 128 (R122, R163). -/
def renamed (q : List Fetched) (window loads stores chks : Nat) : Nat :=
  match q with
  | [] => 0
  | e :: r =>
    let (ld, st) := queuesOf e.word
    if window = 0 || (ld && loads = 0) || (st && stores = 0) || (e.chk.isSome && chks = 0) then 0
    else 1 + renamed r (window - 1) (loads - ld.toNat) (stores - st.toNat) (chks - e.chk.isSome.toNat)

/-- Room in the fetch queue of 48: `fetchQ` holds the instructions of the fetch queue behind those of the window. -/
def Core.fetchRoom (c : Core) : Nat := 48 - (c.fetchQ.length - renamed c.fetchQ 768 256 160 128)

/-- The fetch that F1 starts behind a group, before F4 knows its prediction: at the target that L0 holds for the group, else in
sequence (R161). Where F4 then goes elsewhere it is killed (R152), and leaves no more than the fill of its line (R153). -/
def Dev.fetchAfter (a : Tables) (d : Dev) (h : Hart) (guess next : Word) : Dev :=
  if guess = next || isWheel h then d
  else
    match d.translate a h (d.core h).level .fetch guess with
    | (.ok pa false, d) => (d.fetchLine a h guess.toNat pa).2
    | (_, d) => d

/-- Fetch a group: up to eight instructions from one line, to a predicted-taken branch at most. A fetch that faults brings
nothing; its trap is taken when the instruction would retire. Fetch is no access that device memory allows (R64). -/
def Dev.fetchGroup (a : Tables) (d : Dev) (h : Hart) : Dev :=
  let c := d.core h
  if c.run ≠ .running || c.fetchRoom = 0 then d
  else
    let at_ := c.fetchPc &&& ~~~ (3 : Word)
    match d.translate a h c.level .fetch at_ with
    | (.ok pa false, d) =>
      match d.fetchLine a h at_.toNat pa with
      | (none, d) => d.accessDone a h
      | (some l, d) =>
        let first := pa % 64 / 4
        let n := Nat.min (Nat.min 8 (16 - first)) c.fetchRoom
        let ws := (List.range n).map fun i => lineInsn l.data (first + i)
        let guess := match Tbl.find c.pred.l0 at_.toNat with
          | some x => x.2
          | none => at_ + word (4 * n)
        let r := fetchWords (isWheel h) (c.sysGet 0x20C) at_ l.poison c.pred at_ ws
        let d := d.onCore h fun c => { c with fetchQ := c.fetchQ ++ r.1, pred := r.2.1, fetchPc := r.2.2 }
        (d.fetchAfter a h guess r.2.2).accessDone a h
    | (_, d) => d

/-- FETCH_GROUP (R120). -/
def execFetchGroup (h : Hart) (s : State) : Answer := .next (s.onDev fun a d => (d.fetchGroup a.tab h).finish a)

/-! ### Loads and stores in the queues -/

/-- MEMORY_ORDER_KILL (R128, R130): the oldest load, if it is marked. -/
def execMemoryOrderKill (h : Hart) (s : State) : Answer :=
  .next (s.onDev fun _ d =>
    if ((d.core h).lq.head?).any fun e => e.orderKill then d.onCore h Core.killLoads else d)

/-- DEPENDENCE_KILL (R129 to R131): the oldest load, if a store's address has marked it; its wait bit is set. -/
def execDependenceKill (h : Hart) (s : State) : Answer :=
  .next (s.onDev fun _ d =>
    match (d.core h).lq with
    | [] => d
    | e :: _ =>
      if e.depKill then d.onCore h fun c => ({ c with mdp := Tbl.set false c.mdp (bits e.pc 12 2) true } : Core).killLoads else d)

/-- LOAD_REISSUE (R136, R178). -/
def execLoadReissue (h : Hart) (s : State) : Answer := .next (s.onDev fun a d => (d.loadReissue a.tab h).finish a)

/-- STORE_BUFFER_WRITE (R133); what waited for the buffer goes on: the window's oldest instruction (R142), a reset (R135). -/
def execStoreBufferWrite (h : Hart) (s : State) : Answer :=
  .next (s.onDev fun a d =>
    (((((d.drainOne a.tab h).2.accessDone a.tab h).finish a).windowGo a.tab h).resetGo a h).finish a)

/-- MDP_CLEAR (R131). -/
def execMdpClear (h : Hart) (s : State) : Answer := .next (s.onDev fun _ d => d.onCore h fun c => { c with mdp := [] })

/-- The shift of R160, once 262,144 branches have resolved since the last one. -/
def Predictor.usefulShift (p : Predictor) : Predictor :=
  if p.resolved < 262144 then p
  else { p with
    tagged := p.tagged.mapV fun _ e => { e with useful := e.useful / 2 }
    resolved := p.resolved - 262144 }

/-- USEFUL_SHIFT (R160). -/
def execUsefulShift (h : Hart) (s : State) : Answer :=
  .next (s.onDev fun _ d => d.onCore h fun c => { c with pred := c.pred.usefulShift })

/-- DELAYED_FORWARD_ANSWER (R260). -/
def execDelayedForwardAnswer (h : Hart) (s : State) : Answer := .next (s.onDev fun a d => (d.answerDelayed h).finish a)

/-! ### Traps, interrupts, timers -/

/-- A synchronous trap at retirement as an event (R103): a device load that waits can only end in BUS. -/
def Dev.trapEntry (a : Tables) (d : Dev) (h : Hart) (cause : Cause) (tval : Word) : Dev :=
  let d := d.wake h
  let c := d.core h
  let pa := match (d.translate a h c.level (if c.fetchPoisoned then .fetch else .load) tval).1 with
    | .ok pa _ => pa
    | _ => 0
  let rep := match cause with
    | .pc => some (3, if c.fetchPoisoned then 5 else 1, pa)
    | .ow => some (4, 0, 0)
    | _ => none
  let epc := if cause = .trap || cause = .brk then c.pc + 4 else c.pc
  let f : Flt := { cause := causeCode cause, tval, rep }
  if c.run ≠ .running || 0 < c.annul then d
  else if c.devLoad.isSome then
    if cause = .bus then (d.onCore h fun c => { c with devLoad := none }).takeTrap a h f.cause tval epc else d
  else d.fault a h f epc

/-- TRAP_ENTRY (R103). -/
def execTrapEntry (h : Hart) (cause : Cause) (tval : Word) (s : State) : Answer :=
  .next (s.onDev fun a d => (d.trapEntry a.tab h cause tval).finish a)

/-- INTERRUPT_MESSAGE (R106 to R108). -/
def execInterruptMessage (q : Requester) (sk : Sock) (off : BitVec 20) (len : Nat) (data : BitVec 32) (poisoned : Bool) (s : State) :
    Answer :=
  .next (s.onDev fun a d => d.interrupt a.tab sk.val off.toNat len data q.berth.toNat q.master.toNat poisoned)

/-- INTERRUPT_ENTRY (R110, R113, R114). -/
def execInterruptEntry (h : Hart) (late : Option (Fin 1024)) (s : State) : Answer :=
  .next (s.onDev fun a d => (d.interruptEntry a.tab h (late.map Fin.val)).finish a)

/-- S_TIMER: local vector 1 is pending while its condition holds; a waiting core wakes (R112). -/
def execSTimer (h : Hart) (s : State) : Answer := .next (s.onDev fun _ d => d.wake h)

/-- H_TIMER: local vector 2, in the same way. -/
def execHTimer (h : Hart) (s : State) : Answer := .next (s.onDev fun _ d => d.wake h)

/-- DEVICE_STORE_BUS_ERROR (R118). -/
def execDeviceStoreBusError (h : Hart) (va : Word) (s : State) : Answer := .next (s.onDev fun a d => d.storeBusError a.tab h va 0)

/-- SAMPLE_COUNT_ZERO (R449): with sampling on, the count reaches zero. -/
def execSampleCountZero (h : Hart) (ip : Word) (killed : Bool) (s : State) : Answer :=
  .next (s.onDev fun _ d => d.sampleZero h ip killed)

end Sys2Proof.Machine
end

