-- ==== Sys2Proof/Machine/RegCommands.lean ====
section
/-! DEFINITION. The commands that are accesses to registers: a write by its offset, and the rows that the spec names by one
field (R224, R239, R241, R243, R252, R280, R345 to R348, R366, R375, R381 to R383, R401 to R419, R428, R430 to R444, R455,
R470, R474, R496, R508, R543). The sender's answer is in `Dev.out`: 0 done, 1 a bus or register-access fault, which a core
takes as its own trap (R32, R118). -/

namespace Sys2Proof.Machine

/-- A write of a size code to an offset of a socket's register space (R32, R535, R536), and the traffic it starts. -/
def Dev.writeCommand (a : Admin) (d : Dev) (q : Requester) (s off size : Nat) (v : Word) : Dev :=
  if !Requester.mayReach q then d.answer [1]
  else
    let r := d.regStoreSized a s q off size v
    (r.2.answer [word r.1.toNat]).finish a

/-- A whole write of a register. -/
def Dev.writeRegister (a : Admin) (d : Dev) (q : Requester) (s : Nat) (r : Reg) (i j : Nat) (v : Word) : Dev :=
  d.writeCommand a q s (r.at i j) 3 v

/-- A read of a register; the answer is 0 and the value. -/
def Dev.readRegister (a : Admin) (d : Dev) (q : Requester) (s : Nat) (r : Reg) (i j : Nat) : Dev :=
  if !Requester.mayReach q then d.answer [1]
  else
    let x := d.regRead a s q (r.at i j)
    (x.2.answer [0, x.1]).finish a

/-- The offset of a slice register in the landing broadcast block (R252). -/
def broadcastAt (r : Reg) : Nat := 0x1F000000 + (r.place.base - 0x10000000)

/-- A register as it stands with one field replaced: what a write that means to change that field alone stores. -/
def Dev.withField (d : Dev) (s : Nat) (r : Reg) (i j hi lo v : Nat) : Word := putBits (d.reg s r i j) hi lo v

/-- A write to BAR0 of a ferry function (R406). -/
def Dev.writeBar (a : Admin) (d : Dev) (q : Requester) (s : Nat) (r : Reg) (e f j : Nat) (v : Word) : Dev :=
  ((d.integratedWrite a.tab q s (0x10000000 + r.at (fnKey e f) j) 8 v).answer [0]).finish a

/-- The ECAM offset of a doubleword of a ferry function (R407). -/
def fnEcam (e f w : Nat) : Nat := (0xF0 + e) * 0x100000 + f * 0x1000 + w * 4

/-- Write one bit of a ferry function's Command register. -/
def Dev.writeBme (a : Admin) (d : Dev) (q : Requester) (s e f : Nat) (on : Bool) : Dev :=
  let v := putBit ((d.fnCfg s e f wCommand).setWidth 64) 2 on
  ((d.integratedWrite a.tab q s (fnEcam e f wCommand) 4 v).answer [0]).finish a

/-! ### Any register -/

/-- REGISTER_WRITE (R536). -/
def execRegisterWrite (q : Requester) (sk : Sock) (off : BitVec 32) (size : Fin 4) (v : Word) (s : State) : Answer :=
  .next (s.onDev fun a d => d.writeCommand a q sk.val off.toNat size.val v)

/-! ### Routers, slices and cores -/

/-- LINK_RESTART (R224): ones in LD_MESH_CTL.LINK_DOWN. -/
def execLinkRestart (q : Requester) (sk : Sock) (l : Fin 128) (mask : BitVec 4) (s : State) : Answer :=
  .next (s.onDev fun a d =>
    d.writeRegister a q sk.val .ldMeshCtl l.val 0 (d.withField sk.val .ldMeshCtl l.val 0 3 0 mask.toNat))

/-- LOCK_FILL (R241): a write of LD_LOCK_CMD in the landing broadcast block. -/
def execLockFill (q : Requester) (sk : Sock) (v : Word) (s : State) : Answer :=
  .next (s.onDev fun a d => d.writeCommand a q sk.val (broadcastAt .ldLockCmd) 3 (putBit v 63 true))

/-- RANGE_INVALIDATION (R243): a write of LD_RINV_CMD in the landing broadcast block. -/
def execRangeInvalidation (q : Requester) (sk : Sock) (v : Word) (s : State) : Answer :=
  .next (s.onDev fun a d => d.writeCommand a q sk.val (broadcastAt .ldRinvCmd) 3 (putBit v 63 true))

/-- WAY_LOCK_WRITE (R239): LD_SLICE_WAYS.LOCK of every slice. -/
def execWayLockWrite (q : Requester) (sk : Sock) (lock : BitVec 16) (s : State) : Answer :=
  .next (s.onDev fun a d => d.writeCommand a q sk.val (broadcastAt .ldSliceWays) 3 (word (lock.toNat * 2 ^ 16)))

/-- HMAP_WRITE (R252). -/
def execHmapWrite (q : Requester) (sk : Sock) (e : Fin 4096) (v : Word) (s : State) : Answer :=
  .next (s.onDev fun a d => d.writeRegister a q sk.val .ldHmap e.val 0 v)

/-- A write of one bit of LD_CORE_CTL with ENTRY as it stands; a management core has no such register. -/
def Dev.coreCtl (a : Admin) (d : Dev) (q : Requester) (h : Hart) (b : Nat) : Dev :=
  if isWheel h then d
  else
    let l := landingOf (podOf h)
    d.writeRegister a q h.sock.val .ldCoreCtl l (h.core.val % 2)
      (putBit (d.withField h.sock.val .ldCoreCtl l (h.core.val % 2) 63 61 0) b true)

/-- CORE_CTL_RESET (R508). -/
def execCoreCtlReset (q : Requester) (h : Hart) (s : State) : Answer := .next (s.onDev fun a d => d.coreCtl a q h 63)

/-- CORE_CTL_GO (R508). -/
def execCoreCtlGo (q : Requester) (h : Hart) (s : State) : Answer := .next (s.onDev fun a d => d.coreCtl a q h 61)

/-! ### Links and crossing directories -/

/-- LINK_RETRAIN (R280): XL_LINK_CTL.RETRAIN. -/
def execLinkRetrain (q : Requester) (sk : Sock) (k : Fin 8) (s : State) : Answer :=
  .next (s.onDev fun a d => d.writeRegister a q sk.val .xlLinkCtl k.val 0 (d.withField sk.val .xlLinkCtl k.val 0 12 12 1))

/-- LINK_DISABLE (R280): XL_LINK_CTL.DISABLE. -/
def execLinkDisable (q : Requester) (sk : Sock) (k : Fin 8) (v : Bool) (s : State) : Answer :=
  .next (s.onDev fun a d =>
    d.writeRegister a q sk.val .xlLinkCtl k.val 0 (d.withField sk.val .xlLinkCtl k.val 0 8 8 v.toNat))

/-- XDIR_CLR (R278). -/
def execXdirClr (q : Requester) (sk : Sock) (u : Fin 2) (s : State) : Answer :=
  .next (s.onDev fun a d => d.writeRegister a q sk.val .xlXdirCtl u.val 0 1)

/-! ### Memory and tiering -/

/-- SOFT_REPAIR (R366, R367): WH_REPAIR with GO. -/
def execSoftRepair (q : Requester) (sk : Sock) (v : Word) (s : State) : Answer :=
  .next (s.onDev fun a d => d.writeRegister a q sk.val .whRepair 0 0 (putBit v 63 true))

/-- DRAIN (R345): TE_STATE.DRAIN of a berth on a hub. -/
def execDrain (q : Requester) (sk : Sock) (u : Fin 2) (b : BitVec 6) (v : Bool) (s : State) : Answer :=
  .next (s.onDev fun a d => d.writeRegister a q sk.val .teState u.val b.toNat (word (v.toNat * 2 ^ 63)))

/-- MODE_WRITE (R346): TE_POLICY.MODE, the other fields as they stand. -/
def execModeWrite (q : Requester) (sk : Sock) (b : BitVec 6) (mode : BitVec 2) (s : State) : Answer :=
  .next (s.onDev fun a d =>
    d.writeRegister a q sk.val .tePolicy b.toNat 0 (d.withField sk.val .tePolicy b.toNat 0 61 60 mode.toNat))

/-- EVACUATION_RUN (R347): TE_RUN_B.GO. -/
def execEvacuationRun (q : Requester) (sk : Sock) (u : Fin 2) (r : Fin 32) (s : State) : Answer :=
  .next (s.onDev fun a d => d.writeRegister a q sk.val .teRunB u.val r.val (word (2 ^ 63)))

/-- REVERT (R348): TE_RUN_B.GO with REVERT. -/
def execRevert (q : Requester) (sk : Sock) (u : Fin 2) (r : Fin 32) (s : State) : Answer :=
  .next (s.onDev fun a d => d.writeRegister a q sk.val .teRunB u.val r.val (word (2 ^ 63 + 2 ^ 62)))

/-! ### Fault collection -/

/-- FORCE (R381): FC_SRC_SEV with FORCE. -/
def execForce (q : Requester) (sk : Sock) (src : BitVec 12) (v : Word) (s : State) : Answer :=
  .next (s.onDev fun a d => d.writeRegister a q sk.val .fcSrcSev src.toNat 0 (putBit v 63 true))

/-- POP (R383): FC_QCTL.POP. -/
def execPop (q : Requester) (sk : Sock) (s : State) : Answer :=
  .next (s.onDev fun a d => d.writeRegister a q sk.val .fcQctl 0 0 1)

/-- FIRST_REARM (R382): FC_FIRST_CTL.VALID. -/
def execFirstRearm (q : Requester) (sk : Sock) (s : State) : Answer :=
  .next (s.onDev fun a d => d.writeRegister a q sk.val .fcFirstCtl 0 0 (word (2 ^ 63)))

/-- ERR_LOG_REARM (R375): VALID of a source's first-error log, which the Wheelhouse view alone shows. -/
def execErrLogRearm (q : Requester) (sk : Sock) (src : BitVec 12) (s : State) : Answer :=
  .next (s.onDev fun _ d =>
    if !Requester.mayReach q then d.answer [1]
    else if q.berth ≠ 0 then (d.regNote sk.val q 0).answer [0]
    else (d.logRearm sk.val src.toNat).answer [0])

/-- FENCE_STATE_WRITE (R543): FC_FENCE_A.STATE. -/
def execFenceStateWrite (q : Requester) (sk : Sock) (n : Fin 512) (st : BitVec 2) (s : State) : Answer :=
  .next (s.onDev fun a d => d.writeRegister a q sk.val .fcFenceA n.val 0 (word (st.toNat * 2 ^ 62)))

/-! ### Ferry engines and root ports -/

/-- FE_DB (R401). -/
def execFeDb (q : Requester) (sk : Sock) (e : Fin 4) (f : Fin 256) (i : Fin 4096) (tail : BitVec 16) (s : State) : Answer :=
  .next (s.onDev fun a d => d.writeBar a q sk.val .feDb e.val f.val i.val (tail.setWidth 64))

/-- QUEUE_ENABLE (R402): FE_QC_CTL. -/
def execQueueEnable (q : Requester) (sk : Sock) (e : Fin 4) (f : Fin 256) (i : Fin 4096) (v : Word) (s : State) : Answer :=
  .next (s.onDev fun a d => d.writeBar a q sk.val .feQcCtl e.val f.val i.val v)

/-- COMMIT (R415): FE_PW_CTL.COMMIT. -/
def execCommit (q : Requester) (sk : Sock) (e : Fin 4) (f : Fin 256) (s : State) : Answer :=
  .next (s.onDev fun a d => d.writeBar a q sk.val .fePwCtl e.val f.val 0 (word (2 ^ 63)))

/-- BME_CLEAR (R409): Bus Master Enable of the Command register. -/
def execBmeClear (q : Requester) (sk : Sock) (e : Fin 4) (f : Fin 256) (s : State) : Answer :=
  .next (s.onDev fun a d => d.writeBme a q sk.val e.val f.val false)

/-- BME_SET (R409). -/
def execBmeSet (q : Requester) (sk : Sock) (e : Fin 4) (f : Fin 256) (s : State) : Answer :=
  .next (s.onDev fun a d => d.writeBme a q sk.val e.val f.val true)

/-- ENGINE_RESET (R419): FE_ENG_CTL.RESET. -/
def execEngineReset (q : Requester) (sk : Sock) (e : Fin 4) (s : State) : Answer :=
  .next (s.onDev fun a d => d.writeRegister a q sk.val .feEngCtl e.val 0 (word (2 ^ 63)))

/-- CONFIG_ACCESS (R407, R541): an access of 1, 2, 4 or 8 bytes to the integrated region; a read answers its value. -/
def execConfigAccess (q : Requester) (sk : Sock) (off : BitVec 30) (size : Fin 4) (write : Bool) (v : Word) (s : State) : Answer :=
  .next (s.onDev fun a d =>
    if write then ((d.integratedWrite a.tab q sk.val off.toNat (2 ^ size.val) v).answer [0]).finish a
    else
      let x := d.integratedRead a.tab q sk.val off.toNat (2 ^ size.val)
      x.2.answer [0, x.1])

/-- PX_IDE_KEY (R428). -/
def execPxIdeKey (q : Requester) (sk : Sock) (p : Fin 32) (slot i : Fin 8) (v : Word) (s : State) : Answer :=
  .next (s.onDev fun a d => d.writeRegister a q sk.val .pxIdeKey p.val (slot.val * 8 + i.val) v)

/-! ### Slips, doorbells, bollards -/

/-- MB_DATA_WRITE (R433 to R435). -/
def execMbDataWrite (q : Requester) (sk : Sock) (n : BitVec 8) (i : Fin 16) (v : Word) (s : State) : Answer :=
  .next (s.onDev fun a d => d.writeRegister a q sk.val .mbData n.toNat i.val v)

/-- POST (R433): MB_CTL with GO and a length. -/
def execPost (q : Requester) (sk : Sock) (n : BitVec 8) (len : BitVec 5) (s : State) : Answer :=
  .next (s.onDev fun a d => d.writeRegister a q sk.val .mbCtl n.toNat 0 (word (2 ^ 63 + len.toNat)))

/-- MB_DONE (R434). -/
def execMbDone (q : Requester) (sk : Sock) (n : BitVec 8) (s : State) : Answer :=
  .next (s.onDev fun a d => d.writeRegister a q sk.val .mbDone n.toNat 0 1)

/-- MB_CFG_WRITE (R432). -/
def execMbCfgWrite (q : Requester) (sk : Sock) (n : BitVec 8) (v : Word) (s : State) : Answer :=
  .next (s.onDev fun a d => d.writeRegister a q sk.val .mbCfg n.toNat 0 v)

/-- DB_PEND_CLEAR (R436). -/
def execDbPendClear (q : Requester) (sk : Sock) (r : Fin 256) (mask : BitVec 32) (s : State) : Answer :=
  .next (s.onDev fun a d => d.writeRegister a q sk.val .dbPend r.val 0 (mask.setWidth 64))

/-- BOLLARD_READ (R441). -/
def execBollardRead (q : Requester) (sk : Sock) (b : Fin 64) (s : State) : Answer :=
  .next (s.onDev fun a d => d.readRegister a q sk.val .bl b.val 0)

/-- BOLLARD_RELEASE (R442). -/
def execBollardRelease (q : Requester) (sk : Sock) (b : Fin 64) (v : Word) (s : State) : Answer :=
  .next (s.onDev fun a d => d.writeRegister a q sk.val .blRel b.val 0 v)

/-- BOLLARD_FORCE (R442): BL_CFG.FORCE. -/
def execBollardForce (q : Requester) (sk : Sock) (b : Fin 64) (s : State) : Answer :=
  .next (s.onDev fun a d => d.writeRegister a q sk.val .blCfg b.val 0 (d.withField sk.val .blCfg b.val 0 63 63 1))

/-! ### Counters, power, attestation -/

/-- UNC_BERTH_WRITE (R455): PC_UNC_CFG.BERTH of a unit's counter; a unit number that names none has no register. -/
def execUncBerthWrite (q : Requester) (sk : Sock) (u : Fin 256) (i : Fin 4) (b : BitVec 6) (s : State) : Answer :=
  .next (s.onDev fun a d =>
    match uncUnit u.val with
    | some (cfg, cnt, k) =>
      if !Requester.mayReach q then d.answer [1]
      else if q.berth ≠ 0 then (d.regNote sk.val q (cfg.at k i.val)).answer [0]
      else (d.uncBerth sk.val cfg cnt k i.val b.toNat).answer [0]
    | none => d.writeCommand a q sk.val 0x5FFFFFF8 3 0)

/-- ENTER_MAINTAIN (R474): PW_MODE.REQ = MAINTAIN. -/
def execEnterMaintain (q : Requester) (sk : Sock) (s : State) : Answer :=
  .next (s.onDev fun a d => d.writeRegister a q sk.val .pwMode 0 0 (word (5 * 2 ^ 8)))

/-- LEAVE_MAINTAIN (R474): PW_MODE.REQ = RUN. -/
def execLeaveMaintain (q : Requester) (sk : Sock) (s : State) : Answer :=
  .next (s.onDev fun a d => d.writeRegister a q sk.val .pwMode 0 0 (word (3 * 2 ^ 8)))

/-- DOMAIN_SET (R470): PW_DOM.SET. -/
def execDomainSet (q : Requester) (sk : Sock) (set : BitVec 28) (s : State) : Answer :=
  .next (s.onDev fun a d => d.writeRegister a q sk.val .pwDom 0 0 (set.setWidth 64))

/-- ATTESTATION (R496): WH_ATTEST_CMD with GO. -/
def execAttestation (q : Requester) (sk : Sock) (b : BitVec 6) (v : Word) (s : State) : Answer :=
  .next (s.onDev fun a d => d.writeRegister a q sk.val .whAttestCmd b.toNat 0 (putBit v 63 true))

end Sys2Proof.Machine
end

