-- ==== Sys2Proof/Machine/SysInsn.lean ====
section
/-! DEFINITION. The system instructions and system registers (R82, R86, R90 to R98, R112, R154, R169, R184 to R192, R277,
R456). -/

namespace Sys2Proof.Machine

/-! ### System registers -/

/-- Whether a system register exists on a core (R97, R540). -/
def sysListed (h : Hart) (n : Nat) : Bool :=
  n = 0x001 || n = 0x010 || n = 0x011 || (0x100 ≤ n && n ≤ 0x109) || (0x120 ≤ n && n ≤ 0x12A) || (0x130 ≤ n && n ≤ 0x137) ||
    (0x200 ≤ n && n ≤ 0x213) || (isWheel h && 0x300 ≤ n && n ≤ 0x3FF)

/-- The bits of a system register that a SYSW stores: its fields, or none where every field is read-only or an action. -/
def sysMask (n : Nat) : Word :=
  match n with
  | 0x010 => 0x31F
  | 0x100 => 0x4
  | 0x102 | 0x202 => 0xFFFFFFFFFFFFE000
  | 0x104 => 0x000FFFFFFFFFF001
  | 0x105 | 0x205 => 0xF
  | 0x107 => 0xFFFF
  | 0x108 => 0x3FF
  | 0x200 => 0xC
  | 0x204 => 0x000FFFFFFFFFF000
  | 0x208 => 0xFFFFFFFFFFFFF000
  | 0x209 => 0x1
  | 0x20A => 0x8000FFFFFFFFFFFF
  | 0x20B => 0xF
  | 0x20C => 0x7
  | 0x20D => 0x37
  | 0x20F => 0x3
  | 0x210 => 0x101
  | 0x211 => 0xF0FFFFFFFFFFFFFF
  | 0x213 => 0x1
  | 0x001 | 0x011 | 0x109 | 0x20E => 0
  | n =>
    if (0x120 ≤ n && n ≤ 0x12A) || n = 0x212 then 0x0000FFFFFFFFFFFF
    else if 0x130 ≤ n && n ≤ 0x137 then 0xF0000000000000FF
    else BitVec.allOnes 64

/-- What SYSR reads (R97, R109). -/
def Dev.sysRead (t : Tables) (d : Dev) (h : Hart) (n : Nat) : Word :=
  let c := d.core h
  match n with
  | 0x001 => word ((masterOf h).toNat + t.berthOf h * 2 ^ 32)
  | 0x011 => d.now
  | 0x109 =>
    let v := bits (c.sysGet 0x108) 9 0
    if c.level = 1 && bit (c.ivGet v) 14 then 0 else putBit (c.ivGet v) 63 (vectorLives v && d.pend h v)
  | n => c.sysGet n

/-- A write of SYS_IVCFG (R108, R109): at S a vector with TGT = 1 is ignored, and TGT is writable at H only. -/
def Core.writeIvcfg (c : Core) (v : Word) : Core :=
  let n := bits (c.sysGet 0x108) 9 0
  let old := c.ivGet n
  if c.level = 1 && bit old 14 then c
  else
    let new := (v &&& 0x8000) ||| (v &&& 0x700) ||| (if 2 ≤ c.level then v &&& 0x4000 else old &&& 0x4000)
    c.ivSet n (putBit new 63 (vectorLives n && bit v 63))

/-- A write of SYS_CACHECTL (R187): what a cleared enable first writes back. -/
def Dev.writeCacheCtl (a : Tables) (d : Dev) (h : Hart) (v : Word) : Dev :=
  let c := d.core h
  let d := if l2On h c && !bit v 2 then d.disableL2 a h
    else if l1dOn h c && !bit v 1 then
      d.onCore h fun c => (c.l1d.map fun e => e.2.la).foldl (fun c la => c.syncD la) c
    else d
  d.onCore h fun c => c.sysSet 0x20D (v &&& sysMask 0x20D)

/-- A write of SYS_CACHEINV (R184): invalidate all of the named caches. -/
def Dev.writeCacheInv (a : Tables) (d : Dev) (h : Hart) (v : Word) : Dev :=
  if bit v 2 then d.flushL2 a h
  else
    let d := if bit v 1 then d.onCore h Core.flushL1D else d
    if bit v 0 then d.onCore h fun c => { c with l1i := [] } else d

/-- Every other SYSW: the register's fields take the value; a FLUSH clears a predictor (R169, R277). A one written to a reserved bit
is ignored and nothing is logged, though R98 puts these registers in the berth view: R3's report is taken to be one of a register
block that a message reaches; DESIGN CHOICE (assumption log 30). -/
def Core.sysStore (c : Core) (n : Nat) (v : Word) : Core :=
  let m := sysMask n
  let c := c.sysSet n ((c.sysGet n &&& ~~~ m) ||| (v &&& m))
  if n = 0x20C && bit v 3 then { c with pred := { Predictor.reset with resolved := c.pred.resolved } }
  else if n = 0x20F && bit v 2 then { c with cont := [] }
  else c

/-- Retire an instruction that kills the younger ones; fetch restarts at the next (R146). -/
def Core.nextKill (c : Core) : Core := c.countInst.jump (c.pc + 4)

/-- The level a system register needs, by its number (R97). -/
def sysLevel (n : Nat) : Nat := n / 256

/-- Whether a level may write a register that it may read (R456). -/
def Core.mayWrite (c : Core) (n : Nat) : Bool :=
  !(c.level = 1 && 0x120 ≤ n && n ≤ 0x137) || bit (c.sysGet 0x210) 8

/-- SYSR (R97). -/
def execSysr (h : Hart) (rd : GReg) (n : BitVec 12) (s : State) : Answer :=
  .next (s.onDev fun a d => d.insn h fun d =>
    let w := wordX 0x38 rd n
    if !sysListed h n.toNat then d.illegal a h w
    else if (d.core h).level < sysLevel n.toNat then (d.wordFault a.tab h 0x02 w).finish a
    else
      let v := d.sysRead a.tab h n.toNat
      d.onCore h fun c => (c.setG rd v).next)

/-- Whether a miss register of the caches that a value of SYS_CACHEINV names is in use (R185). -/
def Core.missesOf (c : Core) (v : Word) : Bool :=
  (bit v 2 && !(c.missL2.isEmpty && c.missD.isEmpty && c.missI.isEmpty)) || (bit v 1 && !c.missD.isEmpty) || (bit v 0 && !c.missI.isEmpty)

/-- SYSW (R97, R146, R185): SYS_CACHEINV waits until the store buffer is empty and no miss register of the caches it names is in
use. -/
def execSysw (h : Hart) (n : BitVec 12) (rs : GReg) (s : State) : Answer :=
  .next (s.onDev fun a d => d.insn h fun d =>
    let w := wordX 0x39 rs n
    let c := d.core h
    let v := c.getG rs
    if !sysListed h n.toNat then d.illegal a h w
    else if c.level < sysLevel n.toNat || !c.mayWrite n.toNat then (d.wordFault a.tab h 0x02 w).finish a
    else
      match n.toNat with
      | 0x109 => d.onCore h fun c => (c.writeIvcfg v).nextKill
      | 0x20D => ((d.writeCacheCtl a.tab h v).onCore h fun c => c.nextKill).finish a
      | 0x20E =>
        let d := d.drainAll a.tab h
        if !(d.core h).sb.isEmpty || (d.core h).missesOf v then d.finish a
        else ((d.writeCacheInv a.tab h v).onCore h fun c => c.nextKill).finish a
      | k => d.onCore h fun c => (c.sysStore k v).nextKill)

/-! ### Traps and returns -/

/-- TRAP: a system call trap carrying imm16 (R82, R99). -/
def execTrap (h : Hart) (imm : BitVec 16) (s : State) : Answer :=
  .next (s.onDev fun a d => d.insn h fun d => (d.fault a.tab h (flt 0x0B (imm.setWidth 64)) ((d.core h).pc + 4)).finish a)

/-- BRK: a breakpoint trap (R82, R99). -/
def execBrk (h : Hart) (s : State) : Answer :=
  .next (s.onDev fun a d => d.insn h fun d => (d.fault a.tab h (flt 0x0C 0) ((d.core h).pc + 4)).finish a)

/-- TRET (R104, R115). -/
def execTret (h : Hart) (s : State) : Answer :=
  .next (s.onDev fun a d => d.insn h fun d => (d.tret a.tab h).finish a)

/-- An unlisted encoding raises IL (R55); a listed one is no such command. -/
def execIllegalInstruction (h : Hart) (w : BitVec 32) (s : State) : Answer :=
  .next (s.onDev fun a d => if legalWord w then d else d.insn h fun d => d.illegal a h (w.setWidth 64))

/-! ### Fences, wait and TLB -/

/-- A FENCE enters the window (R142): younger loads may be performed behind it. -/
def Core.queueFence (c : Core) : Core := c.queue (windowEntry .fence c.windowPc 0 0 false false 0)

/-- FENCE: retires when the store buffer is empty (R142). -/
def execFence (h : Hart) (s : State) : Answer :=
  .next (s.onDev fun a d => d.inWindow h (fun _ => true) (fun d => d.onCore h Core.queueFence) fun d =>
    let d := d.drainAll a.tab h
    (if (d.core h).sb.isEmpty then d.onCore h Core.next
      else if (d.core h).mayQueue h then d.onCore h Core.queueFence else d).finish a)

/-- FENCE.IO: retires when, besides, every device store has been acknowledged (R143). -/
def execFenceIo (h : Hart) (s : State) : Answer :=
  .next (s.onDev fun a d => d.insn h fun d =>
    let d := (d.drainAll a.tab h).finish a
    if (d.core h).sb.isEmpty && (d.core h).devOut.isEmpty then d.onCore h Core.next else d)

/-- FENCE.I: fetch restarts at the next instruction (R144). -/
def execFenceI (h : Hart) (s : State) : Answer :=
  .next (s.onDev fun a d => d.insn h fun d =>
    let d := d.drainAll a.tab h
    (if (d.core h).sb.isEmpty then d.onCore h Core.nextKill else d).finish a)

/-- WFI (R112): PV at U. -/
def execWfi (h : Hart) (s : State) : Answer :=
  .next (s.onDev fun a d => d.insn h fun d =>
    let c := d.core h
    if c.level = 0 then (d.wordFault a.tab h 0x02 (wordRR 0x3A 0 0 0 0x011)).finish a
    else if c.wfiDone (d.pend h) then d.onCore h Core.next
    else d.onCore h fun c => { c with run := .waiting })

/-- TLBI (R95): PV at U; at S with ra[9] set it is illegal. -/
def execTlbi (h : Hart) (ra : GReg) (s : State) : Answer :=
  .next (s.onDev fun a d => d.insn h fun d =>
    let c := d.core h
    let w := wordRR 0x3A 0 ra 0 0x020
    if c.level = 0 then (d.wordFault a.tab h 0x02 w).finish a
    else if c.level = 1 && bit (c.getG ra) 9 then d.illegal a h w
    else d.onCore h fun c => (c.tlbi (c.getG ra)).nextKill)

end Sys2Proof.Machine
end

