-- ==== Sys2Proof/Machine/Vector.lean ====
section
/-! DEFINITION. Vector instructions that access no memory (R67, R68): arithmetic, compare, moves and predicates; on a management
core the groups raise IL (R90). -/

namespace Sys2Proof.Machine

/-- An instruction word of VEC-R. -/
def wordVr (o : VOp) (func : Nat) : Word := wordV 0x28 o.vd o.va o.vb o.pg o.w (func + o.z.toNat * 32)

/-- A VEC-R instruction of integer elements: inactive elements keep their value or become zero (R67). -/
def Dev.vecInsn (a : Admin) (d : Dev) (h : Hart) (o : VOp) (func : Nat) (f : Word → Word → Word) : Dev :=
  d.serverInsn a h (wordVr o func) fun c =>
    c.setV o.vd (lanes2 o.w (c.getP o.pg) o.z (c.getV o.vd) (c.getV o.va) (c.getV o.vb) f)

/-- A VEC-R instruction of floating-point elements: the flags of the active elements combined; an 8- or 16-bit width is illegal
(R67). -/
def Dev.vecFp (a : Admin) (d : Dev) (h : Hart) (o : VOp) (func : Nat) (f : Bool → Rm → Word → Word → Word × BitVec 5) : Dev :=
  if o.w.val < 2 then d.insn h fun d => d.illegal a h (wordVr o func)
  else
    d.serverInsn a h (wordVr o func) fun c =>
      let p := c.getP o.pg
      let r := fun (i : Nat) => f (o.w = 3) c.rm (elem o.w (c.getV o.va) i) (elem o.w (c.getV o.vb) i)
      (c.setV o.vd (lanes o.w p o.z (c.getV o.vd) fun i => (r i).1)).setFlags (lanesFlags o.w p fun i => (r i).2)

/-- The low bits of a shift's amount element. -/
def vshAmount (w : Fin 4) (b : Word) : Nat := b.toNat % ewBits w

/-- VADD, modulo 2^w (R67). -/
def execVadd (h : Hart) (o : VOp) (s : State) : Answer :=
  .next (s.onDev fun a d => d.vecInsn a h o 0 (fun x y => x + y))

/-- VSUB, modulo 2^w (R67). -/
def execVsub (h : Hart) (o : VOp) (s : State) : Answer :=
  .next (s.onDev fun a d => d.vecInsn a h o 1 (fun x y => x - y))

/-- VMUL: the low w bits (R67). -/
def execVmul (h : Hart) (o : VOp) (s : State) : Answer :=
  .next (s.onDev fun a d => d.vecInsn a h o 2 (fun x y => x * y))

/-- VAND (R67). -/
def execVand (h : Hart) (o : VOp) (s : State) : Answer :=
  .next (s.onDev fun a d => d.vecInsn a h o 3 (fun x y => x &&& y))

/-- VOR (R67). -/
def execVor (h : Hart) (o : VOp) (s : State) : Answer :=
  .next (s.onDev fun a d => d.vecInsn a h o 4 (fun x y => x ||| y))

/-- VXOR (R67). -/
def execVxor (h : Hart) (o : VOp) (s : State) : Answer :=
  .next (s.onDev fun a d => d.vecInsn a h o 5 (fun x y => x ^^^ y))

/-- VSHL (R67). -/
def execVshl (h : Hart) (o : VOp) (s : State) : Answer :=
  .next (s.onDev fun a d => d.vecInsn a h o 6 (fun x y => x <<< vshAmount o.w y))

/-- VSHR (R67). -/
def execVshr (h : Hart) (o : VOp) (s : State) : Answer :=
  .next (s.onDev fun a d => d.vecInsn a h o 7 (fun x y => x >>> vshAmount o.w y))

/-- VSRA (R67). -/
def execVsra (h : Hart) (o : VOp) (s : State) : Answer :=
  .next (s.onDev fun a d => d.vecInsn a h o 8 (fun x y => (sext (ewBits o.w) x).sshiftRight (vshAmount o.w y)))

/-- VMIN, signed (R67). -/
def execVmin (h : Hart) (o : VOp) (s : State) : Answer :=
  .next (s.onDev fun a d => d.vecInsn a h o 9 (fun x y => if sElem o.w x < sElem o.w y then x else y))

/-- VMAX, signed (R67). -/
def execVmax (h : Hart) (o : VOp) (s : State) : Answer :=
  .next (s.onDev fun a d => d.vecInsn a h o 10 (fun x y => if sElem o.w x < sElem o.w y then y else x))

/-- VMINU, unsigned (R67). -/
def execVminu (h : Hart) (o : VOp) (s : State) : Answer :=
  .next (s.onDev fun a d => d.vecInsn a h o 11 (fun x y => if x.ult y then x else y))

/-- VMAXU, unsigned (R67). -/
def execVmaxu (h : Hart) (o : VOp) (s : State) : Answer :=
  .next (s.onDev fun a d => d.vecInsn a h o 12 (fun x y => if x.ult y then y else x))

/-- VSEL: va where the predicate is 1, vb where it is 0; Z set is illegal (R67). -/
def execVsel (h : Hart) (o : VOp) (s : State) : Answer :=
  .next (s.onDev fun a d =>
    if o.z then d.insn h fun d => d.illegal a h (wordVr o 13)
    else d.serverInsn a h (wordVr o 13) fun c =>
      c.setV o.vd (lanes o.w (c.getP o.pg) false (c.getV o.vb) fun i => elem o.w (c.getV o.va) i))

/-- VPOPC: set bits of the va element (R67). -/
def execVpopc (h : Hart) (o : VOp) (s : State) : Answer :=
  .next (s.onDev fun a d => d.vecInsn a h o 14 (fun x _ => word (popcount x)))

/-- VFADD (R67). -/
def execVfadd (h : Hart) (o : VOp) (s : State) : Answer :=
  .next (s.onDev fun a d => d.vecFp a h o 16 fun dbl rm x y => fpBin dbl rm Fmt.add x y)

/-- VFSUB (R67). -/
def execVfsub (h : Hart) (o : VOp) (s : State) : Answer :=
  .next (s.onDev fun a d => d.vecFp a h o 17 fun dbl rm x y => fpBin dbl rm Fmt.sub x y)

/-- VFMUL (R67). -/
def execVfmul (h : Hart) (o : VOp) (s : State) : Answer :=
  .next (s.onDev fun a d => d.vecFp a h o 18 fun dbl rm x y => fpBin dbl rm Fmt.mul x y)

/-- VFDIV (R67). -/
def execVfdiv (h : Hart) (o : VOp) (s : State) : Answer :=
  .next (s.onDev fun a d => d.vecFp a h o 19 fun dbl rm x y => fpBin dbl rm Fmt.div x y)

/-- VFMIN (R67). -/
def execVfmin (h : Hart) (o : VOp) (s : State) : Answer :=
  .next (s.onDev fun a d => d.vecFp a h o 20 fun dbl _ x y => fpMinmax dbl false x y)

/-- VFMAX (R67). -/
def execVfmax (h : Hart) (o : VOp) (s : State) : Answer :=
  .next (s.onDev fun a d => d.vecFp a h o 21 fun dbl _ x y => fpMinmax dbl true x y)

/-- An instruction word of VEC-CMP. -/
def wordVcmp (o : VOp) (d : Bool) (cond : Fin 8) : Word :=
  wordV 0x29 o.vd o.va o.vb o.pg o.w (o.z.toNat * 32 + d.toNat * 16 + cond.val * 2)

/-- VEC-CMP (R68): a predicate, or with D a g register; Z set, or a predicate named above p7, is illegal. -/
def execVcmp (h : Hart) (o : VOp) (dest : Bool) (cond : Fin 8) (s : State) : Answer :=
  .next (s.onDev fun a d =>
    if o.z || (!dest && 8 ≤ o.vd.toNat) then d.insn h fun d => d.illegal a h (wordVcmp o dest cond)
    else d.serverInsn a h (wordVcmp o dest cond) fun c =>
      let r := predOf o.w fun i =>
        bit (c.getP o.pg) i && condElem o.w cond (elem o.w (c.getV o.va) i) (elem o.w (c.getV o.vb) i)
      if dest then c.setG o.vd r else c.setP (o.vd.setWidth 3) r)

/-- An instruction word of VMOV. -/
def wordVmov (w : Fin 4) (x y z : BitVec 5) (op : Nat) : Word := wordRR 0x2C x y z (w.val * 512 + op)

/-- A p register's 5-bit field. -/
def pField (p : PReg) : BitVec 5 := p.setWidth 5

/-- VBCAST (R68). -/
def execVbcast (h : Hart) (w : Fin 4) (vd : VReg) (ga : GReg) (s : State) : Answer :=
  .next (s.onDev fun a d => d.serverInsn a h (wordVmov w vd ga 0 0) fun c =>
    c.setV vd (ofElems w (List.replicate (elems w) (c.getG ga))))

/-- VEXT: element gb modulo the element count, zero-extended (R68). -/
def execVext (h : Hart) (w : Fin 4) (gd : GReg) (va : VReg) (gb : GReg) (s : State) : Answer :=
  .next (s.onDev fun a d => d.serverInsn a h (wordVmov w gd va gb 1) fun c =>
    c.setG gd (elem w (c.getV va) ((c.getG gb).toNat % elems w)))

/-- VINS: element gb modulo the element count takes the low bits of ga (R68). -/
def execVins (h : Hart) (w : Fin 4) (vd : VReg) (ga gb : GReg) (s : State) : Answer :=
  .next (s.onDev fun a d => d.serverInsn a h (wordVmov w vd ga gb 2) fun c =>
    c.setV vd (ofElems w ((elemList w (c.getV vd)).set ((c.getG gb).toNat % elems w) (c.getG ga))))

/-- VCOMP (R68). -/
def execVcomp (h : Hart) (w : Fin 4) (vd va : VReg) (pb : PReg) (s : State) : Answer :=
  .next (s.onDev fun a d => d.serverInsn a h (wordVmov w vd va (pField pb) 3) fun c =>
    c.setV vd (compress w (c.getP pb) (c.getV va)))

/-- PAND: on all 64 bits (R68). -/
def execPand (h : Hart) (pd pa pb : PReg) (s : State) : Answer :=
  .next (s.onDev fun a d => d.serverInsn a h (wordVmov 0 (pField pd) (pField pa) (pField pb) 8) fun c =>
    c.setP pd (c.getP pa &&& c.getP pb))

/-- POR: on all 64 bits (R68). -/
def execPor (h : Hart) (pd pa pb : PReg) (s : State) : Answer :=
  .next (s.onDev fun a d => d.serverInsn a h (wordVmov 0 (pField pd) (pField pa) (pField pb) 9) fun c =>
    c.setP pd (c.getP pa ||| c.getP pb))

/-- PXOR: on all 64 bits (R68). -/
def execPxor (h : Hart) (pd pa pb : PReg) (s : State) : Answer :=
  .next (s.onDev fun a d => d.serverInsn a h (wordVmov 0 (pField pd) (pField pa) (pField pb) 10) fun c =>
    c.setP pd (c.getP pa ^^^ c.getP pb))

/-- PNOT (R68). -/
def execPnot (h : Hart) (pd pa : PReg) (s : State) : Answer :=
  .next (s.onDev fun a d => d.serverInsn a h (wordVmov 0 (pField pd) (pField pa) 0 0xB) fun c => c.setP pd (~~~ c.getP pa))

/-- PMOV (R68). -/
def execPmov (h : Hart) (pd : PReg) (ga : GReg) (s : State) : Answer :=
  .next (s.onDev fun a d => d.serverInsn a h (wordVmov 0 (pField pd) ga 0 0xC) fun c => c.setP pd (c.getG ga))

/-- PGET (R68). -/
def execPget (h : Hart) (gd : GReg) (pa : PReg) (s : State) : Answer :=
  .next (s.onDev fun a d => d.serverInsn a h (wordVmov 0 gd (pField pa) 0 0xD) fun c => c.setG gd (c.getP pa))

/-- PCNT: set bits among those of the elements (R68). -/
def execPcnt (h : Hart) (w : Fin 4) (gd : GReg) (pa : PReg) (s : State) : Answer :=
  .next (s.onDev fun a d => d.serverInsn a h (wordVmov w gd (pField pa) 0 0xE) fun c =>
    c.setG gd (word ((List.range (elems w)).countP fun i => bit (c.getP pa) i)))

end Sys2Proof.Machine
end

