-- ==== Sys2Proof/Machine/Dispatch.lean ====
section
/-! DEFINITION. Dispatch: one arm per command. -/

namespace Sys2Proof.Machine

def exec (i : Instr) (s : State) : Host.Outcome State Fault Refusal :=
  match i with
  | .registerWrite q sk off size v => Sys2Proof.Machine.execRegisterWrite q sk off size v s
  | .coldReset sk b => Sys2Proof.Machine.execColdReset sk b s
  | .warmReset sk farTrained nearTrained => Sys2Proof.Machine.execWarmReset sk farTrained nearTrained s
  | .berthReset b => Sys2Proof.Machine.execBerthReset b s
  | .podReset sk pod => Sys2Proof.Machine.execPodReset sk pod s
  | .coreReset h => Sys2Proof.Machine.execCoreReset h s
  | .whr sk reverified => Sys2Proof.Machine.execWhr sk reverified s
  | .flr sk e f => Sys2Proof.Machine.execFlr sk e f s
  | .standbyBootTimeout sk flashOk => Sys2Proof.Machine.execStandbyBootTimeout sk flashOk s
  | .submit sk slip => Sys2Proof.Machine.execSubmit sk slip s
  | .removalAck sk slip => Sys2Proof.Machine.execRemovalAck sk slip s
  | .drainTimeout => Sys2Proof.Machine.execDrainTimeout s
  | .epochBoundary sk => Sys2Proof.Machine.execEpochBoundary sk s
  | .add h rd ra rb => Sys2Proof.Machine.execAdd h rd ra rb s
  | .sub h rd ra rb => Sys2Proof.Machine.execSub h rd ra rb s
  | .and h rd ra rb => Sys2Proof.Machine.execAnd h rd ra rb s
  | .or h rd ra rb => Sys2Proof.Machine.execOr h rd ra rb s
  | .xor h rd ra rb => Sys2Proof.Machine.execXor h rd ra rb s
  | .andn h rd ra rb => Sys2Proof.Machine.execAndn h rd ra rb s
  | .sll h rd ra rb => Sys2Proof.Machine.execSll h rd ra rb s
  | .srl h rd ra rb => Sys2Proof.Machine.execSrl h rd ra rb s
  | .sra h rd ra rb => Sys2Proof.Machine.execSra h rd ra rb s
  | .rotr h rd ra rb => Sys2Proof.Machine.execRotr h rd ra rb s
  | .slt h rd ra rb => Sys2Proof.Machine.execSlt h rd ra rb s
  | .sltu h rd ra rb => Sys2Proof.Machine.execSltu h rd ra rb s
  | .min h rd ra rb => Sys2Proof.Machine.execMin h rd ra rb s
  | .max h rd ra rb => Sys2Proof.Machine.execMax h rd ra rb s
  | .minu h rd ra rb => Sys2Proof.Machine.execMinu h rd ra rb s
  | .maxu h rd ra rb => Sys2Proof.Machine.execMaxu h rd ra rb s
  | .mul h rd ra rb => Sys2Proof.Machine.execMul h rd ra rb s
  | .mulh h rd ra rb => Sys2Proof.Machine.execMulh h rd ra rb s
  | .mulhu h rd ra rb => Sys2Proof.Machine.execMulhu h rd ra rb s
  | .div h rd ra rb => Sys2Proof.Machine.execDiv h rd ra rb s
  | .divu h rd ra rb => Sys2Proof.Machine.execDivu h rd ra rb s
  | .rem h rd ra rb => Sys2Proof.Machine.execRem h rd ra rb s
  | .remu h rd ra rb => Sys2Proof.Machine.execRemu h rd ra rb s
  | .sextb h rd ra => Sys2Proof.Machine.execSextb h rd ra s
  | .sexth h rd ra => Sys2Proof.Machine.execSexth h rd ra s
  | .sextw h rd ra => Sys2Proof.Machine.execSextw h rd ra s
  | .zextw h rd ra => Sys2Proof.Machine.execZextw h rd ra s
  | .addi h rd ra imm => Sys2Proof.Machine.execAddi h rd ra imm s
  | .andi h rd ra imm => Sys2Proof.Machine.execAndi h rd ra imm s
  | .ori h rd ra imm => Sys2Proof.Machine.execOri h rd ra imm s
  | .xori h rd ra imm => Sys2Proof.Machine.execXori h rd ra imm s
  | .slti h rd ra imm => Sys2Proof.Machine.execSlti h rd ra imm s
  | .sltiu h rd ra imm => Sys2Proof.Machine.execSltiu h rd ra imm s
  | .slli h rd ra sh => Sys2Proof.Machine.execSlli h rd ra sh s
  | .srli h rd ra sh => Sys2Proof.Machine.execSrli h rd ra sh s
  | .srai h rd ra sh => Sys2Proof.Machine.execSrai h rd ra sh s
  | .rori h rd ra sh => Sys2Proof.Machine.execRori h rd ra sh s
  | .setq h rd q imm => Sys2Proof.Machine.execSetq h rd q imm s
  | .insq h rd q imm => Sys2Proof.Machine.execInsq h rd q imm s
  | .fadd h d rd ra rb => Sys2Proof.Machine.execFadd h d rd ra rb s
  | .fsub h d rd ra rb => Sys2Proof.Machine.execFsub h d rd ra rb s
  | .fmul h d rd ra rb => Sys2Proof.Machine.execFmul h d rd ra rb s
  | .fdiv h d rd ra rb => Sys2Proof.Machine.execFdiv h d rd ra rb s
  | .fsqrt h d rd ra => Sys2Proof.Machine.execFsqrt h d rd ra s
  | .fmin h d rd ra rb => Sys2Proof.Machine.execFmin h d rd ra rb s
  | .fmax h d rd ra rb => Sys2Proof.Machine.execFmax h d rd ra rb s
  | .feq h d rd ra rb => Sys2Proof.Machine.execFeq h d rd ra rb s
  | .flt h d rd ra rb => Sys2Proof.Machine.execFlt h d rd ra rb s
  | .fle h d rd ra rb => Sys2Proof.Machine.execFle h d rd ra rb s
  | .fcvtI h d rd ra => Sys2Proof.Machine.execFcvtI h d rd ra s
  | .fcvtF h d rd ra => Sys2Proof.Machine.execFcvtF h d rd ra s
  | .fcvtW h d rd ra => Sys2Proof.Machine.execFcvtW h d rd ra s
  | .fma h d rd ra rb rc => Sys2Proof.Machine.execFma h d rd ra rb rc s
  | .fms h d rd ra rb rc => Sys2Proof.Machine.execFms h d rd ra rb rc s
  | .fnma h d rd ra rb rc => Sys2Proof.Machine.execFnma h d rd ra rb rc s
  | .fnms h d rd ra rb rc => Sys2Proof.Machine.execFnms h d rd ra rb rc s
  | .lb h rd ra imm => Sys2Proof.Machine.execLb h rd ra imm s
  | .lbu h rd ra imm => Sys2Proof.Machine.execLbu h rd ra imm s
  | .lh h rd ra imm => Sys2Proof.Machine.execLh h rd ra imm s
  | .lhu h rd ra imm => Sys2Proof.Machine.execLhu h rd ra imm s
  | .lw h rd ra imm => Sys2Proof.Machine.execLw h rd ra imm s
  | .lwu h rd ra imm => Sys2Proof.Machine.execLwu h rd ra imm s
  | .ld h rd ra imm => Sys2Proof.Machine.execLd h rd ra imm s
  | .sb h rs ra imm => Sys2Proof.Machine.execSb h rs ra imm s
  | .sh h rs ra imm => Sys2Proof.Machine.execSh h rs ra imm s
  | .sw h rs ra imm => Sys2Proof.Machine.execSw h rs ra imm s
  | .sd h rs ra imm => Sys2Proof.Machine.execSd h rs ra imm s
  | .vl h vd ra imm => Sys2Proof.Machine.execVl h vd ra imm s
  | .vs h vs ra imm => Sys2Proof.Machine.execVs h vs ra imm s
  | .ldx h rd ra rb size zext scale vector => Sys2Proof.Machine.execLdx h rd ra rb size zext scale vector s
  | .stx h rs ra rb size scale vector => Sys2Proof.Machine.execStx h rs ra rb size scale vector s
  | .aadd h o => Sys2Proof.Machine.execAadd h o s
  | .aand h o => Sys2Proof.Machine.execAand h o s
  | .aor h o => Sys2Proof.Machine.execAor h o s
  | .axor h o => Sys2Proof.Machine.execAxor h o s
  | .amin h o => Sys2Proof.Machine.execAmin h o s
  | .amax h o => Sys2Proof.Machine.execAmax h o s
  | .aminu h o => Sys2Proof.Machine.execAminu h o s
  | .amaxu h o => Sys2Proof.Machine.execAmaxu h o s
  | .aswap h o => Sys2Proof.Machine.execAswap h o s
  | .cas h o => Sys2Proof.Machine.execCas h o s
  | .vadd h o => Sys2Proof.Machine.execVadd h o s
  | .vsub h o => Sys2Proof.Machine.execVsub h o s
  | .vmul h o => Sys2Proof.Machine.execVmul h o s
  | .vand h o => Sys2Proof.Machine.execVand h o s
  | .vor h o => Sys2Proof.Machine.execVor h o s
  | .vxor h o => Sys2Proof.Machine.execVxor h o s
  | .vshl h o => Sys2Proof.Machine.execVshl h o s
  | .vshr h o => Sys2Proof.Machine.execVshr h o s
  | .vsra h o => Sys2Proof.Machine.execVsra h o s
  | .vmin h o => Sys2Proof.Machine.execVmin h o s
  | .vmax h o => Sys2Proof.Machine.execVmax h o s
  | .vminu h o => Sys2Proof.Machine.execVminu h o s
  | .vmaxu h o => Sys2Proof.Machine.execVmaxu h o s
  | .vsel h o => Sys2Proof.Machine.execVsel h o s
  | .vpopc h o => Sys2Proof.Machine.execVpopc h o s
  | .vfadd h o => Sys2Proof.Machine.execVfadd h o s
  | .vfsub h o => Sys2Proof.Machine.execVfsub h o s
  | .vfmul h o => Sys2Proof.Machine.execVfmul h o s
  | .vfdiv h o => Sys2Proof.Machine.execVfdiv h o s
  | .vfmin h o => Sys2Proof.Machine.execVfmin h o s
  | .vfmax h o => Sys2Proof.Machine.execVfmax h o s
  | .vcmp h o d cond => Sys2Proof.Machine.execVcmp h o d cond s
  | .vgath h vd ra vb pg w scale => Sys2Proof.Machine.execVgath h vd ra vb pg w scale s
  | .vscatt h vd ra vb pg w scale => Sys2Proof.Machine.execVscatt h vd ra vb pg w scale s
  | .vunpk h vd ra rb k => Sys2Proof.Machine.execVunpk h vd ra rb k s
  | .vbcast h w vd ga => Sys2Proof.Machine.execVbcast h w vd ga s
  | .vext h w gd va gb => Sys2Proof.Machine.execVext h w gd va gb s
  | .vins h w vd ga gb => Sys2Proof.Machine.execVins h w vd ga gb s
  | .vcomp h w vd va pb => Sys2Proof.Machine.execVcomp h w vd va pb s
  | .pand h pd pa pb => Sys2Proof.Machine.execPand h pd pa pb s
  | .por h pd pa pb => Sys2Proof.Machine.execPor h pd pa pb s
  | .pxor h pd pa pb => Sys2Proof.Machine.execPxor h pd pa pb s
  | .pnot h pd pa => Sys2Proof.Machine.execPnot h pd pa s
  | .pmov h pd ga => Sys2Proof.Machine.execPmov h pd ga s
  | .pget h gd pa => Sys2Proof.Machine.execPget h gd pa s
  | .pcnt h w gd pa => Sys2Proof.Machine.execPcnt h w gd pa s
  | .crc32cB h rd ra rb => Sys2Proof.Machine.execCrc32cB h rd ra rb s
  | .crc32cH h rd ra rb => Sys2Proof.Machine.execCrc32cH h rd ra rb s
  | .crc32cW h rd ra rb => Sys2Proof.Machine.execCrc32cW h rd ra rb s
  | .crc32cD h rd ra rb => Sys2Proof.Machine.execCrc32cD h rd ra rb s
  | .crc64B h rd ra rb => Sys2Proof.Machine.execCrc64B h rd ra rb s
  | .crc64H h rd ra rb => Sys2Proof.Machine.execCrc64H h rd ra rb s
  | .crc64W h rd ra rb => Sys2Proof.Machine.execCrc64W h rd ra rb s
  | .crc64D h rd ra rb => Sys2Proof.Machine.execCrc64D h rd ra rb s
  | .hmix h rd ra rb => Sys2Proof.Machine.execHmix h rd ra rb s
  | .popc h rd ra => Sys2Proof.Machine.execPopc h rd ra s
  | .selb h rd ra rb => Sys2Proof.Machine.execSelb h rd ra rb s
  | .clz h rd ra => Sys2Proof.Machine.execClz h rd ra s
  | .ctz h rd ra => Sys2Proof.Machine.execCtz h rd ra s
  | .bswap h rd ra => Sys2Proof.Machine.execBswap h rd ra s
  | .bc h ra rb cond a off => Sys2Proof.Machine.execBc h ra rb cond a off s
  | .bz h ra cond a off => Sys2Proof.Machine.execBz h ra cond a off s
  | .skip h ra rb cond n => Sys2Proof.Machine.execSkip h ra rb cond n s
  | .j h off => Sys2Proof.Machine.execJ h off s
  | .jal h off => Sys2Proof.Machine.execJal h off s
  | .jalr h rd ra imm => Sys2Proof.Machine.execJalr h rd ra imm s
  | .sysr h rd n => Sys2Proof.Machine.execSysr h rd n s
  | .sysw h n rs => Sys2Proof.Machine.execSysw h n rs s
  | .trap h imm => Sys2Proof.Machine.execTrap h imm s
  | .fence h => Sys2Proof.Machine.execFence h s
  | .fenceIo h => Sys2Proof.Machine.execFenceIo h s
  | .fenceI h => Sys2Proof.Machine.execFenceI h s
  | .tret h => Sys2Proof.Machine.execTret h s
  | .wfi h => Sys2Proof.Machine.execWfi h s
  | .brk h => Sys2Proof.Machine.execBrk h s
  | .tlbi h ra => Sys2Proof.Machine.execTlbi h ra s
  | .illegalInstruction h word => Sys2Proof.Machine.execIllegalInstruction h word s
  | .trapEntry h cause tval => Sys2Proof.Machine.execTrapEntry h cause tval s
  | .interruptMessage q sk off len data poisoned => Sys2Proof.Machine.execInterruptMessage q sk off len data poisoned s
  | .interruptEntry h late => Sys2Proof.Machine.execInterruptEntry h late s
  | .sTimer h => Sys2Proof.Machine.execSTimer h s
  | .hTimer h => Sys2Proof.Machine.execHTimer h s
  | .deviceStoreBusError h va => Sys2Proof.Machine.execDeviceStoreBusError h va s
  | .fetchGroup h => Sys2Proof.Machine.execFetchGroup h s
  | .memoryOrderKill h => Sys2Proof.Machine.execMemoryOrderKill h s
  | .dependenceKill h => Sys2Proof.Machine.execDependenceKill h s
  | .loadReissue h => Sys2Proof.Machine.execLoadReissue h s
  | .storeBufferWrite h => Sys2Proof.Machine.execStoreBufferWrite h s
  | .mdpClear h => Sys2Proof.Machine.execMdpClear h s
  | .usefulShift h => Sys2Proof.Machine.execUsefulShift h s
  | .rds m => Sys2Proof.Machine.execRds m s
  | .rdc m => Sys2Proof.Machine.execRdc m s
  | .rdm m => Sys2Proof.Machine.execRdm m s
  | .upg m => Sys2Proof.Machine.execUpg m s
  | .evs m => Sys2Proof.Machine.execEvs m s
  | .evc m => Sys2Proof.Machine.execEvc m s
  | .nrd m => Sys2Proof.Machine.execNrd m s
  | .drd m => Sys2Proof.Machine.execDrd m s
  | .hrds m => Sys2Proof.Machine.execHrds m s
  | .hrdm m => Sys2Proof.Machine.execHrdm m s
  | .hupg m => Sys2Proof.Machine.execHupg m s
  | .hevs m => Sys2Proof.Machine.execHevs m s
  | .fwds m => Sys2Proof.Machine.execFwds m s
  | .fwdm m => Sys2Proof.Machine.execFwdm m s
  | .fwdr m => Sys2Proof.Machine.execFwdr m s
  | .inv m => Sys2Proof.Machine.execInv m s
  | .binv m => Sys2Proof.Machine.execBinv m s
  | .hprs m => Sys2Proof.Machine.execHprs m s
  | .hprm m => Sys2Proof.Machine.execHprm m s
  | .hprr m => Sys2Proof.Machine.execHprr m s
  | .ack m => Sys2Proof.Machine.execAck m s
  | .fack m => Sys2Proof.Machine.execFack m s
  | .pack m => Sys2Proof.Machine.execPack m s
  | .cmpack m => Sys2Proof.Machine.execCmpack m s
  | .grant m => Sys2Proof.Machine.execGrant m s
  | .wback m => Sys2Proof.Machine.execWback m s
  | .retry m => Sys2Proof.Machine.execRetry m s
  | .requestReplay n la => Sys2Proof.Machine.execRequestReplay n la s
  | .reservationTimeout sk pod ix => Sys2Proof.Machine.execReservationTimeout sk pod ix s
  | .dats m => Sys2Proof.Machine.execDats m s
  | .date m => Sys2Proof.Machine.execDate m s
  | .datm m => Sys2Proof.Machine.execDatm m s
  | .wbm m => Sys2Proof.Machine.execWbm m s
  | .wbs m => Sys2Proof.Machine.execWbs m s
  | .nwr m => Sys2Proof.Machine.execNwr m s
  | .pwr m => Sys2Proof.Machine.execPwr m s
  | .atm m => Sys2Proof.Machine.execAtm m s
  | .atr m => Sys2Proof.Machine.execAtr m s
  | .dwr m => Sys2Proof.Machine.execDwr m s
  | .drsp m => Sys2Proof.Machine.execDrsp m s
  | .unknownMessageType sk landing ty master berth addr => Sys2Proof.Machine.execUnknownMessageType sk landing ty master berth addr s
  | .delayedForwardAnswer h => Sys2Proof.Machine.execDelayedForwardAnswer h s
  | .meshHeaderError sk landing port plane => Sys2Proof.Machine.execMeshHeaderError sk landing port plane s
  | .linkRestart q sk landing mask => Sys2Proof.Machine.execLinkRestart q sk landing mask s
  | .lockFill q sk v => Sys2Proof.Machine.execLockFill q sk v s
  | .rangeInvalidation q sk v => Sys2Proof.Machine.execRangeInvalidation q sk v s
  | .wayLockWrite q sk lock => Sys2Proof.Machine.execWayLockWrite q sk lock s
  | .hmapWrite q sk e v => Sys2Proof.Machine.execHmapWrite q sk e v s
  | .linkDetect sk k lanes => Sys2Proof.Machine.execLinkDetect sk k lanes s
  | .linkEqualize sk k lanes => Sys2Proof.Machine.execLinkEqualize sk k lanes s
  | .identify sk k peer peerLink => Sys2Proof.Machine.execIdentify sk k peer peerLink s
  | .trainingTimeout sk k => Sys2Proof.Machine.execTrainingTimeout sk k s
  | .linkRetrain q sk k => Sys2Proof.Machine.execLinkRetrain q sk k s
  | .linkDisable q sk k v => Sys2Proof.Machine.execLinkDisable q sk k v s
  | .flit sk k f => Sys2Proof.Machine.execFlit sk k f s
  | .nak sk k ack => Sys2Proof.Machine.execNak sk k ack s
  | .laneCheck sk k failed => Sys2Proof.Machine.execLaneCheck sk k failed s
  | .routeSwitch at_ => Sys2Proof.Machine.execRouteSwitch at_ s
  | .switchTime sk => Sys2Proof.Machine.execSwitchTime sk s
  | .join sk via verified => Sys2Proof.Machine.execJoin sk via verified s
  | .leave sk => Sys2Proof.Machine.execLeave sk s
  | .heartbeat sk => Sys2Proof.Machine.execHeartbeat sk s
  | .socketSilent sk silent => Sys2Proof.Machine.execSocketSilent sk silent s
  | .crossingTimeout n txn => Sys2Proof.Machine.execCrossingTimeout n txn s
  | .timeSync sk offset => Sys2Proof.Machine.execTimeSync sk offset s
  | .stopMessage sk from_ => Sys2Proof.Machine.execStopMessage sk from_ s
  | .channelRetrain sk far ch ok ns => Sys2Proof.Machine.execChannelRetrain sk far ch ok ns s
  | .cxlMemTimeout sk port => Sys2Proof.Machine.execCxlMemTimeout sk port s
  | .cxlHotAdd sk port gib => Sys2Proof.Machine.execCxlHotAdd sk port gib s
  | .cxlSurpriseRemoval sk port => Sys2Proof.Machine.execCxlSurpriseRemoval sk port s
  | .scrubRead sk far ch r => Sys2Proof.Machine.execScrubRead sk far ch r s
  | .gddr6CrcRetry sk ch write la retries => Sys2Proof.Machine.execGddr6CrcRetry sk ch write la retries s
  | .uncorrectableReread sk far ch la second => Sys2Proof.Machine.execUncorrectableReread sk far ch la second s
  | .softPpr sk ch rank sub bg bank row => Sys2Proof.Machine.execSoftPpr sk ch rank sub bg bank row s
  | .softRepair q sk v => Sys2Proof.Machine.execSoftRepair q sk v s
  | .copyStart sk hub => Sys2Proof.Machine.execCopyStart sk hub s
  | .copyWritePhase sk hub slot => Sys2Proof.Machine.execCopyWritePhase sk hub slot s
  | .copyAbandon sk hub slot => Sys2Proof.Machine.execCopyAbandon sk hub slot s
  | .tieringEpochEnd sk => Sys2Proof.Machine.execTieringEpochEnd sk s
  | .remapCacheFill sk hub set => Sys2Proof.Machine.execRemapCacheFill sk hub set s
  | .drain q sk hub b v => Sys2Proof.Machine.execDrain q sk hub b v s
  | .modeWrite q sk b mode => Sys2Proof.Machine.execModeWrite q sk b mode s
  | .evacuationRun q sk hub r => Sys2Proof.Machine.execEvacuationRun q sk hub r s
  | .revert q sk hub r => Sys2Proof.Machine.execRevert q sk hub r s
  | .faultMessage sk => Sys2Proof.Machine.execFaultMessage sk s
  | .force q sk src v => Sys2Proof.Machine.execForce q sk src v s
  | .pop q sk => Sys2Proof.Machine.execPop q sk s
  | .firstRearm q sk => Sys2Proof.Machine.execFirstRearm q sk s
  | .errLogRearm q sk src => Sys2Proof.Machine.execErrLogRearm q sk src s
  | .fenceStateWrite q sk n st => Sys2Proof.Machine.execFenceStateWrite q sk n st s
  | .quietPeriodEnd sk n passed => Sys2Proof.Machine.execQuietPeriodEnd sk n passed s
  | .xdirClr q sk hub => Sys2Proof.Machine.execXdirClr q sk hub s
  | .feDb q sk e f ix tail => Sys2Proof.Machine.execFeDb q sk e f ix tail s
  | .nop sk e f ix => Sys2Proof.Machine.execNop sk e f ix s
  | .copy sk e f ix => Sys2Proof.Machine.execCopy sk e f ix s
  | .fill sk e f ix => Sys2Proof.Machine.execFill sk e f ix s
  | .compare sk e f ix => Sys2Proof.Machine.execCompare sk e f ix s
  | .comparePat sk e f ix => Sys2Proof.Machine.execComparePat sk e f ix s
  | .crc32c sk e f ix => Sys2Proof.Machine.execCrc32c sk e f ix s
  | .crc64 sk e f ix => Sys2Proof.Machine.execCrc64 sk e f ix s
  | .copyCrc32c sk e f ix => Sys2Proof.Machine.execCopyCrc32c sk e f ix s
  | .copyCrc64 sk e f ix => Sys2Proof.Machine.execCopyCrc64 sk e f ix s
  | .deflateC sk e f ix => Sys2Proof.Machine.execDeflateC sk e f ix s
  | .deflateD sk e f ix => Sys2Proof.Machine.execDeflateD sk e f ix s
  | .lz4C sk e f ix => Sys2Proof.Machine.execLz4C sk e f ix s
  | .lz4D sk e f ix => Sys2Proof.Machine.execLz4D sk e f ix s
  | .descriptorCompletion sk e f ix => Sys2Proof.Machine.execDescriptorCompletion sk e f ix s
  | .bmeClear q sk e f => Sys2Proof.Machine.execBmeClear q sk e f s
  | .bmeSet q sk e f => Sys2Proof.Machine.execBmeSet q sk e f s
  | .engineReset q sk e => Sys2Proof.Machine.execEngineReset q sk e s
  | .commit q sk e f => Sys2Proof.Machine.execCommit q sk e f s
  | .cplTimeout n txn => Sys2Proof.Machine.execCplTimeout n txn s
  | .tagQuarantineEnd sk e f tag => Sys2Proof.Machine.execTagQuarantineEnd sk e f tag s
  | .msiXMessage sk e f vec => Sys2Proof.Machine.execMsiXMessage sk e f vec s
  | .dmaRead r => Sys2Proof.Machine.execDmaRead r s
  | .dmaWrite r bytes poisoned => Sys2Proof.Machine.execDmaWrite r bytes poisoned s
  | .peerRequest r write bytes => Sys2Proof.Machine.execPeerRequest r write bytes s
  | .surpriseRemoval sk port dpc => Sys2Proof.Machine.execSurpriseRemoval sk port dpc s
  | .configAccess q sk off size write v => Sys2Proof.Machine.execConfigAccess q sk off size write v s
  | .pxIdeKey q sk port slot ix v => Sys2Proof.Machine.execPxIdeKey q sk port slot ix v s
  | .post q sk slip len => Sys2Proof.Machine.execPost q sk slip len s
  | .mbDone q sk slip => Sys2Proof.Machine.execMbDone q sk slip s
  | .mbCfgWrite q sk slip v => Sys2Proof.Machine.execMbCfgWrite q sk slip v s
  | .dbPendClear q sk r mask => Sys2Proof.Machine.execDbPendClear q sk r mask s
  | .bollardRead q sk b => Sys2Proof.Machine.execBollardRead q sk b s
  | .bollardRelease q sk b v => Sys2Proof.Machine.execBollardRelease q sk b v s
  | .bollardForce q sk b => Sys2Proof.Machine.execBollardForce q sk b s
  | .sampleCountZero h ip killed => Sys2Proof.Machine.execSampleCountZero h ip killed s
  | .snapshot sk b => Sys2Proof.Machine.execSnapshot sk b s
  | .snapshotRecordDone sk b => Sys2Proof.Machine.execSnapshotRecordDone sk b s
  | .uncBerthWrite q sk unit ix b => Sys2Proof.Machine.execUncBerthWrite q sk unit ix b s
  | .supplyDip sk rail => Sys2Proof.Machine.execSupplyDip sk rail s
  | .dipEnd sk => Sys2Proof.Machine.execDipEnd sk s
  | .railResetThreshold sk rail b => Sys2Proof.Machine.execRailResetThreshold sk rail b s
  | .powerSample sk millivolts milliamperes answered => Sys2Proof.Machine.execPowerSample sk millivolts milliamperes answered s
  | .thermalSample sk tiles hubs => Sys2Proof.Machine.execThermalSample sk tiles hubs s
  | .stepChange sk pod railReady => Sys2Proof.Machine.execStepChange sk pod railReady s
  | .enterMaintain q sk => Sys2Proof.Machine.execEnterMaintain q sk s
  | .leaveMaintain q sk => Sys2Proof.Machine.execLeaveMaintain q sk s
  | .domainSet q sk set => Sys2Proof.Machine.execDomainSet q sk set s
  | .power sk req b => Sys2Proof.Machine.execPower sk req b s
  | .service sk op arg => Sys2Proof.Machine.execService sk op arg s
  | .status sk => Sys2Proof.Machine.execStatus sk s
  | .faults sk => Sys2Proof.Machine.execFaults sk s
  | .identity sk => Sys2Proof.Machine.execIdentity sk s
  | .training sk unit => Sys2Proof.Machine.execTraining sk unit s
  | .joinWaitExpiry sk => Sys2Proof.Machine.execJoinWaitExpiry sk s
  | .berthRelease b => Sys2Proof.Machine.execBerthRelease b s
  | .attestation q sk b v => Sys2Proof.Machine.execAttestation q sk b v s
  | .firmwareUpdate sk image => Sys2Proof.Machine.execFirmwareUpdate sk image s
  | .activate sk => Sys2Proof.Machine.execActivate sk s
  | .microcodeRollOut sk => Sys2Proof.Machine.execMicrocodeRollOut sk s
  | .podQuiesce sk pod => Sys2Proof.Machine.execPodQuiesce sk pod s
  | .sparePodSubstitution sk pod => Sys2Proof.Machine.execSparePodSubstitution sk pod s
  | .channelRemoval sk ch => Sys2Proof.Machine.execChannelRemoval sk ch s
  | .channelReturn sk ch dimms trained => Sys2Proof.Machine.execChannelReturn sk ch dimms trained s
  | .expanderRemoval sk port => Sys2Proof.Machine.execExpanderRemoval sk port s
  | .reAdmission sk n passed => Sys2Proof.Machine.execReAdmission sk n passed s
  | .coreCtlReset q h => Sys2Proof.Machine.execCoreCtlReset q h s
  | .coreCtlGo q h => Sys2Proof.Machine.execCoreCtlGo q h s
  | .atomicopRequest r op size a b => Sys2Proof.Machine.execAtomicopRequest r op size a b s
  | .hotPlugInsertion sk port speed width => Sys2Proof.Machine.execHotPlugInsertion sk port speed width s
  | .flrReadEnd sk e f => Sys2Proof.Machine.execFlrReadEnd sk e f s
  | .queueEnable q sk e f ix v => Sys2Proof.Machine.execQueueEnable q sk e f ix v s
  | .mbDataWrite q sk slip ix v => Sys2Proof.Machine.execMbDataWrite q sk slip ix v s
  | .jtagTestRequest sk => Sys2Proof.Machine.execJtagTestRequest sk s
  | .timeBaseLockLoss sk => Sys2Proof.Machine.execTimeBaseLockLoss sk s

end Sys2Proof.Machine
end

