-- ==== Sys2Proof/Machine/Clock.lean ====
section
/-! DEFINITION. The passing of one reference tick: the time base and the fixed counters that count time. -/

namespace Sys2Proof.Machine

/-- The root divider of a pod's step (R458). -/
def stepDiv (step : Nat) : Nat :=
  match step with
  | 0 => 3 | 1 => 4 | 2 => 6 | _ => 12

/-- Core cycles that end in reference tick `t` at root divider `d`: one tick is 9.6 root periods (R198). -/
def cyclesInTick (t d : Nat) : Nat := (t + 1) * 96 / (10 * d) - t * 96 / (10 * d)

/-- FREF and FCYC of one core over one tick (R445), at divider `d`; a stopped clock or FREEZE counts no core cycle. -/
def Core.tick (c : Core) (t d : Nat) (clocked : Bool) : Core :=
  if bit (c.sysGet 0x210) 0 then c
  else
    let c := c.sysSet 0x12A (putBits (c.sysGet 0x12A) 47 0 (satAdd 48 (bits (c.sysGet 0x12A) 47 0) 1))
    if clocked then
      c.sysSet 0x128 (putBits (c.sysGet 0x128) 47 0 (satAdd 48 (bits (c.sysGet 0x128) 47 0) (cyclesInTick t d)))
    else c

/-- One socket over one tick: every listed server core counts by its pod's step CK_POD.CUR, doubled in a supply dip
(R458, R466). A core listed nowhere has never run and keeps counters of zero. -/
def Socket.tick (k : Socket) (t : Nat) : Socket :=
  let reg := fun (r : Reg) (i : Nat) => Tbl.get r.resetWord k.regs (r.at i 0)
  let dip := bit (reg .ckStat 0) 56
  { k with
    cores := k.cores.map fun e =>
      if e.1 < 208 then
        let cur := bits (reg .ckPod (e.1 / 2)) 10 8
        (e.1, e.2.tick t (stepDiv cur * (if dip then 2 else 1)) (cur ≠ 7))
      else e }

/-- One reference tick (R2): the system time base advances by one and the time counters with it (assumption log 2). -/
def Dev.tick (d : Dev) : Dev :=
  { d with now := d.now + 1, socks := d.socks.map fun e => (e.1, e.2.tick d.now.toNat) }

end Sys2Proof.Machine
end

