-- ==== Sys2Proof/Machine/Idle.lean ====
section
/-! DEFINITION. What an idle step does (assumption log 2): one reference tick passes, traffic in flight goes on, and the work that
waited for a line or a copy is taken up again. -/

namespace Sys2Proof.Machine

/-- The work of a socket that waited: the Wheelhouse's refused requests, resets, walks of slices, runs of evacuation, range
invalidations, blackouts that are due, function-level resets, attestation requests, credits and messages of the crossing links. -/
def Dev.resume (a : Admin) (d : Dev) (s : Sock) : Dev :=
  let d := (d.replayAsked fun m => m.src = .wheel s).quiesce a.tab
  let d := ((d.resetsGo a s).walksGo a.tab s).runsGoOn a.tab s.val
  let d := (d.runRinv a.tab s (d.podsOf s.val none)).blackoutsGo s.val
  let d := d.each (List.range 4) fun d e => d.flrsGo a.tab s.val e
  ((d.each (List.range 64) fun d b => d.attest a s.val b).servicesGo a.tab s.val).idleFlits s.val |>.rxGo s.val

/-- The sockets that hold anything. -/
def Dev.sockList (d : Dev) : List Sock := d.socks.filterMap fun e => if h : e.1 < 16 then some ⟨e.1, h⟩ else none

/-- What waits on the sockets goes on: each socket's own work, the substitution of pods, a WARM reset after a
Fatal-socket stop, and the order that waits for slices. -/
def resumeAll (a : Admin) (d : Dev) : Admin × Dev :=
  let d := d.each d.sockList fun d s => d.resume a s
  let (a, d) := d.sockList.foldl (fun (x : Admin × Dev) s => podsGo x.1 x.2 s.val) (a, d)
  let (a, d) := d.sockList.foldl (fun (x : Admin × Dev) s => autoWarm x.1 x.2 s.val) (a, d)
  orderGo a d

/-- One idle step. -/
def idle (a : Admin) (d : Dev) : Admin × Dev :=
  let (a, d) := resumeAll a (d.tick.finish a)
  (a, d.finish a)

end Sys2Proof.Machine
end

