-- ==== Sys2Proof/Safety.lean ====
section
/-! DEFINITION. The terms that claims are stated in: a safe run, a hart that is ready, a block without traffic, and the invariant
of the berth tables. -/

namespace Sys2Proof.Machine

/-! ### Runs -/

/-- A step that neither faults nor refuses. -/
def State.safeStep (s : State) : Prop := ∃ t, step s = .next t

/-! ### Parts of a state -/

/-- `s` with another device part. -/
def State.withDev (s : State) (d : Dev) : State := { s with dev := d }

/-- `s` with one core changed. -/
def State.withCore (s : State) (h : Hart) (f : Core → Core) : State := s.withDev (s.dev.onCore h f)

/-- A core of a state. -/
def State.core (s : State) (h : Hart) : Core := s.dev.core h

/-- The hart runs, nothing older is unretired, and its next instruction was not fetched with poison. -/
def State.ready (s : State) (h : Hart) : Bool := s.dev.ready h

/-- A Z64 server core, which implements every group of instructions (R90). -/
def isServer (h : Hart) : Bool := !isWheel h

/-- Nothing is in flight, and no core holds an answer back or has a request or notice to send: a command starts from a block at
rest. -/
def Dev.quiet (d : Dev) : Bool :=
  d.net.isEmpty && d.inbox.isEmpty && d.again.isEmpty && d.delaying.isEmpty && d.atomWaiting.isEmpty && d.offering.isEmpty

/-- The device part of a state is at rest. -/
def State.quiet (s : State) : Bool := s.dev.quiet

/-! ### Accesses that can be performed at once -/

/-- A load of `n` bytes at `va`: it translates to the parts `ps` of cacheable memory, whose data `vs` is at hand without poison;
`d` is the device then, at rest. -/
def State.loadHit (s : State) (h : Hart) (va : Word) (n : Nat) (plain : Bool) (ps : List (Nat × Nat)) (vs : List Part) (d : Dev) :
    Prop :=
  ∃ d1, s.dev.check s.adm.tab h (s.core h).level .load va n plain = (.go ps false, d1) ∧ (d1.core h).atomOut = false ∧
    d1.loadParts s.adm.tab h ps = (some vs, d) ∧ firstPoison va ps vs = none ∧ d.quiet = true

/-- A store of `n` bytes at `va`: it translates to the parts `ps` of cacheable memory and the store buffer has room; `d` is the
device once the early ownership requests are made, at rest. -/
def State.storeFits (s : State) (h : Hart) (va : Word) (n : Nat) (ps : List (Nat × Nat)) (d : Dev) : Prop :=
  ∃ d1 d2, s.dev.check s.adm.tab h (s.core h).level .store va n true = (.go ps false, d1) ∧
    d1.sbRoom s.adm.tab drainFuel h ps.length = (true, d2) ∧
    (d2.onCore h fun c => c.storeEvents ps c.pc).ownEarly s.adm.tab h ps = d ∧ d.quiet = true

/-- A near atomic of `n` bytes at `va`: aligned, translated to `pa`, the store buffer empty, the line owned with contents `l`
and without poison; `d` is the device once the line is owned, at rest. -/
def State.atomHit (s : State) (h : Hart) (va : Word) (n pa : Nat) (l : PLine) (d : Dev) : Prop :=
  va.toNat % n = 0 ∧ pa % n = 0 ∧
    ∃ d1 d2 dev, s.dev.check s.adm.tab h (s.core h).level .atomic va n false = (.go [(pa, n)] dev, d1) ∧
    d1.drainAll s.adm.tab h = d2 ∧ (d2.core h).sb = [] ∧ d2.runsFar s.adm.tab h pa = false ∧
    d2.ownLine s.adm.tab h pa 1 = (true, d) ∧ (d.core h).copyOf (lineOf pa) = some l ∧ l.poison = false ∧ d.quiet = true

/-- A faulting instruction's device once the fault is reported and a PC trap counted. -/
def State.faultMet (s : State) (h : Hart) (f : Flt) : Dev :=
  let d := s.dev.fltReport s.adm.tab h f
  if f.cause = 0x0A then d.onCore h fun c => c.event 0x13 1 c.pc else d

/-- The save frame of an entry at level `lvl`: 64 bytes below the level's stack pointer. -/
def Core.frameAt (c : Core) (lvl : Nat) : Word := c.sysGet (bankOf lvl + 3) - 64

/-- The frame at level `lvl` is aligned and translates to the line `pa`, and the store buffer has room, from the device `d0`;
`d` is the device then, at rest. -/
def State.frameFits (s : State) (d0 : Dev) (h : Hart) (lvl pa : Nat) (d : Dev) : Prop :=
  let f := (d0.core h).frameAt lvl
  f.toNat % 64 = 0 ∧ d.quiet = true ∧
    ∃ d1 dev, d0.check s.adm.tab h lvl .store f 64 false = (.go [(pa, 64)] dev, d1) ∧ d1.sbRoom s.adm.tab drainFuel h 1 = (true, d)

/-- No interrupt goes before the fault `f`, and its frame fits at the level it is taken at. -/
def State.trapFits (s : State) (h : Hart) (f : Flt) (pa : Nat) (d : Dev) : Prop :=
  s.dev.select h (s.core h).takeState = none ∧
    s.frameFits (s.faultMet h f) h (((s.faultMet h f).core h).trapLevel h f.cause) pa d

/-- The level a core is at once it has entered `lvl`: a management core's is W. -/
def levelIn (h : Hart) (lvl : Nat) : Nat := if lvl = 1 then 1 else if isWheel h then 3 else 2

/-- The save frame of R103: EPC, STATUS (level, IE and running priority), CAUSE, TVAL and g1 to g4. -/
def Core.saveFrame (c : Core) (lvl : Nat) (epc cause tval : Word) : Line :=
  let bank := bankOf lvl
  let status := word (c.level + (bit (c.sysGet bank) 2).toNat * 4 + bits (c.sysGet (bank + 5)) 3 0 * 16)
  lineOfWords [epc, status, cause, tval, c.getG 1, c.getG 2, c.getG 3, c.getG 4]

/-- The core `c` of hart `h` has entered `lvl` by a trap, as the core `e` that had room for its frame on line `pa`: `x` is that
core after the entry. -/
def Core.entered (c e x : Core) (h : Hart) (lvl pa : Nat) (cause tval epc : Word) : Prop :=
  x.sb = (e.pushStore (storeEntry (c.frameAt lvl) pa 64 (c.saveFrame lvl epc cause tval) false false) false).sb ∧
  x.sysGet (bankOf lvl + 3) = c.frameAt lvl ∧ x.level = levelIn h lvl ∧ x.g = e.g ∧ x.v = e.v ∧ x.p = e.p

/-- The frame of the current level reads as `l`, a legal frame (R104), and no pending vector is taken in its place (R115); `d`
is the device then, at rest. -/
def State.tretFits (s : State) (h : Hart) (l : Line) (d : Dev) : Prop :=
  let c := s.core h
  let lvl := c.level
  let sp := c.sysGet (bankOf lvl + 3)
  let prev := bits (lineWord l 1) 1 0
  let ie := bit (lineWord l 1) 2
  let pri := bits (lineWord l 1) 7 4
  let t := if lvl = 1 then { c.takeState with lvl := prev, sie := ie, spri := pri }
    else { c.takeState with lvl := prev, hie := ie, hpri := pri }
  lvl ≠ 0 ∧ prev ≤ lvl ∧ (prev = 3 → isWheel h = true) ∧ (isWheel h = true → prev = 0 ∨ prev = 3) ∧ d.quiet = true ∧
    (∀ n, d.select h t = some n → (d.core h).targetOf h n ≠ if lvl = 1 then 1 else 2) ∧
    ∃ ps dev d1 vs, s.dev.check s.adm.tab h lvl .load sp 64 false = (.go ps dev, d1) ∧
      d1.loadParts s.adm.tab h ps = (some vs, d) ∧ firstPoison sp ps vs = none ∧ joinParts ps vs = l

/-- The device after the traffic of a command has run to its end. -/
def State.ended (s : State) (d : Dev) : State := s.withDev (d.finish s.adm)

/-- The state after a command that changes the berth tables: `r` holds them and the sockets before the traffic that the command
starts has run to its end and CK_POD shows the pods. -/
def State.tabled (s : State) (r : Admin × Dev) : State := { s with adm := r.1, dev := (r.2.finish r.1).showSteps r.1.tab }

/-! ### Agents at rest -/

/-- A slice with no transaction, no request that waits, no eviction, no reservation and no held write. -/
def Slice.idle (x : Slice) : Bool :=
  x.txns.isEmpty && x.waiting.isEmpty && x.ev.isEmpty && x.rsv.isEmpty && x.held.isEmpty

/-- The block is at rest, the slice idle, and it holds the message's line in the entry `e` of key `k`. -/
def State.sliceHas (s : State) (sk : Sock) (p : Fin 104) (m : Msg) (k : Nat) (e : SEntry) : Prop :=
  s.quiet = true ∧ (s.dev.slice sk.val p.val).idle = true ∧ (s.dev.slice sk.val p.val).find (lineOf m.pa) = some (k, e)

/-- The entry's pointers name one core. -/
def SEntry.soleOf (e : SEntry) (c : Nat) : Bool :=
  !e.hail && e.p0 = { who := c / 2, mask := coreBit c } && e.p1.mask = 0 && e.p2.mask = 0

/-- A home agent with no transaction, no request that waits, no reservation and no held write. -/
def Hub.idle (x : Hub) : Bool := x.txns.isEmpty && x.waiting.isEmpty && x.rsv.isEmpty && x.held.isEmpty

/-- No copy of the tiering engine blocks the page of an address. -/
def State.pageFree (s : State) (sk : Sock) (pa : Nat) : Prop :=
  ∀ loc, (s.dev.locate s.adm.tab pa).1 = .at loc → s.dev.blockedLoc sk.val loc = false

/-! ### Register commands -/

/-- A request of the Wheelhouse view. -/
def Requester.isWheelhouse (q : Requester) : Bool := q.berth = 0

/-- A requester reaches instance (i, j) of a register, and its view shows the instance and every bit that `v` sets (R32, R33,
R535). -/
def State.opens (s : State) (q : Requester) (sk : Sock) (r : Reg) (i j : Nat) (v : Word) : Bool :=
  Requester.mayReach q && regHere r i &&
    (q.berth = 0 ||
      (regSeen s.adm.tab s.dev sk.val q.berth.toNat r i j && !r.badBits j true v && !r.fields.all fun f => !f.viewB))

/-- A register command is done: the answer is 0, and its traffic has run to its end. -/
def State.done (s : State) (d : Dev) : State := s.ended (d.answer [0])

/-- A requester may reach a ferry function's BAR0, and its engine is not fenced (R406, R407). -/
def State.barOpens (s : State) (q : Requester) (sk : Sock) (e : Fin 4) (f : Fin 256) : Bool :=
  (q.berth = 0 || q.berth.toNat = s.adm.tab.berthOfFn sk.val e.val f.val) && !s.dev.engFenced sk.val e.val

/-! ### The berth tables -/

/-- The tables are sound: ranges lie in rising order and share no byte, so that an address has one owner (R29), the way masks of
two berths share no way of a socket (R28), and the berths that exist are numbered below 64. -/
def Tables.Inv (t : Tables) : Prop :=
  t.ranges.Pairwise (fun x y => x.limit ≤ y.base) ∧ (∀ r ∈ t.ranges, r.base < r.limit) ∧
  (∀ s b c, b < 64 → c < 64 → b ≠ c → Tbl.get 0 t.ways (s * 64 + b) &&& Tbl.get 0 t.ways (s * 64 + c) = 0) ∧
  ∀ e ∈ t.state, e.1 < 64

/-- The tables in force and those of the last acknowledged order are sound. -/
def Admin.Inv (a : Admin) : Prop := a.tab.Inv ∧ a.mirror.Inv

end Sys2Proof.Machine
end

