-- ==== Sys2Proof/Certificates/Slice0/Obligations.lean ====
section
/-! DEFINITION. The statements for the provers. -/

open Sys2Proof Sys2Proof.Machine

/-- The commands that may change the berth tables: resets, change orders, membership, release and live service. -/
def Sys2Proof.Instr.isAdministration (c : Instr) : Bool :=
  match c with
  | .coldReset .. | .warmReset .. | .berthReset .. | .whr .. | .standbyBootTimeout .. | .submit .. | .removalAck ..
  | .drainTimeout | .join .. | .leave .. | .socketSilent .. | .berthRelease .. | .activate .. | .sparePodSubstitution ..
  | .dipEnd .. | .railResetThreshold .. | .power .. | .faultMessage .. => true
  | _ => false
/-- What an instruction that only changes its core answers. -/
def Sys2Proof.Machine.State.nextCore (s : State) (h : Hart) (f : Core → Core) : Host.Outcome State Fault Refusal :=
  .next (s.withCore h f)

/-- An instruction that writes one g register and goes on to the next instruction. -/
def Sys2Proof.Machine.State.nextG (s : State) (h : Hart) (rd : GReg) (v : Word) : Host.Outcome State Fault Refusal :=
  s.nextCore h fun c => (c.setG rd v).next

/-- An instruction that writes one v register and goes on. -/
def Sys2Proof.Machine.State.nextV (s : State) (h : Hart) (vd : VReg) (v : Line) : Host.Outcome State Fault Refusal :=
  s.nextCore h fun c => (c.setV vd v).next

/-- An instruction that writes one p register and goes on. -/
def Sys2Proof.Machine.State.nextP (s : State) (h : Hart) (pd : PReg) (v : Word) : Host.Outcome State Fault Refusal :=
  s.nextCore h fun c => (c.setP pd v).next

/-- A floating-point instruction: rd takes the result and SYS_FCSR.FLAGS (bits 4 to 0) gains the flags. -/
def Sys2Proof.Machine.State.nextF (s : State) (h : Hart) (rd : GReg) (r : Word × BitVec 5) : Host.Outcome State Fault Refusal :=
  s.nextCore h fun c => (((c.setG rd r.1).sysSet 0x010 ((c.setG rd r.1).sysGet 0x010 ||| r.2.setWidth 64))).next
/-- A load that was performed retires: its destination is written by `w`, its events are counted (R448), and the hart goes on to
the next instruction. -/
def Sys2Proof.Machine.State.nextLoad (s : State) (h : Hart) (d : Dev) (vs : List Part) (ip : Word) (w : Core → Core) :
    Host.Outcome State Fault Refusal :=
  .next (s.withDev ((d.onCore h fun c =>
    ((w c).loadEvents (vs.foldl (fun m v => Nat.max m v.lvl) 0) (vs.any fun v => v.waited) ip).next).onCore h
      fun c => { c with recent := [], newD := [] }))

/-- A store retires into the store buffer (R132, R133): one entry for each part, consecutive for a split store. -/
def Sys2Proof.Machine.State.nextStore (s : State) (h : Hart) (d : Dev) (va : Word) (ps : List (Nat × Nat)) (v : Line) :
    Host.Outcome State Fault Refusal :=
  .next (s.withDev ((d.onCore h fun c => (c.pushParts va ps v false (1 < ps.length)).next).onCore h
    fun c => { c with recent := [], newD := [] }))
/-- What a retired control transfer keeps: every g, v and p register and the store buffer of the hart, the other harts, the rest
of the block. -/
def Sys2Proof.Machine.State.onlyPc (s t : State) (h : Hart) : Prop :=
  (t.core h).g = (s.core h).g ∧ (t.core h).v = (s.core h).v ∧ (t.core h).p = (s.core h).p ∧ (t.core h).sb = (s.core h).sb ∧
  (∀ g, g ≠ h → t.core g = s.core g) ∧ t.dev.mem = s.dev.mem ∧ t.adm = s.adm ∧ t.pending = s.pending

/-- O1. A step runs the command at the front of the queue. For every command c and state s, a step of s with c at the front of
its queue is exec of c on s with the rest of the queue. -/
def Obligations.StepTakesFront : Prop :=
  ∀ (c : Instr) (rest : List Instr) (s : State), step { s with pending := c :: rest } = exec c { s with pending := rest }

/-- O2. Every command answers a next state and no command touches the queue. Whatever command runs, in whatever state, it answers
a next state, and the queue after it is the queue before it: only a step takes commands, from the front. -/
def Obligations.ExecKeepsQueue : Prop :=
  ∀ (c : Instr) (s : State), ∃ t, exec c s = .next t ∧ t.pending = s.pending

/-- O3. Berth tables change only by administration. The instructions of the cores, the coherence messages and every register
write leave the berth tables, the order in progress and its sequence number as they are: only resets, change orders,
membership, release and live service change them. -/
def Obligations.TablesChangeOnlyByAdministration : Prop :=
  ∀ (c : Instr) (s t : State), c.isAdministration = false → exec c s = .next t → t.adm = s.adm

/-- O4. Integer instructions of three registers: result and completion. On a ready hart each of ADD, SUB, AND, OR, XOR, ANDN,
SLL, SRL, SRA, ROTR, SLT, SLTU, MIN, MAX, MINU, MAXU, MUL, MULH and MULHU answers the next state: rd takes the value of R57,
arithmetic modulo 2^64 and shifts by bits [5:0] of rb, and the hart goes on to the next instruction; nothing else changes. -/
def Obligations.IntegerThreeRegister : Prop :=
  ∀ (s : State) (h : Hart) (rd ra rb : GReg), s.ready h = true →
    let x := (s.core h).getG ra
    let y := (s.core h).getG rb
    exec (.add h rd ra rb) s = s.nextG h rd (x + y) ∧
    exec (.sub h rd ra rb) s = s.nextG h rd (x - y) ∧
    exec (.and h rd ra rb) s = s.nextG h rd (x &&& y) ∧
    exec (.or h rd ra rb) s = s.nextG h rd (x ||| y) ∧
    exec (.xor h rd ra rb) s = s.nextG h rd (x ^^^ y) ∧
    exec (.andn h rd ra rb) s = s.nextG h rd (x &&& ~~~ y) ∧
    exec (.sll h rd ra rb) s = s.nextG h rd (x <<< (y.toNat % 64)) ∧
    exec (.srl h rd ra rb) s = s.nextG h rd (x >>> (y.toNat % 64)) ∧
    exec (.sra h rd ra rb) s = s.nextG h rd (x.sshiftRight (y.toNat % 64)) ∧
    exec (.rotr h rd ra rb) s = s.nextG h rd (x.rotateRight (y.toNat % 64)) ∧
    exec (.slt h rd ra rb) s = s.nextG h rd (if x.slt y then 1 else 0) ∧
    exec (.sltu h rd ra rb) s = s.nextG h rd (if x.ult y then 1 else 0) ∧
    exec (.min h rd ra rb) s = s.nextG h rd (if x.slt y then x else y) ∧
    exec (.max h rd ra rb) s = s.nextG h rd (if x.slt y then y else x) ∧
    exec (.minu h rd ra rb) s = s.nextG h rd (if x.ult y then x else y) ∧
    exec (.maxu h rd ra rb) s = s.nextG h rd (if x.ult y then y else x) ∧
    exec (.mul h rd ra rb) s = s.nextG h rd (x * y) ∧
    exec (.mulh h rd ra rb) s = s.nextG h rd (BitVec.ofInt 64 ((x.toInt * y.toInt) / 2 ^ 64)) ∧
    exec (.mulhu h rd ra rb) s = s.nextG h rd (BitVec.ofNat 64 (x.toNat * y.toNat / 2 ^ 64))

/-- O5. Integer division with its corner cases. On a ready hart DIV, DIVU, REM and REMU answer the next state. By zero DIV and
DIVU write all ones and REM and REMU write ra; DIV of the most negative value by all ones writes it again, and REM of the
same operands writes zero; otherwise the quotient rounds toward zero and the remainder has the sign of the dividend. -/
def Obligations.IntegerDivision : Prop :=
  ∀ (s : State) (h : Hart) (rd ra rb : GReg), s.ready h = true →
    let x := (s.core h).getG ra
    let y := (s.core h).getG rb
    exec (.div h rd ra rb) s = s.nextG h rd
      (if y = 0 then BitVec.allOnes 64
       else if x = 0x8000000000000000 ∧ y = BitVec.allOnes 64 then 0x8000000000000000
       else BitVec.ofInt 64 (x.toInt.tdiv y.toInt)) ∧
    exec (.rem h rd ra rb) s = s.nextG h rd
      (if y = 0 then x
       else if x = 0x8000000000000000 ∧ y = BitVec.allOnes 64 then 0
       else BitVec.ofInt 64 (x.toInt.tmod y.toInt)) ∧
    exec (.divu h rd ra rb) s = s.nextG h rd (if y = 0 then BitVec.allOnes 64 else BitVec.ofNat 64 (x.toNat / y.toNat)) ∧
    exec (.remu h rd ra rb) s = s.nextG h rd (if y = 0 then x else BitVec.ofNat 64 (x.toNat % y.toNat))

/-- O6. Integer instructions of one register or an immediate: result and completion. On a ready hart each of SEXTB, SEXTH, SEXTW,
ZEXTW, ADDI, ANDI, ORI, XORI, SLTI, SLTIU, SLLI, SRLI, SRAI, RORI, SETQ and INSQ answers the next state, with rd as R57 says:
logical immediates are zero-extended, the others sign-extended, SETQ places the sign-extended immediate at quarter q, and
INSQ replaces quarter q of rd alone. -/
def Obligations.IntegerImmediate : Prop :=
  ∀ (s : State) (h : Hart) (rd ra : GReg) (imm : BitVec 16) (sh : BitVec 6) (q : Fin 4), s.ready h = true →
    let x := (s.core h).getG ra
    let z := (s.core h).getG rd
    exec (.sextb h rd ra) s = s.nextG h rd ((x.setWidth 8).signExtend 64) ∧
    exec (.sexth h rd ra) s = s.nextG h rd ((x.setWidth 16).signExtend 64) ∧
    exec (.sextw h rd ra) s = s.nextG h rd ((x.setWidth 32).signExtend 64) ∧
    exec (.zextw h rd ra) s = s.nextG h rd ((x.setWidth 32).setWidth 64) ∧
    exec (.addi h rd ra imm) s = s.nextG h rd (x + imm.signExtend 64) ∧
    exec (.andi h rd ra imm) s = s.nextG h rd (x &&& imm.setWidth 64) ∧
    exec (.ori h rd ra imm) s = s.nextG h rd (x ||| imm.setWidth 64) ∧
    exec (.xori h rd ra imm) s = s.nextG h rd (x ^^^ imm.setWidth 64) ∧
    exec (.slti h rd ra imm) s = s.nextG h rd (if x.slt (imm.signExtend 64) then 1 else 0) ∧
    exec (.sltiu h rd ra imm) s = s.nextG h rd (if x.ult (imm.signExtend 64) then 1 else 0) ∧
    exec (.slli h rd ra sh) s = s.nextG h rd (x <<< sh.toNat) ∧
    exec (.srli h rd ra sh) s = s.nextG h rd (x >>> sh.toNat) ∧
    exec (.srai h rd ra sh) s = s.nextG h rd (x.sshiftRight sh.toNat) ∧
    exec (.rori h rd ra sh) s = s.nextG h rd (x.rotateRight sh.toNat) ∧
    exec (.setq h rd q imm) s = s.nextG h rd (imm.signExtend 64 <<< (16 * q.val)) ∧
    exec (.insq h rd q imm) s = s.nextG h rd
      ((z &&& ~~~ ((0xFFFF : Word) <<< (16 * q.val))) ||| (imm.setWidth 64 <<< (16 * q.val)))

/-- O7. g0, p0 and the return address of JAL. In every core g0 reads as zero and p0 as all ones, a write to either changes
nothing, and every other register reads what was written; JAL on a ready hart writes the address of the next instruction to
g1. -/
def Obligations.ZeroRegisters : Prop :=
  (∀ (c : Core) (v : Word), c.getG 0 = 0 ∧ c.setG 0 v = c ∧ c.getP 0 = BitVec.allOnes 64 ∧ c.setP 0 v = c) ∧
  (∀ (c : Core) (r : GReg) (v : Word), r ≠ 0 → (c.setG r v).getG r = v) ∧
  (∀ (c : Core) (r : PReg) (v : Word), r ≠ 0 → (c.setP r v).getP r = v) ∧
  (∀ (s : State) (h : Hart) (off : BitVec 26), s.ready h = true →
    ∃ t, exec (.jal h off) s = .next t ∧ (t.core h).getG 1 = (s.core h).pc + 4)

/-- O8. Scalar floating point completes: result, sticky flags, no trap. On a ready server core every scalar floating-point
instruction answers the next state for all operands: rd takes the result rounded by SYS_FCSR.RM, SYS_FCSR.FLAGS gains the
exception flags and keeps those it had, and the hart goes on to the next instruction; none traps. -/
def Obligations.FloatingPointNeverTraps : Prop :=
  ∀ (s : State) (h : Hart) (dbl : Bool) (rd ra rb rc : GReg), s.ready h = true → isServer h = true →
    let rm := (s.core h).rm
    let x := (s.core h).getG ra
    let y := (s.core h).getG rb
    let z := (s.core h).getG rc
    exec (.fadd h dbl rd ra rb) s = s.nextF h rd (fpBin dbl rm Fmt.add x y) ∧
    exec (.fsub h dbl rd ra rb) s = s.nextF h rd (fpBin dbl rm Fmt.sub x y) ∧
    exec (.fmul h dbl rd ra rb) s = s.nextF h rd (fpBin dbl rm Fmt.mul x y) ∧
    exec (.fdiv h dbl rd ra rb) s = s.nextF h rd (fpBin dbl rm Fmt.div x y) ∧
    exec (.fsqrt h dbl rd ra) s = s.nextF h rd (fpRes ((fmtOf dbl).sqrt rm ((fmtOf dbl).unpack x))) ∧
    exec (.fmin h dbl rd ra rb) s = s.nextF h rd (fpMinmax dbl false x y) ∧
    exec (.fmax h dbl rd ra rb) s = s.nextF h rd (fpMinmax dbl true x y) ∧
    exec (.feq h dbl rd ra rb) s = s.nextF h rd (fpRel dbl 0 x y) ∧
    exec (.flt h dbl rd ra rb) s = s.nextF h rd (fpRel dbl 1 x y) ∧
    exec (.fle h dbl rd ra rb) s = s.nextF h rd (fpRel dbl 2 x y) ∧
    exec (.fcvtI h dbl rd ra) s = s.nextF h rd ((fmtOf dbl).toInt rm x) ∧
    exec (.fcvtF h dbl rd ra) s = s.nextF h rd (fpRes ((fmtOf dbl).ofInt rm x)) ∧
    exec (.fcvtW h dbl rd ra) s = s.nextF h rd (fpRes ((fmtOf dbl).ofFmt (fmtOf (!dbl)) rm x)) ∧
    exec (.fma h dbl rd ra rb rc) s = s.nextF h rd (fpFma dbl rm false false x y z) ∧
    exec (.fms h dbl rd ra rb rc) s = s.nextF h rd (fpFma dbl rm false true x y z) ∧
    exec (.fnma h dbl rd ra rb rc) s = s.nextF h rd (fpFma dbl rm true false x y z) ∧
    exec (.fnms h dbl rd ra rb rc) s = s.nextF h rd (fpFma dbl rm true true x y z)

/-- O9. Database instructions: result and completion. On a ready server core the CRC32C and CRC64 steps, HMIX, POPC, SELB, CLZ,
CTZ and BSWAP answer the next state with rd as R71 to R73 say, and nothing else changed but the retirement. -/
def Obligations.DatabaseScalar : Prop :=
  ∀ (s : State) (h : Hart) (rd ra rb : GReg), s.ready h = true → isServer h = true →
    let x := (s.core h).getG ra
    let y := (s.core h).getG rb
    exec (.crc32cB h rd ra rb) s = s.nextG h rd (crcStep polyC 32 1 x y) ∧
    exec (.crc32cH h rd ra rb) s = s.nextG h rd (crcStep polyC 32 2 x y) ∧
    exec (.crc32cW h rd ra rb) s = s.nextG h rd (crcStep polyC 32 4 x y) ∧
    exec (.crc32cD h rd ra rb) s = s.nextG h rd (crcStep polyC 32 8 x y) ∧
    exec (.crc64B h rd ra rb) s = s.nextG h rd (crcStep poly64 64 1 x y) ∧
    exec (.crc64H h rd ra rb) s = s.nextG h rd (crcStep poly64 64 2 x y) ∧
    exec (.crc64W h rd ra rb) s = s.nextG h rd (crcStep poly64 64 4 x y) ∧
    exec (.crc64D h rd ra rb) s = s.nextG h rd (crcStep poly64 64 8 x y) ∧
    exec (.hmix h rd ra rb) s = s.nextG h rd (let t1 := (x ^^^ y.rotateRight 23) * 0x9E3779B97F4A7C15
      let t2 := (t1 ^^^ (t1 >>> 29)) * 0xA5C396E14B27D8F3
      t2 ^^^ (t2 >>> 32)) ∧
    exec (.selb h rd ra rb) s = s.nextG h rd (selb x y) ∧
    exec (.popc h rd ra) s = s.nextG h rd (word (popcount x)) ∧
    exec (.clz h rd ra) s = s.nextG h rd (if x = 0 then 64 else word (63 - Nat.log2 x.toNat)) ∧
    exec (.ctz h rd ra) s = s.nextG h rd (ctz x) ∧
    exec (.bswap h rd ra) s = s.nextG h rd (bswap x)

/-- O10. Integer vector instructions element by element. On a ready server core the integer V-format instructions answer the next
state, and every element i of vd is: the low bits of the operation on elements i of va and vb where bit i of the governing
predicate is 1; else its old value with Z = 0 and zero with Z = 1. VSEL with Z = 0 takes va where the predicate is 1 and vb
where it is 0. -/
def Obligations.VectorIntegerLanes : Prop :=
  ∀ (s : State) (h : Hart) (o : VOp), s.ready h = true → isServer h = true →
    let p := (s.core h).getP o.pg
    let act := fun (i : Nat) => bit p i
    let lane := fun (r : Word → Word → Word) (c : Core) (i : Nat) =>
      if act i then r (elem o.w (c.getV o.va) i) (elem o.w (c.getV o.vb) i) &&& word (2 ^ ewBits o.w - 1)
      else if o.z then 0 else elem o.w (c.getV o.vd) i
    let runs := fun (c : Instr) (f : Core → Nat → Word) =>
      ∃ v : Line, exec c s = s.nextV h o.vd v ∧ ∀ i, i < elems o.w → elem o.w v i = f (s.core h) i
    runs (.vadd h o) (lane fun x y => x + y) ∧
    runs (.vsub h o) (lane fun x y => x - y) ∧
    runs (.vmul h o) (lane fun x y => x * y) ∧
    runs (.vand h o) (lane fun x y => x &&& y) ∧
    runs (.vor h o) (lane fun x y => x ||| y) ∧
    runs (.vxor h o) (lane fun x y => x ^^^ y) ∧
    runs (.vshl h o) (lane fun x y => x <<< (y.toNat % ewBits o.w)) ∧
    runs (.vshr h o) (lane fun x y => x >>> (y.toNat % ewBits o.w)) ∧
    runs (.vsra h o) (lane fun x y => (sext (ewBits o.w) x).sshiftRight (y.toNat % ewBits o.w)) ∧
    runs (.vmin h o) (lane fun x y => if sElem o.w x < sElem o.w y then x else y) ∧
    runs (.vmax h o) (lane fun x y => if sElem o.w x < sElem o.w y then y else x) ∧
    runs (.vminu h o) (lane fun x y => if x.ult y then x else y) ∧
    runs (.vmaxu h o) (lane fun x y => if x.ult y then y else x) ∧
    runs (.vpopc h o) (lane fun x _ => word (popcount x)) ∧
    (o.z = false → runs (.vsel h o) fun c i =>
      if act i then elem o.w (c.getV o.va) i else elem o.w (c.getV o.vb) i)

/-- O11. Floating-point vector instructions. On a ready server core and with a 32- or 64-bit width the floating-point V-format
instructions answer the next state: vd takes the results of the active elements, inactive ones kept or zeroed by Z, and
SYS_FCSR.FLAGS gains the flags of the active elements. -/
def Obligations.VectorFloatLanes : Prop :=
  ∀ (s : State) (h : Hart) (o : VOp), s.ready h = true → isServer h = true → 2 ≤ o.w.val →
    let c0 := s.core h
    let rm := c0.rm
    let p := c0.getP o.pg
    let runs := fun (c : Instr) (f : Word → Word → Word × BitVec 5) =>
      let r := fun i => f (elem o.w (c0.getV o.va) i) (elem o.w (c0.getV o.vb) i)
      exec c s = s.nextCore h fun c =>
        ((c.setV o.vd (lanes o.w p o.z (c0.getV o.vd) fun i => (r i).1)).setFlags (lanesFlags o.w p fun i => (r i).2)).next
    runs (.vfadd h o) (fpBin (o.w = 3) rm Fmt.add) ∧
    runs (.vfsub h o) (fpBin (o.w = 3) rm Fmt.sub) ∧
    runs (.vfmul h o) (fpBin (o.w = 3) rm Fmt.mul) ∧
    runs (.vfdiv h o) (fpBin (o.w = 3) rm Fmt.div) ∧
    runs (.vfmin h o) (fpMinmax (o.w = 3) false) ∧
    runs (.vfmax h o) (fpMinmax (o.w = 3) true)

/-- O12. Vector compare, moves and predicates. On a ready server core VEC-CMP (with Z = 0 and, for D = 0, a p register named),
VBCAST, VEXT, VINS, VCOMP, PAND, POR, PXOR, PNOT, PMOV, PGET and PCNT answer the next state, with their destination as R68
says. -/
def Obligations.VectorCompareAndMoves : Prop :=
  ∀ (s : State) (h : Hart) (w : Fin 4) (vd va : VReg) (ga gb : GReg) (pd pa pb : PReg) (o : VOp) (cond : Fin 8),
    s.ready h = true → isServer h = true →
    let c := s.core h
    let cmp := predOf o.w fun i =>
      bit (c.getP o.pg) i && condHolds cond (sext (ewBits o.w) (elem o.w (c.getV o.va) i)) (sext (ewBits o.w) (elem o.w (c.getV o.vb) i))
    exec (.vbcast h w vd ga) s = s.nextV h vd (ofElems w (List.replicate (elems w) (c.getG ga))) ∧
    exec (.vext h w ga va gb) s = s.nextG h ga (elem w (c.getV va) ((c.getG gb).toNat % elems w)) ∧
    exec (.vins h w vd ga gb) s = s.nextV h vd (ofElems w ((elemList w (c.getV vd)).set ((c.getG gb).toNat % elems w) (c.getG ga))) ∧
    exec (.vcomp h w vd va pb) s = s.nextV h vd (ofElems w (((List.range (elems w)).filter fun i => bit (c.getP pb) i).map (elem w (c.getV va)))) ∧
    exec (.pand h pd pa pb) s = s.nextP h pd (c.getP pa &&& c.getP pb) ∧
    exec (.por h pd pa pb) s = s.nextP h pd (c.getP pa ||| c.getP pb) ∧
    exec (.pxor h pd pa pb) s = s.nextP h pd (c.getP pa ^^^ c.getP pb) ∧
    exec (.pnot h pd pa) s = s.nextP h pd (~~~ c.getP pa) ∧
    exec (.pmov h pd ga) s = s.nextP h pd (c.getG ga) ∧
    exec (.pget h ga pa) s = s.nextG h ga (c.getP pa) ∧
    exec (.pcnt h w ga pa) s = s.nextG h ga (word ((List.range (elems w)).countP fun i => bit (c.getP pa) i)) ∧
    (o.z = false → exec (.vcmp h o true cond) s = s.nextG h o.vd cmp) ∧
    (o.z = false → o.vd.toNat < 8 → exec (.vcmp h o false cond) s = s.nextP h (o.vd.setWidth 3) cmp)

/-- O13. Frame of the instructions that write one g register. On a ready server core the integer and database instructions, VEXT,
PGET and PCNT leave every g register but rd, every v and p register, the level, SYS_FCSR and every other system register but
the counters and the sampling registers (0x120 to 0x129 and 0x212, 0x213), every vector but the sampling vector 3, the store
buffer, the caches and TLB, every other hart, all memory, every block register, the berth tables and the queue as they were. -/
def Obligations.RegisterFrame : Prop :=
  ∀ (s t : State) (h : Hart) (rd ra rb : GReg) (va : VReg) (pa : PReg) (w q : Fin 4) (imm : BitVec 16) (sh : BitVec 6) (c : Instr),
    s.ready h = true → isServer h = true →
    c ∈ ([
      .add h rd ra rb, .sub h rd ra rb, .and h rd ra rb, .or h rd ra rb, .xor h rd ra rb, .andn h rd ra rb,
      .sll h rd ra rb, .srl h rd ra rb, .sra h rd ra rb, .rotr h rd ra rb, .slt h rd ra rb, .sltu h rd ra rb,
      .min h rd ra rb, .max h rd ra rb, .minu h rd ra rb, .maxu h rd ra rb, .mul h rd ra rb, .mulh h rd ra rb,
      .mulhu h rd ra rb, .div h rd ra rb, .divu h rd ra rb, .rem h rd ra rb, .remu h rd ra rb, .sextb h rd ra,
      .sexth h rd ra, .sextw h rd ra, .zextw h rd ra, .addi h rd ra imm, .andi h rd ra imm, .ori h rd ra imm,
      .xori h rd ra imm, .slti h rd ra imm, .sltiu h rd ra imm, .slli h rd ra sh, .srli h rd ra sh, .srai h rd
      ra sh, .rori h rd ra sh, .setq h rd q imm, .insq h rd q imm, .crc32cB h rd ra rb, .crc32cH h rd ra rb,
      .crc32cW h rd ra rb, .crc32cD h rd ra rb, .crc64B h rd ra rb, .crc64H h rd ra rb, .crc64W h rd ra rb,
      .crc64D h rd ra rb, .hmix h rd ra rb, .selb h rd ra rb, .popc h rd ra, .clz h rd ra, .ctz h rd ra,
      .bswap h rd ra, .vext h w rd va rb, .pget h rd pa, .pcnt h w rd pa] : List Instr) →
    exec c s = .next t →
    (∀ r, r ≠ rd → (t.core h).getG r = (s.core h).getG r) ∧ (t.core h).v = (s.core h).v ∧ (t.core h).p = (s.core h).p ∧
    (∀ n, n < 0x120 ∨ (0x129 < n ∧ n < 0x212) ∨ 0x213 < n → (t.core h).sysGet n = (s.core h).sysGet n) ∧
    (∀ n, n ≠ 3 → (t.core h).ivGet n = (s.core h).ivGet n) ∧ (t.core h).sb = (s.core h).sb ∧ (t.core h).tlb = (s.core h).tlb ∧
    (t.core h).l1d = (s.core h).l1d ∧ (t.core h).l2 = (s.core h).l2 ∧ (t.core h).pc = (s.core h).pc + 4 ∧
    (∀ g, g ≠ h → t.core g = s.core g) ∧ (∀ a, Memory.read t.dev.mem a = Memory.read s.dev.mem a) ∧
    (∀ k r i j, t.dev.reg k r i j = s.dev.reg k r i j) ∧ t.adm = s.adm ∧ t.pending = s.pending

/-- O14. Loads: address, size and extension. On a ready hart a load whose data is at hand answers the next state: LB, LBU, LH,
LHU, LW, LWU and LD write rd with 1, 2, 4 or 8 bytes at ra plus the sign-extended immediate, sign- or zero-extended, VL
writes 64 bytes to vd, and LDX reads at ra plus rb shifted by the scale, with its size and extension or, as a vector form, 64
bytes. -/
def Obligations.LoadResults : Prop :=
  ∀ (s : State) (h : Hart) (rd ra rb : GReg) (vd : VReg) (imm : BitVec 16) (size scale : Fin 4) (zext : Bool) (ps : List (Nat × Nat))
    (vs : List Part) (d : Dev), s.ready h = true →
    let x := (s.core h).getG ra
    let y := (s.core h).getG rb
    let ip := (s.core h).pc
    let v : Line := joinParts ps vs
    let at_ := x + imm.signExtend 64
    let ix := x + (y <<< scale.val)
    let n := 2 ^ size.val
    let z : Word := v.setWidth 64 &&& word (2 ^ (8 * n) - 1)
    (s.loadHit h at_ 1 true ps vs d → exec (.lb h rd ra imm) s = s.nextLoad h d vs ip fun c => c.setG rd ((v.setWidth 8).signExtend 64)) ∧
    (s.loadHit h at_ 1 true ps vs d → exec (.lbu h rd ra imm) s = s.nextLoad h d vs ip fun c => c.setG rd ((v.setWidth 8).setWidth 64)) ∧
    (s.loadHit h at_ 2 true ps vs d → exec (.lh h rd ra imm) s = s.nextLoad h d vs ip fun c => c.setG rd ((v.setWidth 16).signExtend 64)) ∧
    (s.loadHit h at_ 2 true ps vs d → exec (.lhu h rd ra imm) s = s.nextLoad h d vs ip fun c => c.setG rd ((v.setWidth 16).setWidth 64)) ∧
    (s.loadHit h at_ 4 true ps vs d → exec (.lw h rd ra imm) s = s.nextLoad h d vs ip fun c => c.setG rd ((v.setWidth 32).signExtend 64)) ∧
    (s.loadHit h at_ 4 true ps vs d → exec (.lwu h rd ra imm) s = s.nextLoad h d vs ip fun c => c.setG rd ((v.setWidth 32).setWidth 64)) ∧
    (s.loadHit h at_ 8 true ps vs d → exec (.ld h rd ra imm) s = s.nextLoad h d vs ip fun c => c.setG rd (v.setWidth 64)) ∧
    (s.loadHit h at_ 64 true ps vs d → exec (.vl h vd ra imm) s = s.nextLoad h d vs ip fun c => c.setV vd v) ∧
    (s.loadHit h ix n true ps vs d → exec (.ldx h rd ra rb size zext scale false) s =
      s.nextLoad h d vs ip fun c => c.setG rd (if zext then z else sext (8 * n) z)) ∧
    (s.loadHit h ix 64 true ps vs d → exec (.ldx h rd ra rb size zext scale true) s =
      s.nextLoad h d vs ip fun c => c.setV rd v)

/-- O15. Stores retire into the store buffer. On a ready hart a store that translates to cacheable memory and finds room answers
the next state: SB, SH, SW and SD put the low 1, 2, 4 or 8 bytes of rs, VS the 64 bytes of a v register, at ra plus the
immediate, and STX at ra plus rb shifted, into the store buffer behind the older stores; no register, and no other part of
the block, changes. -/
def Obligations.StoreResults : Prop :=
  ∀ (s : State) (h : Hart) (rs ra rb : GReg) (vr : VReg) (imm : BitVec 16) (size scale : Fin 4) (ps : List (Nat × Nat)) (d : Dev),
    s.ready h = true →
    let at_ := (s.core h).getG ra + imm.signExtend 64
    let ix := (s.core h).getG ra + ((s.core h).getG rb <<< scale.val)
    let v : Line := ((s.core h).getG rs).setWidth 512
    (s.storeFits h at_ 1 ps d → exec (.sb h rs ra imm) s = s.nextStore h d at_ ps v) ∧
    (s.storeFits h at_ 2 ps d → exec (.sh h rs ra imm) s = s.nextStore h d at_ ps v) ∧
    (s.storeFits h at_ 4 ps d → exec (.sw h rs ra imm) s = s.nextStore h d at_ ps v) ∧
    (s.storeFits h at_ 8 ps d → exec (.sd h rs ra imm) s = s.nextStore h d at_ ps v) ∧
    (s.storeFits h at_ 64 ps d → exec (.vs h vr ra imm) s = s.nextStore h d at_ ps ((s.core h).getV vr)) ∧
    (s.storeFits h ix (2 ^ size.val) ps d → exec (.stx h rs ra rb size scale false) s = s.nextStore h d ix ps v) ∧
    (s.storeFits h ix 64 ps d → exec (.stx h rs ra rb size scale true) s = s.nextStore h d ix ps ((s.core h).getV rs))

/-- O16. Frame of a store: only the store buffer. A store instruction that translates without touching anything, finds room and
makes no early ownership request leaves every g, v and p register of its hart, its vectors but the sampling vector 3, its
TLB, every other hart, every byte of memory and every other part of the block as they were; the bytes it stores lie in the
store buffer, at the physical address its own address translates to, within one line. -/
def Obligations.StoreFrame : Prop :=
  ∀ (s : State) (h : Hart) (rs ra : GReg) (imm : BitVec 16) (pa : Nat) (t : State), s.ready h = true → s.quiet = true →
    let va := (s.core h).getG ra + imm.signExtend 64
    s.dev.check s.adm.tab h (s.core h).level .store va 8 true = (.go [(pa, 8)] false, s.dev) →
    (s.core h).sb.length < 64 → bit ((s.core h).sysGet 0x20B) 2 = true → exec (.sd h rs ra imm) s = .next t →
    (t.core h).sb = ((s.core h).pushStore (storeEntry va pa 8 (((s.core h).getG rs).setWidth 512) false false) false).sb ∧
    (t.core h).g = (s.core h).g ∧ (t.core h).v = (s.core h).v ∧ (t.core h).p = (s.core h).p ∧ (∀ n, n ≠ 3 → (t.core h).ivGet n = (s.core h).ivGet n) ∧
    (t.core h).tlb = (s.core h).tlb ∧ (∀ g, g ≠ h → t.core g = s.core g) ∧
    (∀ a, Memory.read t.dev.mem a = Memory.read s.dev.mem a) ∧ t.dev.net = [] ∧ t.adm = s.adm ∧ t.pending = s.pending ∧
    (∀ k r i j, t.dev.reg k r i j = s.dev.reg k r i j)

/-- O17. Near atomics: one indivisible read and write of the owned line. On a ready hart an atomic whose line it owns answers the
next state: rd takes the old value, zero-extended, and the line in its cache holds what atomicLine of its operation makes of
it, with rb and (for CAS) the old rd as operands. -/
def Obligations.NearAtomics : Prop :=
  ∀ (s : State) (h : Hart) (o : AOp) (pa : Nat) (l : PLine) (d : Dev), s.ready h = true →
    let c0 := s.core h
    let n := if o.dword then 8 else 4
    let runs := fun (c : Instr) (op : Nat) (uns : Bool) =>
      let r := atomicLine l (pa % 64) op uns o.dword (c0.getG o.rb) (c0.getG o.rd)
      s.atomHit h (c0.getG o.ra) n pa l d →
      ∃ t, exec c s = .next t ∧ (o.rd ≠ 0 → (t.core h).getG o.rd = r.1 &&& word (2 ^ (8 * n) - 1)) ∧
        (∀ q, q ≠ o.rd → (t.core h).getG q = (d.core h).getG q) ∧ (t.core h).pc = (d.core h).pc + 4 ∧
        (t.core h).copyOf (lineOf pa) = some r.2 ∧ t.adm = s.adm
    runs (.aadd h o) 0 false ∧
    runs (.aand h o) 1 false ∧
    runs (.aor h o) 2 false ∧
    runs (.axor h o) 3 false ∧
    runs (.amin h o) 4 false ∧
    runs (.amax h o) 5 false ∧
    runs (.aminu h o) 4 true ∧
    runs (.amaxu h o) 5 true ∧
    runs (.aswap h o) 6 false ∧
    runs (.cas h o) 7 false

/-- O18. What the atomics compute. On a line without poison an atomic answers the old value at its offset and stores: the sum,
AND, OR or XOR of old and rb, their signed or unsigned minimum or maximum, rb (ASWAP), or rb when old equals the compared
value (CAS), in its 4 or 8 bytes and nowhere else. -/
def Obligations.AtomicOperations : Prop :=
  ∀ (l : PLine) (off : Nat) (rb rd : Word), l.poison = false →
    let old : Word := (lineSlice l.data off 8).setWidth 64
    let old4 : Word := (lineSlice l.data off 4).setWidth 64
    let put := fun (v : Word) => (old, ({ l with data := lineMerge l.data off 8 (v.setWidth 512) } : PLine))
    let put4 := fun (v : Word) => (old4, ({ l with data := lineMerge l.data off 4 (v.setWidth 512) } : PLine))
    atomicLine l off 0 false true rb rd = put (old + rb) ∧ atomicLine l off 1 false true rb rd = put (old &&& rb) ∧
    atomicLine l off 2 false true rb rd = put (old ||| rb) ∧ atomicLine l off 3 false true rb rd = put (old ^^^ rb) ∧
    atomicLine l off 4 false true rb rd = put (if old.slt rb then old else rb) ∧
    atomicLine l off 5 false true rb rd = put (if old.slt rb then rb else old) ∧
    atomicLine l off 4 true true rb rd = put (if old.ult rb then old else rb) ∧
    atomicLine l off 5 true true rb rd = put (if old.ult rb then rb else old) ∧
    atomicLine l off 6 false true rb rd = put rb ∧
    atomicLine l off 7 false true rb rd = (if old = rd then put rb else (old, l)) ∧
    atomicLine l off 0 false false rb rd = put4 (old4 + rb) ∧ atomicLine l off 6 false false rb rd = put4 rb

/-- O19. VUNPK, VGATH and VSCATT complete. On a ready server core VUNPK whose bytes are at hand writes vd with sixteen k-bit
values zero-extended to 32 bits, from bit cursor modulo 8 of the byte at base plus cursor / 8; VGATH and VSCATT of 32- or
64-bit elements under a predicate with no active element access no memory, change no register and go on to the next
instruction. -/
def Obligations.GatherScatterUnpack : Prop :=
  ∀ (s : State) (h : Hart) (vd vb : VReg) (ra rb : GReg) (pg : PReg) (w scale : Fin 4) (k : Fin 32) (ps : List (Nat × Nat))
    (vs : List Part) (d : Dev), s.ready h = true → isServer h = true →
    let base := (s.core h).getG ra
    let cursor := (s.core h).getG rb
    let nb := (cursor.toNat % 8 + 16 * (k.val + 1) - 1) / 8 + 1
    (s.loadHit h (base + (cursor >>> 3)) nb false ps vs d →
      ∃ t, exec (.vunpk h vd ra rb k) s = .next t ∧ (t.core h).pc = (d.core h).pc + 4 ∧
        (t.core h).getV vd = ofElems 2 ((List.range 16).map fun i =>
          word (joinNat ps vs >>> (cursor.toNat % 8 + i * (k.val + 1)) % 2 ^ (k.val + 1)))) ∧
    (2 ≤ w.val → s.quiet = true → (s.core h).sb.length ≤ 64 → (∀ i, i < elems w → bit ((s.core h).getP pg) i = false) →
      (∃ t, exec (.vgath h vd ra vb pg w scale) s = .next t ∧ (t.core h).g = (s.core h).g ∧
        (∀ i, i < elems w → elem w ((t.core h).getV vd) i = elem w ((s.core h).getV vd) i) ∧
        (t.core h).pc = (s.core h).pc + 4 ∧ t.dev.mem = s.dev.mem) ∧
      (∃ t, exec (.vscatt h vd ra vb pg w scale) s = .next t ∧ (t.core h).g = (s.core h).g ∧ (t.core h).v = (s.core h).v ∧
        (t.core h).sb = (s.core h).sb ∧ (t.core h).pc = (s.core h).pc + 4 ∧ t.dev.mem = s.dev.mem))

/-- O20. Branches: taken and not taken. On a ready hart BC and BZ without a window answer the next state: the PC becomes the
address of the branch plus four times the signed offset when the condition holds, and the next instruction otherwise; J
always goes to its target; no register changes. The conditions compare equal, unequal, signed and unsigned. -/
def Obligations.Branches : Prop :=
  ∀ (s : State) (h : Hart) (ra rb : GReg) (cond : Fin 8) (o12 : BitVec 12) (o17 : BitVec 17) (o26 : BitVec 26), s.ready h = true →
    let c := s.core h
    let next := c.pc + 4
    (∃ t, exec (.bc h ra rb cond false o12) s = .next t ∧ s.onlyPc t h ∧
      (t.core h).pc = if condHolds cond (c.getG ra) (c.getG rb) then c.pc + 4 * o12.signExtend 64 else next) ∧
    (∃ t, exec (.bz h ra cond false o17) s = .next t ∧ s.onlyPc t h ∧
      (t.core h).pc = if condHolds cond (c.getG ra) 0 then c.pc + 4 * o17.signExtend 64 else next) ∧
    (∃ t, exec (.j h o26) s = .next t ∧ s.onlyPc t h ∧ (t.core h).pc = c.pc + 4 * o26.signExtend 64) ∧
    (∀ x y : Word, condHolds 0 x y = (x == y) ∧ condHolds 1 x y = !(x == y) ∧ condHolds 2 x y = x.slt y ∧
      condHolds 3 x y = !x.slt y ∧ condHolds 4 x y = x.ult y ∧ condHolds 5 x y = !x.ult y)

/-- O21. JAL and JALR. On a ready hart JAL and JALR answer the next state: JAL writes the address of the next instruction to g1
and goes to its target; JALR to a target that is a multiple of 4 writes it to rd (nothing for g0) and goes to ra plus the
immediate, read before rd is written; the other g registers stay. -/
def Obligations.Calls : Prop :=
  ∀ (s : State) (h : Hart) (rd ra : GReg) (imm : BitVec 16) (off : BitVec 26), s.ready h = true →
    let c := s.core h
    let target := c.getG ra + imm.signExtend 64
    (∃ t, exec (.jal h off) s = .next t ∧ (t.core h).pc = c.pc + 4 * off.signExtend 64 ∧ (t.core h).getG 1 = c.pc + 4 ∧
      ∀ r, r ≠ 1 → (t.core h).getG r = c.getG r) ∧
    (target.toNat % 4 = 0 → ∃ t, exec (.jalr h rd ra imm) s = .next t ∧ (t.core h).pc = target ∧
      (rd ≠ 0 → (t.core h).getG rd = c.pc + 4) ∧ ∀ r, r ≠ rd → (t.core h).getG r = c.getG r)

/-- O22. SKIP and annulled branches open a window, and its instructions are annulled. On a ready hart SKIP with n - 1 in its
field, and an annulled branch whose offset lies from 2 to 17, retire to the next instruction; when the condition holds they
open a window of n, or offset minus 1, instructions. A running hart with k instructions of a window left takes ADD without
writing rd: it goes to the next instruction and k - 1 are left. -/
def Obligations.AnnulWindows : Prop :=
  ∀ (s : State) (h : Hart) (rd ra rb : GReg) (cond : Fin 8) (n : Fin 4) (o12 : BitVec 12),
    let c := s.core h
    let holds := condHolds cond (c.getG ra) (c.getG rb)
    (s.ready h = true →
      ∃ t, exec (.skip h ra rb cond n) s = .next t ∧ s.onlyPc t h ∧ (t.core h).pc = c.pc + 4 ∧
        (t.core h).annul = if holds then n.val + 1 else 0) ∧
    (s.ready h = true → 2 ≤ o12.toInt → o12.toInt ≤ 17 →
      ∃ t, exec (.bc h ra rb cond true o12) s = .next t ∧ s.onlyPc t h ∧ (t.core h).pc = c.pc + 4 ∧
        ((t.core h).annul : Int) = if holds then o12.toInt - 1 else 0) ∧
    (c.run = .running → 0 < c.annul →
      ∃ t, exec (.add h rd ra rb) s = .next t ∧ s.onlyPc t h ∧ (t.core h).pc = c.pc + 4 ∧ (t.core h).annul = c.annul - 1)

/-- O23. SYSR and SYSW. On a ready hart whose level a listed system register admits, SYSR writes the value it reads to rd, and
SYSW of a register the level may write stores the fields that the register holds, leaves its other fields and every other
system register as they were, and restarts fetch at the next instruction. SYS_IVCFG goes to the selected vector; SYS_CACHECTL
and SYS_CACHEINV act on the caches, the second with an empty store buffer and no pending miss of a cache it names. -/
def Obligations.SystemRegisters : Prop :=
  ∀ (s : State) (h : Hart) (rd rs : GReg) (n : BitVec 12), s.ready h = true → sysListed h n.toNat = true →
    sysLevel n.toNat ≤ (s.core h).level →
    let c := s.core h
    let v := c.getG rs
    exec (.sysr h rd n) s = .next (s.withCore h fun c => (c.setG rd (s.dev.sysRead s.adm.tab h n.toNat)).next) ∧
    (c.mayWrite n.toNat = true →
      (n ∉ [0x109#12, 0x20D#12, 0x20E#12] →
        exec (.sysw h n rs) s = .next (s.withCore h fun c => (c.sysStore n.toNat v).nextKill)) ∧
      (n = 0x109 → exec (.sysw h n rs) s = .next (s.withCore h fun c => (c.writeIvcfg v).nextKill)) ∧
      (n = 0x20D → exec (.sysw h n rs) s =
        .next (s.ended ((s.dev.writeCacheCtl s.adm.tab h v).onCore h fun c => c.nextKill))) ∧
      (n = 0x20E → c.sb = [] → c.missesOf v = false → exec (.sysw h n rs) s =
        .next (s.ended ((s.dev.writeCacheInv s.adm.tab h v).onCore h fun c => c.nextKill)))) ∧
    (c.sysStore n.toNat v).sysGet n.toNat = (c.sysGet n.toNat &&& ~~~ sysMask n.toNat) ||| (v &&& sysMask n.toNat) ∧
    ∀ m, m ≠ n.toNat → (c.sysStore n.toNat v).sysGet m = c.sysGet m

/-- O24. Where SYSR and SYSW trap. On a ready hart SYSR and SYSW of a number that names no system register raise IL with the
instruction word; of a register above the level, PV. SYSW of a counter register at S without the grant in SYS_HCNTCTL raises
PV. -/
def Obligations.SystemRegisterFaults : Prop :=
  ∀ (s : State) (h : Hart) (rd rs : GReg) (n : BitVec 12), s.ready h = true →
    let c := s.core h
    let taken := fun (cause : Nat) (w : Word) => s.ended (s.dev.wordFault s.adm.tab h cause w)
    (sysListed h n.toNat = false →
      exec (.sysr h rd n) s = .next (taken 0x01 (wordX 0x38 rd n)) ∧ exec (.sysw h n rs) s = .next (taken 0x01 (wordX 0x39 rs n))) ∧
    (sysListed h n.toNat = true → c.level < sysLevel n.toNat →
      exec (.sysr h rd n) s = .next (taken 0x02 (wordX 0x38 rd n)) ∧ exec (.sysw h n rs) s = .next (taken 0x02 (wordX 0x39 rs n))) ∧
    (0x120 ≤ n.toNat → n.toNat ≤ 0x12A → c.level = 1 → bit (c.sysGet 0x210) 8 = false →
      exec (.sysw h n rs) s = .next (taken 0x02 (wordX 0x39 rs n)))

/-- O25. TRAP, BRK, an illegal instruction and a trap at retirement enter their level. On a ready hart, when no interrupt goes
first and the save frame fits, TRAP, BRK, an unlisted encoding and a trap at retirement answer the next state: the frame is
in the store buffer with the EPC, STATUS, CAUSE and TVAL of the trap and g1 to g4, the level's stack pointer points to it,
interrupts are disabled at the level, the core is at the level, and the PC is the level's vector without its low two bits.
EPC is the next instruction for TRAP and BRK and the instruction itself otherwise; TVAL is imm16, 0, the word, or what the
event names. -/
def Obligations.TrapsAreTaken : Prop :=
  ∀ (s : State) (h : Hart) (imm : BitVec 16) (w : BitVec 32) (cause : Cause) (tval : Word) (pa : Nat) (d : Dev), s.ready h = true →
    let c := s.core h
    let enters := fun (i : Instr) (f : Flt) (epc : Word) => s.trapFits h f pa d →
      let e := (s.faultMet h f).core h
      let lvl := e.trapLevel h f.cause
      ∃ t, exec i s = .next t ∧ e.entered (d.core h) (t.core h) h lvl pa (word f.cause) f.tval epc ∧
        (t.core h).pc = e.sysGet (bankOf lvl + 1) &&& ~~~ (3 : Word) ∧ bit ((t.core h).sysGet (bankOf lvl)) 2 = false ∧
        (∀ g, g ≠ h → t.core g = d.core g) ∧ t.dev.mem = d.mem ∧ t.adm = s.adm ∧ t.pending = s.pending
    enters (.trap h imm) (flt 0x0B (imm.setWidth 64)) (c.pc + 4) ∧
    enters (.brk h) (flt 0x0C 0) (c.pc + 4) ∧
    (legalWord w = false → enters (.illegalInstruction h w) (flt 0x01 (w.setWidth 64)) c.pc) ∧
    (cause ∉ [Cause.trap, Cause.brk, Cause.pc, Cause.ow] → enters (.trapEntry h cause tval) (flt (causeCode cause) tval) c.pc)

/-- O26. A trap at retirement for poison or an ownership error is reported and entered. On a ready hart whose PC or OW trap finds
room for its frame and no interrupt before it, TRAP_ENTRY first reports the fault (poison with the address it read, an
ownership error with class 4) and then enters the level with CAUSE 0x0A or 0x08, the given TVAL, and the EPC of the
instruction. -/
def Obligations.PoisonAndOwnershipTraps : Prop :=
  ∀ (s : State) (h : Hart) (tval : Word) (pa at_ : Nat) (dev : Bool) (d d1 : Dev), s.ready h = true →
    let c := s.core h
    let enters := fun (cause : Cause) (f : Flt) => s.trapFits h f pa d →
      let e := (s.faultMet h f).core h
      let lvl := e.trapLevel h f.cause
      ∃ t, exec (.trapEntry h cause tval) s = .next t ∧ e.entered (d.core h) (t.core h) h lvl pa (word f.cause) tval c.pc ∧
        (t.core h).pc = e.sysGet (bankOf lvl + 1) &&& ~~~ (3 : Word)
    (s.dev.translate s.adm.tab h c.level .load tval = (.ok at_ dev, d1) →
      enters .pc { cause := 0x0A, tval, rep := some (3, 1, at_) }) ∧
    enters .ow { cause := 0x08, tval, rep := some (4, 0, 0) }

/-- O27. TRET restores the frame. On a ready hart above U whose frame reads as a legal line and which has no vector to chain to,
TRET answers the next state: g1 to g4, IE and the running priority of the level come from the frame, the stack pointer moves
up by 64, the level becomes the saved one, and the PC is the saved EPC without its low two bits; the other g registers stay. -/
def Obligations.TrapReturn : Prop :=
  ∀ (s : State) (h : Hart) (l : Line) (d : Dev), s.ready h = true → s.tretFits h l d →
    let lvl := (s.core h).level
    let bank := bankOf lvl
    ∃ t, exec (.tret h) s = .next t ∧ (t.core h).pc = lineWord l 0 &&& ~~~ (3 : Word) ∧
      (t.core h).level = bits (lineWord l 1) 1 0 ∧ bit ((t.core h).sysGet bank) 2 = bit (lineWord l 1) 2 ∧
      (t.core h).sysGet (bank + 5) = word (bits (lineWord l 1) 7 4) ∧
      (t.core h).sysGet (bank + 3) = (s.core h).sysGet (bank + 3) + 64 ∧
      (t.core h).getG 1 = lineWord l 4 ∧ (t.core h).getG 2 = lineWord l 5 ∧ (t.core h).getG 3 = lineWord l 6 ∧
      (t.core h).getG 4 = lineWord l 7 ∧ (∀ r : GReg, 4 < r.toNat → (t.core h).getG r = (d.core h).getG r)

/-- O28. FENCE, FENCE.IO, FENCE.I, WFI and TLBI. On a ready hart FENCE and FENCE.I retire once draining leaves the store buffer
empty, FENCE.I restarting fetch; FENCE.IO besides when no device store is unacknowledged. Above U WFI retires when a vector
completes it and waits otherwise, and TLBI removes the entries its operand names and restarts fetch; TLBI of the H regime at
S is illegal, and WFI, TLBI and TRET at U raise PV. -/
def Obligations.FencesAndWaits : Prop :=
  ∀ (s : State) (h : Hart) (ra : GReg) (d : Dev), s.ready h = true → s.dev.quiet = true →
    let c := s.core h
    let pv := fun (w : Word) => s.ended (s.dev.wordFault s.adm.tab h 0x02 w)
    (s.dev.drainAll s.adm.tab h = d → (d.core h).sb = [] → d.quiet = true →
      exec (.fence h) s = .next (s.withDev (d.onCore h Core.next)) ∧
      exec (.fenceI h) s = .next (s.withDev (d.onCore h Core.nextKill)) ∧
      ((d.core h).devOut = [] → exec (.fenceIo h) s = .next (s.withDev (d.onCore h Core.next)))) ∧
    (c.level ≠ 0 →
      exec (.wfi h) s = .next (s.withCore h fun c => if c.wfiDone (s.dev.pend h) then c.next else { c with run := .waiting }) ∧
      (c.level ≠ 1 ∨ bit (c.getG ra) 9 = false →
        exec (.tlbi h ra) s = .next (s.withCore h fun c => (c.tlbi (c.getG ra)).nextKill)) ∧
      (c.level = 1 → bit (c.getG ra) 9 = true →
        exec (.tlbi h ra) s = .next (s.ended (s.dev.wordFault s.adm.tab h 0x01 (wordRR 0x3A 0 ra 0 0x020))))) ∧
    (c.level = 0 → exec (.wfi h) s = .next (pv (wordRR 0x3A 0 0 0 0x011)) ∧
      exec (.tlbi h ra) s = .next (pv (wordRR 0x3A 0 ra 0 0x020)) ∧ exec (.tret h) s = .next (pv wordTret))

/-- O29. Interrupt messages, timers and bus errors make vectors pending. A 4-byte write of a vector from 16 to 1023 to the window
of a present core that the requester's berth owns (or from the Wheelhouse) sets that vector's PEND and changes no other
vector of the core. Timer vectors are pending while the timer register is not zero and not above the time, and S_TIMER and
H_TIMER retire the WFI of a waiting core that it completes. A device store's bus error sets SYS_BERR and PEND of vector 5;
while SYS_BERR holds one, a further error is only reported to the fault collector. A stored PEND bit makes a timer vector
pending too. -/
def Obligations.VectorsBecomePending : Prop :=
  ∀ (s : State) (h : Hart) (q : Requester) (data : BitVec 32) (va : Word),
    let c := s.core h
    let off : BitVec 20 := BitVec.ofNat 20 (h.core.val * 0x1000)
    let pended := fun (i : Instr) (n : Nat) => ∃ t, exec i s = .next t ∧ bit ((t.core h).ivGet n) 63 = true ∧
      (∀ m, m ≠ n → (t.core h).ivGet m = c.ivGet m) ∧ ∀ g, g ≠ h → t.core g = s.core g
    (isServer h = true → c.run = .running → s.dev.coreThere h = true → 16 ≤ data.toNat → data.toNat < 1024 →
      (q.berth = 0 ∨ s.adm.tab.berthOf h = q.berth.toNat) →
      pended (.interruptMessage q h.sock off 4 data false) data.toNat) ∧
    (c.run = .running → bit (c.sysGet 0x20A) 63 = false → pended (.deviceStoreBusError h va) 5 ∧
      ∃ t, exec (.deviceStoreBusError h va) s = .next t ∧ (t.core h).sysGet 0x20A = word (2 ^ 63 + bits va 47 0)) ∧
    (bit (c.sysGet 0x20A) 63 = true →
      exec (.deviceStoreBusError h va) s = .next (s.withDev (s.dev.coreReport s.adm.tab h 2 8 0))) ∧
    (c.run = .waiting → c.wfiDone (s.dev.pend h) = true →
      exec (.sTimer h) s = .next (s.withCore h fun c => { c.next with run := .running }) ∧
      exec (.hTimer h) s = .next (s.withCore h fun c => { c.next with run := .running })) ∧
    (s.dev.pend h 1 = true ↔
      (c.sysGet 0x106 ≠ 0 ∧ (c.sysGet 0x106).toNat ≤ s.dev.now.toNat) ∨ bit (c.ivGet 1) 63 = true) ∧
    (s.dev.pend h 2 = true ↔
      (c.sysGet 0x206 ≠ 0 ∧ (c.sysGet 0x206).toNat ≤ s.dev.now.toNat) ∨ bit (c.ivGet 2) 63 = true)

/-- O30. The selected vector is entered at an instruction boundary. On a ready hart with a vector to take whose frame and handler
entry can be had, INTERRUPT_ENTRY answers the next state: the frame is in the store buffer with CAUSE 2^63 plus the vector
and the EPC of the next instruction (its TVAL is a free value), the running priority is the vector's PRIO, its PEND is clear,
and the PC is the handler's address. With no vector to take nothing changes. -/
def Obligations.InterruptsAreTaken : Prop :=
  ∀ (s : State) (h : Hart) (n pa : Nat) (npc : Word) (dev : Bool) (d0 d1 d2 d : Dev), s.ready h = true →
    let c := s.core h
    let lvl := c.targetOf h n
    let x := s.dev.free
    (s.dev.select h c.takeState = none → exec (.interruptEntry h none) s = .next (s.ended s.dev)) ∧
    (s.dev.select h c.takeState = some n → (c.frameAt lvl).toNat % 64 = 0 → d.quiet = true → x.2.onCore h (fun c => { c with run := .running }) = d0 →
      d0.check s.adm.tab h lvl .store (c.frameAt lvl) 64 false = (.go [(pa, 64)] dev, d1) →
      d1.handlerOf s.adm.tab h lvl n = (.addr npc, d2) → d2.sbRoom s.adm.tab drainFuel h 1 = (true, d) →
      ∃ t, exec (.interruptEntry h none) s = .next t ∧
        c.entered (d.core h) (t.core h) h lvl pa (word (2 ^ 63 + n)) (Config.freeValue s.dev.fresh) c.pc ∧ (t.core h).pc = npc ∧
        (t.core h).sysGet (bankOf lvl + 5) = word ((d.core h).prioOf n) ∧ (n ≠ 3 → bit ((t.core h).ivGet n) 63 = false))

/-- O31. Kills of loads and the predictors they train. MEMORY_ORDER_KILL kills the loads from the oldest on when the oldest is
marked and does nothing otherwise; DEPENDENCE_KILL kills them and sets the wait bit that the oldest load selects when a
store's address has marked it, and does nothing otherwise; a kill empties the load queue, keeps the PC, and restarts fetch
there. MDP_CLEAR clears every wait bit; USEFUL_SHIFT, once 262,144 branches have resolved, halves every useful counter,
leaving tags and counters, and before that changes nothing of the predictor. -/
def Obligations.PipelineKills : Prop :=
  ∀ (s : State) (h : Hart) (e : LqEntry) (r : List LqEntry),
    let c := s.core h
    (c.lq = e :: r → e.orderKill = true → exec (.memoryOrderKill h) s = .next (s.withCore h Core.killLoads)) ∧
    (c.lq = e :: r → e.orderKill = false → exec (.memoryOrderKill h) s = .next s) ∧
    (c.lq = e :: r → e.depKill = true → exec (.dependenceKill h) s =
      .next (s.withCore h fun c => ({ c with mdp := Tbl.set false c.mdp (bits e.pc 12 2) true } : Core).killLoads)) ∧
    (c.lq = e :: r → e.depKill = false → exec (.dependenceKill h) s = .next s) ∧
    (c.killLoads.lq = [] ∧ c.killLoads.pc = c.pc ∧ c.killLoads.fetchPc = c.pc ∧ c.killLoads.fetchQ = [] ∧ c.killLoads.g = c.g ∧
      c.killLoads.sb = c.sb) ∧
    exec (.mdpClear h) s = .next (s.withCore h fun c => { c with mdp := [] }) ∧
    ∃ t, exec (.usefulShift h) s = .next t ∧ (∀ g, g ≠ h → t.core g = s.core g) ∧
      (c.pred.resolved < 262144 → t.core h = c) ∧
      (262144 ≤ c.pred.resolved → (t.core h).pred.resolved = c.pred.resolved - 262144 ∧
        ∀ k x, Tbl.find c.pred.tagged k = some x →
          Tbl.find (t.core h).pred.tagged k = some { x with useful := x.useful / 2 })

/-- O32. A waiting load is tried again, and the store buffer writes its oldest entry. LOAD_REISSUE of a running hart whose only
load in the queue now finds its data without poison retires it: the destination takes the value, the queue is empty and the
PC moves on. STORE_BUFFER_WRITE of a cacheable oldest entry whose line can be owned writes the entry's bytes into the line
and takes the entry out; of an empty buffer it only ends the access. A reset or an instruction that waits for the buffer is
no such core. -/
def Obligations.QueuedLoadsAndStores : Prop :=
  ∀ (s : State) (h : Hart) (e : LqEntry) (x : SbEntry) (r : List SbEntry) (vs : List Part) (d : Dev),
    let c := s.core h
    (c.run = .running → c.lq = [e] → e.kind = .load → e.parts ≠ [] → e.given = [] → c.devLoad = none → e.value = none → s.dev.loadParts s.adm.tab h e.parts = (some vs, d) →
      firstPoison e.va e.parts vs = none → d.quiet = true → (d.core h).run = .running → (d.core h).devLoad = none →
      (d.core h).lq = [e] → e.orderKill = false →
      e.depKill = false →
      ∃ t, exec (.loadReissue h) s = .next t ∧ (t.core h).lq = [] ∧ (t.core h).pc = (d.core h).pc + 4 ∧
        (t.core h).g = ((d.core h).loadReg e (joinParts e.parts vs)).g ∧ (t.core h).v = ((d.core h).loadReg e (joinParts e.parts vs)).v) ∧
    (s.quiet = true → c.run = .running → c.lq = [] →
      (c.sb = x :: r → x.dev = false → s.dev.uncached s.adm.tab h x.pa = false → s.dev.ownLine s.adm.tab h x.pa = (true, d) →
        d.quiet = true → (d.core h).run = .running → (d.core h).lq = [] →
        exec (.storeBufferWrite h) s = .next (s.withDev (((d.onCore h fun c => c.writeLine h (lineOf x.pa) x.mask x.data).onCore h
          fun c => { c with sb := c.sb.drop 1 }).onCore h fun c => { c with recent := [], newD := [] }))) ∧
      (c.sb = [] → exec (.storeBufferWrite h) s = .next (s.withCore h fun c => { c with recent := [], newD := [] })))

/-- O33. A fetch group, a held forward, and the sampling event. FETCH_GROUP of a running hart with room in its fetch queue, whose
fetch address translates and whose line is at hand, appends the instructions of the group that find room, up to eight of one
line and a predicted-taken branch, and goes on at the predicted address, where L0 or the next group already led it (a lookup
that leads elsewhere starts a fetch there besides). DELAYED_FORWARD_ANSWER answers what the core holds back and holds nothing
back: a back-invalidation of a line it no longer has is answered with ACK. SAMPLE_COUNT_ZERO on a server core with sampling
on raises vector 3, reloads the count, and records the address unless one is held. -/
def Obligations.FetchAndForwards : Prop :=
  ∀ (s : State) (h : Hart) (pa : Nat) (l : PLine) (d d1 : Dev) (m : Msg) (ip : Word) (killed : Bool),
    let c := s.core h
    let at_ := c.fetchPc &&& ~~~ (3 : Word)
    let n := Nat.min (Nat.min 8 (16 - pa % 64 / 4)) c.fetchRoom
    let ws := (List.range n).map fun i => lineInsn l.data (pa % 64 / 4 + i)
    let x := fetchWords (isWheel h) (c.sysGet 0x20C) at_ l.poison c.pred at_ ws
    let guess := ((Tbl.find c.pred.l0 at_.toNat).map Prod.snd).getD (at_ + word (4 * n))
    (c.run = .running → c.fetchRoom ≠ 0 → (isWheel h = true ∨ guess = x.2.2) → s.dev.translate s.adm.tab h c.level .fetch at_ = (.ok pa false, d1) →
      d1.fetchLine s.adm.tab h at_.toNat pa = (some l, d) → d.quiet = true →
      ∃ t, exec (.fetchGroup h) s = .next t ∧
        (t.core h).fetchQ = (d.core h).fetchQ ++ x.1 ∧ (t.core h).fetchPc = x.2.2 ∧ (t.core h).pred = x.2.1 ∧ (t.core h).g = (d.core h).g ∧
        (t.core h).pc = (d.core h).pc) ∧
    (exec (.delayedForwardAnswer h) s = .next (s.ended (s.dev.answerDelayed h)) ∧
      (c.delayed = [m] → m.ty = .binv → c.owns (lineOf m.pa) = false → c.line2 (lineOf m.pa) = none → c.lineD (lineOf m.pa) = none →
        (c.vic.find? fun v => v.la = lineOf m.pa && v.holds) = none →
        (s.dev.answerDelayed h).net = s.dev.net ++ [m.reply .ack (.core h.sock h.core) m.src] ∧
        ((s.dev.answerDelayed h).core h).delayed = [])) ∧
    (isServer h = true → c.run = .running → bit (c.sysGet 0x211) 63 = true → bits (c.sysGet 0x211) 47 0 ≠ 0 →
      bit (c.sysGet 0x210) 0 = false →
      ∃ t, exec (.sampleCountZero h ip killed) s = .next t ∧ bit ((t.core h).ivGet 3) 63 = true ∧
        bits ((t.core h).sysGet 0x212) 47 0 = bits (c.sysGet 0x211) 47 0 ∧
        (bit (c.sysGet 0x213) 0 = false →
          (t.core h).sysGet 0x213 = putBit (putBit (ip &&& ~~~ (3 : Word)) 1 killed) 0 true) ∧
        (bit (c.sysGet 0x213) 0 = true → (t.core h).sysGet 0x213 = c.sysGet 0x213))

/-- O34. What an idle slice that holds the line answers to a core of its socket. With no private copy and the socket exclusive,
RDS is answered with DATE and RDM and UPG with DATM, the core becoming the owner; RDC and NRD get DATS, RDC recording the
core as a sharer. An upgrade of the only sharer gets GRANT. With another core as the owner, RDS and RDC go to it as FWDS, RDM
and UPG as FWDM, NRD as FWDR. Where the socket is not exclusive, RDM and UPG send HUPG to the home agent. Nothing else is
sent and memory is unchanged. -/
def Obligations.SliceAnswersRequests : Prop :=
  ∀ (s : State) (m : Msg) (sk : Sock) (p : Fin 104) (c : Fin 212) (k o : Nat) (e : SEntry),
    s.sliceHas sk p m k e → m.src = .core sk c → m.dst = .slice sk p → s.dev.discards m.dst = false → c.val < 208 →
    let me := Node.slice sk p
    let sends := fun (i : Instr) (ms : List Msg) (q : SEntry → Prop) => ∃ t, exec i s = .next t ∧ t.dev.net = ms ∧
      t.dev.mem = s.dev.mem ∧ t.adm = s.adm ∧ ∃ x, (t.dev.slice sk.val p.val).find (lineOf m.pa) = some (k, x) ∧ x.line = e.line ∧ q x
    let alone := s.dev.socketExclusive sk m.pa e
    (e.dstate = 0 → alone = true →
      sends (.rds m) [(m.reply .date me m.src).withLine e.line] (fun x => x.owner = some c.val) ∧
      sends (.rdm m) [(m.reply .datm me m.src).withLine e.line] (fun x => x.owner = some c.val) ∧
      sends (.upg m) [(m.reply .datm me m.src).withLine e.line] (fun x => x.owner = some c.val)) ∧
    (e.owner = none → sends (.rdc m) [(m.reply .dats me m.src).withLine e.line] (fun x => x.records c.val = true) ∧
      ((s.dev.homePod sk.val m.pa).2 = false →
        sends (.nrd m) [(m.reply .dats me m.src).withLine e.line] (fun x => x.dstate = e.dstate))) ∧
    (e.dstate = 1 → e.soleOf c.val = true → alone = true →
      sends (.upg m) [m.reply .grant me m.src] (fun x => x.owner = some c.val)) ∧
    (e.owner = some o → o ≠ c.val →
      sends (.rds m) [m.fromSlice sk p .fwds (coreNode sk o)] (fun _ => True) ∧
      sends (.rdc m) [m.fromSlice sk p .fwds (coreNode sk o)] (fun _ => True) ∧
      (alone = true → sends (.rdm m) [m.fromSlice sk p .fwdm (coreNode sk o)] (fun _ => True) ∧
        sends (.upg m) [m.fromSlice sk p .fwdm (coreNode sk o)] (fun _ => True)) ∧
      ((s.dev.homePod sk.val m.pa).2 = false → sends (.nrd m) [m.fromSlice sk p .fwdr (coreNode sk o)] (fun _ => True))) ∧
    (e.owner ≠ some c.val → alone = false →
      sends (.rdm m) [{ m.fromSlice sk p .hupg (homeNode m.pa) with data := 0 }] (fun _ => True) ∧
      sends (.upg m) [{ m.fromSlice sk p .hupg (homeNode m.pa) with data := 0 }] (fun _ => True))

/-- O35. What an idle slice does with notices, write-backs, writes and far atomics. EVS of the only sharer and EVC of the owner
leave the entry without a copy, EVC answered with WBACK; WBM of the owner besides writes the data and makes the entry dirty;
WBS of an exclusive socket's line writes it. NWR and PWR to a line without copies in an exclusive socket are held and
answered with WBACK at once, until CMPACK comes. A far atomic at the home socket is executed in the entry and answered with
ATR carrying the old value; a write or far atomic for a line that the slice does not hold goes on to the home agent or the
home socket. -/
def Obligations.SliceTakesNoticesAndWrites : Prop :=
  ∀ (s : State) (m : Msg) (sk : Sock) (p : Fin 104) (c : Fin 212) (k : Nat) (e : SEntry) (who : Node),
    m.src = .core sk c → m.dst = .slice sk p → s.dev.discards m.dst = false → c.val < 208 →
    let me := Node.slice sk p
    let sends := fun (i : Instr) (ms : List Msg) (q : SEntry → Prop) => ∃ t, exec i s = .next t ∧ t.dev.net = ms ∧
      t.dev.mem = s.dev.mem ∧ t.adm = s.adm ∧ ∃ x, (t.dev.slice sk.val p.val).find (lineOf m.pa) = some (k, x) ∧ q x
    let alone := s.dev.socketExclusive sk m.pa e
    (s.sliceHas sk p m k e →
      (e.dstate = 1 → e.soleOf c.val = true → sends (.evs m) [] (fun x => x.dstate = 0 ∧ x.line = e.line)) ∧
      (e.dstate = 2 → e.soleOf c.val = true →
        sends (.evc m) [m.reply .wback me m.src] (fun x => x.dstate = 0 ∧ x.line = e.line) ∧
        sends (.wbm m) [m.reply .wback me m.src] (fun x => x.dstate = 0 ∧ x.line = m.line ∧ x.d = true)) ∧
      (alone = true → sends (.wbs m) [] (fun x => x.line = m.line ∧ x.d = true)) ∧
      (e.dstate = 0 → alone = true → (s.dev.homePod sk.val m.pa).2 = false →
        sends (.nwr m) [m.reply .wback me m.src] (fun x => x.line = e.line) ∧
        sends (.pwr m) [m.reply .wback me m.src] (fun x => x.line = e.line) ∧
        (homeSock m.pa = sk.val → nodeOf m.master = some who →
          ∃ t r x, exec (.atm m) s = .next t ∧ t.dev.net = [r] ∧ r.ty = .atr ∧ r.dst = who ∧
            r.data = (atmRun m e.line).1.setWidth 512 ∧ r.aux = e.line.poison ∧
            (t.dev.slice sk.val p.val).find (lineOf m.pa) = some (k, x) ∧ x.line = (atmRun m e.line).2 ∧ x.dstate = 0))) ∧
    (s.quiet = true → (s.dev.slice sk.val p.val).idle = true → (s.dev.slice sk.val p.val).find (lineOf m.pa) = none →
      (s.dev.homePod sk.val m.pa).2 = false →
      (∃ t, exec (.nwr m) s = .next t ∧ t.dev.net = [{ m with ty := .nwr, dst := homeNode m.pa }]) ∧
      (∃ t, exec (.pwr m) s = .next t ∧ t.dev.net = [{ m with ty := .pwr, dst := homeNode m.pa }]) ∧
      (homeSock m.pa ≠ sk.val → ∃ t, exec (.atm m) s = .next t ∧ ∃ r, t.dev.net = [r] ∧ r.ty = .atm ∧ r.src = m.src ∧
        r.dst.sock.val = homeSock m.pa % 16 ∧ r.data = m.data))

/-- O36. Home probes and acknowledgements at a slice. A home probe of a line that an idle slice does not hold is answered with
PACK; of a line that a core owns, HPRS, HPRM and HPRR go to that core as FWDS, FWDM and FWDR. An ACK takes its pod off the
list a transaction awaits; the FACK of an owner that a read was forwarded to leaves owner and reader as sharers; the CMPACK
that a transaction still awaits ends it. -/
def Obligations.SliceAnswersProbes : Prop :=
  ∀ (s : State) (m : Msg) (sk : Sock) (p : Fin 104) (c : Fin 212) (k o r q : Nat) (e : SEntry) (x : Txn), m.dst = .slice sk p →
    s.dev.discards m.dst = false →
    let me := Node.slice sk p
    let y := s.dev.slice sk.val p.val
    let sends := fun (i : Instr) (ms : List Msg) => ∃ t, exec i s = .next t ∧ t.dev.net = ms ∧ t.dev.mem = s.dev.mem ∧ t.adm = s.adm
    (s.quiet = true → y.idle = true → (m.src.sock = sk ∨ s.dev.present m.src.sock.val sk.val = true) →
      (s.dev.homePod sk.val m.pa).2 = false →
      (y.find (lineOf m.pa) = none → sends (.hprs m) [m.reply .pack me m.src] ∧ sends (.hprm m) [m.reply .pack me m.src] ∧
        sends (.hprr m) [m.reply .pack me m.src]) ∧
      (y.find (lineOf m.pa) = some (k, e) → e.owner = some o → sends (.hprs m) [m.fromSlice sk p .fwds (coreNode sk o)] ∧
        sends (.hprm m) [m.fromSlice sk p .fwdm (coreNode sk o)] ∧ sends (.hprr m) [m.fromSlice sk p .fwdr (coreNode sk o)])) ∧
    (s.quiet = true → m.src = .core sk c → c.val < 208 → y.txns = [x] → x.la = lineOf m.pa → y.ev = [] → y.waiting = [] →
      y.held = [] →
      (x.acks = [c.val / 2, q] → q ≠ c.val / 2 → ∃ t, exec (.ack m) s = .next t ∧ t.dev.net = [] ∧
        (t.dev.slice sk.val p.val).txns = [{ x with acks := [q] }]) ∧
      (x.fack = true → x.cmp = true → (x.req.master = m.master → x.req.txn = m.txn) → x.req.ty = .rds → coreFrom sk x.req = some r → y.find (lineOf m.pa) = some (k, e) →
        e.owner = some o → m.len ≠ 0 →
        ∃ t z, exec (.fack m) s = .next t ∧ t.dev.net = [] ∧ (t.dev.slice sk.val p.val).txns = [{ x with fack := false }] ∧
          (t.dev.slice sk.val p.val).find (lineOf m.pa) = some (k, z) ∧ z.dstate = 1 ∧ z.records o = true ∧ z.records r = true) ∧
      (x.stage = 2 → x.acks = [] → x.fack = false → x.home = false → x.cmp = true → x.notice = false → x.req.master = m.master →
        ∃ t, exec (.cmpack m) s = .next t ∧ t.dev.net = [] ∧ (t.dev.slice sk.val p.val).txns = []))

/-- O37. Data, grants, write-back and retry answers at a core, and the answers of far atomics and devices. Data for a pending
miss that was not invalidated is installed in L2, shared for DATS, exclusive for DATE, modified for DATM, the miss is freed
and CMPACK goes to the home slice. GRANT makes a held line modified and is acknowledged. WBACK of an eviction frees its
victim entry; RETRY leaves the request in its miss register to be replayed. ATR without poison writes the old value of the
far atomic that waits and retires it; DRSP completes the device load that waits, or acknowledges a device store. -/
def Obligations.CoreTakesAnswers : Prop :=
  ∀ (s : State) (m : Msg) (h : Hart) (r : Miss) (e : CLine) (x : LqEntry) (va : Word), s.quiet = true →
    m.dst = .core h.sock h.core → s.dev.discards m.dst = false → m.src.sock = h.sock →
    let c := s.core h
    let la := lineOf m.pa
    let cmp := m.reply .cmpack (.core h.sock h.core) (s.dev.homeSlice h.sock m.pa)
    let fills := fun (i : Instr) (own dirty : Bool) => ∃ t, exec i s = .next t ∧ t.dev.net = [cmp] ∧
      (∃ z, (t.core h).line2 la = some z ∧ z.own = own ∧ z.dirty = dirty ∧ z.line = m.line) ∧
      (∀ z ∈ (t.core h).missL2, z.la ≠ la) ∧ (t.core h).g = c.g ∧ ∀ g, g ≠ h → t.core g = s.core g
    (m.len ≠ 0 → l2On h c = true → c.missL2.find? (fun z => z.la = la) = some r → r.killed = false → c.find2 la = none →
      c.findD la = none →
      (∃ w < 16, Tbl.find c.l2 (la % 1024 * 16 + w) = none) →
      fills (.dats m) false false ∧ fills (.date m) true false ∧ fills (.datm m) true true) ∧
    (c.line2 la = some e → ∃ t, exec (.grant m) s = .next t ∧ t.dev.net = [cmp] ∧
      (t.core h).line2 la = some { e with own := true, dirty := true } ∧ (∀ z ∈ (t.core h).missL2, z.la ≠ la)) ∧
    (m.txn.toNat = evictTxn → ∃ t, exec (.wback m) s = .next t ∧ t.dev.net = [] ∧ (t.core h).vic = c.vic.filter fun v => v.la ≠ la) ∧
    ((c.missL2.any fun z => z.la = la && z.txn = m.txn.toNat) = true → ∃ t, exec (.retry m) s = .next t ∧ t.dev.net = [] ∧
      (t.core h).missL2 = c.missL2.map fun z => if z.la = la && z.txn = m.txn.toNat then { z with retry := true } else z) ∧
    (c.run = .running → c.devLoad = some x → c.lq = [] →
      (x.atom = true → m.aux = false → ∃ t, exec (.atr m) s = .next t ∧ (t.core h).devLoad = none ∧ (t.core h).pc = c.pc + 4 ∧
        (BitVec.ofNat 5 x.rd ≠ 0 →
          (t.core h).getG (BitVec.ofNat 5 x.rd) = m.data.setWidth 64 &&& word (2 ^ (8 * x.size) - 1))) ∧
      (x.atom = false → (∀ sp pp, m.src = .port sp pp → (s.dev.port sp pp).loads.contains (m.dst, m.txn.toNat) = true) →
        m.len ≠ 0 → x.txn = m.txn.toNat → x.poison = none → m.aux = false → m.poison = false →
        ∃ t, exec (.drsp m) s = .next t ∧ (t.core h).devLoad = none ∧ (t.core h).pc = c.pc + 4 ∧
          (t.core h).g = (c.loadReg x m.data).g ∧ (t.core h).v = (c.loadReg x m.data).v)) ∧
    ((∀ sp pp, m.src = .port sp pp → (s.dev.port sp pp).loads.contains (m.dst, m.txn.toNat) = true) →
      m.aux = true → m.poison = false → c.devOut = [(m.txn.toNat, va)] →
      ∃ t, exec (.drsp m) s = .next t ∧ (t.core h).devOut = [] ∧ (t.core h).pc = c.pc)

/-- O38. Forwards and invalidations at a core. A core that is not inside the 16 cycles after the line's install and holds it in
L2 alone answers FWDS with data to the requester, the dirty data to the slice, and FACK, keeping the line shared; FWDM with
data and FACK, dropping it; FWDR with a copy and FACK, keeping it; BINV with its dirty data or ACK, dropping it. INV is
answered for the pod with one ACK, every core of the pod but the requester having dropped the line. -/
def Obligations.CoreAnswersForwards : Prop :=
  ∀ (s : State) (m : Msg) (h : Hart) (e : CLine) (k : Nat) (who : Node), s.quiet = true → m.dst = .core h.sock h.core →
    s.dev.discards m.dst = false →
    m.src.sock = h.sock →
    let c := s.core h
    let la := lineOf m.pa
    let me := Node.core h.sock h.core
    let dirty : List Msg := if e.dirty then [(m.reply .wbs me m.src).withLine e.line] else []
    let back : Msg := if e.own && e.dirty then (m.reply .wbm me m.src).withLine e.line else m.reply .ack me m.src
    (c.recent = [] → c.findD la = none → c.find2 la = some k → c.line2 la = some e → nodeOf m.master = some who →
      m.data.getLsbD 1 = false → m.data.getLsbD 2 = false → remote m h = false →
      (∃ t, exec (.fwds m) s = .next t ∧ (t.core h).line2 la = some { e with own := false, dirty := false } ∧
        t.dev.net = (m.reply .dats me who).withLine e.line :: dirty ++ [{ m.reply .fack me m.src with aux := e.dirty }]) ∧
      (∃ t, exec (.fwdm m) s = .next t ∧ Tbl.find (t.core h).l2 k = none ∧
        t.dev.net = [(m.reply .datm me who).withLine e.line, { (m.reply .fack me m.src).withLine e.line with aux := e.dirty }]) ∧
      (∃ t, exec (.fwdr m) s = .next t ∧ (t.core h).line2 la = some e ∧
        t.dev.net = [(m.reply .dats me who).withLine e.line, { m.reply .fack me m.src with aux := e.dirty }]) ∧
      (∃ t, exec (.binv m) s = .next t ∧ Tbl.find (t.core h).l2 k = none ∧ t.dev.net = [back])) ∧
    (isServer h = true → s.dev.tooSoon h { m with ty := .inv } = false →
      ∃ t, exec (.inv m) s = .next t ∧ t.dev.net = [m.reply .ack me m.src] ∧
        (masterOf h ≠ m.master → c.find2 la = some k → Tbl.find (t.core h).l2 k = none))

/-- O39. Requests, notices, answers and device accesses at a home agent. For a line that the directory gives to one other socket,
an idle home agent sends HPRS to that socket for HRDS and HPRM for HRDM and HUPG, and awaits its answer. HEVS takes the
sender off the sharers of an entry that has others. PACK takes the answering socket off the list that a transaction awaits. A
device read of memory is answered from memory with DRSP and a device write is merged into the line and acknowledged. -/
def Obligations.HomeAgentWork : Prop :=
  ∀ (s : State) (m : Msg) (sk : Sock) (u : Fin 2) (p : Fin 104) (k q : Nat) (e : XEntry) (x : Txn) (l : MLine) (d : Dev),
    s.quiet = true → m.dst = .home sk u → s.pageFree sk m.pa →
    let hub := s.dev.hub sk.val u.val
    let probes := fun (i : Instr) (ty : MsgType) => ∃ t r, exec i s = .next t ∧ t.dev.net = [r] ∧ r.ty = ty ∧ r.src = .home sk u ∧
      r.dst.sock.val = q ∧ r.berth = m.berth ∧ r.master = m.master ∧ r.addr = BitVec.ofNat 52 (lineBase m.pa) ∧
      (t.dev.hub sk.val u.val).txns.map Txn.acks = [[q]]
    (m.src = .slice sk p → m.aux = false → hub.idle = true → hub.findX m.pa = some (k, e) → e.own = true → e.sp = [q] → q < 16 →
      q ≠ sk.val → probes (.hrds m) .hprs ∧ probes (.hrdm m) .hprm ∧ probes (.hupg m) .hprm) ∧
    ((m.src.sock = sk ∨ s.dev.present m.src.sock.val sk.val = true) → hub.findX m.pa = some (k, e) → e.hail = false →
      e.sp.erase m.src.sock.val ≠ [] →
      ∃ t z, exec (.hevs m) s = .next t ∧ t.dev.net = [] ∧ (t.dev.hub sk.val u.val).findX m.pa = some (k, z) ∧
        z.sp = e.sp.erase m.src.sock.val) ∧
    ((m.src.sock = sk ∨ s.dev.present m.src.sock.val sk.val = true) → hub.txns = [x] → x.la = lineOf m.pa →
      x.acks = [m.src.sock.val, q] → q ≠ m.src.sock.val →
      ∃ t, exec (.pack m) s = .next t ∧ t.dev.net = [] ∧ (t.dev.hub sk.val u.val).txns.map Txn.acks = [[q]]) ∧
    ((m.src.sock = sk ∨ s.dev.present m.src.sock.val sk.val = true) →
      (notOwned s.adm.tab sk m = false → s.dev.memRead s.adm.tab (whoOf { m with ty := .drd }) m.pa = (l, d) → ∃ t r, exec (.drd m) s = .next t ∧ t.dev.net = [r] ∧
        r.ty = .drsp ∧ r.dst = m.src ∧ r.txn = m.txn ∧ r.data = lineSlice l.line.data (m.pa % 64) m.len.toNat ∧
        r.poison = l.line.poison ∧ r.aux = false) ∧
      (notOwned s.adm.tab sk m = false → s.dev.memRead s.adm.tab (whoOf { m with ty := .dwr }) m.pa = (l, d) → ∃ t r, exec (.dwr m) s = .next t ∧ t.dev.net = [r] ∧
        r.ty = .drsp ∧ r.dst = m.src ∧ r.txn = m.txn ∧ r.aux = true ∧ r.poison = l.line.poison ∧
        t.dev.mem = (d.memWriteLine s.adm.tab (whoOf { m with ty := .dwr }) m.pa
          { l.line with data := lineMerge l.line.data (m.pa % 64) m.len.toNat m.data }).mem))

/-- O40. Replays, reservation timeouts, unknown types, header errors and discarded messages. REQUEST_REPLAY of a core whose miss
was refused sends that request again with its first AGE, and the miss no longer waits. REQUEST_REPLAY of a root port sends
what was refused again, the same request. A kept reservation that times out is dropped and its resource kept for the next
oldest. A message of a listed type is no unknown type; an unlisted one is discarded with a report of class 9 from the
landing's router. A header error stops the neighbour's link towards the receiving port on its plane and is reported; at a
port toward the edge, which has no link, nothing happens. A message to a pod out of service or to a core of a fenced pod does
nothing but leave a report of class 5 from the landing's router (log 21). -/
def Obligations.MeshEvents : Prop :=
  ∀ (s : State) (h : Hart) (r : Miss) (sk : Sock) (pod : Fin 104) (i : Fin 8) (v : Resv) (landing : Fin 128) (ty : BitVec 6)
      (master : BitVec 16) (berth : BitVec 6) (addr : PAddr) (port : Fin 4) (plane : Fin 3) (n : Nat) (m : Msg),
    let c := s.core h
    (s.quiet = true → m.src.sock = m.dst.sock → s.dev.discards m.dst = true →
      exec (.rds m) s = .next (s.withDev (s.dev.discard { m with ty := .rds })) ∧
      exec (.inv m) s = .next (s.withDev (s.dev.discard { m with ty := .inv })) ∧
      exec (.dats m) s = .next (s.withDev (s.dev.discard { m with ty := .dats }))) ∧
    ((∀ y ∈ s.dev.asked, y.2 = false) → c.missL2 = [r] → r.retry = true → r.sent = true → r.upg = false → r.la = lineOf addr.toNat →
      (s.dev.homePod h.sock.val (r.la * 64)).2 = false →
      ∃ t x, exec (.requestReplay (.core h.sock h.core) addr) s = .next t ∧ t.dev.net = s.dev.net ++ [x] ∧
        x.ty = r.ty ∧ x.age = r.age ∧ x.src = .core h.sock h.core ∧ x.addr = BitVec.ofNat 52 (r.la * 64) ∧
        (t.core h).missL2 = [{ r with retry := false, killed := false }]) ∧
    (∀ (ps : Sock) (pp : Fin 32), m.src = .port ps pp → s.dev.asked = [(m, true)] → (s.dev.homePod ps.val m.pa).2 = false →
      m.pa = addr.toNat → ∃ t, exec (.requestReplay m.src addr) s = .next t ∧
        t.dev.net = s.dev.net ++ [{ m with dst := s.dev.homeSlice ps m.pa }] ∧ t.dev.asked = [(m, false)]) ∧
    ((s.dev.slice sk.val pod.val).rsv[i.val]? = some v → v.kept = true →
      ∃ t, exec (.reservationTimeout sk pod i) s = .next t ∧
        (t.dev.slice sk.val pod.val).rsv = keepFor ((s.dev.slice sk.val pod.val).rsv.eraseIdx i.val) v.what v.set v.ways) ∧
    (typeOfCode ty.toNat ≠ none → exec (.unknownMessageType sk landing ty master berth addr) s = .next s) ∧
    (typeOfCode ty.toNat = none → exec (.unknownMessageType sk landing ty master berth addr) s =
      .next (s.withDev (s.dev.report sk.val
        { src := 0x180 + landing.val, cls := 9, sub := 0xFF, master := master.toNat, berth := berth.toNat, access := 14
          addr := addr.toNat }))) ∧
    (neighbour landing.val port.val = some n → ∃ t, exec (.meshHeaderError sk landing port plane) s = .next t ∧
      t.dev.reg sk.val .ldMeshCtl n 0 = putBit (s.dev.reg sk.val .ldMeshCtl n 0) ((port.val + 2) % 4) true ∧ t.dev.net = s.dev.net ∧
      (t.dev.sock sk.val).meshDown.contains (n, (port.val + 2) % 4, plane.val) = true) ∧
    (neighbour landing.val port.val = none → exec (.meshHeaderError sk landing port plane) s = .next s)

/-- O41. A write to the register space. A berth's request that does not come from level H is refused and changes nothing. A write
that is not an aligned 8-byte write is dropped with a Note. In the Wheelhouse view a write to an offset that holds nothing is
ignored; in a berth's view it is dropped with a Note. A write of a register without command bits that the requester's view
shows stores the fields that the view may write. -/
def Obligations.RegisterSpaceRules : Prop :=
  ∀ (s : State) (q : Requester) (sk : Sock) (off : BitVec 32) (size : Fin 4) (v : Word) (r : Reg) (i j : Nat),
    (Requester.mayReach q = false → exec (.registerWrite q sk off size v) s = .next (s.withDev (s.dev.answer [1]))) ∧
    (Requester.mayReach q = true → size ≠ 3 ∨ off.toNat % 8 ≠ 0 →
      exec (.registerWrite q sk off size v) s = .next (s.done (s.dev.regNote sk.val q off.toNat))) ∧
    (Requester.mayReach q = true → off.toNat % 8 = 0 → (off.toNat < 0x02000000 ∨ 0x05000000 ≤ off.toNat) → regAt off.toNat = none →
      logAt off.toNat = none → broadcastReg off.toNat = none →
      exec (.registerWrite q sk off 3 v) s =
        .next (s.done (if q.berth = 0 then s.dev else s.dev.regNote sk.val q off.toNat))) ∧
    (r ∈ [Reg.fcInjAddr, .whSvc, .fcCtl, .pwTdp, .teHubCfg, .xlRoute, .xlHb, .fmScrub, .nmScrub, .pxPortCfg, .whAttestNonce] →
      i < r.place.c1 → j < r.place.c2 → s.opens q sk r i j v = true →
      exec (.registerWrite q sk (BitVec.ofNat 32 (r.at i j)) 3 v) s = .next (s.done (s.dev.setReg sk.val r i j
        (r.written (decide (q.berth ≠ 0)) (decide (s.dev.fld sk.val .whBoot 0 0 63 63 = 1)) (s.dev.reg sk.val r i j) v))))

/-- O42. Register commands of routers, slices and cores. From the Wheelhouse view: a one in LINK_DOWN restarts that link and
leaves the others; a lock fill, a range invalidation and a write of LOCK in the broadcast block act in every enabled pod; a
write of a home map entry stores the pod and HOLD; RESET and GO of LD_CORE_CTL keep ENTRY as it stands and reset or start the
core. -/
def Obligations.SliceAndCoreRegisterCommands : Prop :=
  ∀ (s : State) (q : Requester) (sk : Sock) (l : Fin 128) (mask : BitVec 4) (v : Word) (lock : BitVec 16) (e : Fin 4096) (h : Hart),
    q.berth = 0 →
    let t := s.adm.tab
    let pods := s.dev.podsOf sk.val none
    let entry := bits (s.dev.reg h.sock.val .ldCoreCtl (landingOf (podOf h)) (h.core.val % 2)) 51 2
    (∃ x, exec (.linkRestart q sk l mask) s = .next (s.done ((s.dev.setReg sk.val .ldMeshCtl l.val 0 x).meshGo t sk.val l.val)) ∧
      bits x 3 0 = s.dev.fld sk.val .ldMeshCtl l.val 0 3 0 &&& (15 - mask.toNat)) ∧
    exec (.lockFill q sk v) s = .next (s.done (s.dev.writeLockCmd t sk pods (putBit v 63 true))) ∧
    exec (.rangeInvalidation q sk v) s = .next (s.done (s.dev.writeRinvCmd t sk pods (putBit v 63 true))) ∧
    exec (.wayLockWrite q sk lock) s = .next (s.done (s.dev.writeLock t sk.val q pods (broadcastAt .ldSliceWays) lock.toNat)) ∧
    exec (.hmapWrite q sk e v) s = .next (s.done (s.dev.writeHmap t sk e.val v)) ∧
    (isServer h = true → ∃ x y, exec (.coreCtlReset q h) s = .next (s.done (s.dev.writeCoreCtl t h x)) ∧
      exec (.coreCtlGo q h) s = .next (s.done (s.dev.writeCoreCtl t h y)) ∧
      bit x 63 = true ∧ bit x 61 = false ∧ bits x 51 2 = entry ∧ bit y 63 = false ∧ bit y 61 = true ∧ bits y 51 2 = entry)

/-- O43. Register commands of links, directories, repairs and tiering. From the Wheelhouse view: a changed DISABLE disables or
enables the link and RETRAIN asks for a retraining, DISABLE as it stood; CLR zeroes the directory's counts; GO of WH_REPAIR,
when it read 0, sets STATUS 1 and runs the repair; DRAIN and MODE of the berth are written; a run is started with REVERT as
the command says. -/
def Obligations.LinkMemoryAndTierRegisterCommands : Prop :=
  ∀ (s : State) (q : Requester) (sk : Sock) (k : Fin 8) (u : Fin 2) (b : BitVec 6) (on : Bool) (mode : BitVec 2) (r : Fin 32) (v : Word),
    q.berth = 0 →
    let t := s.adm.tab
    let d := s.dev
    let ctl := d.reg sk.val .xlLinkCtl k.val 0
    let repair := Reg.whRepair.written false false (d.reg sk.val .whRepair 0 0) (putBit v 63 true)
    (∃ x, exec (.linkRetrain q sk k) s = .next (s.done ((d.setReg sk.val .xlLinkCtl k.val 0 x).linkRetrain sk.val k.val)) ∧
      bit x 8 = bit ctl 8) ∧
    (on ≠ bit ctl 8 → bit ctl 12 = false → ∃ x,
      exec (.linkDisable q sk k on) s = .next (s.done ((d.setReg sk.val .xlLinkCtl k.val 0 x).linkDisable sk.val k.val on))) ∧
    exec (.xdirClr q sk u) s = .next (s.done ((d.setFld sk.val .xlXdirStat u.val 0 41 0 0).setReg sk.val .xlXdirBcast u.val 0 0)) ∧
    (bit (d.reg sk.val .whRepair 0 0) 63 = false → exec (.softRepair q sk v) s =
      .next (s.done (((d.setReg sk.val .whRepair 0 0 repair).setFld sk.val .whRepair 0 0 58 56 1).softRepair t sk))) ∧
    exec (.drain q sk u b on) s = .next (s.done (d.writeDrain t sk.val u.val b.toNat on)) ∧
    (∃ x, exec (.modeWrite q sk b mode) s = .next (s.done (d.writePolicy t sk.val b.toNat q x)) ∧ bits x 61 60 = mode.toNat) ∧
    exec (.evacuationRun q sk u r) s = .next (s.done ((d.setFld sk.val .teRunB u.val r.val 62 62 0).runGo t sk.val u.val r.val)) ∧
    exec (.revert q sk u r) s = .next (s.done ((d.setFld sk.val .teRunB u.val r.val 62 62 1).runGo t sk.val u.val r.val))

/-- O44. Register commands of fault collection. From the Wheelhouse view: FORCE of a source that exists and is not being forced
raises its error; POP takes the head of the collector queue; a rearm of the first record clears VALID and OVF; a rearm of a
source's log clears VALID, LOST and COUNT and keeps the rest; a management core's write of a fence entry's STATE acts as R543
says and another master's does nothing. A berth's rearm of a log is dropped with a Note. -/
def Obligations.FaultRegisterCommands : Prop :=
  ∀ (s : State) (q : Requester) (sk : Sock) (src : BitVec 12) (v : Word) (n : Fin 512) (st : BitVec 2),
    let t := s.adm.tab
    let d := s.dev
    let old := d.reg sk.val .fcSrcSev src.toNat 0
    (q.berth = 0 →
      (sourceExists src.toNat = true → bit old 63 = false → ∃ x, exec (.force q sk src v) s =
        .next (s.done ((d.setReg sk.val .fcSrcSev src.toNat 0 x).force t sk.val src.toNat)) ∧ bits x 59 48 = bits v 59 48) ∧
      exec (.pop q sk) s = .next (s.done (d.popFault sk.val)) ∧
      exec (.firstRearm q sk) s = .next (s.done (d.setReg sk.val .fcFirstCtl 0 0 0)) ∧
      (∃ x, exec (.errLogRearm q sk src) s = .next x ∧
        bits ((x.dev.sock sk.val).faults.logWord src.toNat 0) 63 62 = 0 ∧
        bits ((x.dev.sock sk.val).faults.logWord src.toNat 0) 55 40 = 0 ∧
        bits ((x.dev.sock sk.val).faults.logWord src.toNat 0) 39 0 = bits ((d.sock sk.val).faults.logWord src.toNat 0) 39 0 ∧
        (x.dev.sock sk.val).faults.logWord src.toNat 1 = (d.sock sk.val).faults.logWord src.toNat 1 ∧ x.dev.net = d.net) ∧
      exec (.fenceStateWrite q sk n st) s =
        .next (s.done (if isHepin sk.val q.master.toNat then d.writeFence t sk.val n.val st.toNat else d))) ∧
    (q.berth ≠ 0 → q.high = true →
      exec (.errLogRearm q sk src) s = .next (s.withDev ((d.regNote sk.val q 0).answer [0])))

/-- O45. Register commands of ferry functions and ports. For a requester that may reach the function, its engine not fenced:
FE_DB takes the 16-bit tail, FE_QC_CTL its value, COMMIT checks the function's windows, and BME_CLEAR and BME_SET write the
Command register with only Bus Master Enable changed. ENGINE_RESET from the Wheelhouse resets the engine, PF0's FLR as well,
and another function's FLR starts its own. PX_IDE_KEY stores the key word of the slot, of its seventh word the LOAD and slot
bits alone, which loads it. A read of configuration space answers its value, a write acts on the addressed bytes. -/
def Obligations.FerryAndPortRegisterCommands : Prop :=
  ∀ (s : State) (q : Requester) (sk : Sock) (e : Fin 4) (f : Fin 256) (i : Fin 4096) (tail : BitVec 16) (v : Word) (p : Fin 32)
      (slot w : Fin 8) (off : BitVec 30) (size : Fin 4),
    let t := s.adm.tab
    let d := s.dev
    let cmd := d.fnCfg sk.val e.val f.val wCommand
    (s.barOpens q sk e f = true →
      exec (.feDb q sk e f i tail) s = .next (s.done (d.writeDb sk.val e.val f.val i.val tail.toNat)) ∧
      exec (.queueEnable q sk e f i v) s = .next (s.done (d.writeQc sk.val e.val f.val i.val v))) ∧
    (s.barOpens q sk e f = true →
      exec (.commit q sk e f) s = .next (s.done (d.commitWindows t sk.val e.val f.val)) ∧
      exec (.bmeClear q sk e f) s = .next (s.done (d.fnCfgWrite t sk.val e.val f.val wCommand q (cmd &&& ~~~ 4#32))) ∧
      exec (.bmeSet q sk e f) s = .next (s.done (d.fnCfgWrite t sk.val e.val f.val wCommand q (cmd ||| 4#32)))) ∧
    (q.berth = 0 → exec (.engineReset q sk e) s = .next (s.done (d.engineReset t sk.val e.val)) ∧
      (w.val < 7 → ∃ x, exec (.pxIdeKey q sk p slot w v) s = .next (s.done x) ∧
        Tbl.get 0 (x.port sk.val p.val).ide (slot.val * 8 + w.val) = (if w.val = 6 then v &&& 0x800000000000000F else v) ∧
        (w.val = 6 → Tbl.get false (x.port sk.val p.val).ideLoaded slot.val = bit v 63))) ∧
    exec (.flr sk e f) s = .next (s.ended (if f.val = 0 then d.engineReset t sk.val e.val else d.flrStart t sk.val e.val f.val)) ∧
    exec (.configAccess q sk off size true v) s = .next (s.done (d.integratedWrite t q sk.val off.toNat (2 ^ size.val) v)) ∧
    ∃ x, exec (.configAccess q sk off size false v) s = .next x ∧
      x.dev.out = [0, (d.integratedRead t q sk.val off.toNat (2 ^ size.val)).1]

/-- O46. Writing, posting and taking a slip. Where a requester's view shows the slip: on a socket that runs, the sender's write
of a free slip stores the doubleword, and its post of 8 to 16 doublewords sets GO and LEN and rings the receiver's doorbell;
a write to a full slip is dropped and counted, one of another master dropped with a Note; outside RUN a full slip answers a
bus error. DONE by the receiver takes the slip back and posts what waits behind it; DONE by another master is dropped with a
Note. -/
def Obligations.SlipsCarryMessages : Prop :=
  ∀ (s : State) (q : Requester) (sk : Sock) (n : BitVec 8) (i : Fin 16) (v : Word) (len : BitVec 5),
    let d := s.dev
    let k := n.toNat
    let sender := d.isSender sk.val k q.master.toNat
    let full := d.slipFull sk.val k
    let counted := (d.bump sk.val .mbDrop k 0 31 0 1).setFld sk.val .mbStat k 0 3 3 1
    (s.opens q sk .mbData k i.val v = true → d.runs sk.val = true →
      (sender = true → full = false → exec (.mbDataWrite q sk n i v) s = .next (s.done (d.setReg sk.val .mbData k i.val v))) ∧
      (sender = true → full = true → exec (.mbDataWrite q sk n i v) s = .next (s.done counted)) ∧
      (sender = false → exec (.mbDataWrite q sk n i v) s = .next (s.done (d.slipNote sk.val q (Reg.mbData.at k i.val))))) ∧
    (s.opens q sk .mbData k i.val v = true → d.runs sk.val = false → full = true → exec (.mbDataWrite q sk n i v) s =
      .next (s.ended ((d.slipNote sk.val q (Reg.mbData.at k i.val)).answer [1]))) ∧
    (s.opens q sk .mbCtl k 0 (word (2 ^ 63 + len.toNat)) = true → d.runs sk.val = true → sender = true → full = false →
      exec (.post q sk n len) s = .next (s.done (d.postSlip sk.val k len.toNat))) ∧
    (8 ≤ len.toNat → len.toNat ≤ 16 →
      (d.postSlip sk.val k len.toNat).fld sk.val .mbCtl k 0 63 63 = 1 ∧
      (d.postSlip sk.val k len.toNat).fld sk.val .mbCtl k 0 4 0 = len.toNat ∧
      bit ((d.postSlip sk.val k len.toNat).reg sk.val .dbPend (d.slipReceiver sk.val k) 0) (d.fld sk.val .mbCfg k 0 44 40) = true ∧
      ∀ x < 16, (d.postSlip sk.val k len.toNat).reg sk.val .mbData k x =
        if x < len.toNat then d.reg sk.val .mbData k x else 0) ∧
    (s.opens q sk .mbDone k 0 1 = true →
      (d.isReceiver sk.val k q.master.toNat = true → exec (.mbDone q sk n) s = .next (s.done (d.slipDone sk.val k))) ∧
      (d.isReceiver sk.val k q.master.toNat = false →
        exec (.mbDone q sk n) s = .next (s.done (d.slipNote sk.val q (Reg.mbDone.at k 0)))))

/-- O47. Slip configuration, doorbells and bollards. Where a requester's view shows the register: a write of a full slip's
configuration is dropped with a Note; ones in DB_PEND clear those bits. A read of a bollard answers its value and, when it is
free, gives it to the reader; a write to BL_REL whose bits [15:0] are the HOLDER field's value frees it (bits [63:16] are
reserved and ignored, assumption log 30) and any other write is reported and changes no bollard; FORCE frees it. -/
def Obligations.DoorbellsAndBollards : Prop :=
  ∀ (s : State) (q : Requester) (sk : Sock) (n : BitVec 8) (r : Fin 256) (mask : BitVec 32) (b : Fin 64) (v : Word),
    let d := s.dev
    let w := d.reg sk.val .bl b.val 0
    (s.opens q sk .mbCfg n.toNat 0 v = true → d.slipFull sk.val n.toNat = true →
      exec (.mbCfgWrite q sk n v) s = .next (s.done (d.slipNote sk.val q (Reg.mbCfg.at n.toNat 0)))) ∧
    (s.opens q sk .mbCfg n.toNat 0 v = true → d.slipFull sk.val n.toNat = false → d.fld sk.val .mbCfg n.toNat 0 63 62 = 2 →
      q.berth = 0 → bits v 31 28 = sk.val → bits v 27 16 < 208 → bits v 7 0 < 208 → ∃ x,
        exec (.mbCfgWrite q sk n v) s = .next (s.done (d.setReg sk.val .mbCfg n.toNat 0 x)) ∧ bits x 31 16 = bits v 31 16 ∧
        bits x 7 0 = bits v 7 0 ∧ bits x 44 40 = bits v 44 40 ∧ bits x 63 45 = bits (d.reg sk.val .mbCfg n.toNat 0) 63 45) ∧
    (s.opens q sk .dbPend r.val 0 (mask.setWidth 64) = true → ∃ x,
      exec (.dbPendClear q sk r mask) s = .next (s.done ((d.setReg sk.val .dbPend r.val 0 x).ringWake sk.val r.val)) ∧
      bits x 31 0 = d.fld sk.val .dbPend r.val 0 31 0 &&& (2 ^ 32 - 1 - mask.toNat)) ∧
    (Requester.mayReach q = true → q.berth = 0 ∨ d.fld sk.val .blCfg b.val 0 5 0 = q.berth.toNat →
      exec (.bollardRead q sk b) s = .next (s.ended
        ((if bit w 16 then d else d.setReg sk.val .bl b.val 0 (word (2 ^ 16 + q.master.toNat))).answer [0, w]))) ∧
    (s.opens q sk .blRel b.val 0 v = true →
      (bits v 15 0 = bits w 15 0 →
        exec (.bollardRelease q sk b v) s = .next (s.done (d.setReg sk.val .bl b.val 0 0))) ∧
      (bits v 15 0 ≠ bits w 15 0 → ∃ x,
        exec (.bollardRelease q sk b v) s = .next (s.done x) ∧ ∀ y z, x.reg sk.val .bl y z = d.reg sk.val .bl y z)) ∧
    (s.opens q sk .blCfg b.val 0 (d.withField sk.val .blCfg b.val 0 63 63 1) = true → ∃ x,
      exec (.bollardForce q sk b) s = .next (s.done x) ∧ x.reg sk.val .bl b.val 0 = 0)

/-- O48. Register commands of counters, power and attestation. From the Wheelhouse view: a write of BERTH of an uncore counter
stores it and clears EN and the count; a request for MAINTAIN or back to RUN is that of R474; PW_DOM.SET switches domains,
bit 16 staying on; GO of an attestation command with none pending stores its address and starts it. -/
def Obligations.CounterAndPowerRegisterCommands : Prop :=
  ∀ (s : State) (q : Requester) (sk : Sock) (u : Fin 256) (i : Fin 4) (b : BitVec 6) (set : BitVec 28) (v : Word) (cfg cnt : Reg) (k : Nat),
    q.berth = 0 →
    let t := s.adm.tab
    let d := s.dev
    (uncUnit u.val = some (cfg, cnt, k) → ∃ x, exec (.uncBerthWrite q sk u i b) s = .next x ∧
      x.dev.fld sk.val cfg k i.val 53 48 = b.toNat ∧ x.dev.fld sk.val cfg k i.val 63 63 = 0 ∧ x.dev.reg sk.val cnt k i.val = 0 ∧
      x.dev.fld sk.val cfg k i.val 7 0 = d.fld sk.val cfg k i.val 7 0 ∧ x.dev.net = d.net) ∧
    exec (.enterMaintain q sk) s = .next (s.done (d.enterMaintain t sk)) ∧
    (d.mode sk.val = modeMaintain → exec (.leaveMaintain q sk) s = .next (s.done (d.leaveMaintain sk))) ∧
    (d.mode sk.val ≠ modeMaintain → exec (.leaveMaintain q sk) s = .next (s.done (d.badMode sk.val))) ∧
    exec (.domainSet q sk set) s = .next (s.done (d.domainSet t sk.val set.toNat)) ∧
    (bit (d.reg sk.val .whAttestCmd b.toNat 0) 63 = false → ∃ x : Dev,
      exec (.attestation q sk b v) s = .next (s.done (x.attest s.adm sk.val b.toNat)) ∧
      x.fld sk.val .whAttestCmd b.toNat 0 63 63 = 1 ∧ x.fld sk.val .whAttestCmd b.toNat 0 51 8 = bits v 51 8)

/-- O49. Training, flits and lanes of a crossing link. In DETECT, seventeen lanes with a partner take the link to EQUALIZE, and
so does one missing data lane, which fails and moves to the spare. In EQUALIZE the used lanes that reach their target take it
to IDENTIFY, and in RETRAIN, outside a supply dip, they leave it ready to identify again; one used lane that does not reach
it keeps the link. IDENTIFY, after an equalization, makes it ACTIVE with full credits when the socket IDs differ in one bit
and the link numbers agree, and takes it DOWN with a report otherwise. A training timeout starts the attempt again, the third
takes the link DOWN; in RETRAIN it waits during a dip. An ACTIVE link discards a flit with a bad CRC, accepts the next number
in order and asks for anything else again. A NAK drops what it acknowledges and counts the flits sent again; the eighth takes
an ACTIVE link to RETRAIN and leaves a link of another state as it is. A lane check with one failed data lane moves it to the
spare, one with two failed lanes in each half takes the link DOWN. -/
def Obligations.LinkEvents : Prop :=
  ∀ (s : State) (sk : Sock) (k : Fin 8) (lanes : BitVec 17) (peer : BitVec 4) (pl : BitVec 3) (ack : BitVec 10) (l : Fin 16) (f : Flit),
    let d := s.dev
    let st := d.linkState sk.val k.val
    let x0 := d.link sk.val k.val
    let stat := d.reg sk.val .xlLinkStat k.val 0
    let kept := (x0.acked ack.toNat).replay
    let dips := d.dipping sk.val
    let right := (∃ i < 4, peer.toNat = across (d.sockId sk.val) i) ∧ pl.toNat = k.val
    (st = 1 → (lanes = BitVec.allOnes 17 → exec (.linkDetect sk k lanes) s = .next (s.withDev (d.setLink sk.val k.val 2))) ∧
      ((∀ i < 17, lanes.getLsbD i = decide (i ≠ l.val)) → ∃ x : Dev, exec (.linkDetect sk k lanes) s = .next (s.withDev x) ∧
        x.linkState sk.val k.val = 2 ∧ bit (x.reg sk.val .xlLinkStat k.val 0) l.val = true ∧
        x.fld sk.val .xlLinkStat k.val 0 20 16 = l.val)) ∧
    ((∀ i < 17, lanes.getLsbD i = true) →
      (st = 2 → exec (.linkEqualize sk k lanes) s = .next (s.withDev (d.setLink sk.val k.val 3))) ∧
      (st = 5 → dips = false → exec (.linkEqualize sk k lanes) s =
        .next (s.withDev (d.onLink sk.val k.val fun x => { x with equalized := true }))) ∧
      (st = 5 → dips = true → exec (.linkEqualize sk k lanes) s = .next s)) ∧
    (st = 2 ∨ st = 5 → l.val ∈ lanesOf (bits stat 31 30) → l.val ≠ bits stat 20 16 → lanes.getLsbD l.val = false →
        exec (.linkEqualize sk k lanes) s = .next s) ∧
    (st = 3 ∨ (st = 5 ∧ x0.equalized = true ∧ dips = false) →
      (right → ∃ x : Dev,
        exec (.identify sk k peer pl) s = .next (s.withDev x) ∧ x.linkState sk.val k.val = 4 ∧
        x.fld sk.val .xlLinkStat k.val 0 47 44 = peer.toNat ∧ (x.link sk.val k.val).credits = fullCredits ∧
        (x.link sk.val k.val).fails = 0) ∧
      (¬right → exec (.identify sk k peer pl) s = .next (s.withDev ((d.setLink sk.val k.val 6).notice sk.val (0xE00 + k.val))))) ∧
    (1 ≤ st → st ≤ 3 → ∃ x : Dev, exec (.trainingTimeout sk k) s = .next (s.withDev x) ∧
      (x0.fails < 2 → x.linkState sk.val k.val = 1 ∧ (x.link sk.val k.val).fails = x0.fails + 1) ∧
      (2 ≤ x0.fails → x.linkState sk.val k.val = 6 ∧ (x.link sk.val k.val).fails = 0)) ∧
    (st = 5 → dips = true → exec (.trainingTimeout sk k) s = .next s) ∧
    (st = 5 → dips = false → x0.fails < 2 → ∃ x : Dev, exec (.trainingTimeout sk k) s = .next (s.withDev x) ∧
      x.linkState sk.val k.val = 5 ∧ (x.link sk.val k.val).fails = x0.fails + 1 ∧ (x.link sk.val k.val).equalized = false) ∧
    (st = 4 →
      (f.crc ≠ word (crc64Of (flitBody f)) → exec (.flit sk k f) s = .next (s.ended
        ((d.bump sk.val .xlLinkCnt k.val 0 31 0 1).onLink sk.val k.val fun x => { x with nakDue := true }))) ∧
      (f.crc = word (crc64Of (flitBody f)) → bits f.hdr 42 41 = 0 → (∀ i < 8, (d.link sk.val i).rx = []) → bit f.hdr 43 = false →
        ∃ x : Dev, exec (.flit sk k f) s = .next (s.ended x) ∧
        (bits f.hdr 63 54 = (x0.good + 1) % 1024 →
          (x.link sk.val k.val).good = bits f.hdr 63 54 ∧ (x.link sk.val k.val).nakDue = false) ∧
        (bits f.hdr 63 54 ≠ (x0.good + 1) % 1024 →
          (x.link sk.val k.val).good = x0.good ∧ (x.link sk.val k.val).nakDue = true ∧ x.net = d.net))) ∧
    (∃ x : Dev, exec (.nak sk k ack) s = .next (s.withDev x) ∧ (x.link sk.val k.val).replay = kept ∧
      (kept ≠ [] → x.fld sk.val .xlLinkCnt k.val 0 63 32 = satAdd 32 (d.fld sk.val .xlLinkCnt k.val 0 63 32) kept.length) ∧
      (x0.naks = 7 → x0.nakAck = ack.toNat → st = 4 → dips = false → x.linkState sk.val k.val = 5) ∧
      (x0.naks = 0 ∨ st ≠ 4 → x.linkState sk.val k.val = st)) ∧
    (st = 4 → exec (.laneCheck sk k 0) s = .next s ∧
      (bits stat 15 0 = 0 → bits stat 31 30 = 0 → x0.spareBad = false → (∀ i < 17, lanes.getLsbD i = decide (i = l.val)) →
        ∃ x : Dev, exec (.laneCheck sk k lanes) s = .next (s.withDev x) ∧ x.linkState sk.val k.val = 4 ∧
          x.fld sk.val .xlLinkStat k.val 0 20 16 = l.val ∧ x.fld sk.val .xlLinkStat k.val 0 31 30 = 0 ∧
          bit (x.reg sk.val .xlLinkStat k.val 0) l.val = true) ∧
      (bits stat 15 0 = 0 → lanes.getLsbD 0 = true → lanes.getLsbD 1 = true → lanes.getLsbD 8 = true → lanes.getLsbD 9 = true →
        ∃ x : Dev, exec (.laneCheck sk k lanes) s = .next (s.withDev x) ∧ x.linkState sk.val k.val = 6))

/-- O50. Route switches, time, joins, leaves and losses complete. ROUTE_SWITCH by a manager gives every present socket its table
and a time at least 20 µs ahead and installs nothing. SWITCH_TIME of a socket that has a table, with no unacknowledged flit
and no message waiting in its links, installs it and its links send again; while a usable link has an unacknowledged flit it
only holds their sends. HEARTBEAT of a present socket is heard by every awake socket that it sees present. TIME_SYNC of a
present socket other than the manager shows its parent and offset. STOP_MESSAGE over a usable link takes a socket that is on
to HOLD and stops its server cores. CROSSING_TIMEOUT of a core's transaction that is still out ends it as for an absent
socket, where a write draws WBACK. JOIN_WAIT_EXPIRY ends the wait of the manager. JOIN of a socket in LOAD with a member near
it is answered NO_MANAGER, waits during an order, is refused with its status, or is admitted once its links are checked.
LEAVE on request takes the socket's resources from the tables in force and mirrored, and ends DONE. SOCKET_SILENT of a
present socket at the manager loses it with its resources; with no standby manager a socket runs on unreached. BERTH_RELEASE
of a berth that is built and whose sockets are ready takes it to RUN. -/
def Obligations.RoutesTimeAndMembership : Prop :=
  ∀ (s : State) (sk lost : Sock) (at_ : Word) (offset : BitVec 8) (from_ via : Sock) (ok : Bool) (b : BitVec 6) (txn : BitVec 12) (m : Nat),
    let d := s.dev
    let a := s.adm
    let me := sk.val
    ((∀ m < 16, d.isManager m = false) → exec (.routeSwitch at_) s = .next s) ∧
    (sockets.find? (fun m => d.isManager m && d.awake m) = some m → ∃ x : Dev, exec (.routeSwitch at_) s = .next (s.withDev x) ∧
      (∀ p tbl, (p, tbl) ∈ d.routeTables (d.members m) →
        (x.wheel p).routes = some (if at_.toNat < d.now.toNat + 20000 then d.now + 20000 else at_, tbl)) ∧
      ∀ p r i j, x.reg p r i j = d.reg p r i j) ∧
    (∀ time tbl, (d.wheel me).routes = some (time, tbl) → ∃ x : Dev, exec (.switchTime sk) s = .next (s.withDev x) ∧
      ((∀ k < 8, (d.link me k).replay = [] ∧ (d.link me k).rx = []) → (∀ t < 16, x.reg me .xlRoute t 0 = Tbl.get 0 tbl t) ∧
        (x.wheel me).routes = none ∧ ∀ k < 8, (x.link me k).hold = false) ∧
      (∀ k < 8, (d.link me k).replay ≠ [] → d.stranded me k = false →
        (∀ j < 8, (x.link me j).hold = true) ∧ (x.wheel me).routes = some (time, tbl) ∧
        ∀ t < 16, x.reg me .xlRoute t 0 = d.reg me .xlRoute t 0)) ∧
    (d.present me me = true → d.awake me = true → d.isManager me = false → ∃ x : Dev,
      exec (.heartbeat sk) s = .next (s.withDev x) ∧
      (∀ t ∈ d.members me, t ≠ me → d.awake t = true → Tbl.find (x.wheel t).heard me = some d.now) ∧
      ∀ p r i j, x.reg p r i j = d.reg p r i j) ∧
    (∀ p, d.managerOf me = some m → me ≠ m → d.fld me .xlTime 0 0 63 63 = 1 → d.awake me = true →
      d.timeParent me m = some p → p < 16 → ∃ x : Dev, exec (.timeSync sk offset) s = .next (s.withDev x) ∧
        x.fld me .xlTime 0 0 51 48 = p ∧ x.fld me .xlTime 0 0 7 0 = offset.toNat ∧ x.fld me .xlTime 0 0 63 63 = 1) ∧
    (d.usable me from_.val = [] → exec (.stopMessage sk from_) s = .next s) ∧
    (d.usable me from_.val ≠ [] → 2 ≤ d.mode me → d.mode me ≤ 5 → ∃ x : Dev,
      exec (.stopMessage sk from_) s = .next (s.withDev x) ∧ x.mode me = modeHold ∧ 2 ≤ (x.wheel me).fatal ∧
      ∀ h : Hart, h.sock = sk → isServer h = true → (d.core h).run = .running → (x.core h).run = .stopped) ∧
    (∀ (c : Fin 212) (y : Msg), (d.net.find? fun y => y.src = .core sk c && y.txn = txn && y.dst.sock ≠ sk) = some y →
      exec (.crossingTimeout (.core sk c) txn) s =
        .next (s.ended (((({ d with net := d.net.erase y } : Dev).absentHome y).drain a.tab 64)))) ∧
    (∀ y : Msg, y.ty = .nwr ∨ y.ty = .pwr → (d.absentHome y).net = d.net ++ [y.reply .wback (hubFor y) y.src]) ∧
    (∃ x : Dev, exec (.joinWaitExpiry sk) s = .next (s.withDev x) ∧ (x.wheel me).joinWaiting = false ∧
      ∀ p r i j, x.reg p r i j = d.reg p r i j) ∧
    (d.mode me = 2 → d.present me me = false → (d.wheel me).board.role ≠ 3 → via.val ∈ d.nearMembers me →
      (d.managerOf via.val = none → exec (.join sk via ok) s = .next (s.tabled (a, d.setReg me .xlJoin 0 0 6))) ∧
      (d.managerOf via.val = some m → d.present via.val m = true → d.isManager m = true → d.awake m = true →
        (a.order.isSome = true → exec (.join sk via ok) s = .next (s.tabled (a,
          (d.setReg me .xlJoin 0 0 1).onWheel me fun w => { w with joinDue := some (via.val, ok) }))) ∧
        (a.order = none → ∀ st, st ≠ 5 → joinRefused d m me ok = some st → exec (.join sk via ok) s = .next (s.tabled (a,
          (d.setReg me .xlJoin 0 0 (word st)).onWheel me fun w => { w with joinDue := none }))) ∧
        (a.order = none → joinRefused d m me ok = none → ∀ x : Dev,
          (d.onWheel me fun w => { w with joinDue := none }).checkWiring m me = x → x.nearMembers me ≠ [] →
            exec (.join sk via ok) s = .next (s.tabled (admitMember a x m me))))) ∧
    (d.present me me = true → d.svcFree me 9 0 = true → a.order = none → ∃ r : Admin × Dev,
      exec (.leave sk) s = .next (s.tabled r) ∧
      r.1 = { a with tab := a.tab.loseSocket me, mirror := a.mirror.loseSocket me } ∧
      r.2.fld me .whSvc 0 0 63 60 = 9 ∧ r.2.fld me .whSvc 0 0 58 56 = svcDone ∧ r.2.out = [word svcDone]) ∧
    (sk ≠ lost → d.present me me = true → d.awake me = true →
      (d.fld me .whSystem 0 0 47 44 = me → d.present me lost.val = true → ∃ r : Admin × Dev,
        exec (.socketSilent sk lost) s = .next (s.tabled r) ∧
        r.1 = { a with tab := a.tab.loseSocket lost.val, mirror := a.mirror.loseSocket lost.val }) ∧
      (d.fld me .whSystem 0 0 47 44 = lost.val → (∀ t < 16, (d.fld t .whSystem 0 0 31 16).testBit t = false) →
        ∃ x : Dev, exec (.socketSilent sk lost) s = .next (s.tabled (a, x)) ∧ (x.wheel me).unreached = true ∧
          ∀ p r i j, x.reg p r i j = d.reg p r i j)) ∧
    (∀ r0, sockets.find? (fun m => d.isManager m && d.awake m) = some m → manBoot (d.wheel m).kept b.toNat = some r0 →
      a.tab.stateOf b.toNat = .building → (d.wheel m).joinWaiting = false →
      (∀ t < 16, b.toNat ∈ a.tab.podBerths t → d.present t t = true ∧ (d.mode t = 2 ∨ d.runs t = true)) →
      ∃ x : Dev, exec (.berthRelease b) s = .next (s.tabled ({ a with tab := a.tab.setState b.toNat .run }, x)))

/-- O51. Channels, expanders, scrubbing, repairs and copies. A retraining of a ready channel that nothing holds back counts and
clears the failures, or counts a failure, and keeps the longest blackout. A CXL time-out is owed to the next request; a hot-
added expander is mapped; a surprise removal loses the port's memory. A scrub read takes the next line and counts what it
finds. A GDDR6 retry counts, and a read twice uncorrectable leaves its line poisoned. A soft repair clears its row's count. A
copy that starts takes the first candidate, a slot and the berth's budget; its write phase and its abandonment free the slot
and release what waits. An epoch's end moves each threshold. A remap fill loads the set. -/
def Obligations.MemoryAndTieringEvents : Prop :=
  ∀ (s : State) (sk : Sock) (far : Bool) (ch : Fin 16) (ok : Bool) (ns : BitVec 16) (port : Fin 4) (gibs : Nat) (r : ReadResult)
      (w : Bool) (la : PAddr) (retries : Fin 5) (fc : Fin 12) (rank : Fin 16) (sub : Fin 2) (bg : Fin 8) (bank : Fin 4)
      (row : BitVec 18) (u : Fin 2) (slot : Fin 8) (set : Nat),
    let d := s.dev
    let a := s.adm
    let i := if far then ch.val % 12 else ch.val % 16
    let stat : Reg := if far then .fmChStat else .nmChStat
    let ctl : Reg := if far then .fmRetrain else .nmRetrain
    let cfg : Reg := if far then .fmScrub else .nmScrub
    let cnt : Reg := if far then .fmScrubCnt else .nmScrubCnt
    let hub := d.hub sk.val u.val
    let root := cxlRoot port.val
    let n := (d.chan sk.val (chanKey far ch.val)).scrub
    let lines := d.chanLines sk.val far ch.val
    let l : FarLoc := { ch := fc.val, rank := rank.val, sub := sub.val, bg := bg.val, bank := bank.val, row := row.toNat, col := 0 }
    let key := l.rank * 8 + l.bg
    (d.chanState sk.val far ch.val ≠ 2 → exec (.channelRetrain sk far ch ok ns) s = .next s) ∧
    (bit (d.retrainReg sk.val far ch.val) 63 = true → d.chanState sk.val far ch.val = 2 →
      (d.hub sk.val (chanHub far ch.val)).slots = [] → d.dipping sk.val = false → bit (d.reg sk.val .fmGlobal 0 0) 8 = false →
      ∃ x : Dev, exec (.channelRetrain sk far ch ok ns) s = .next (s.withDev x) ∧
        x.fld sk.val stat i 0 15 0 = Nat.max (d.fld sk.val stat i 0 15 0) ns.toNat ∧
        x.fld sk.val stat i 0 31 16 = (if ok then satAdd 16 (d.fld sk.val stat i 0 31 16) 1 else d.fld sk.val stat i 0 31 16) ∧
        x.fld sk.val ctl i 0 1 0 = if ok then 0 else Nat.min 3 (d.fld sk.val ctl i 0 1 0 + 1)) ∧
    (∃ x : Dev, exec (.cxlMemTimeout sk port) s = .next (s.withDev x) ∧
      (x.port sk.val root).due = (d.port sk.val root).due + 1 ∧
      (x.chan sk.val (32 + port.val)).cxlTimeouts = (d.chan sk.val (32 + port.val)).cxlTimeouts + 1) ∧
    (d.fld sk.val .fmCxl (port.val / 2) (port.val % 2) 63 60 < 3 → (d.port sk.val root).lost = false →
      d.fld sk.val .pxPortCfg root 0 62 62 = 1 → ∃ x : Dev, exec (.cxlHotAdd sk port gibs) s = .next (s.withDev x) ∧
        (x.port sk.val root).expanders = (d.port sk.val root).expanders ++ [gibs] ∧
        x.fld sk.val .fmCxl (port.val / 2) (port.val % 2) 63 60 = 2 ∧
        x.fld sk.val .fmCxl (port.val / 2) (port.val % 2) 51 48 = Nat.min 8 ((d.port sk.val root).expanders.length + 1) ∧
        x.fld sk.val .fmCxl (port.val / 2) (port.val % 2) 44 32 =
          Nat.min 4096 ((((d.port sk.val root).expanders ++ [gibs]).take 8).foldl (· + ·) 0)) ∧
    (∃ x : Dev, exec (.cxlSurpriseRemoval sk port) s = .next (s.withDev x) ∧ (x.port sk.val root).lost = true ∧
      (x.port sk.val root).present = false ∧ x.fld sk.val .fmCxl (port.val / 2) (port.val % 2) 63 60 = 0) ∧
    (d.fld sk.val cfg i 0 63 63 = 1 → lines ≠ 0 → d.chanState sk.val far ch.val = 2 → ∃ x : Dev,
      exec (.scrubRead sk far ch r) s = .next (s.withDev x) ∧
      (x.chan sk.val (chanKey far ch.val)).scrub = (if n + 1 < lines then n + 1 else 0) ∧ x.mem = d.mem ∧
      (d.scrubSkips sk.val far ch.val (d.chanLine sk.val far ch.val n) = false →
        (r = .uncorrectable → x.fld sk.val cnt i 0 63 32 = satAdd 32 (d.fld sk.val cnt i 0 63 32) 1) ∧
        (r ≠ .uncorrectable → r ≠ .clean → x.fld sk.val cnt i 0 31 0 = satAdd 32 (d.fld sk.val cnt i 0 31 0) 1))) ∧
    (∃ x : Dev, exec (.gddr6CrcRetry sk ch w la retries) s = .next (s.withDev x) ∧
      x.fld sk.val .nmChStat ch.val 0 63 32 = satAdd 32 (d.fld sk.val .nmChStat ch.val 0 63 32) (Nat.min 4 (retries.val + 1)) ∧
      (retries.val < 4 ∨ w = false → x.mem = d.mem ∧ x.meta_ = d.meta_)) ∧
    (∃ x : Dev, exec (.uncorrectableReread sk far ch la r) s = .next (s.withDev x) ∧
      (r = .uncorrectable → (x.rawLine (lineBase la.toNat)).line.poison = true) ∧
      (r ≠ .uncorrectable → x.mem = d.mem ∧ x.meta_ = d.meta_)) ∧
    ((d.hub sk.val (fc.val / 6)).slots = [] → d.dipping sk.val = false → bit (d.reg sk.val .fmGlobal 0 0) 8 = false →
      Tbl.find (d.chan sk.val fc.val).sppr key = none →
      Nat.max 1 (d.fld sk.val .fmRas fc.val 0 35 32) ≤ Tbl.get 0 (d.chan sk.val fc.val).rowErr (rowKey l) →
      ∃ x : Dev, exec (.softPpr sk fc rank sub bg bank row) s = .next (s.withDev x) ∧
        Tbl.find (x.chan sk.val fc.val).sppr key = some (rowKey l) ∧ Tbl.get 0 (x.chan sk.val fc.val).rowErr (rowKey l) = 0 ∧
        x.fld sk.val .fmRas fc.val 0 7 0 = satAdd 8 (d.fld sk.val .fmRas fc.val 0 7 0) 1 ∧ x.mem = d.mem) ∧
    (hub.queue = [] → exec (.copyStart sk u) s = .next s) ∧
    (∀ c rest k t, hub.queue = c :: rest → ((List.range 8).find? fun i => (Tbl.find hub.slots i).isNone) = some k →
      d.tierAt a.tab c.page = some t → d.dipping sk.val = false → d.blackoutDue sk.val u.val = false →
      ((d.copyLocs sk.val (d.copyMoves t c).1).any fun x => d.blockedLoc sk.val x) = false →
      d.pagesBusy a.tab sk.val (d.copyLocs sk.val (d.copyMoves t c).1) = false →
      Tbl.get 0 hub.done c.berth < d.fld sk.val .tePolicy c.berth 0 11 0 →
      ∃ x : Dev, exec (.copyStart sk u) s = .next (s.withDev x) ∧ (x.hub sk.val u.val).queue = rest ∧
        (∃ e, Tbl.find (x.hub sk.val u.val).slots k = some e ∧ e.page = c.page ∧ e.read = true ∧
          e.locs = d.copyLocs sk.val (d.copyMoves t c).1) ∧
        Tbl.get 0 (x.hub sk.val u.val).done c.berth = Tbl.get 0 hub.done c.berth + 1) ∧
    (Tbl.find hub.slots slot.val = none → exec (.copyWritePhase sk u slot) s = .next (s.ended d) ∧
      exec (.copyAbandon sk u slot) s = .next (s.ended d)) ∧
    (Tbl.find hub.slots slot.val ≠ none → (∃ x : Dev, exec (.copyWritePhase sk u slot) s = .next (s.ended x) ∧
        Tbl.find (x.hub sk.val u.val).slots slot.val = none ∧
        x.again = d.again ++ (d.hub sk.val 0).blocked ++ (d.hub sk.val 1).blocked) ∧
      ∃ x : Dev, exec (.copyAbandon sk u slot) s = .next (s.ended x) ∧ Tbl.find (x.hub sk.val u.val).slots slot.val = none ∧
        x.again = d.again ++ (d.hub sk.val 0).blocked ++ (d.hub sk.val 1).blocked ∧ x.meta_ = d.meta_ ∧
        x.fld sk.val .teHubStat u.val 0 47 24 = satAdd 24 (d.fld sk.val .teHubStat u.val 0 47 24) 1) ∧
    (∃ x : Dev, exec (.tieringEpochEnd sk) s = .next (s.withDev x) ∧ ∀ b < 64,
      x.fld sk.val .teState u.val b 55 48 = nextThresh (d.fld sk.val .teState u.val b 55 48) (d.fld sk.val .tePolicy b 0 39 32)
        (d.fld sk.val .tePolicy b 0 11 0) (Tbl.get 0 hub.done b) (Tbl.get 0 hub.refused b) ∧
      Tbl.get 0 (x.hub sk.val u.val).done b = 0 ∧ Tbl.get 0 (x.hub sk.val u.val).refused b = 0) ∧
    (set < 458752 → d.fld sk.val .teHubCfg u.val 0 63 63 = 1 → d.setLost sk.val u.val set = false → ∃ x : Dev,
      exec (.remapCacheFill sk u set) s = .next (s.withDev x) ∧ Tbl.get false (x.hub sk.val u.val).cached set = true ∧
      x.mem = d.mem)

/-- O52. Descriptor operations. Each operation command runs the descriptor in its queue's slot when the descriptor's OP is the
command's, it has not ended and Bus Master Enable is set, and leaves it as executed. A malformed descriptor ends with
BAD_FORMAT and NOP with DONE; FILL, COPY, CRC32C and COMPARE within one line write the pattern, write what was read, give the
CRC and give the first difference. A completion whose record is written frees the slot and moves HEAD; one that waits keeps
the slot. -/
def Obligations.DescriptorsRunAndComplete : Prop :=
  ∀ (s : State) (sk : Sock) (e : Fin 4) (f : Fin 256) (i : Fin 4096) (x : Desc),
    let d := s.dev
    let t := s.adm.tab
    let fk := fnKey e.val f.val
    let z := d.execDesc t sk.val e.val f.val x
    let src := x.field 8 8
    let dst := x.field 0x10 8
    let ran : Nat → Instr → Prop := fun op c => x.op = op →
      exec c s = .next (s.ended (z.2.onFn sk.val fk fun y => { y with run := Tbl.put y.run i.val z.1 }))
    (Tbl.find (d.fn sk.val fk).run i.val = some x → d.bme sk.val e.val f.val = true →
      (x.ended = none →
        ran 0 (.nop sk e f i) ∧ ran 1 (.copy sk e f i) ∧ ran 2 (.fill sk e f i) ∧ ran 3 (.compare sk e f i) ∧
        ran 4 (.comparePat sk e f i) ∧ ran 8 (.crc32c sk e f i) ∧ ran 9 (.crc64 sk e f i) ∧ ran 10 (.copyCrc32c sk e f i) ∧
        ran 11 (.copyCrc64 sk e f i) ∧ ran 16 (.deflateC sk e f i) ∧ ran 17 (.deflateD sk e f i) ∧ ran 18 (.lz4C sk e f i) ∧
        ran 19 (.lz4D sk e f i)) ∧
      (x.ended ≠ none → ∀ d2,
        (d.writeRecord t sk.val e.val f.val i.val x = (false, d2) → ∃ y : Dev,
          exec (.descriptorCompletion sk e f i) s = .next (s.ended y) ∧ Tbl.find (y.fn sk.val fk).run i.val = some x) ∧
        (d.writeRecord t sk.val e.val f.val i.val x = (true, d2) → ∃ y : Dev,
          exec (.descriptorCompletion sk e f i) s = .next (s.ended y) ∧ Tbl.find (y.fn sk.val fk).run i.val = none ∧
          y.qHead sk.val fk i.val = (d2.qHead sk.val fk i.val + 1) % 65536))) ∧
    (knownOp x.op = false → z = (x.end_ 2 0 0, d)) ∧
    (knownOp x.op = true → x.badFormat = true → z = (x.end_ 3 0 0, d)) ∧
    (x.op = 0 → x.badFormat = false → z = (x.end_ 1 0 0, d)) ∧
    (x.badFormat = false → x.flags.testBit 1 = false → x.flags.testBit 2 = false → dst % 64 + x.len ≤ 64 →
      (x.op = 2 → ∀ d2, d.ferryWrite t sk.val e.val f.val dst (patternBytes (x.field 0x18 8) 0 x.len) = (some 0, d2) →
        z = (x.end_ 1 0 0, d2)) ∧
      (src % 64 + x.len ≤ 64 → ∀ bs d1, d.ferryRead t sk.val e.val f.val src x.len = (.bytes bs, d1) →
        (x.op = 1 → ∀ d2, d1.ferryWrite t sk.val e.val f.val dst bs = (some 0, d2) → z = (x.end_ 1 x.len 0, d2)) ∧
        (x.op = 8 → z = (x.end_ 1 x.len (word (crcRun polyC (x.field 0x18 8 % 2 ^ 32) bs)), d1)) ∧
        (x.op = 3 → ∀ other d2, d1.ferryRead t sk.val e.val f.val dst x.len = (.bytes other, d2) →
          z = (x.end_ 1 x.len ((((List.range x.len).find? fun i => bs.getD i 0 ≠ other.getD i 0).map word).getD
            (BitVec.allOnes 64)), d2))))

/-- O53. Time-outs, messages, device requests and hot-plug. A function's read without data ends its descriptor with CPL_TIMEOUT,
sets the AER bit and quarantines the tag; a core's load behind a port gets a poisoned answer. A quarantine's end frees its
tag; the end of an FLR's reads leaves the function reset. A due vector that is open goes out and its PBA bit clears. A device
request is not taken while the port is down, in no berth, or its berth stopped, unsupported with a PASID or when it is marked
translated, and reaches memory that the port's berth owns: a read answers the lines, a write goes on as lines, an atomic
answers the old value, 128 bits being unsupported. A write to an interrupt window becomes a message, a peer request leaves
through its port. Removal ends the port's loads and shows CONTAINED or TRAINING; an insertion trains at the rate and the
widest width both ends have. -/
def Obligations.HostBusEvents : Prop :=
  ∀ (s : State) (sk : Sock) (e : Fin 4) (f : Fin 256) (txn : BitVec 12) (tag : BitVec 14) (vec : Fin 2048) (c : Fin 212) (r : DmaReq)
      (bs : List Byte) (bad : Bool) (op size : Fin 3) (x y : BitVec 128) (p : Fin 32) (dpc : Bool) (speed : BitVec 4) (width : BitVec 5),
    let d := s.dev
    let t := s.adm.tab
    let fk := fnKey e.val f.val
    let fn := d.fn sk.val fk
    let me := portNode r.sock.val r.port.val
    let b := t.berthOfPort r.sock.val r.port.val
    let addr := r.addr.toNat
    let up := b ≠ 0 ∧ d.portUp r.sock.val r.port.val = true ∧ d.berthRuns t r.sock.val b = true
    let free := r.pasid = false ∧ r.translated = false ∧ ¬(addr < 0x100000000 ∧ 0xC0000000 < addr + r.len) ∧ ∃ u h o, regionOf addr = .far u h o
    let owned := t.covers b addr (addr + r.len) = true
    (∀ i z, (fn.run.find? fun q => q.2.ended.isNone) = some (i, z) → ∃ w : Dev,
      exec (.cplTimeout (.ferry sk e f) txn) s = .next (s.ended w) ∧
      Tbl.find (w.fn sk.val fk).run i = some (z.end_ 7 0 0) ∧ (w.fn sk.val fk).tags = fn.tags ++ [(txn.toNat, true)] ∧
      (w.fnCfg sk.val e.val f.val wAer).getLsbD 14 = true) ∧
    (∀ q, ((List.range 32).find? fun q => (d.port sk.val q).loads.contains (.core sk c, txn.toNat)) = some q → ∃ w m,
      exec (.cplTimeout (.core sk c) txn) s = .next (s.ended w) ∧ w.net = d.net ++ [m] ∧ m.ty = .drsp ∧ m.dst = .core sk c ∧
      m.txn = txn ∧ m.poison = true ∧ (w.port sk.val q).loads = (d.port sk.val q).loads.erase (.core sk c, txn.toNat)) ∧
    (∃ w : Dev, exec (.tagQuarantineEnd sk e f tag) s = .next (s.withDev w) ∧
      (w.fn sk.val fk).tags = fn.tags.filter fun q => !(q.1 = tag.toNat && q.2)) ∧
    (fn.flr = true → ∃ w : Dev, exec (.flrReadEnd sk e f) s = .next (s.withDev w) ∧ (w.fn sk.val fk).flr = false ∧
      (w.fn sk.val fk).run = [] ∧ (w.fn sk.val fk).cfg = []) ∧
    (Tbl.get false fn.pba vec.val = true → d.msixOpen sk.val e.val f.val vec.val = true → fn.writes = [] →
      0x000FE00000000000 ≤ (fn.msixWord vec.val 0).toNat → (fn.msixWord vec.val 0).toNat < 0x000FE00001000000 →
      (fn.msixWord vec.val 0).toNat % 4 = 0 → ∃ w : Dev, exec (.msiXMessage sk e f vec) s = .next (s.ended w) ∧
        Tbl.get false (w.fn sk.val fk).pba vec.val = false ∧
        w.net = d.net ++ [interruptMsg (fnNode sk.val e.val f.val) (t.berthOfFn sk.val e.val f.val) (fnMaster sk.val e.val f.val)
          (fn.msixWord vec.val 0).toNat ((fn.msixWord vec.val 1).setWidth 32)]) ∧
    (¬up → exec (.dmaRead r) s = .next (s.ended (d.answer [plWaits])) ∧
      exec (.dmaWrite r bs bad) s = .next (s.ended (d.answer [plWaits])) ∧
      exec (.peerRequest r bad bs) s = .next (s.ended (d.answer [plWaits])) ∧
      exec (.atomicopRequest r op size x y) s = .next (s.ended (d.answer [plWaits]))) ∧
    (up → r.pasid = true ∨ r.translated = true → exec (.dmaRead r) s = .next (s.ended (d.answer [plUnsupported])) ∧
      exec (.dmaWrite r bs bad) s = .next (s.ended (d.answer [plUnsupported]))) ∧
    (up → free → owned →
      (∀ ws d1, d.dmaLines t r (linePieces (r.len + 1) addr r.len 0) = (some ws, d1) →
        exec (.dmaRead r) s = .next (s.ended (d1.answer (plSuccess :: ws)))) ∧
      (r.len = bs.length → 0 < bs.length → addr % 64 + bs.length ≤ 64 → ∀ d1,
        d.uncachedWrite t me b (portMaster r.sock.val r.port.val) 0 addr bs.length (lineOfBytes bs) bad r.relaxed = (true, d1) →
        exec (.dmaWrite r bs bad) s = .next (s.ended (d1.answer [plSuccess]))) ∧
      (r.len = 16 → size = 2 → exec (.atomicopRequest r op size x y) s = .next (s.ended (d.answer [plUnsupported]))) ∧
      (r.len = 4 * 2 ^ size.val → size ≠ 2 → addr % r.len = 0 → ∃ m : Msg, m.ty = .atm ∧ m.src = me ∧ m.pa = addr % 2 ^ 52 ∧
        m.dst = d.homeSlice r.sock addr ∧ ∀ z d1, (d.inbox.any fun q => q.dst = me && q.ty = .atr && lineOf q.pa = lineOf addr) = false →
          (d.ask t 8 none m).2.take me (lineOf addr) (· = .atr) = (some z, d1) →
          z.poison = false → exec (.atomicopRequest r op size x y) s =
            .next (s.ended (d1.answer [plSuccess, 0, word (nbits z.data.toNat (8 * r.len - 1) 0)])))) ∧
    (up → r.pasid = false → r.translated = false → ¬(addr < 0x100000000 ∧ 0xC0000000 < addr + bs.length) → (∃ u o, regionOf addr = .intWin u o) →
      exec (.dmaWrite r bs bad) s = .next (s.ended ((d.send { interruptMsg me b (portMaster r.sock.val r.port.val) addr
        (BitVec.ofNat 32 (leNat (bs.take 4))) with len := BitVec.ofNat 7 (Nat.min 127 bs.length), poison := bad }).answer [plSuccess]))) ∧
    (up → r.pasid = false → r.translated = false → owned → ∀ off q bus, ¬(addr < 0x100000000 ∧ 0xC0000000 < addr + r.len) →
      regionOf addr = .mmio r.sock.val off → portWindow r.sock.val off = some (q, bus) → q / 16 = r.port.val / 16 →
      d.fld r.sock.val .pxPortStat q 0 63 60 ≠ 4 →
      exec (.peerRequest r bad bs) s = .next (s.ended (d.peerOut r.sock.val q addr bad bs r.len))) ∧
    (d.fld sk.val .pxPortCfg p.val 0 63 63 = 1 → d.fld sk.val .pxPortStat p.val 0 63 60 = 2 → ∃ w : Dev,
      exec (.surpriseRemoval sk p dpc) s = .next (s.ended w) ∧ (w.port sk.val p.val).loads = [] ∧
      w.fld sk.val .pxPortStat p.val 0 63 60 = (if dpc then 3 else 1) ∧ (dpc = false → (w.port sk.val p.val).present = false)) ∧
    (∀ lanes, d.portLanes sk.val p.val = some lanes → d.fld sk.val .pxPortCfg p.val 0 63 63 = 1 →
      d.fld sk.val .pxPortStat p.val 0 63 60 = 1 → 1 ≤ speed.toNat → speed.toNat ≤ 6 → width ≠ 0 → ∃ w : Dev,
        exec (.hotPlugInsertion sk p speed width) s = .next (s.ended w) ∧ (w.port sk.val p.val).present = true ∧
        w.fld sk.val .pxPortStat p.val 0 63 60 = 2 ∧ w.fld sk.val .pxPortStat p.val 0 51 48 = speed.toNat ∧
        w.fld sk.val .pxPortStat p.val 0 36 32 = (([16, 8, 4, 2, 1].find? fun k => k ≤ width.toNat && k ≤ lanes).getD 1) ∧
        (speed = 6 → w.fld sk.val .pxPortStat p.val 0 44 44 = 1))

/-- O54. Snapshots, steps, dips, power and temperature. A snapshot that is due freezes its record where there is room, no record
is in progress and the berth runs, and is counted lost otherwise; one that is not due does nothing. When the record's lines
are written WP advances, and an address that the berth does not own turns the snapshot off with ERR. A step change with its
rail ready gives the pod its step; without it nothing moves but the report. A dip sets DIP, counts and notes its start; its
end clears DIP and keeps the longest. Rail 11 at its threshold brings a COLD reset, another rail a WARM reset. A power sample
shows the rails and the mean of the last 100 samples; a mean above the limit raises the demand, a hundredth sample in a row
below 95 % of it lowers it, and CAP is the slower demand. The hottest sensor moves the thermal demand likewise, and 125
degrees trips the socket. Loss of the time base clears its locks. At an epoch boundary the shares of the berth tables take
effect. -/
def Obligations.CountersClocksAndPower : Prop :=
  ∀ (s : State) (sk : Sock) (b : BitVec 6) (pod : Fin 104) (ready : Bool) (rail : Fin 14) (board : Board) (mv ma : List Nat)
      (ans : BitVec 14) (tiles hubs : List Int),
    let d := s.dev
    let a := s.adm
    let cfg := d.reg sk.val .pcSnapCfg b.toNat 0
    let k := bits cfg 60 56
    let x := d.snap sk.val b.toNat
    let new := recordWords sk.val b.toNat x.seq x.lostSince d.now (d.counterWords a.tab sk.val b.toNat)
    let ptr := d.reg sk.val .pcSnapPtr b.toNat 0
    let used := (bits ptr 31 0 + 2 ^ 32 - bits ptr 63 32) % 2 ^ 32
    let busy := d.fld sk.val .pcSnapStat b.toNat 0 62 62 = 1
    let runs := a.tab.stateOf b.toNat = .run ∨ a.tab.stateOf b.toNat = .draining
    let fits := new.length * 8 ≤ 2 ^ bits cfg 4 0 - used
    let due := bit cfg 63 = true ∧ 10 ≤ k ∧ k ≤ 30 ∧ d.now.toNat % 2 ^ k = 0
    let w := d.wheel sk.val
    let limit := d.fld sk.val .pwTdp 0 0 41 32
    let samples := (wattsOf (railReadings mv ma ans) :: w.watts).take 100
    let temps := tiles ++ hubs
    let mean := meanWatts samples
    (¬due → exec (.snapshot sk b) s = .next s) ∧
    (due → ∃ y : Dev, exec (.snapshot sk b) s = .next (s.withDev y) ∧ (y.snap sk.val b.toNat).seq = x.seq + 1 ∧
      (¬busy → runs → fits → (y.snap sk.val b.toNat).record = new ∧ (y.snap sk.val b.toNat).lostSince = 0 ∧
        y.fld sk.val .pcSnapStat b.toNat 0 62 62 = 1) ∧
      (busy ∨ ¬runs ∨ ¬fits → (y.snap sk.val b.toNat).record = x.record ∧
        (y.snap sk.val b.toNat).lostSince = satAdd 32 x.lostSince 1 ∧
        y.fld sk.val .pcSnapStat b.toNat 0 31 0 = satAdd 32 (d.fld sk.val .pcSnapStat b.toNat 0 31 0) 1)) ∧
    (∀ base size core ring bell, x.lines = [base, size, core, ring, bell] →
      let wp := d.fld sk.val .pcSnapPtr b.toNat 0 31 0
      let at_ : Nat → Nat := fun i => base + (wp + i * 64) % size
      let groups := chunks (x.record.length + 1) 8 x.record
      ((∃ i < groups.length, a.tab.covers b.toNat (at_ i) (at_ i + 64) = false) → ∃ y : Dev,
        exec (.snapshotRecordDone sk b) s = .next (s.ended y) ∧ y.fld sk.val .pcSnapCfg b.toNat 0 63 63 = 0 ∧
        y.fld sk.val .pcSnapStat b.toNat 0 63 63 = 1 ∧ y.fld sk.val .pcSnapStat b.toNat 0 62 62 = 0) ∧
      ((∀ i < groups.length, a.tab.covers b.toNat (at_ i) (at_ i + 64) = true) → ring ≠ 1 → ∀ d2,
        ((List.range groups.length).foldl (fun (acc : Bool × Dev) i =>
          if acc.1 then acc.2.uncachedWrite a.tab (.wheel sk) b.toNat (sk.val * 4096 + 0xF00) 0 (at_ i) 64
            (lineOfBytes ((groups.getD i []).flatMap fun (w : Word) => leBytes 8 w.toNat)) else acc) (true, d)) = (true, d2) →
        ∃ y : Dev, exec (.snapshotRecordDone sk b) s = .next (s.ended y) ∧
          y.fld sk.val .pcSnapPtr b.toNat 0 31 0 = (wp + x.record.length * 8) % 2 ^ 32 ∧
          y.fld sk.val .pcSnapStat b.toNat 0 62 62 = 0)) ∧
    (d.fld sk.val .ckPod pod.val 0 10 8 = 7 → exec (.stepChange sk pod ready) s = .next s) ∧
    (d.fld sk.val .ckPod pod.val 0 10 8 ≠ 7 → ∃ y : Dev, exec (.stepChange sk pod ready) s = .next (s.withDev y) ∧
      y.fld sk.val .ckPod pod.val 0 10 8 = if ready then d.podStep sk.val pod.val else d.fld sk.val .ckPod pod.val 0 10 8) ∧
    (d.dipping sk.val = false → 2 ≤ d.mode sk.val → ∃ y : Dev, exec (.supplyDip sk rail) s = .next (s.ended y) ∧
      y.dipping sk.val = true ∧ (y.wheel sk.val).dipStart = d.now ∧
      y.fld sk.val .pwDip 0 0 63 32 = satAdd 32 (d.fld sk.val .pwDip 0 0 63 32) 1) ∧
    (d.dipping sk.val = true → w.resetPending = false → ∃ y : Dev, exec (.dipEnd sk) s = .next (s.tabled (a, y)) ∧
      y.dipping sk.val = false ∧ y.fld sk.val .pwDip 0 0 31 0 =
        Nat.max (Nat.min (2 ^ 32 - 1) ((d.now.toNat - w.dipStart.toNat) / 1000)) (d.fld sk.val .pwDip 0 0 31 0)) ∧
    (d.dipping sk.val = true → w.resetPending = true → exec (.dipEnd sk) s =
      .next (s.tabled (warmNow a (d.dipEnd sk.val) sk.val))) ∧
    (d.dipping sk.val = false → exec (.dipEnd sk) s = .next (s.tabled (a, d))) ∧
    (rail.val ≠ 11 → d.mode sk.val ≤ 1 ∨ d.mode sk.val = 7 → exec (.railResetThreshold sk rail board) s = .next (s.tabled (a, d))) ∧
    (rail.val = 11 → exec (.railResetThreshold sk rail board) s = .next (s.tabled (coldReset a d sk.val board))) ∧
    (rail.val ≠ 11 → 2 ≤ d.mode sk.val → d.mode sk.val ≠ 7 → exec (.railResetThreshold sk rail board) s =
      .next (s.tabled (warmReset a d sk.val board.farTrained board.nearTrained))) ∧
    (∃ y : Dev, exec (.powerSample sk mv ma ans) s = .next (s.withDev y) ∧ (y.wheel sk.val).watts = samples ∧
      (∀ (i : Fin 14) x c, mv[i.val]? = some x → ma[i.val]? = some c → ans.getLsbD i.val = true →
        y.fld sk.val .pwRail i.val 0 47 32 = Nat.min 65535 x) ∧
      y.fld sk.val .pwTdp 0 0 15 0 = Nat.min 65535 mean ∧
      y.fld sk.val .pwTdp 0 0 25 24 = Nat.max (y.wheel sk.val).tdpDemand w.thermDemand % 4 ∧
      (limit < mean → d.msSince w.tdpRaised = true → (y.wheel sk.val).tdpDemand = Nat.min 3 (w.tdpDemand + 1)) ∧
      (mean * 100 < limit * 95 → 99 ≤ w.lowSamples → (y.wheel sk.val).tdpDemand = w.tdpDemand - 1) ∧
      (mean ≤ limit → limit * 95 ≤ mean * 100 → (y.wheel sk.val).tdpDemand = w.tdpDemand)) ∧
    (∃ y : Dev, exec (.thermalSample sk tiles hubs) s = .next (s.withDev y) ∧ (y.wheel sk.val).temps = temps ∧
      (105 ≤ hottestOf temps → d.msSince w.thermRaised = true → (y.wheel sk.val).thermDemand = Nat.min 3 (w.thermDemand + 1)) ∧
      (hottestOf temps < 100 → 99 ≤ w.coolSamples → (y.wheel sk.val).thermDemand = w.thermDemand - 1) ∧
      (y.wheel sk.val).thermtrip = (w.thermtrip || decide (125 ≤ hottestOf temps)) ∧
      (125 ≤ hottestOf temps → ∀ p < 104, y.fld sk.val .ckPod p 0 10 8 = 7)) ∧
    (∃ y : Dev, exec (.timeBaseLockLoss sk) s = .next (s.withDev y) ∧ y.fld sk.val .ckStat 0 0 62 62 = 0 ∧
      y.fld sk.val .xlTime 0 0 63 63 = 0) ∧
    (∃ y : Dev, exec (.epochBoundary sk) s = .next (s.withDev y) ∧ (y.sock sk.val).epoch = (d.sock sk.val).epoch + 1 ∧
      (∀ c cls, 0 < c → c < 64 → cls < 3 →
        (y.sock sk.val).share c cls = (Tbl.get (0, 256) a.tab.shares ((sk.val * 64 + c) * 3 + cls)).1) ∧
      ∀ r i j, y.reg sk.val r i j = d.reg sk.val r i j)

/-- O55. The management port and live service. In OFF and TEST the port answers nothing. POWER starts, puts to sleep or resets a
socket where R472 allows it, and is refused with 0x80 otherwise. SERVICE shows its operation running in WH_SVC unless another
runs. STATUS answers its fields and the reports that wait, which it takes; FAULTS, IDENTITY and TRAINING answer; what the
spec gives no bytes for is a free value (log 5). JTAG enters TEST from LOAD alone. A firmware update is staged when it
verifies and is compatible; ACTIVATE makes the staged copy the running one on every socket. The roll-out quiesces every
enabled pod in turn; a quiesced pod gets the newest image. A substitution runs until the old slice is empty; then the pod's
place in the tables goes to the spare, or it ends NO_SPARE with the tables as they were. Removal of a channel evacuates its
set and stops the channel once every run redirects; a return makes it ready and ends when no run is left; without room
nothing moves. A removed expander leaves the pool. Re-admission admits a PERMANENT entry whose check passes. -/
def Obligations.ManagementPortAndService : Prop :=
  ∀ (s : State) (so : Sock) (req : Byte) (board : Board) (op : BitVec 4) (arg : BitVec 16) (unit_ : BitVec 12) (image : List Byte)
      (pod : Fin 104) (ch : Fin 12) (dimms : List Dimm) (trained : Bool) (p : Fin 4) (n : Fin 512) (passed : Bool),
    let d := s.dev
    let a := s.adm
    let k := so.val
    let stat : Dev → Nat := fun x => x.fld k .whSvc 0 0 58 56
    let ok : Admin × Dev → Admin × Dev := fun x => (x.1, x.2.answer [ccOk])
    let ends : Dev → Nat → Nat → Nat → State := fun x o r c => s.ended ((x.svcEnd k o r c).answer [word c])
    let up := d.i3c k = true
    let free := stat d ≠ 1
    let m := image.take (Nat.min copySize image.length)
    let d1 := d.svcShow k 1 0 1
    let d2 := d1.each (k :: d1.standbys k) fun x t => x.onWheel t fun w => w.writeCopy (1 - d1.fld k .whBoot 0 0 44 44) image
    let staged := (d.wheel k).staged
    let d3 := ((d.svcShow k 3 0 1).setFld k .whSvc 0 0 54 48 0).onWheel k fun w => { w with ucode := manVersion w.kept 2 }
    let h0 := coreOf (Machine.sk k) pod.val 0
    let h1 := coreOf (Machine.sk k) pod.val 1
    let land := landingOf pod.val
    let d4 := (((d.drainAll a.tab h0).drainAll a.tab h1).quiesce a.tab).setFld k .ldMeshCtl land 0 4 4 1
    let d4 := (d4.setReg k .ldPodUcode land 0 (d4.wheel k).ucode).setFld k .ldMeshCtl land 0 4 4 0
    let ds := d.svcShow k 4 pod.val 1
    let dx := (if (ds.wheel k).replacing = some pod.val then ds else ds.substituteStart a.tab k pod.val).emptySlice a.tab
      (Machine.sk k) (fin104 pod.val)
    let dy := (dx.2.setFld k .ldMeshCtl land 0 4 4 1).onWheel k fun w => { w with replacing := none }
    let d5 := d.svcShow k 5 ch.val 1
    let d6 := d.svcShow k 6 ch.val 1
    let d7 := d.svcShow k 7 p.val 1
    let d8 := d.svcShow k 8 n.val 1
    let st := d.fld k .fmChCfg ch.val 0 63 60
    let units := d5.farUnit k ch.val
    let room := units.all fun u => d5.canEvacuate a.tab k (ch.val / 6) u.1 u.2
    let e5 := units.foldl (fun x u => x.evacuate a.tab k (ch.val / 6) u.1 u.2) d5
    let t6 := (d6.setFld k .fmChCfg ch.val 0 63 60 2).onChan k ch.val fun x => { x with selfRefresh := false }
    let e6 := (t6.farUnit k ch.val).foldl (fun x u => x.revertRuns a.tab k (ch.val / 6) u.1) t6
    let cxl := d.reg k .fmCxl (p.val / 2) (p.val % 2)
    let gibs := bits cxl 44 32
    let lo := cxlBase k p.val
    let held := !(a.tab.owners lo (lo + gibs * gib)).isEmpty
    let room7 := d7.canEvacuate a.tab k (p.val / 2) (cxlGib p.val) gibs
    let t7 := d7.setFld k .fmCxl (p.val / 2) (p.val % 2) 63 60 3
    let e7 := if held then t7.evacuate a.tab k (p.val / 2) (cxlGib p.val) gibs else t7
    (¬up → exec (.power so req board) s = .next (s.tabled (a, d.answer [])) ∧
      exec (.service so op arg) s = .next (s.withDev (d.answer [])) ∧ exec (.status so) s = .next (s.withDev (d.answer [])) ∧
      exec (.faults so) s = .next (s.withDev (d.answer [])) ∧ exec (.identity so) s = .next (s.withDev (d.answer [])) ∧
      exec (.training so unit_) s = .next (s.withDev (d.answer []))) ∧
    (up →
      (d.mode k = 1 → (d.wheel k).sleeping = false →
        exec (.power so 1 board) s = .next (s.tabled (ok (coldReset a d k { board with autoOn := true })))) ∧
      (d.mode k = 1 → (d.wheel k).sleeping = true →
        exec (.power so 1 board) s = .next (s.tabled (ok (warmReset a d k board.farTrained board.nearTrained)))) ∧
      (d.runs k = true ∨ d.mode k = modeMaintain → exec (.power so 2 board) s = .next (s.tabled (ok (sleepSocket a d k))) ∧
        (sleepSocket a d k).2.mode k = 1 ∧ ((sleepSocket a d k).2.wheel k).sleeping = true) ∧
      exec (.power so 3 board) s = .next (s.tabled (ok (coldReset a d k board))) ∧
      exec (.power so 4 board) s = .next (s.tabled (ok (warmReset a d k board.farTrained board.nearTrained))) ∧
      (req.toNat = 0 ∨ 4 < req.toNat ∨ (req = 1 ∧ d.mode k ≠ 1) ∨ (req = 2 ∧ d.runs k = false ∧ d.mode k ≠ modeMaintain) →
        exec (.power so req board) s = .next (s.tabled (a, d.answer [ccRefused]))) ∧
      (4 ≤ op.toNat → op.toNat ≤ 9 → free → (op = 4 ∨ op = 9 → a.order = none) →
        exec (.service so op arg) s = .next (s.withDev ((d.svcShow k op.toNat arg.toNat 1).answer [ccOk]))) ∧
      (¬free → exec (.service so op arg) s = .next (s.withDev (d.answer [ccRefused]))) ∧
      exec (.status so) s = .next (s.withDev ((d.onWheel k fun w => { w with reports := [] }).answer ([ccOk, word (d.mode k),
        word (d.fld k .whBoot 0 0 3 0), word (d.fld k .xlJoin 0 0 2 0), word (d.fld k .whSystem 0 0 15 0)] ++
          (d.wheel k).reports))) ∧
      exec (.faults so) s = .next (s.withDev ((d.popFault k).answer [ccOk, d.reg k .fcFirstHi 0 0, d.reg k .fcFirstLo 0 0,
        d.reg k .fcFirstTime 0 0, d.reg k .fcFirstCtl 0 0, d.reg k .fcQheadHi 0 0, d.reg k .fcQheadLo 0 0])) ∧
      exec (.identity so) s = .next (s.withDev (d.free.2.answer [ccOk, Config.freeValue d.fresh])) ∧
      (unit_.toNat = 0x210 + ch.val → st = 2 →
        exec (.training so unit_) s = .next (s.withDev (d.free.2.answer [ccOk, Config.freeValue d.fresh])))) ∧
    (d.mode k = 2 → ∃ y : Dev, exec (.jtagTestRequest so) s = .next (s.withDev y) ∧ y.mode k = 7 ∧
      y.fld k .pwDom 0 0 59 59 = 1) ∧
    (d.mode k ≠ 2 → exec (.jtagTestRequest so) s = .next (s.withDev (d.badMode k))) ∧
    (d.isManager k = true → d.awake k = true → free → ∃ y : Dev, exec (.firmwareUpdate so image) s = .next (s.withDev y) ∧
      (manStatus (d.wheel k).fuses m ≠ bootOk → stat y = 4 ∧ (y.wheel k).staged = staged) ∧
      (manStatus (d.wheel k).fuses m = bootOk → compatible a d2 k m = false → stat y = 3 ∧ (y.wheel k).staged = staged) ∧
      (manStatus (d.wheel k).fuses m = bootOk → compatible a d2 k m = true → stat y = 2 ∧ (y.wheel k).staged = m)) ∧
    (d.isManager k = true → d.awake k = true → free → a.order = none → staged ≠ [] → manStatus (d.wheel k).fuses staged = bootOk →
      (∀ t ∈ d.members k, manStatus (d.wheel t).fuses staged = bootOk) → ∃ r, exec (.activate so) s = .next (s.tabled r) ∧
        stat r.2 = 2 ∧ r.2.out = [2] ∧ ∀ t ∈ d.members k, (r.2.wheel t).kept = staged ∧ (r.2.wheel t).staged = []) ∧
    ((d.wheel k).kept ≠ [] → free → exec (.microcodeRollOut so) s =
      .next (ends (d3.each (d3.enabledPods k) fun x i => x.podQuiesce a.tab k i) 3 0 2)) ∧
    ((d.enabledPods k).contains pod.val = true → d.podFenced k pod.val = false → (d.core h0).run = .running →
      ((d.drainAll a.tab h0).core h1).run = .running → exec (.podQuiesce so pod) s =
        .next (s.ended ((d4.meshGo a.tab (Machine.sk k) land).bump k .whSvc 0 0 54 48 1))) ∧
    ((d.enabledPods k).contains pod.val = true → free → a.order = none → ∃ r,
      exec (.sparePodSubstitution so pod) s = .next (s.tabled r) ∧
      (dx.1 = false → r.1 = a ∧ stat r.2 = 1 ∧ r.2.out = [1]) ∧
      (dx.1 = true → ∀ x, dy.chooseSpare k pod.val = some x →
        r.1 = { a with tab := a.tab.swapPod k pod.val x, mirror := a.mirror.swapPod k pod.val x } ∧ stat r.2 = 2 ∧ r.2.out = [2]) ∧
      (dx.1 = true → dy.chooseSpare k pod.val = none → r.1 = a ∧ stat r.2 = 5 ∧ r.2.out = [5])) ∧
    ((d.enabledPods k).contains pod.val = false → free → a.order = none →
      exec (.sparePodSubstitution so pod) s = .next (s.tabled (a, (ds.svcEnd k 4 pod.val 7).answer [7]))) ∧
    (free → 2 ≤ st → room = false → exec (.channelRemoval so ch) s = .next (ends d5 5 ch.val 6)) ∧
    (free → 2 ≤ st → room = true → exec (.channelRemoval so ch) s = .next (ends (e5.channelOut k ch.val).2 5 ch.val
        (e5.channelOut k ch.val).1) ∧
      ((e5.farUnit k ch.val).all (fun u => e5.redirects k (ch.val / 6) u.1) = false → e5.channelOut k ch.val = (1, e5)) ∧
      ((e5.farUnit k ch.val).all (fun u => e5.redirects k (ch.val / 6) u.1) = true → (e5.channelOut k ch.val).1 = 2 ∧
        (e5.channelOut k ch.val).2.fld k .fmChCfg ch.val 0 63 60 = 4 ∧
        ((e5.channelOut k ch.val).2.chan k ch.val).selfRefresh = true)) ∧
    (free → st = 4 → (d.chan k ch.val).dimms = dimms → dimms ≠ [] → trained = true →
      t6.fld k .fmChCfg ch.val 0 63 60 = 2 ∧ exec (.channelReturn so ch dimms trained) s = .next (ends (e6.channelIn k ch.val).2 6
        ch.val (e6.channelIn k ch.val).1) ∧
      ((e6.farUnit k ch.val).any (fun u => e6.hasRun k (ch.val / 6) u.1) = false → e6.channelIn k ch.val = (2, e6))) ∧
    (free → st ≠ 4 ∨ (d.chan k ch.val).dimms ≠ dimms ∨ trained = false →
      exec (.channelReturn so ch dimms trained) s = .next (ends d6 6 ch.val 7)) ∧
    (free → bits cxl 63 60 ≠ 2 → exec (.expanderRemoval so p) s = .next (ends d7 7 p.val 7)) ∧
    (free → bits cxl 63 60 = 2 → held = true → room7 = false → exec (.expanderRemoval so p) s = .next (ends d7 7 p.val 6)) ∧
    (free → bits cxl 63 60 = 2 → held = false ∨ room7 = true → exec (.expanderRemoval so p) s =
        .next (ends (e7.expanderOut a.tab k p.val).2 7 p.val (e7.expanderOut a.tab k p.val).1) ∧
      ((e7.expanderOut a.tab k p.val).1 = 2 → ∀ y, (e7.expanderOut a.tab k p.val).2 = y →
        y.fld k .fmCxl (p.val / 2) (p.val % 2) 63 60 = 0 ∧ y.fld k .fmCxl (p.val / 2) (p.val % 2) 44 32 = 0 ∧
        (y.port k (cxlRoot p.val)).present = false)) ∧
    (free → d.fld k .fcFenceA n.val 0 63 62 = 3 → exec (.reAdmission so n true) s = .next (ends (d8.admitEntry a.tab k n.val) 8 n.val 2)) ∧
    (free → d.fld k .fcFenceA n.val 0 63 62 ≠ 3 ∨ passed = false →
      exec (.reAdmission so n passed) s = .next (ends d8 8 n.val 7))

/-- O56. Resets, change orders and the fault collector. A COLD reset without AUTO_ON leaves the socket, at the number its straps
give it, in STANDBY with no core and, at its old number, no byte of its memory, and the tables at reset when no other socket
runs; with AUTO_ON it starts. A WARM reset is refused in OFF and TEST and waits during a dip. A BERTH reset leaves the berth
STOPPED. CORE and POD resets leave cores held once their store buffers are empty, and wait until then. A WHR restarts the
management cores, clears OP and STATUS of the order status, and takes a staged copy that verifies. A standby manager boots
only when it is the lowest that waits and none manages. A submitted block is refused without a manager, outside RUN, during
an order or a service operation, from a berth that may not administer, and when it is badly placed, and a refused one changes
no table. An acknowledgement that names the removal that waits, and the drain timeout, let it go ahead. The collector accepts
the head message of the lowest source: it is counted by severity, a Fatal-berth message stops the berth, and a higher one
brings HOLD. The end of a quiet period re-admits the unit whose check passes, and counts a fault against one that fails. -/
def Obligations.ResetsAndOrders : Prop :=
  ∀ (s : State) (so : Sock) (board : Board) (far : BitVec 12) (near : BitVec 16) (b : BitVec 6) (pod : Fin 104) (h : Hart)
      (flashOk reverified : Bool) (slip : BitVec 8) (n : Fin 512),
    let d := s.dev
    let a := s.adm
    let k := so.val
    let c := coldReset a d k board
    let w := d.wheel k
    let d1 := d.onWheel k fun w => { w with board := { w.board with farTrained := far, nearTrained := near } }
    let waits : Nat → Bool := fun t => d.mode t = 2 && !d.present t t && d.fld t .whSystem 0 0 40 39 = 2 && (d.wheel t).board.rootLock
    let hk := d.fld k .mbCfg slip.toNat 0 53 48
    let word0 := d.slipWord k slip.toNat 0
    let addr := (d.slipWord k slip.toNat 1).toNat
    let len := (d.slipWord k slip.toNat 2).toNat
    let e := d.slipDone k slip.toNat
    let told : Nat → State := fun st => s.tabled (joinsDue a (e.free.2.reply k hk st e.free.1 noIndex))
    let x := d.strapPlace k board
    let alone := ∀ t, t < 16 → t ≠ k → d.present t t = false ∨ d.awake t = false
    let stop : Hart → Dev → Dev := fun h y => (y.drainAll a.tab h).accessDone a.tab h
    let dc := stop h d
    let h0 := coreOf so pod.val 0
    let h1 := coreOf so pod.val 1
    let dp := stop h1 (stop h0 d)
    let dw := d.whrClear k
    let due : Admin × Dev → State := fun r => s.tabled (joinsDue r.1 r.2)
    exec (.coldReset so board) s = .next (s.tabled c) ∧
    (board.autoOn = false → c.2.mode x = 1 ∧ (c.2.sock x).cores = [] ∧ (alone → c.1 = Admin.reset) ∧ (¬alone → c.1 = a) ∧
      (x = k → ∀ m ∈ c.2.mem, inTiers k m.1 = false)) ∧
    (board.autoOn = true → alone →
      c = startSocket Admin.reset (((d.coldClear k board).renumber k x).showIdentity x) x none) ∧
    (d.mode k = 0 ∨ d.mode k = 7 → exec (.warmReset so far near) s = .next (s.tabled (a, d.badMode k))) ∧
    (d.mode k = 1 → w.sleeping = false → d.dipping k = false → exec (.warmReset so far near) s =
      .next (s.tabled (startSocket a d1 k none))) ∧
    (1 ≤ d.mode k → d.mode k ≠ 7 → d.dipping k = true → exec (.warmReset so far near) s =
      .next (s.tabled (a, d1.onWheel k fun w => { w with resetPending := true }))) ∧
    (2 ≤ d.mode k → d.mode k ≠ 7 → d.dipping k = false →
      exec (.warmReset so far near) s = .next (s.tabled (warmNow a d1 k))) ∧
    (b ≠ 0 → a.tab.stateOf b.toNat ≠ .free → ∃ r, exec (.berthReset b) s = .next (s.tabled r) ∧
      r.1 = { a with tab := { a.tab with state := Tbl.set .free a.tab.state b.toNat .stopped } }) ∧
    (b = 0 ∨ a.tab.stateOf b.toNat = .free → exec (.berthReset b) s = .next (s.tabled (a, d))) ∧
    (exec (.coreReset h) s = .next (s.ended (d.coreReset a.tab h)) ∧
      ((dc.core h).sb = [] → ((d.coreReset a.tab h).core h).isHeld = true ∧ ((d.coreReset a.tab h).core h).sb = []) ∧
      ((dc.core h).sb ≠ [] → d.coreReset a.tab h = dc.onCore h Core.resetting)) ∧
    (exec (.podReset so pod) s = .next (s.ended (d.podReset a.tab so pod.val)) ∧
      ((dp.core h0).sb = [] → (dp.core h1).sb = [] → ((d.podReset a.tab so pod.val).core h1).isHeld = true)) ∧
    (exec (.whr so reverified) s = .next (s.tabled (wheelRestart a d k reverified)) ∧
      (∀ i : Fin 4, dw.core { sock := so, core := ⟨208 + i.val, by omega⟩ } = Core.wheelStart) ∧
      dw.fld k .btCoStatus 0 0 3 0 = 0 ∧ dw.fld k .btCoStatus 0 0 31 16 = 0xFFFF ∧
      (w.staged = [] → wheelRestart a d k reverified = (a, dw)) ∧
      (w.staged ≠ [] → reverified = false ∨ manStatus w.fuses w.staged ≠ bootOk → wheelRestart a d k reverified =
        (a, (dw.onWheel k fun w => { w with staged := [] }).setFld k .whSvc 0 0 58 56 4)) ∧
      (w.staged ≠ [] → reverified = true → manStatus w.fuses w.staged = bootOk →
        ((wheelRestart a d k reverified).2.wheel k).kept = w.staged ∧ ((wheelRestart a d k reverified).2.wheel k).staged = [])) ∧
    (waits k = true → (∀ t, t < 16 → d.isManager t = false ∨ d.awake t = false) → (∀ t, t < k → waits t = false) →
      exec (.standbyBootTimeout so flashOk) s = .next (s.tabled
        (bootFlash a (d.onWheel k fun w => { w with board := { w.board with flashOk } }) k none))) ∧
    (waits k = false → exec (.standbyBootTimeout so flashOk) s = .next (s.tabled (a, d))) ∧
    (d.hepinHas k slip.toNat = false → exec (.submit so slip) s = .next (due (a, d)) ∧
      exec (.removalAck so slip) s = .next (due (a, d))) ∧
    (d.hepinHas k slip.toNat = true → word0 = 1 →
      (e.managerOf k = none → exec (.submit so slip) s = .next (told coNoManager)) ∧
      ∀ m, e.managerOf k = some m →
        (e.runs m = false → exec (.submit so slip) s = .next (told coMode)) ∧
        (e.runs m = true → a.order.isSome = true ∨ e.svcBusy = true → exec (.submit so slip) s = .next (told coBusy)) ∧
        (e.runs m = true → a.order = none → e.svcBusy = false →
          (hk ≠ a.tab.admin → exec (.submit so slip) s = .next (told coConflict)) ∧
          (hk = a.tab.admin → addr % 64 ≠ 0 ∨ len < 128 ∨ 65536 < len ∨ a.tab.covers hk addr (addr + len) = false →
            exec (.submit so slip) s = .next (told coFormat)))) ∧
    (∀ o x, d.hepinHas k slip.toNat = true → bits word0 63 56 = 1 → a.order = some o → o.ops[o.idx]? = some x → o.waiting = true →
      x.berth = hk → d.slipWord k slip.toNat 1 = word (x.opcode * 2 ^ 32 + o.idx) →
        exec (.removalAck so slip) s = .next (due (goOn a e o))) ∧
    (a.order = none → exec .drainTimeout s = .next (due (a, d))) ∧
    (∀ o, a.order = some o → exec .drainTimeout s = .next (due (if o.waiting = true then goOn a d o else (a, d)))) ∧
    ((∀ x ∈ (d.sock k).faults.send, x.2 = []) → exec (.faultMessage so) s = .next (s.tabled (a, d))) ∧
    (∀ src m r, (d.sock k).faults.send.find? (fun x => !x.2.isEmpty) = some (src, m :: r) →
      (m.sev ≤ 2 → ∃ x : Dev, exec (.faultMessage so) s = .next (s.tabled (a, x)) ∧
        x.fld k .fcCnt (m.sev - 1) 0 47 0 = satAdd 48 (d.fld k .fcCnt (m.sev - 1) 0 47 0) 1) ∧
      (m.sev = 6 ∨ m.sev = 7 → m.cls ≠ 0xA → 2 ≤ d.mode k → d.mode k ≤ 5 → ∃ x : Dev,
        exec (.faultMessage so) s = .next (s.tabled (a, x)) ∧ x.mode k = modeHold) ∧
      (m.sev = 5 → m.cls ≠ 0xA → m.berth ≠ 0 → a.tab.stateOf m.berth ≠ .free → ∃ x : Dev, exec (.faultMessage so) s = .next
        (s.tabled ({ a with tab := { a.tab with state := Tbl.set .free a.tab.state m.berth .stopped } }, x)))) ∧
    ((d.sock k).faults.quiet.contains n.val = true → d.dipping k = false → exec (.quietPeriodEnd so n false) s =
      .next (s.ended ((d.countFault k n.val).degrade k))) ∧
    (((d.sock k).faults.quiet.contains n.val = false ∨ d.dipping k = true → exec (.quietPeriodEnd so n true) s = .next (s.ended d)) ∧
      ((d.sock k).faults.quiet.contains n.val = true → d.dipping k = false → ∃ x : Dev,
        exec (.quietPeriodEnd so n true) s = .next (s.ended x) ∧ x.fld k .fcFenceA n.val 0 63 62 = 1 ∧
        x.fld k .fcFenceA n.val 0 15 0 = satAdd 16 (d.fld k .fcFenceA n.val 0 15 0) 1))

/-- O57. The machine after reset. Every register instance of every socket reads its field map's reset value, and the maps of some
registers are written out: STANDBY in PW_MODE, DB_MASK closed, CK_POD.CUR 7, a held core in LD_CORE_CTL, no order in
BT_CO_STATUS. Every core is held with its g, v and p registers zero, p0 all ones, level H, both enables clear, both running
priorities 8, both regimes off, and every vector closed with TGT 1 and PRIO 7. Nothing is in flight, no berth exists, and the
queue is empty. Every byte of memory reads 0 and the time is 0: those two are the model's choice (assumption logs 3 and 2). -/
def Obligations.ResetValues : Prop :=
  (∀ (so : Sock) (r : Reg) (i j : Nat), State.reset.dev.reg so.val r i j = r.resetWord) ∧
    Reg.pwMode.resetWord = 1 ∧ Reg.dbMask.resetWord = 0xFFFFFFFF ∧ Reg.ckPod.resetWord = 0x700 ∧
    Reg.ldCoreCtl.resetWord = 0x4000000000000000 ∧ Reg.btCoStatus.resetWord = 0xFFFF0000 ∧
    Reg.btShare.resetWord = 0xFF00FF00FF00 ∧ Reg.teHubCfg.resetWord = 0x40003E8 ∧ Reg.pwTdp.resetWord = 0x25800000000 ∧
    (∀ (h : Hart) (r : GReg) (v : VReg) (p : PReg) (n : Fin 256), let c := State.reset.core h
      c.isHeld = true ∧ c.getG r = 0 ∧ c.getV v = 0 ∧ c.getP p = (if p = 0 then BitVec.allOnes 64 else 0) ∧ c.level = 2 ∧
      c.sysGet 0x100 = 2 ∧ c.sysGet 0x200 = 2 ∧ c.sysGet 0x105 = 8 ∧ c.sysGet 0x205 = 8 ∧ bits (c.ivGet n.val) 63 62 = 0 ∧
      bits (c.ivGet n.val) 14 14 = 1 ∧ bits (c.ivGet n.val) 11 8 = 7) ∧
    State.reset.pending = [] ∧ State.reset.quiet = true ∧ (∀ b, State.reset.adm.tab.stateOf b = .free) ∧
    (∀ a, Memory.read State.reset.dev.mem a = 0) ∧ State.reset.dev.now = 0

/-- O58. An idle step is one reference tick. With no command waiting, a step takes one tick of the time base and the work that
waits goes on; the queue stays empty. With nothing in flight, no order that waits for slices and no socket that has changed
since reset, only the time moves. That time passes and waiting work goes on, on an empty queue, is the model's choice
(assumption log 2). -/
def Obligations.IdleTick : Prop :=
  ∀ s : State, s.pending = [] →
    (∃ t, step s = .next t ∧ t.pending = [] ∧ t.adm = (idle s.adm s.dev).1 ∧ t.dev = (idle s.adm s.dev).2) ∧
    s.dev.tick.now = s.dev.now + 1 ∧
    (s.quiet = true → s.dev.socks = [] → (∀ o, s.adm.order = some o → o.settling = false) →
      step s = .next (s.withDev { s.dev with now := s.dev.now + 1 }))

/-- O59. Every step keeps the berth tables sound. From every state, reached or not, whose berth tables are sound (the ranges lie
in rising order and share no byte, so every address has one owner; the way masks of two berths share no way of a socket; only
berths below 64 exist), in force and as last acknowledged, every command and every idle step leaves tables that are sound
again. -/
def Obligations.TablesStaySound : Prop :=
  ∀ s t : State, s.adm.Inv → step s = .next t → t.adm.Inv

/-- O60. The berth tables are sound after reset. The tables after reset, in force and as last acknowledged, are sound in the
sense of TablesStaySound. -/
def Obligations.ResetTablesSound : Prop :=
  State.reset.adm.Inv
end

