-- ==== Sys2Proof/Laws/Tables.lean ====
section
/-! SUPPORT. Laws of the sparse tables: what is read after a write, and that memory keeps its canonical form. -/

namespace Sys2Proof.Machine

/-! ### Read after write -/

theorem Tbl.get_put_same {α : Type} (d : α) (t : Tbl α) (k : Nat) (v : α) : Tbl.get d (Tbl.put t k v) k = v := by
  induction t with
  | nil => simp [Tbl.put, Tbl.get]
  | cons e r ih =>
    simp only [Tbl.put]
    split
    · simp [Tbl.get]
    · split
      · simp [Tbl.get]
      · rename_i h _
        simp [Tbl.get, h, ih]

theorem Tbl.get_put_ne {α : Type} (d : α) (t : Tbl α) {j k : Nat} (v : α) (n : j ≠ k) :
    Tbl.get d (Tbl.put t k v) j = Tbl.get d t j := by
  induction t with
  | nil => simp [Tbl.put, Tbl.get, Ne.symm n]
  | cons e r ih =>
    simp only [Tbl.put]
    split
    · rename_i h
      simp [Tbl.get, Ne.symm n, h]
    · split
      · simp [Tbl.get, Ne.symm n]
      · simp only [Tbl.get, ih]

theorem Tbl.erase_cons {α : Type} (e : Nat × α) (r : Tbl α) (k : Nat) :
    Tbl.erase (e :: r) k = if e.1 = k then Tbl.erase r k else e :: Tbl.erase r k := by
  by_cases h : e.1 = k <;> simp [Tbl.erase, h]

theorem Tbl.get_erase_same {α : Type} (d : α) (t : Tbl α) (k : Nat) : Tbl.get d (Tbl.erase t k) k = d := by
  induction t with
  | nil => rfl
  | cons e r ih =>
    rw [Tbl.erase_cons]
    split
    · exact ih
    · rename_i h
      simp [Tbl.get, h, ih]

theorem Tbl.get_erase_ne {α : Type} (d : α) (t : Tbl α) {j k : Nat} (n : j ≠ k) :
    Tbl.get d (Tbl.erase t k) j = Tbl.get d t j := by
  induction t with
  | nil => rfl
  | cons e r ih =>
    rw [Tbl.erase_cons]
    split
    · rename_i h
      simp [Tbl.get, h, Ne.symm n, ih]
    · simp only [Tbl.get, ih]

@[simp] theorem Tbl.get_set_same {α : Type} [DecidableEq α] (d : α) (t : Tbl α) (k : Nat) (v : α) :
    Tbl.get d (Tbl.set d t k v) k = v := by
  unfold Tbl.set
  split
  · rename_i h
    rw [Tbl.get_erase_same, h]
  · exact Tbl.get_put_same d t k v

theorem Tbl.get_set_ne {α : Type} [DecidableEq α] (d e : α) (t : Tbl α) {j k : Nat} (v : α) (n : j ≠ k) :
    Tbl.get e (Tbl.set d t k v) j = Tbl.get e t j := by
  unfold Tbl.set
  split
  · exact Tbl.get_erase_ne e t n
  · exact Tbl.get_put_ne e t v n

@[simp] theorem Tbl.find_put_same {α : Type} (t : Tbl α) (k : Nat) (v : α) : Tbl.find (Tbl.put t k v) k = some v := by
  induction t with
  | nil => simp [Tbl.put, Tbl.find]
  | cons e r ih =>
    simp only [Tbl.put]
    split
    · simp [Tbl.find]
    · split
      · simp [Tbl.find]
      · rename_i h _
        simp [Tbl.find, h, ih]

theorem Tbl.find_put_ne {α : Type} (t : Tbl α) {j k : Nat} (v : α) (n : j ≠ k) :
    Tbl.find (Tbl.put t k v) j = Tbl.find t j := by
  induction t with
  | nil => simp [Tbl.put, Tbl.find, Ne.symm n]
  | cons e r ih =>
    simp only [Tbl.put]
    split
    · rename_i h
      simp [Tbl.find, Ne.symm n, h]
    · split
      · simp [Tbl.find, Ne.symm n]
      · simp only [Tbl.find, ih]

theorem Tbl.mem_put {α : Type} {t : Tbl α} {k : Nat} {v : α} {e : Nat × α} (m : e ∈ Tbl.put t k v) : e = (k, v) ∨ e ∈ t := by
  induction t with
  | nil => simpa [Tbl.put] using m
  | cons x r ih =>
    unfold Tbl.put at m
    split at m
    · rcases List.mem_cons.1 m with m | m
      · exact .inl m
      · exact .inr (List.mem_cons_of_mem _ m)
    · split at m
      · rcases List.mem_cons.1 m with m | m
        · exact .inl m
        · exact .inr m
      · rcases List.mem_cons.1 m with m | m
        · exact .inr (by rw [m]; exact List.mem_cons_self ..)
        · rcases ih m with h | h
          · exact .inl h
          · exact .inr (List.mem_cons_of_mem _ h)

theorem Tbl.mem_set {α : Type} [DecidableEq α] {d : α} {t : Tbl α} {k : Nat} {v : α} {e : Nat × α} (m : e ∈ Tbl.set d t k v) :
    e = (k, v) ∨ e ∈ t := by
  unfold Tbl.set at m
  split at m
  · exact .inr ((List.mem_filter.1 m).1)
  · exact Tbl.mem_put m

end Sys2Proof.Machine
end

