-- ==== Sys2Proof/Laws/State.lean ====
section
/-! SUPPORT. What each update of the state leaves and changes: one lemma for each field and update. -/

namespace Sys2Proof.Machine

/-! ### The state -/

@[simp] theorem State.onDev_pending (s : State) (f : Admin → Dev → Dev) : (s.onDev f).pending = s.pending := rfl
@[simp] theorem State.onDev_adm (s : State) (f : Admin → Dev → Dev) : (s.onDev f).adm = s.adm := rfl
@[simp] theorem State.onDev_dev (s : State) (f : Admin → Dev → Dev) : (s.onDev f).dev = f s.adm s.dev := rfl
@[simp] theorem State.onBoth_pending (s : State) (f : Admin → Dev → Admin × Dev) : (s.onBoth f).pending = s.pending := rfl
@[simp] theorem State.onTables_pending (s : State) (f : Admin → Dev → Admin × Dev) : (s.onTables f).pending = s.pending := by
  unfold State.onTables State.onBoth
  rfl
@[simp] theorem State.onTables_adm (s : State) (f : Admin → Dev → Admin × Dev) : (s.onTables f).adm = (f s.adm s.dev).1 := by
  unfold State.onTables State.onBoth
  rfl
@[simp] theorem State.onSockets_pending (s : State) (f : Admin → Dev → Dev) : (s.onSockets f).pending = s.pending := by
  unfold State.onSockets State.onDev
  rfl
@[simp] theorem State.onSockets_adm (s : State) (f : Admin → Dev → Dev) : (s.onSockets f).adm = s.adm := by
  unfold State.onSockets State.onDev
  rfl
@[simp] theorem State.withDev_pending (s : State) (d : Dev) : (s.withDev d).pending = s.pending := rfl
@[simp] theorem State.withDev_adm (s : State) (d : Dev) : (s.withDev d).adm = s.adm := rfl
@[simp] theorem State.withDev_dev (s : State) (d : Dev) : (s.withDev d).dev = d := rfl
@[simp] theorem State.withCore_dev (s : State) (h : Hart) (f : Core → Core) : (s.withCore h f).dev = s.dev.onCore h f := rfl
@[simp] theorem State.withCore_pending (s : State) (h : Hart) (f : Core → Core) : (s.withCore h f).pending = s.pending := rfl
@[simp] theorem State.withCore_adm (s : State) (h : Hart) (f : Core → Core) : (s.withCore h f).adm = s.adm := rfl

/-- A command that changes the sockets alone, as `withDev`. -/
theorem State.onDev_eq (s : State) (f : Admin → Dev → Dev) : s.onDev f = s.withDev (f s.adm s.dev) := rfl

/-- A command that changes the sockets and runs its traffic to its end, as `ended`. -/
theorem State.onSockets_eq (s : State) (f : Admin → Dev → Dev) : s.onSockets f = s.ended (f s.adm s.dev) := by
  simp only [State.onSockets, State.onDev, State.ended, State.withDev]

/-- A command that changes the berth tables and runs its traffic to its end, as `tabled`. -/
theorem State.onTables_eq (s : State) (f : Admin → Dev → Admin × Dev) : s.onTables f = s.tabled (f s.adm s.dev) := by
  simp only [State.onTables, State.onBoth, State.tabled]

/-! ### Sockets -/

@[simp] theorem Dev.sock_setSock_same (d : Dev) (s : Nat) (k : Socket) : (d.setSock s k).sock s = k := by
  simp [Dev.sock, Dev.setSock]

theorem Dev.sock_setSock_ne (d : Dev) {s t : Nat} (k : Socket) (n : t ≠ s) : (d.setSock s k).sock t = d.sock t := by
  simp [Dev.sock, Dev.setSock, Tbl.find_put_ne _ _ n]

@[simp] theorem Dev.sock_onSock_same (d : Dev) (s : Nat) (f : Socket → Socket) : (d.onSock s f).sock s = f (d.sock s) := by
  simp [Dev.onSock]

theorem Dev.sock_onSock_ne (d : Dev) {s t : Nat} (f : Socket → Socket) (n : t ≠ s) : (d.onSock s f).sock t = d.sock t :=
  d.sock_setSock_ne _ n

/-- A part of every socket that `f` keeps is kept. -/
theorem Dev.onSock_keeps {α : Type} (p : Socket → α) (d : Dev) (s : Nat) (f : Socket → Socket) (h : ∀ k, p (f k) = p k) (t : Nat) :
    p ((d.onSock s f).sock t) = p (d.sock t) := by
  by_cases n : t = s
  · subst n
    simp [h]
  · rw [d.sock_onSock_ne f n]

@[simp] theorem Dev.setSock_net (d : Dev) (s : Nat) (k : Socket) : (d.setSock s k).net = d.net := rfl
@[simp] theorem Dev.setSock_inbox (d : Dev) (s : Nat) (k : Socket) : (d.setSock s k).inbox = d.inbox := rfl
@[simp] theorem Dev.setSock_again (d : Dev) (s : Nat) (k : Socket) : (d.setSock s k).again = d.again := rfl
@[simp] theorem Dev.setSock_mem (d : Dev) (s : Nat) (k : Socket) : (d.setSock s k).mem = d.mem := rfl
@[simp] theorem Dev.setSock_now (d : Dev) (s : Nat) (k : Socket) : (d.setSock s k).now = d.now := rfl
@[simp] theorem Dev.setSock_out (d : Dev) (s : Nat) (k : Socket) : (d.setSock s k).out = d.out := rfl
@[simp] theorem Dev.setSock_asked (d : Dev) (s : Nat) (k : Socket) : (d.setSock s k).asked = d.asked := rfl
@[simp] theorem Dev.setSock_meta_ (d : Dev) (s : Nat) (k : Socket) : (d.setSock s k).meta_ = d.meta_ := rfl
@[simp] theorem Dev.setSock_fresh (d : Dev) (s : Nat) (k : Socket) : (d.setSock s k).fresh = d.fresh := rfl
@[simp] theorem Dev.onSock_net (d : Dev) (s : Nat) (f : Socket → Socket) : (d.onSock s f).net = d.net := rfl
@[simp] theorem Dev.onSock_inbox (d : Dev) (s : Nat) (f : Socket → Socket) : (d.onSock s f).inbox = d.inbox := rfl
@[simp] theorem Dev.onSock_again (d : Dev) (s : Nat) (f : Socket → Socket) : (d.onSock s f).again = d.again := rfl
@[simp] theorem Dev.onSock_mem (d : Dev) (s : Nat) (f : Socket → Socket) : (d.onSock s f).mem = d.mem := rfl
@[simp] theorem Dev.onSock_now (d : Dev) (s : Nat) (f : Socket → Socket) : (d.onSock s f).now = d.now := rfl
@[simp] theorem Dev.onSock_out (d : Dev) (s : Nat) (f : Socket → Socket) : (d.onSock s f).out = d.out := rfl
@[simp] theorem Dev.onSock_asked (d : Dev) (s : Nat) (f : Socket → Socket) : (d.onSock s f).asked = d.asked := rfl
@[simp] theorem Dev.onSock_meta_ (d : Dev) (s : Nat) (f : Socket → Socket) : (d.onSock s f).meta_ = d.meta_ := rfl
@[simp] theorem Dev.onSock_fresh (d : Dev) (s : Nat) (f : Socket → Socket) : (d.onSock s f).fresh = d.fresh := rfl

/-! ### Cores -/

@[simp] theorem Dev.core_onCore_same (d : Dev) (h : Hart) (f : Core → Core) : (d.onCore h f).core h = f (d.core h) := by
  simp [Dev.core, Dev.onCore]

theorem Dev.core_onCore_ne (d : Dev) {h g : Hart} (f : Core → Core) (n : g ≠ h) : (d.onCore h f).core g = d.core g := by
  by_cases e : g.sock.val = h.sock.val
  · have : g.core.val ≠ h.core.val := fun x => n (by cases g; cases h; simp_all [Fin.ext_iff])
    simp [Dev.core, Dev.onCore, e, Tbl.get_set_ne _ _ _ _ this]
  · simp [Dev.core, Dev.onCore, Dev.sock_onSock_ne _ _ e]

@[simp] theorem Dev.onCore_net (d : Dev) (h : Hart) (f : Core → Core) : (d.onCore h f).net = d.net := rfl
@[simp] theorem Dev.onCore_inbox (d : Dev) (h : Hart) (f : Core → Core) : (d.onCore h f).inbox = d.inbox := rfl
@[simp] theorem Dev.onCore_again (d : Dev) (h : Hart) (f : Core → Core) : (d.onCore h f).again = d.again := rfl
@[simp] theorem Dev.onCore_mem (d : Dev) (h : Hart) (f : Core → Core) : (d.onCore h f).mem = d.mem := rfl
@[simp] theorem Dev.onCore_now (d : Dev) (h : Hart) (f : Core → Core) : (d.onCore h f).now = d.now := rfl
@[simp] theorem Dev.onCore_out (d : Dev) (h : Hart) (f : Core → Core) : (d.onCore h f).out = d.out := rfl
@[simp] theorem Dev.onCore_asked (d : Dev) (h : Hart) (f : Core → Core) : (d.onCore h f).asked = d.asked := rfl
@[simp] theorem Dev.onCore_meta_ (d : Dev) (h : Hart) (f : Core → Core) : (d.onCore h f).meta_ = d.meta_ := rfl
@[simp] theorem Dev.onCore_fresh (d : Dev) (h : Hart) (f : Core → Core) : (d.onCore h f).fresh = d.fresh := rfl

@[simp] theorem Dev.onCore_regs (d : Dev) (h : Hart) (f : Core → Core) (t : Nat) : ((d.onCore h f).sock t).regs = (d.sock t).regs := by
  unfold Dev.onCore
  exact Dev.onSock_keeps Socket.regs _ _ _ (by intro k; rfl) _

@[simp] theorem Dev.onCore_bar (d : Dev) (h : Hart) (f : Core → Core) (t : Nat) : ((d.onCore h f).sock t).bar = (d.sock t).bar := by
  unfold Dev.onCore
  exact Dev.onSock_keeps Socket.bar _ _ _ (by intro k; rfl) _

@[simp] theorem Dev.onCore_wheel (d : Dev) (h : Hart) (f : Core → Core) (t : Nat) : (d.onCore h f).wheel t = d.wheel t := by
  unfold Dev.onCore Dev.wheel
  exact Dev.onSock_keeps Socket.wheel _ _ _ (by intro k; rfl) _

@[simp] theorem Dev.reg_onCore (d : Dev) (h : Hart) (f : Core → Core) (s : Nat) (r : Reg) (i j : Nat) :
    (d.onCore h f).reg s r i j = d.reg s r i j := by simp [Dev.reg]

@[simp] theorem Dev.fld_onCore (d : Dev) (h : Hart) (f : Core → Core) (s : Nat) (r : Reg) (i j hi lo : Nat) :
    (d.onCore h f).fld s r i j hi lo = d.fld s r i j hi lo := by simp [Dev.fld]

/-! ### Registers of the blocks -/

@[simp] theorem Dev.reg_setReg_same (d : Dev) (s : Nat) (r : Reg) (i j : Nat) (v : Word) : (d.setReg s r i j v).reg s r i j = v := by
  unfold Dev.reg Dev.setReg
  cases hb : r.place.bar <;> simp

theorem Dev.reg_setReg_ne (d : Dev) {s s' : Nat} {r r' : Reg} {i j i' j' : Nat} (v : Word)
    (n : s' ≠ s ∨ r'.place.bar ≠ r.place.bar ∨ r'.at i' j' ≠ r.at i j) :
    (d.setReg s r i j v).reg s' r' i' j' = d.reg s' r' i' j' := by
  by_cases e : s' = s
  · subst e
    unfold Dev.reg Dev.setReg
    have m : r'.place.bar = r.place.bar → r'.at i' j' ≠ r.at i j := by
      intro h
      rcases n with n | n | n
      · exact absurd rfl n
      · exact absurd h n
      · exact n
    cases hb : r.place.bar <;> cases hb' : r'.place.bar <;> simp_all [Tbl.get_set_ne _ _ _ _ (m _)]
  · unfold Dev.reg Dev.setReg
    rw [Dev.sock_onSock_ne _ _ e]

@[simp] theorem Dev.setReg_net (d : Dev) (s : Nat) (r : Reg) (i j : Nat) (v : Word) : (d.setReg s r i j v).net = d.net := rfl
@[simp] theorem Dev.setReg_inbox (d : Dev) (s : Nat) (r : Reg) (i j : Nat) (v : Word) : (d.setReg s r i j v).inbox = d.inbox := rfl
@[simp] theorem Dev.setReg_again (d : Dev) (s : Nat) (r : Reg) (i j : Nat) (v : Word) : (d.setReg s r i j v).again = d.again := rfl
@[simp] theorem Dev.setReg_mem (d : Dev) (s : Nat) (r : Reg) (i j : Nat) (v : Word) : (d.setReg s r i j v).mem = d.mem := rfl
@[simp] theorem Dev.setReg_now (d : Dev) (s : Nat) (r : Reg) (i j : Nat) (v : Word) : (d.setReg s r i j v).now = d.now := rfl
@[simp] theorem Dev.setReg_out (d : Dev) (s : Nat) (r : Reg) (i j : Nat) (v : Word) : (d.setReg s r i j v).out = d.out := rfl
@[simp] theorem Dev.setReg_asked (d : Dev) (s : Nat) (r : Reg) (i j : Nat) (v : Word) : (d.setReg s r i j v).asked = d.asked := rfl
@[simp] theorem Dev.setReg_meta_ (d : Dev) (s : Nat) (r : Reg) (i j : Nat) (v : Word) : (d.setReg s r i j v).meta_ = d.meta_ := rfl
@[simp] theorem Dev.setReg_fresh (d : Dev) (s : Nat) (r : Reg) (i j : Nat) (v : Word) : (d.setReg s r i j v).fresh = d.fresh := rfl

@[simp] theorem Dev.setReg_cores (d : Dev) (s : Nat) (r : Reg) (i j : Nat) (v : Word) (t : Nat) :
    ((d.setReg s r i j v).sock t).cores = (d.sock t).cores :=
  Dev.onSock_keeps Socket.cores d s _ (fun k => by cases hb : r.place.bar <;> simp) t

@[simp] theorem Dev.setReg_wheel (d : Dev) (s : Nat) (r : Reg) (i j : Nat) (v : Word) (t : Nat) :
    (d.setReg s r i j v).wheel t = d.wheel t :=
  Dev.onSock_keeps Socket.wheel d s _ (fun k => by cases hb : r.place.bar <;> simp) t

@[simp] theorem Dev.core_setReg (d : Dev) (s : Nat) (r : Reg) (i j : Nat) (v : Word) (h : Hart) :
    (d.setReg s r i j v).core h = d.core h := by simp [Dev.core]

@[simp] theorem Dev.core_setFld (d : Dev) (s : Nat) (r : Reg) (i j hi lo v : Nat) (h : Hart) :
    (d.setFld s r i j hi lo v).core h = d.core h := by simp [Dev.setFld]

@[simp] theorem Dev.setFld_wheel (d : Dev) (s : Nat) (r : Reg) (i j hi lo v t : Nat) :
    (d.setFld s r i j hi lo v).wheel t = d.wheel t := by simp [Dev.setFld]

@[simp] theorem Dev.reg_setFld_same (d : Dev) (s : Nat) (r : Reg) (i j hi lo v : Nat) :
    (d.setFld s r i j hi lo v).reg s r i j = putBits (d.reg s r i j) hi lo v := by simp [Dev.setFld]

theorem Dev.reg_setFld_ne (d : Dev) {s s' : Nat} {r r' : Reg} {i j i' j' : Nat} (hi lo v : Nat)
    (n : s' ≠ s ∨ r'.place.bar ≠ r.place.bar ∨ r'.at i' j' ≠ r.at i j) :
    (d.setFld s r i j hi lo v).reg s' r' i' j' = d.reg s' r' i' j' := Dev.reg_setReg_ne d _ n

/-! ### The Wheelhouse -/

@[simp] theorem Dev.wheel_onWheel_same (d : Dev) (s : Nat) (f : Wheel → Wheel) : (d.onWheel s f).wheel s = f (d.wheel s) := by
  simp [Dev.wheel, Dev.onWheel]

@[simp] theorem Dev.reg_onWheel (d : Dev) (t : Nat) (f : Wheel → Wheel) (s : Nat) (r : Reg) (i j : Nat) :
    (d.onWheel t f).reg s r i j = d.reg s r i j := by
  have e : ((d.onWheel t f).sock s).regs = (d.sock s).regs := by
    unfold Dev.onWheel
    exact Dev.onSock_keeps Socket.regs _ _ _ (by intro k; rfl) _
  have e' : ((d.onWheel t f).sock s).bar = (d.sock s).bar := by
    unfold Dev.onWheel
    exact Dev.onSock_keeps Socket.bar _ _ _ (by intro k; rfl) _
  simp [Dev.reg, e, e']

@[simp] theorem Dev.fld_onWheel (d : Dev) (t : Nat) (f : Wheel → Wheel) (s : Nat) (r : Reg) (i j hi lo : Nat) :
    (d.onWheel t f).fld s r i j hi lo = d.fld s r i j hi lo := by simp [Dev.fld]

@[simp] theorem Dev.core_onWheel (d : Dev) (s : Nat) (f : Wheel → Wheel) (h : Hart) : (d.onWheel s f).core h = d.core h := by
  have e : ((d.onWheel s f).sock h.sock.val).cores = (d.sock h.sock.val).cores := by
    unfold Dev.onWheel
    exact Dev.onSock_keeps Socket.cores _ _ _ (by intro k; rfl) _
  simp [Dev.core, e]

@[simp] theorem Dev.onWheel_net (d : Dev) (s : Nat) (f : Wheel → Wheel) : (d.onWheel s f).net = d.net := rfl
@[simp] theorem Dev.onWheel_asked (d : Dev) (s : Nat) (f : Wheel → Wheel) : (d.onWheel s f).asked = d.asked := rfl
@[simp] theorem Dev.onWheel_mem (d : Dev) (s : Nat) (f : Wheel → Wheel) : (d.onWheel s f).mem = d.mem := rfl

@[simp] theorem Dev.wheel_tellPort (d : Dev) (s : Nat) (w : Word) :
    (d.tellPort s w).wheel s = { d.wheel s with reports := (d.wheel s).reports ++ [w] } := by simp [Dev.tellPort]
@[simp] theorem Dev.reg_tellPort (d : Dev) (t : Nat) (w : Word) (s : Nat) (r : Reg) (i j : Nat) :
    (d.tellPort t w).reg s r i j = d.reg s r i j := by simp [Dev.tellPort]
@[simp] theorem Dev.core_tellPort (d : Dev) (s : Nat) (w : Word) (h : Hart) : (d.tellPort s w).core h = d.core h := by
  simp [Dev.tellPort]

/-! ### The answer -/

@[simp] theorem Dev.sock_answer (d : Dev) (ws : List Word) (s : Nat) : (d.answer ws).sock s = d.sock s := rfl
@[simp] theorem Dev.core_answer (d : Dev) (ws : List Word) (h : Hart) : (d.answer ws).core h = d.core h := rfl
@[simp] theorem Dev.reg_answer (d : Dev) (ws : List Word) (s : Nat) (r : Reg) (i j : Nat) :
    (d.answer ws).reg s r i j = d.reg s r i j := rfl
@[simp] theorem Dev.fld_answer (d : Dev) (ws : List Word) (s : Nat) (r : Reg) (i j hi lo : Nat) :
    (d.answer ws).fld s r i j hi lo = d.fld s r i j hi lo := rfl
@[simp] theorem Dev.out_answer (d : Dev) (ws : List Word) : (d.answer ws).out = ws := rfl
@[simp] theorem Dev.answer_net (d : Dev) (ws : List Word) : (d.answer ws).net = d.net := rfl
@[simp] theorem Dev.answer_mem (d : Dev) (ws : List Word) : (d.answer ws).mem = d.mem := rfl

/-! ### Registers of a core -/

@[simp] theorem Core.getG_zero (c : Core) : c.getG 0 = 0 := rfl
@[simp] theorem Core.setG_zero (c : Core) (v : Word) : c.setG 0 v = c := rfl

theorem Core.getG_setG_same (c : Core) {r : GReg} (n : r ≠ 0) (v : Word) : (c.setG r v).getG r = v := by
  unfold Core.getG Core.setG
  rw [if_neg n, if_neg n, Tbl.get_set_same]

theorem Core.getG_setG_ne (c : Core) {r q : GReg} (n : q ≠ r) (v : Word) : (c.setG r v).getG q = c.getG q := by
  have m : q.toNat ≠ r.toNat := fun h => n (BitVec.eq_of_toNat_eq h)
  unfold Core.getG Core.setG
  split
  · rfl
  · split
    · rfl
    · exact Tbl.get_set_ne _ _ _ _ m

@[simp] theorem Core.getV_setV_same (c : Core) (r : VReg) (v : Line) : (c.setV r v).getV r = v := by
  simp [Core.getV, Core.setV]

theorem Core.getV_setV_ne (c : Core) {r q : VReg} (n : q ≠ r) (v : Line) : (c.setV r v).getV q = c.getV q := by
  have m : q.toNat ≠ r.toNat := fun h => n (BitVec.eq_of_toNat_eq h)
  exact Tbl.get_set_ne _ _ _ _ m

@[simp] theorem Core.getP_zero (c : Core) : c.getP 0 = BitVec.allOnes 64 := rfl

theorem Core.getP_setP_same (c : Core) {r : PReg} (n : r ≠ 0) (v : Word) : (c.setP r v).getP r = v := by
  unfold Core.getP Core.setP
  rw [if_neg n, if_neg n, Tbl.get_set_same]

@[simp] theorem Core.sysGet_sysSet_same (c : Core) (n : Nat) (v : Word) : (c.sysSet n v).sysGet n = v := by
  simp [Core.sysGet, Core.sysSet]

theorem Core.sysGet_sysSet_ne (c : Core) {m n : Nat} (h : m ≠ n) (v : Word) : (c.sysSet n v).sysGet m = c.sysGet m :=
  Tbl.get_set_ne _ _ _ _ h

@[simp] theorem Core.ivGet_ivSet_same (c : Core) (n : Nat) (v : Word) : (c.ivSet n v).ivGet n = v := by
  simp [Core.ivGet, Core.ivSet]

end Sys2Proof.Machine
end

