-- ==== Sys2Proof/Laws/Rest.lean ====
section
/-! SUPPORT. A ready hart takes an instruction at once, and a block at rest stays at rest: no traffic, nothing to finish. -/

namespace Sys2Proof.Machine

/-! ### Ready harts -/

theorem Dev.ready_iff (d : Dev) (h : Hart) :
    d.ready h = true ↔ (d.core h).run = .running ∧ (d.core h).annul = 0 ∧ (d.core h).lq = [] ∧ (d.core h).devLoad = none ∧
      (d.core h).fetchPoisoned = false := by
  simp [Dev.ready, Core.ready, and_assoc]

/-- A running hart does not wake. -/
theorem Dev.wake_running {d : Dev} {h : Hart} (r : (d.core h).run = .running) : d.wake h = d := by
  simp [Dev.wake, r]

/-- A ready hart takes the instruction: `insn` is its body. -/
theorem Dev.insn_ready {d : Dev} {h : Hart} (r : d.ready h = true) (body : Dev → Dev) : d.insn h body = body d := by
  obtain ⟨r1, r2, r3, r4, r5⟩ := (d.ready_iff h).1 r
  unfold Dev.insn
  rw [Dev.wake_running r1]
  simp [r1, r2, r3, r4, r5]

/-- On a server core, the groups that management cores lack act as `f` says. -/
theorem Dev.serverInsn_ready {d : Dev} {h : Hart} (r : d.ready h = true) (v : isServer h = true) (a : Admin) (w : Word)
    (f : Core → Core) : d.serverInsn a h w f = d.onCore h fun c => (f c).next := by
  unfold Dev.serverInsn
  rw [Dev.insn_ready r]
  have : isWheel h = false := by simpa [isServer] using v
  simp [this]

/-! ### A block at rest -/

theorem Dev.quiet_iff (d : Dev) :
    d.quiet = true ↔ d.net = [] ∧ d.inbox = [] ∧ d.again = [] ∧ d.delaying = [] ∧ d.atomWaiting = [] ∧ d.offering = [] := by
  simp [Dev.quiet, and_assoc]

theorem Dev.settle_rest {d : Dev} (a : Tables) (n : Nat) (e : d.net = []) (g : d.again = []) : d.settle a n = d := by
  cases n with
  | zero => rfl
  | succ n => simp [Dev.settle, e, g, Dev.pickNet]

theorem Dev.runNet_rest {d : Dev} (a : Tables) (n : Nat) (self : Option Hart) (q : d.quiet = true) : d.runNet a n self = d := by
  obtain ⟨q1, q2, q3, q4, q5, q6⟩ := d.quiet_iff.1 q
  have r : d.replaySlices none = d := by
    cases d
    simp_all [Dev.replaySlices, Dev.each]
  cases n with
  | zero => simp [Dev.runNet, Dev.settle_rest a _ q1 q3]
  | succ n => simp [Dev.runNet, Dev.settle_rest a _ q1 q3, q4, q6, Dev.each, r, q1, Dev.pickNet]

theorem Dev.quiesce_rest {d : Dev} (a : Tables) (q : d.quiet = true) : d.quiesce a = d := Dev.runNet_rest a 64 none q

theorem Dev.serveAll_rest {d : Dev} (a : Admin) (n : Nat) (q : d.quiet = true) : d.serveAll a n = d := by
  obtain ⟨-, q2, -⟩ := d.quiet_iff.1 q
  cases n with
  | zero => rfl
  | succ n => simp [Dev.serveAll, q2]

theorem Dev.coreAnswers_rest {d : Dev} (a : Tables) (q : d.quiet = true) : d.coreAnswers a = d := by
  obtain ⟨-, q2, -, -, q5, -⟩ := d.quiet_iff.1 q
  have e : ({ d with inbox := ([] : List Msg) } : Dev) = d := by
    cases d
    simp_all
  simp [Dev.coreAnswers, q2, e, q5, Dev.each]

/-- With no traffic, the end of a command changes nothing. -/
theorem Dev.finish_rest {d : Dev} (a : Admin) (q : d.quiet = true) : d.finish a = d := by
  rw [Dev.finish, Dev.quiesce_rest _ q, Dev.serveAll_rest _ _ q, Dev.coreAnswers_rest _ q]

/-- Rest depends on the messages and on the cores alone. -/
theorem Dev.quiet_of_cores {d e : Dev} (q : d.quiet = true) (n : e.net = d.net) (i : e.inbox = d.inbox) (g : e.again = d.again)
    (c : ∀ s, (e.sock s).cores = (d.sock s).cores) : e.quiet = true := by
  simpa [Dev.quiet, Dev.delaying, Dev.atomWaiting, Dev.offering, Dev.coresWith, n, i, g, c] using q

theorem Dev.quiet_setReg {d : Dev} (q : d.quiet = true) (s : Nat) (r : Reg) (i j : Nat) (v : Word) :
    (d.setReg s r i j v).quiet = true :=
  Dev.quiet_of_cores q rfl rfl rfl fun t => d.setReg_cores s r i j v t

theorem Dev.quiet_setFld {d : Dev} (q : d.quiet = true) (s : Nat) (r : Reg) (i j hi lo v : Nat) :
    (d.setFld s r i j hi lo v).quiet = true := Dev.quiet_setReg q s r i j _

theorem Dev.quiet_answer {d : Dev} (q : d.quiet = true) (ws : List Word) : (d.answer ws).quiet = true :=
  Dev.quiet_of_cores q rfl rfl rfl fun _ => rfl

theorem Dev.quiet_onSock {d : Dev} (q : d.quiet = true) (s : Nat) (f : Socket → Socket) (h : ∀ k, (f k).cores = k.cores) :
    (d.onSock s f).quiet = true :=
  Dev.quiet_of_cores q rfl rfl rfl fun t => Dev.onSock_keeps Socket.cores d s f h t

theorem Dev.quiet_onWheel {d : Dev} (q : d.quiet = true) (s : Nat) (f : Wheel → Wheel) : (d.onWheel s f).quiet = true :=
  Dev.quiet_onSock q s _ (by intro k; rfl)

/-- A core that holds no answer back, has no answer of a far atomic to take, and nothing to send. -/
def Core.atRest (c : Core) : Bool := c.delayed.isEmpty && !c.atomDue && !c.offers

/-- No core has `p` exactly where none of the tables of cores holds one that has. -/
theorem Dev.coresWith_nil_iff (d : Dev) (p : Core → Bool) :
    d.coresWith p = [] ↔ ∀ s : Sock, ∀ e ∈ (d.sock s.val).cores, e.1 < 212 → p e.2 = false := by
  simp only [Dev.coresWith, List.flatMap_eq_nil_iff, List.filterMap_eq_nil_iff, List.mem_finRange, true_implies]
  refine forall_congr' fun s => forall_congr' fun e => forall_congr' fun _ => ?_
  by_cases h : e.1 < 212 <;> cases p e.2 <;> simp [h]

/-- The cores are at rest exactly where none holds an answer back, has one to take or has something to send. -/
theorem Dev.cores_rest_iff (d : Dev) :
    d.delaying = [] ∧ d.atomWaiting = [] ∧ d.offering = [] ↔
      ∀ s : Sock, ∀ e ∈ (d.sock s.val).cores, e.1 < 212 → e.2.atRest = true := by
  simp only [Dev.delaying, Dev.atomWaiting, Dev.offering, Dev.coresWith_nil_iff, ← forall_and, Core.atRest, Bool.and_eq_true,
    Bool.not_eq_true', Bool.not_eq_false', and_assoc]

theorem Tbl.get_mem {α : Type} (d : α) (t : Tbl α) (k : Nat) : Tbl.get d t k = d ∨ (k, Tbl.get d t k) ∈ t := by
  induction t with
  | nil => exact .inl rfl
  | cons x r ih =>
    unfold Tbl.get
    split
    · rename_i h
      exact .inr (by rw [← h]; exact List.mem_cons_self ..)
    · rcases ih with h | h
      · exact .inl h
      · exact .inr (List.mem_cons_of_mem _ h)

/-- A core that stays at rest keeps the block at rest. -/
theorem Dev.quiet_onCore {d : Dev} (q : d.quiet = true) (h : Hart) (f : Core → Core)
    (k : ∀ c, c.atRest = true → (f c).atRest = true) : (d.onCore h f).quiet = true := by
  obtain ⟨q1, q2, q3, q4⟩ := d.quiet_iff.1 q
  rw [Dev.cores_rest_iff] at q4
  have old : (Tbl.get Core.reset (d.sock h.sock.val).cores h.core.val).atRest = true := by
    rcases Tbl.get_mem Core.reset (d.sock h.sock.val).cores h.core.val with e | e
    · rw [e]
      rfl
    · exact q4 h.sock _ e h.core.isLt
  refine (Dev.quiet_iff _).2 ⟨q1, q2, q3, (Dev.cores_rest_iff _).2 fun s e m l => ?_⟩
  unfold Dev.onCore at m
  by_cases n : s.val = h.sock.val
  · rw [n, Dev.sock_onSock_same] at m
    rcases Tbl.mem_set m with m | m
    · rw [m]
      exact k _ old
    · exact q4 h.sock e m l
  · rw [Dev.sock_onSock_ne _ _ n] at m
    exact q4 s e m l

end Sys2Proof.Machine
end

