-- ==== Sys2Proof/Laws/Insn.lean ====
section
/-! SUPPORT. Spec lemmas of the shared instruction operations: on a ready hart each is one change of its core. -/

namespace Sys2Proof.Machine

/-- A change of a core is what it makes of that core. -/
theorem Dev.onCore_congr {d : Dev} {h : Hart} {f g : Core → Core} (e : f (d.core h) = g (d.core h)) : d.onCore h f = d.onCore h g := by
  unfold Dev.onCore Dev.onSock
  have : f (Tbl.get Core.reset (d.sock h.sock.val).cores h.core.val) = g (Tbl.get Core.reset (d.sock h.sock.val).cores h.core.val) := e
  simp only [this]

/-- An instruction whose device effect is one change of its core. -/
theorem State.next_onCore {s : State} {h : Hart} {d : Dev} {f : Core → Core} (e : d = s.dev.onCore h f) (g : Core → Core)
    (c : f (s.dev.core h) = g (s.dev.core h)) :
    (Host.Outcome.next (s.withDev d) : Host.Outcome State Fault Refusal) = .next (s.withCore h g) := by
  rw [e, Dev.onCore_congr c]
  rfl

theorem Dev.regInsn_ready {d : Dev} {h : Hart} (r : d.ready h = true) (f : Core → Core) :
    d.regInsn h f = d.onCore h fun c => (f c).next := Dev.insn_ready r _

theorem Dev.aluRR_ready {d : Dev} {h : Hart} (r : d.ready h = true) (rd ra rb : GReg) (f : Word → Word → Word) :
    d.aluRR h rd ra rb f = d.onCore h fun c => (c.setG rd (f (c.getG ra) (c.getG rb))).next := Dev.regInsn_ready r _

theorem Dev.aluR_ready {d : Dev} {h : Hart} (r : d.ready h = true) (rd ra : GReg) (f : Word → Word) :
    d.aluR h rd ra f = d.onCore h fun c => (c.setG rd (f (c.getG ra))).next := Dev.regInsn_ready r _

theorem Dev.fpInsn_ready {d : Dev} {h : Hart} (r : d.ready h = true) (v : isServer h = true) (a : Admin) (w : Word) (rd : GReg)
    (f : Core → Word × BitVec 5) : d.fpInsn a h w rd f = d.onCore h fun c => (c.fpDone rd (f c)).next :=
  Dev.serverInsn_ready r v a w _

theorem Dev.dbInsn_ready {d : Dev} {h : Hart} (r : d.ready h = true) (v : isServer h = true) (a : Admin) (n : Nat)
    (rd ra rb : GReg) (f : Word → Word → Word) :
    d.dbInsn a h n rd ra rb f = d.onCore h fun c => (c.setG rd (f (c.getG ra) (c.getG rb))).next :=
  Dev.serverInsn_ready r v a _ _

theorem Dev.vecInsn_ready {d : Dev} {h : Hart} (r : d.ready h = true) (v : isServer h = true) (a : Admin) (o : VOp) (n : Nat)
    (f : Word → Word → Word) :
    d.vecInsn a h o n f = d.onCore h fun c =>
      (c.setV o.vd (lanes2 o.w (c.getP o.pg) o.z (c.getV o.vd) (c.getV o.va) (c.getV o.vb) f)).next :=
  Dev.serverInsn_ready r v a _ _

end Sys2Proof.Machine
end

