-- ==== Sys2Proof/Laws/Core.lean ====
section
/-! SUPPORT. What counting an event and retiring can change of a core: its counters, its sample and vector 3, and where it
fetches. -/

namespace Sys2Proof.Machine

/-- What no store of a system register or vector changes, sampling does not change. -/
theorem Core.sample_keeps {α : Type} (P : Core → α) (hs : ∀ c n v, P (Core.sysSet c n v) = P c)
    (hv : ∀ c n v, P (Core.ivSet c n v) = P c) (c : Core) (ip : Word) (k : Bool) : P (c.sample ip k) = P c := by
  unfold Core.sample Core.raise
  simp only []
  split <;> simp [hs, hv]

/-- What no store of a system register or vector changes, counting does not change. -/
theorem Core.event_keeps {α : Type} (P : Core → α) (hs : ∀ c n v, P (Core.sysSet c n v) = P c)
    (hv : ∀ c n v, P (Core.ivSet c n v) = P c) (c : Core) (ev n : Nat) (ip : Word) : P (c.event ev n ip) = P c := by
  have fold : ∀ (l : List Nat) (f : Core → Nat → Core), (∀ c i, P (f c i) = P c) → ∀ c, P (l.foldl f c) = P c := by
    intro l f hf
    induction l with
    | nil => intro c; rfl
    | cons x r ih => intro c; rw [List.foldl_cons, ih, hf]
  unfold Core.event
  split
  · rfl
  · simp only []
    split
    · split
      · rw [Core.sample_keeps P hs hv]
        exact fold _ _ (by intro c i; split <;> simp [hs]) _
      · rw [hs]
        exact fold _ _ (by intro c i; split <;> simp [hs]) _
    · exact fold _ _ (by intro c i; split <;> simp [hs]) _

/-- What no store of a system register or vector changes, counting an instruction does not change. -/
theorem Core.countInst_keeps {α : Type} (P : Core → α) (hs : ∀ c n v, P (Core.sysSet c n v) = P c)
    (hv : ∀ c n v, P (Core.ivSet c n v) = P c) (c : Core) : P c.countInst = P c := by
  unfold Core.countInst
  simp only [Core.event_keeps P hs hv]
  split <;> simp [hs]

/-- The system registers that counting changes: the counters, the sample count and the sampled address. -/
def counted (n : Nat) : Bool := (0x120 ≤ n && n ≤ 0x12A) || n = 0x212 || n = 0x213

theorem Core.sysGet_ivSet (c : Core) (n k : Nat) (v : Word) : (c.ivSet k v).sysGet n = c.sysGet n := rfl

theorem Core.sysGet_sample {n : Nat} (h : counted n = false) (c : Core) (ip : Word) (k : Bool) :
    (c.sample ip k).sysGet n = c.sysGet n := by
  have a : n ≠ 0x212 := by rintro rfl; simp [counted] at h
  have b : n ≠ 0x213 := by rintro rfl; simp [counted] at h
  unfold Core.sample Core.raise
  simp only []
  split
  · rw [Core.sysGet_sysSet_ne _ a, Core.sysGet_ivSet]
  · rw [Core.sysGet_sysSet_ne _ b, Core.sysGet_sysSet_ne _ a, Core.sysGet_ivSet]

theorem Core.sysGet_event {n : Nat} (h : counted n = false) (c : Core) (ev k : Nat) (ip : Word) :
    (c.event ev k ip).sysGet n = c.sysGet n := by
  have a : n ≠ 0x212 := by rintro rfl; simp [counted] at h
  have e : ∀ i < 8, n ≠ 0x120 + i := by
    rintro i hi rfl
    simp only [counted, Bool.or_eq_false_iff, Bool.and_eq_false_iff, decide_eq_false_iff_not] at h
    omega
  have fold : ∀ (l : List Nat) (f : Core → Nat → Core), (∀ c, ∀ i ∈ l, (f c i).sysGet n = c.sysGet n) →
      ∀ c, (l.foldl f c).sysGet n = c.sysGet n := by
    intro l
    induction l with
    | nil => intro f _ c; rfl
    | cons x r ih =>
      intro f hf c
      rw [List.foldl_cons, ih f fun c i m => hf c i (List.mem_cons_of_mem _ m), hf c x (List.mem_cons_self ..)]
  have cnt : ∀ c : Core, ∀ l : Nat, ((List.range 8).foldl (fun (c : Core) i =>
      if evSelected (c.sysGet (0x130 + i)) 0 ev l then
        c.sysSet (0x120 + i) (putBits (c.sysGet (0x120 + i)) 47 0 (satAdd 48 (bits (c.sysGet (0x120 + i)) 47 0) k))
      else c) c).sysGet n = c.sysGet n := by
    intro c l
    refine fold _ _ (fun c i m => ?_) c
    split
    · exact Core.sysGet_sysSet_ne _ (e i (List.mem_range.1 m)) _
    · rfl
  unfold Core.event
  split
  · rfl
  · simp only []
    split
    · split
      · rw [Core.sysGet_sample h, cnt]
      · rw [Core.sysGet_sysSet_ne _ a, cnt]
    · rw [cnt]

theorem Core.sysGet_countInst {n : Nat} (h : counted n = false) (c : Core) : c.countInst.sysGet n = c.sysGet n := by
  have a : n ≠ 0x129 := by rintro rfl; simp [counted] at h
  unfold Core.countInst
  simp only [Core.sysGet_event h]
  split
  · rfl
  · exact Core.sysGet_sysSet_ne _ a _

/-- Counting leaves a core at rest. -/
theorem Core.atRest_event (c : Core) (ev n : Nat) (ip : Word) : (c.event ev n ip).atRest = c.atRest :=
  Core.event_keeps Core.atRest (fun _ _ _ => rfl) (fun _ _ _ => rfl) c ev n ip

theorem Core.atRest_countInst (c : Core) : c.countInst.atRest = c.atRest :=
  Core.countInst_keeps Core.atRest (fun _ _ _ => rfl) (fun _ _ _ => rfl) c

/-- Restarting fetch keeps everything else but the load queue and the sampled address. -/
theorem Core.jump_keeps {α : Type} (P : Core → α) (hs : ∀ c n v, P (Core.sysSet c n v) = P c)
    (hj : ∀ (c : Core) (pc : Word), P { c.refetch pc with pc, lq := [] } = P c) (c : Core) (npc : Word) : P (c.jump npc) = P c := by
  unfold Core.jump
  simp only []
  rw [hj]
  split <;> simp [hs]

@[simp] theorem Core.jump_pc (c : Core) (npc : Word) : (c.jump npc).pc = npc := rfl

theorem Core.sysGet_jump {n : Nat} (h : n ≠ 0x213) (c : Core) (npc : Word) : (c.jump npc).sysGet n = c.sysGet n := by
  show (if _ then _ else c : Core).sysGet n = c.sysGet n
  split
  · exact Core.sysGet_sysSet_ne _ h _
  · rfl

theorem Core.atRest_jump (c : Core) (npc : Word) : (c.jump npc).atRest = c.atRest :=
  Core.jump_keeps Core.atRest (fun _ _ _ => rfl) (fun _ _ => rfl) c npc

@[simp] theorem Core.moveTo_pc (c : Core) (npc : Word) : (c.moveTo npc).pc = npc := by
  unfold Core.moveTo
  rcases c.fetchQ with _ | ⟨e, _ | ⟨f, r⟩⟩
  · rfl
  · dsimp only
    split <;> rfl
  · dsimp only
    split <;> rfl

/-- Moving on keeps what neither the PC nor fetch is part of. -/
theorem Core.moveTo_keeps {α : Type} (P : Core → α)
    (hm : ∀ (c : Core) (pc fp : Word) (q : List Fetched) (p : Predictor), P { c with pc, fetchPc := fp, fetchQ := q, pred := p } = P c)
    (c : Core) (npc : Word) : P (c.moveTo npc) = P c := by
  unfold Core.moveTo
  rcases c.fetchQ with _ | ⟨e, _ | ⟨f, r⟩⟩
  · exact hm c npc npc [] c.pred
  · dsimp only
    split
    · exact hm c npc c.fetchPc _ c.pred
    · exact hm c npc npc [] _
  · dsimp only
    split
    · exact hm c npc c.fetchPc _ c.pred
    · exact hm c npc npc [] _

@[simp] theorem Core.retire_pc (c : Core) (npc : Word) : (c.retire npc).pc = npc := Core.moveTo_pc _ _

@[simp] theorem Core.next_pc (c : Core) : c.next.pc = c.pc + 4 := Core.moveTo_pc _ _

/-- Retiring keeps what neither the PC, fetch, the system registers nor the vectors are part of. -/
theorem Core.retire_keeps {α : Type} (P : Core → α) (hs : ∀ c n v, P (Core.sysSet c n v) = P c)
    (hv : ∀ c n v, P (Core.ivSet c n v) = P c)
    (hm : ∀ (c : Core) (pc fp : Word) (q : List Fetched) (p : Predictor), P { c with pc, fetchPc := fp, fetchQ := q, pred := p } = P c)
    (c : Core) (npc : Word) : P (c.retire npc) = P c := by
  rw [Core.retire, Core.moveTo_keeps P hm, Core.countInst_keeps P hs hv]

@[simp] theorem Core.next_g (c : Core) : c.next.g = c.g :=
  Core.retire_keeps Core.g (fun _ _ _ => rfl) (fun _ _ _ => rfl) (fun _ _ _ _ _ => rfl) c _

@[simp] theorem Core.next_v (c : Core) : c.next.v = c.v :=
  Core.retire_keeps Core.v (fun _ _ _ => rfl) (fun _ _ _ => rfl) (fun _ _ _ _ _ => rfl) c _

@[simp] theorem Core.next_p (c : Core) : c.next.p = c.p :=
  Core.retire_keeps Core.p (fun _ _ _ => rfl) (fun _ _ _ => rfl) (fun _ _ _ _ _ => rfl) c _

@[simp] theorem Core.next_sb (c : Core) : c.next.sb = c.sb :=
  Core.retire_keeps Core.sb (fun _ _ _ => rfl) (fun _ _ _ => rfl) (fun _ _ _ _ _ => rfl) c _

theorem Core.atRest_next (c : Core) : c.next.atRest = c.atRest :=
  Core.retire_keeps Core.atRest (fun _ _ _ => rfl) (fun _ _ _ => rfl) (fun _ _ _ _ _ => rfl) c _

theorem Core.sysGet_next {n : Nat} (h : counted n = false) (c : Core) : c.next.sysGet n = c.sysGet n := by
  show (c.countInst.moveTo _).sysGet n = _
  rw [Core.moveTo_keeps (fun c => c.sysGet n) (fun _ _ _ _ _ => rfl), Core.sysGet_countInst h]

/-! ### Levels, the store buffer -/

@[simp] theorem Core.atRest_sysSet (c : Core) (n : Nat) (v : Word) : (c.sysSet n v).atRest = c.atRest := rfl

@[simp] theorem Core.atRest_ivSet (c : Core) (n : Nat) (v : Word) : (c.ivSet n v).atRest = c.atRest := rfl

@[simp] theorem Core.atRest_setLevel (c : Core) (l : Nat) : (c.setLevel l).atRest = c.atRest := rfl

theorem Core.pushStore_keeps {α : Type} (P : Core → α) (h : ∀ (c : Core) (l : List SbEntry), P { c with sb := l } = P c) (c : Core)
    (e : SbEntry) (b : Bool) : P (c.pushStore e b) = P c := by
  unfold Core.pushStore
  split
  · split <;> exact h _ _
  · exact h _ _

@[simp] theorem Core.atRest_pushStore (c : Core) (e : SbEntry) (b : Bool) : (c.pushStore e b).atRest = c.atRest :=
  Core.pushStore_keeps Core.atRest (fun _ _ => rfl) c e b

theorem bankOf_or (l : Nat) : bankOf l = 0x100 ∨ bankOf l = 0x200 := by
  unfold bankOf
  split <;> simp

theorem bit_putBits_level (w : Word) (v : Nat) : bit (putBits w 1 0 v) 2 = bit w 2 := by
  simp [bit, putBits]

theorem bit_putBit_ie (w : Word) (b : Bool) : bit (putBit w 2 b) 2 = b := by
  cases b <;> simp [bit, putBit, putBits]

theorem bits_putBits_level (w : Word) (l : Fin 4) : bits (putBits w 1 0 l.val) 1 0 = l.val := by
  have e : ∀ w : Word, bits w 1 0 = (w.extractLsb' 0 2).toNat := by
    intro w
    simp [bits, nbits, BitVec.extractLsb'_toNat]
  have x : (putBits w 1 0 l.val).extractLsb' 0 2 = BitVec.ofNat 2 l.val := by
    apply BitVec.eq_of_getLsbD_eq
    intro i hi
    fin_cases l <;> (rcases i with _ | _ | i <;> first | omega | simp [putBits])
  rw [e, x]
  fin_cases l <;> rfl

theorem Core.level_setLevel (c : Core) {l : Nat} (hl : l < 4) : (c.setLevel l).level = l := by
  unfold Core.level Core.setLevel
  rw [Core.sysGet_sysSet_ne _ (by decide), Core.sysGet_sysSet_same]
  exact bits_putBits_level _ ⟨l, hl⟩

theorem Core.sysGet_setLevel (c : Core) (l : Nat) {n : Nat} (a : n ≠ 0x100) (b : n ≠ 0x200) :
    (c.setLevel l).sysGet n = c.sysGet n := by
  unfold Core.setLevel
  rw [Core.sysGet_sysSet_ne _ b, Core.sysGet_sysSet_ne _ a]

theorem Core.ie_setLevel (c : Core) (l k : Nat) : bit ((c.setLevel l).sysGet (bankOf k)) 2 = bit (c.sysGet (bankOf k)) 2 := by
  unfold Core.setLevel
  rcases bankOf_or k with e | e <;> rw [e]
  · rw [Core.sysGet_sysSet_ne _ (by decide), Core.sysGet_sysSet_same, bit_putBits_level]
  · rw [Core.sysGet_sysSet_same, bit_putBits_level]

/-- An empty store buffer is drained already. -/
theorem Dev.drainAll_empty (a : Tables) {d : Dev} {h : Hart} (e : (d.core h).sb = []) : d.drainAll a h = d := by
  show Dev.drainSb a 80 d h = d
  unfold Dev.drainSb Dev.drainOne
  simp only [e]

end Sys2Proof.Machine
end

