-- ==== Sys2Proof/Laws/Memory.lean ====
section
/-! SUPPORT. Laws of memory: a byte is read as it was written, every other byte stays, and the canonical form is kept by every
operation (assumption log 3). -/

namespace Sys2Proof.Machine

/-! ### Read after write -/

@[simp] theorem Memory.read_write_same (m : List Host.Cell) (a : Nat) (b : Byte) : Memory.read (Memory.write m a b) a = b :=
  Tbl.get_set_same _ m a b

theorem Memory.read_write_ne (m : List Host.Cell) {a x : Nat} (b : Byte) (n : x ≠ a) :
    Memory.read (Memory.write m a b) x = Memory.read m x := Tbl.get_set_ne _ _ m b n

/-- What memory holds after a write of several bytes: the bytes from `a` on, and elsewhere what it held. -/
theorem Memory.read_writeN (bs : List Byte) (m : List Host.Cell) (a x : Nat) :
    Memory.read (Memory.writeN m a bs) x = if a ≤ x then (bs[x - a]?).getD (Memory.read m x) else Memory.read m x := by
  induction bs generalizing m a with
  | nil => simp [Memory.writeN]
  | cons b r ih =>
    simp only [Memory.writeN, ih]
    by_cases e : x = a
    · subst e
      simp [Nat.not_succ_le_self]
    · rw [Memory.read_write_ne m b e]
      by_cases g : a + 1 ≤ x
      · have : x - a = x - (a + 1) + 1 := by omega
        simp [g, this, Nat.le_of_succ_le g]
      · have : ¬ a ≤ x := by omega
        simp [g, this]

theorem Memory.read_writeN_outside {bs : List Byte} {m : List Host.Cell} {a x : Nat} (o : x < a ∨ a + bs.length ≤ x) :
    Memory.read (Memory.writeN m a bs) x = Memory.read m x := by
  rw [Memory.read_writeN]
  split
  · rw [List.getElem?_eq_none (by omega)]
    rfl
  · rfl

/-! ### The canonical form -/

/-- The canonical form as keys that rise and values that are listed. -/
theorem Memory.wf_iff (m : List Host.Cell) :
    Memory.wf m = true ↔ m.Pairwise (fun x y => x.1 < y.1) ∧ ∀ c ∈ m, c.2 ≠ Memory.unlisted := by
  induction m with
  | nil => simp [Memory.wf]
  | cons c r ih =>
    cases r with
    | nil => simp [Memory.wf]
    | cons c' r =>
      simp only [Memory.wf, Bool.and_eq_true, decide_eq_true_eq, ih, List.pairwise_cons, List.mem_cons, forall_eq_or_imp]
      constructor
      · rintro ⟨⟨v, k⟩, ⟨f, p⟩, v', q⟩
        exact ⟨⟨⟨k, fun x hx => Nat.lt_trans k (f x hx)⟩, f, p⟩, v, v', q⟩
      · rintro ⟨⟨⟨k, -⟩, f, p⟩, v, v', q⟩
        exact ⟨⟨v, k⟩, ⟨f, p⟩, v', q⟩

theorem Tbl.put_rising {α : Type} {t : Tbl α} (p : t.Pairwise fun x y => x.1 < y.1) (k : Nat) (v : α) :
    (Tbl.put t k v).Pairwise fun x y => x.1 < y.1 := by
  induction t with
  | nil => simp [Tbl.put]
  | cons c r ih =>
    obtain ⟨f, p⟩ := List.pairwise_cons.1 p
    simp only [Tbl.put]
    split
    · rename_i h
      exact List.pairwise_cons.2 ⟨fun x hx => h ▸ f x hx, p⟩
    · split
      · rename_i h
        refine List.pairwise_cons.2 ⟨fun x hx => ?_, List.pairwise_cons.2 ⟨f, p⟩⟩
        rcases List.mem_cons.1 hx with e | e
        · exact e ▸ h
        · exact Nat.lt_trans h (f x e)
      · rename_i n h
        refine List.pairwise_cons.2 ⟨fun x hx => ?_, ih p⟩
        rcases Tbl.mem_put hx with e | e
        · subst e
          show c.1 < k
          omega
        · exact f x e

theorem Memory.wf_filter {m : List Host.Cell} (w : Memory.wf m = true) (q : Host.Cell → Bool) :
    Memory.wf (m.filter q) = true := by
  rw [Memory.wf_iff] at *
  exact ⟨w.1.filter q, fun c hc => w.2 c (List.mem_filter.1 hc).1⟩

theorem Memory.write_wf {m : List Host.Cell} (w : Memory.wf m = true) (a : Nat) (b : Byte) :
    Memory.wf (Memory.write m a b) = true := by
  unfold Memory.write Tbl.set
  split
  · exact Memory.wf_filter w _
  · rename_i n
    rw [Memory.wf_iff] at *
    refine ⟨Tbl.put_rising w.1 a b, fun c hc => ?_⟩
    rcases Tbl.mem_put hc with e | e
    · exact e ▸ n
    · exact w.2 c e

theorem Memory.writeN_wf {m : List Host.Cell} (w : Memory.wf m = true) (a : Nat) (bs : List Byte) :
    Memory.wf (Memory.writeN m a bs) = true := by
  induction bs generalizing m a with
  | nil => exact w
  | cons b r ih => exact ih (Memory.write_wf w a b) (a + 1)

/-- A stretch put in place of what memory holds there, as a run of copies does. -/
theorem Memory.putRun_wf {m run : List Host.Cell} {lo hi : Nat} (w : Memory.wf m = true) (v : Memory.wf run = true)
    (i : lo ≤ hi) (b : ∀ c ∈ run, lo ≤ c.1 ∧ c.1 < hi) : Memory.wf (Tbl.putRun m lo hi run) = true := by
  rw [Memory.wf_iff] at *
  refine ⟨?_, ?_⟩
  · refine List.pairwise_append.2 ⟨List.pairwise_append.2 ⟨w.1.filter _, v.1, ?_⟩, w.1.filter _, ?_⟩
    · intro x hx y hy
      have := (List.mem_filter.1 hx).2
      have := b y hy
      simp only [decide_eq_true_eq] at *
      omega
    · intro x hx y hy
      have h := (List.mem_filter.1 hy).2
      rcases List.mem_append.1 hx with hx | hx
      · have := (List.mem_filter.1 hx).2
        simp only [decide_eq_true_eq] at *
        omega
      · have := b x hx
        simp only [decide_eq_true_eq] at *
        omega
  · intro c hc
    simp only [Tbl.putRun, List.mem_append, List.mem_filter] at hc
    rcases hc with (hc | hc) | hc
    · exact w.2 c hc.1
    · exact v.2 c hc
    · exact w.2 c hc.1

/-- The stretch that a run of copies moves. -/
theorem Memory.moved_wf {m : List Host.Cell} (w : Memory.wf m = true) (lo hi dst : Nat) :
    Memory.wf ((m.filter fun c => decide (lo ≤ c.1) && decide (c.1 < hi)).map fun c => (c.1 + dst - lo, c.2)) = true := by
  rw [Memory.wf_iff] at *
  refine ⟨?_, ?_⟩
  · rw [List.pairwise_map]
    refine (w.1.filter _).imp_of_mem fun {x y} hx hy h => ?_
    have := (List.mem_filter.1 hx).2
    have := (List.mem_filter.1 hy).2
    simp only [Bool.and_eq_true, decide_eq_true_eq] at *
    omega
  · intro c hc
    obtain ⟨x, hx, rfl⟩ := List.mem_map.1 hc
    exact w.2 x (List.mem_filter.1 hx).1

/-- A report writes no memory. -/
@[simp] theorem Dev.report_mem (d : Dev) (s : Nat) (e : FEv) : (d.report s e).mem = d.mem := by
  unfold Dev.report Dev.reportKind
  split
  · rfl
  · dsimp only
    split
    · rfl
    · rfl

@[simp] theorem Dev.reportAt_mem (a : Tables) (d : Dev) (s src cls sub access addr : Nat) :
    (d.reportAt a s src cls sub access addr).mem = d.mem := Dev.report_mem d s _

/-- A stretch that moves keeps memory canonical. -/
theorem Dev.moveStretch_wf (a : Tables) {d : Dev} (s hub : Nat) {lo hi : Nat} (dst : Nat) (le : lo ≤ hi)
    (w : Memory.wf d.mem = true) : Memory.wf (d.moveStretch a s hub lo hi dst).mem = true := by
  have keep (l : List Nat) (d : Dev) :
      (l.foldl (fun (d : Dev) p => d.reportAt a s (0x204 + hub) 2 0xFF 13 p) d).mem = d.mem := by
    induction l generalizing d with
    | nil => rfl
    | cons p r ih => rw [List.foldl_cons, ih, Dev.reportAt_mem]
  unfold Dev.moveStretch
  simp only [keep]
  refine Memory.putRun_wf w (Memory.moved_wf w lo hi dst) (by omega) fun c hc => ?_
  obtain ⟨x, hx, rfl⟩ := List.mem_map.1 hc
  have := (List.mem_filter.1 hx).2
  simp only [Bool.and_eq_true, decide_eq_true_eq] at this
  show dst ≤ x.1 + dst - lo ∧ x.1 + dst - lo < dst + hi - lo
  omega

/-- Reset memory is canonical. -/
theorem Memory.reset_wf : Memory.wf State.reset.dev.mem = true := rfl

end Sys2Proof.Machine
end

