-- ==== Sys2Proof/Laws/RegMap.lean ====
section
/-! SUPPORT. Every register has its own addresses: the offset of an instance finds that register and no other. -/

namespace Sys2Proof.Machine

/-- The bytes that one row of an array spans. -/
def Place.width (p : Place) : Nat := (p.c2 - 1) * p.s2 + 1

/-- The strides of a place tell its instances apart. -/
def Place.sound (p : Place) : Bool :=
  (p.s1 = 0 → p.c1 = 1) && (p.s2 = 0 → p.c2 = 1) && (p.s1 = 0 || p.width ≤ p.s1)

/-- Two places share no offset: they lie one after the other, in different parts of rows of the same length, or interleaved
within a stride. -/
def Place.apart (p q : Place) : Bool :=
  p.bar ≠ q.bar || p.base + (p.c1 - 1) * p.s1 + p.width ≤ q.base || q.base + (q.c1 - 1) * q.s1 + q.width ≤ p.base ||
    (p.s1 = q.s1 && p.base % p.s1 + p.width ≤ p.s1 && q.base % p.s1 + q.width ≤ p.s1 &&
      (p.base % p.s1 + p.width ≤ q.base % p.s1 || q.base % p.s1 + q.width ≤ p.base % p.s1)) ||
    (p.s1 % p.s2 = 0 && q.s1 % p.s2 = 0 && p.s2 = q.s2 && p.base % p.s2 ≠ q.base % p.s2)

theorem Reg.index_some {r : Reg} {off i j : Nat} (h : r.index off = some (i, j)) :
    i < r.place.c1 ∧ j < r.place.c2 ∧ off = r.at i j := by
  have x := Nat.div_add_mod (off - r.place.base) r.place.s1
  have e := Nat.mul_comm r.place.s1 ((off - r.place.base) / r.place.s1)
  have y := Nat.div_add_mod ((off - r.place.base) % r.place.s1) r.place.s2
  have f := Nat.mul_comm r.place.s2 ((off - r.place.base) % r.place.s1 / r.place.s2)
  have z := Nat.div_add_mod (off - r.place.base) r.place.s2
  have g := Nat.mul_comm r.place.s2 ((off - r.place.base) / r.place.s2)
  unfold Reg.index at h
  unfold Reg.at
  by_cases l : off < r.place.base
  · simp [l] at h
  · by_cases a : r.place.s1 = 0 <;> by_cases b : r.place.s2 = 0 <;>
      simp only [l, a, b, if_true, if_false, Option.ite_none_right_eq_some, Option.some.injEq, Prod.mk.injEq] at h <;>
      obtain ⟨⟨h0, h1, h2⟩, rfl, rfl⟩ := h <;> refine ⟨h1, h2, ?_⟩
    · simp only [a, b]
      omega
    · simp only [a]
      omega
    · simp only [b]
      omega
    · omega

theorem Place.row_le {p : Place} {j : Nat} (h : j < p.c2) : j * p.s2 + 1 ≤ p.width := by
  unfold Place.width
  have := Nat.mul_le_mul_right p.s2 (show j ≤ p.c2 - 1 by omega)
  omega

theorem Reg.index_at {r : Reg} (w : r.place.sound = true) {i j : Nat} (hi : i < r.place.c1) (hj : j < r.place.c2) :
    r.index (r.at i j) = some (i, j) := by
  simp only [Place.sound, Bool.and_eq_true, decide_eq_true_eq, Bool.or_eq_true] at w
  obtain ⟨⟨w1, w2⟩, w3⟩ := w
  have row := Place.row_le hj
  unfold Reg.index Reg.at
  have o : r.place.base + i * r.place.s1 + j * r.place.s2 - r.place.base = j * r.place.s2 + r.place.s1 * i := by
    rw [Nat.mul_comm r.place.s1 i]
    omega
  have nl : ¬ r.place.base + i * r.place.s1 + j * r.place.s2 < r.place.base := by omega
  simp only [nl, if_false, o]
  have ii : (if r.place.s1 = 0 then 0 else (j * r.place.s2 + r.place.s1 * i) / r.place.s1) = i ∧
      (if r.place.s1 = 0 then j * r.place.s2 + r.place.s1 * i else (j * r.place.s2 + r.place.s1 * i) % r.place.s1) =
        j * r.place.s2 := by
    by_cases a : r.place.s1 = 0
    · have := w1 a
      simp only [a, if_true]
      constructor <;> omega
    · have lt : j * r.place.s2 < r.place.s1 := by omega
      have pos : 0 < r.place.s1 := by omega
      simp only [a, if_false]
      rw [Nat.add_mul_div_left _ _ pos, Nat.div_eq_of_lt lt, Nat.add_mul_mod_self_left, Nat.mod_eq_of_lt lt]
      omega
  simp only [ii.1, ii.2]
  by_cases b : r.place.s2 = 0
  · have := w2 b
    have j0 : j = 0 := by omega
    subst j0
    simp [b, hi, hj]
  · have pos : 0 < r.place.s2 := by omega
    simp only [b, if_false]
    rw [Nat.mul_div_cancel _ pos, Nat.mul_mod_left]
    simp [hi, hj]

theorem Reg.apart_at {r q : Reg} (h : r.place.apart q.place = true) (b : r.place.bar = q.place.bar) {i j k l : Nat}
    (hi : i < r.place.c1) (hj : j < r.place.c2) (hk : k < q.place.c1) (hl : l < q.place.c2) : r.at i j ≠ q.at k l := by
  have a1 := Place.row_le hj
  have a2 := Place.row_le hl
  have b1 := Nat.mul_le_mul_right r.place.s1 (show i ≤ r.place.c1 - 1 by omega)
  have b2 := Nat.mul_le_mul_right q.place.s1 (show k ≤ q.place.c1 - 1 by omega)
  intro e
  unfold Reg.at at e
  simp only [Place.apart, b, ne_eq, not_true, decide_false, Bool.false_or, Bool.or_eq_true, decide_eq_true_eq,
    Bool.and_eq_true] at h
  rcases h with ((h | h) | ⟨⟨⟨h, h1⟩, h2⟩, h3⟩) | ⟨⟨⟨h, h1⟩, h2⟩, h3⟩
  · omega
  · omega
  · rw [← h] at e b2
    have m : ∀ base i x, (base + i * r.place.s1 + x) % r.place.s1 = (base % r.place.s1 + x) % r.place.s1 := by
      intro base i x
      rw [show base + i * r.place.s1 + x = base + x + r.place.s1 * i by rw [Nat.mul_comm]; omega, Nat.add_mul_mod_self_left,
        Nat.mod_add_mod]
    have f := congrArg (· % r.place.s1) e
    simp only [m] at f
    have f1 : (r.place.base % r.place.s1 + j * r.place.s2) % r.place.s1 = r.place.base % r.place.s1 + j * r.place.s2 :=
      Nat.mod_eq_of_lt (by omega)
    have f2 : (q.place.base % r.place.s1 + l * q.place.s2) % r.place.s1 = q.place.base % r.place.s1 + l * q.place.s2 :=
      Nat.mod_eq_of_lt (by omega)
    rw [f1, f2] at f
    omega
  · apply h3
    rw [← h2] at e
    have m : ∀ base i s j, s % r.place.s2 = 0 → (base + i * s + j * r.place.s2) % r.place.s2 = base % r.place.s2 := by
      intro base i s j z
      rw [Nat.add_mul_mod_self_right, Nat.add_mod, Nat.mul_mod, z]
      simp
    rw [← m r.place.base i r.place.s1 j h, e, m _ _ _ _ h1]

/-- The places of the registers are sound. -/
theorem Reg.all_sound : ∀ r ∈ Reg.all, r.place.sound = true := by decide +kernel

/-- The list holds every register. -/
theorem Reg.mem_all (r : Reg) : r ∈ Reg.all := by cases r <;> decide +kernel

/-- No two registers share an offset. -/
theorem Reg.all_apart : ∀ r ∈ Reg.all, ∀ q ∈ Reg.all, r ≠ q → r.place.apart q.place = true := by decide +kernel

/-- The offset of an instance finds that register and those indices. -/
theorem Reg.find_at (r : Reg) {i j : Nat} (hi : i < r.place.c1) (hj : j < r.place.c2) :
    Reg.find r.place.bar (r.at i j) = some (r, i, j) := by
  have key : ∀ l : List Reg, (∀ q ∈ l, q ∈ Reg.all) → r ∈ l →
      (l.findSome? fun q => if q.place.bar = r.place.bar then (q.index (r.at i j)).map fun ij => (q, ij.1, ij.2) else none) =
        some (r, i, j) := by
    intro l
    induction l with
    | nil => intro _ h; cases h
    | cons q l ih =>
      intro a m
      rw [List.findSome?_cons]
      by_cases e : q = r
      · subst e
        rw [if_pos rfl, Reg.index_at (Reg.all_sound _ (Reg.mem_all _)) hi hj]
        rfl
      · have n : (if q.place.bar = r.place.bar then (q.index (r.at i j)).map fun ij => (q, ij.1, ij.2) else none) = none := by
          split
          · rename_i b
            cases x : q.index (r.at i j) with
            | none => rfl
            | some y =>
              obtain ⟨k, l'⟩ := y
              obtain ⟨y1, y2, y3⟩ := Reg.index_some x
              exact absurd y3 (Reg.apart_at (Reg.all_apart r (Reg.mem_all _) q (Reg.mem_all _) fun z => e z.symm) b.symm hi hj y1 y2)
          · rfl
        rw [n]
        exact ih (fun z hz => a z (List.mem_cons_of_mem _ hz)) ((List.mem_cons.1 m).resolve_left fun z => e z.symm)
  exact key Reg.all (fun _ h => h) (Reg.mem_all r)

end Sys2Proof.Machine
end

