-- ==== Sys2Proof/Laws/Trap.lean ====
section
/-! SUPPORT. The spec lemma of taking a trap. -/

namespace Sys2Proof.Machine

/-- The core of an entry by a trap: the frame pushed, the stack pointer moved, IE cleared, the level and the PC set. -/
def Core.afterTrap (c e : Core) (h : Hart) (lvl pa : Nat) (cause tval epc : Word) : Core :=
  let bank := bankOf lvl
  let x := e.pushStore (storeEntry (c.frameAt lvl) pa 64 (c.saveFrame lvl epc cause tval) false false) false
  let x := x.sysSet (bank + 3) (c.frameAt lvl)
  let x := x.sysSet bank (putBit (x.sysGet bank) 2 false)
  (x.setLevel (levelIn h lvl)).jump (c.sysGet (bank + 1) &&& ~~~ (3 : Word))

theorem Core.atRest_afterTrap (c e : Core) (h : Hart) (lvl pa : Nat) (cause tval epc : Word) :
    (c.afterTrap e h lvl pa cause tval epc).atRest = e.atRest := by
  simp only [Core.afterTrap, Core.atRest_jump, Core.atRest_setLevel, Core.atRest_sysSet, Core.atRest_pushStore]

@[simp] theorem Core.afterTrap_pc (c e : Core) (h : Hart) (lvl pa : Nat) (cause tval epc : Word) :
    (c.afterTrap e h lvl pa cause tval epc).pc = c.sysGet (bankOf lvl + 1) &&& ~~~ (3 : Word) := rfl

theorem Core.afterTrap_ie (c e : Core) (h : Hart) (lvl pa : Nat) (cause tval epc : Word) :
    bit ((c.afterTrap e h lvl pa cause tval epc).sysGet (bankOf lvl)) 2 = false := by
  have n : bankOf lvl ≠ 0x213 := by rcases bankOf_or lvl with e | e <;> rw [e] <;> decide
  unfold Core.afterTrap
  simp only [Core.sysGet_jump n, Core.ie_setLevel, Core.sysGet_sysSet_same, bit_putBit_ie]

theorem Core.afterTrap_entered (c e : Core) (h : Hart) (lvl pa : Nat) (cause tval epc : Word) :
    c.entered e (c.afterTrap e h lvl pa cause tval epc) h lvl pa cause tval epc := by
  have b : bankOf lvl + 3 ≠ 0x213 ∧ bankOf lvl + 3 ≠ 0x100 ∧ bankOf lvl + 3 ≠ 0x200 ∧ bankOf lvl + 3 ≠ bankOf lvl := by
    rcases bankOf_or lvl with e | e <;> rw [e] <;> decide
  have l : levelIn h lvl < 4 := by
    unfold levelIn
    split
    · omega
    · split <;> omega
  refine ⟨?_, ?_, ?_, ?_, ?_, ?_⟩
  · exact Core.jump_keeps Core.sb (fun _ _ _ => rfl) (fun _ _ => rfl) _ _
  · unfold Core.afterTrap
    simp only [Core.sysGet_jump b.1, Core.sysGet_setLevel _ _ b.2.1 b.2.2.1, Core.sysGet_sysSet_ne _ b.2.2.2, Core.sysGet_sysSet_same]
  · show bits ((c.afterTrap e h lvl pa cause tval epc).sysGet 0x100) 1 0 = _
    unfold Core.afterTrap
    simp only [Core.sysGet_jump (show 0x100 ≠ 0x213 by decide)]
    exact Core.level_setLevel _ l
  · exact (Core.jump_keeps Core.g (fun _ _ _ => rfl) (fun _ _ => rfl) _ _).trans
      (Core.pushStore_keeps Core.g (fun _ _ => rfl) _ _ _)
  · exact (Core.jump_keeps Core.v (fun _ _ _ => rfl) (fun _ _ => rfl) _ _).trans
      (Core.pushStore_keeps Core.v (fun _ _ => rfl) _ _ _)
  · exact (Core.jump_keeps Core.p (fun _ _ _ => rfl) (fun _ _ => rfl) _ _).trans
      (Core.pushStore_keeps Core.p (fun _ _ => rfl) _ _ _)

/-- An entry whose frame fits is done. -/
theorem Dev.enter_fits (s : State) (d0 d : Dev) (h : Hart) (lvl pa : Nat) (cause tval epc : Word)
    (ft : s.frameFits d0 h lvl pa d) :
    d0.enter s.adm.tab h lvl cause tval epc none =
      (.done, d.onCore h fun e => (d0.core h).afterTrap e h lvl pa cause tval epc) := by
  obtain ⟨al, -, d1, dev, ck, rm⟩ := ft
  have al' : ((d0.core h).sysGet (bankOf lvl + 3) - 64).toNat % 64 = 0 := al
  have ck' : d0.check s.adm.tab h lvl .store ((d0.core h).sysGet (bankOf lvl + 3) - 64) 64 false = (.go [(pa, 64)] dev, d1) := ck
  unfold Dev.enter
  simp only [al', ck', rm, ne_eq, not_true, if_false]
  rfl

theorem State.trapLevel_faultMet (s : State) (h : Hart) (f : Flt) :
    ((s.faultMet h f).core h).trapLevel h f.cause = ((s.dev.fltReport s.adm.tab h f).core h).trapLevel h f.cause := by
  unfold State.faultMet
  dsimp only
  split
  · rw [Dev.core_onCore_same]
    unfold Core.trapLevel Core.level
    rw [Core.sysGet_event (by decide), Core.sysGet_event (by decide)]
  · rfl

/-- What a fault whose frame fits does: the one thing every trap entry does (R103). -/
theorem State.fault_fits (s : State) (h : Hart) (pa : Nat) (d : Dev) (f : Flt) (epc : Word) (ft : s.trapFits h f pa d) :
    (s.dev.fault s.adm.tab h f epc).finish s.adm = d.onCore h fun e =>
      ((s.faultMet h f).core h).afterTrap e h (((s.faultMet h f).core h).trapLevel h f.cause) pa (word f.cause) f.tval epc := by
  obtain ⟨sel, fits⟩ := ft
  have sel' : s.dev.select h (s.dev.core h).takeState = none := sel
  unfold Dev.fault
  rw [sel']
  dsimp only
  unfold Dev.takeTrap
  rw [← s.trapLevel_faultMet h f]
  have en := Dev.enter_fits s _ d h _ pa (word f.cause) f.tval epc fits
  have fm : (if f.cause = 0x0A then (s.dev.fltReport s.adm.tab h f).onCore h fun c => c.event 0x13 1 c.pc
      else s.dev.fltReport s.adm.tab h f) = s.faultMet h f := rfl
  dsimp only
  rw [fm, en]
  exact Dev.finish_rest _ (Dev.quiet_onCore fits.2.1 h _ fun c hc => by rw [Core.atRest_afterTrap]; exact hc)

end Sys2Proof.Machine
end

