-- ==== Sys2Proof/Machine/Arrays.lean ====
section
/-! DEFINITION. Errors of the SRAM arrays (R174, R365, R368 to R370, and the array table of chapter 15). The opcode table has no
row for such an error, so no command calls these (assumption log 13). -/

namespace Sys2Proof.Machine

/-- The berth whose mask holds a slice way (R368); 0 when none does. -/
def Tables.wayOwner (t : Tables) (s : Sock) (w : Nat) : Nat :=
  match (List.range 64).find? fun b => (Tbl.get 0 t.ways (s.val * 64 + b)).getLsbD w with
  | some b => b
  | none => 0

/-- An uncorrectable slice tag or directory record: Fatal-berth for the way's berth, and the way is fenced (R249, R368). -/
def Dev.sliceTagError (a : Tables) (d : Dev) (s : Sock) (p : Fin 104) (w : Fin 16) : Dev :=
  (d.reportUnit s (0x100 + p.val) 7 w.val (a.wayOwner s w) 0 0).fenceWay a s p w

/-- An uncorrectable private-cache tag or state, or register file: Fatal-berth for the core's berth, and the core is fenced
(R368). -/
def Dev.coreTagError (a : Tables) (d : Dev) (h : Hart) : Dev :=
  (d.reportUnit h.sock h.core 7 0xFF (a.berthOfPod h.sock (podOf h)) 0 0).fenceCore a h

/-- The L1I way that holds a line fails its parity: the line is invalidated, and its next fetch misses (R174). A correction, as any
in an array, is reported as Corrected (R370). -/
def Dev.l1iParity (d : Dev) (h : Hart) (way : Nat) : Dev :=
  (d.onCore h fun c => { c with l1i := Tbl.erase c.l1i way }).reportUnit h.sock h.core 0 0xFF 0 0 0

/-- A line of L1D after an uncorrectable error (R174): a clean one is invalidated and its access misses, a dirty one is poisoned. -/
def Core.lineErrorD (c : Core) (la : Nat) : Core :=
  match c.findD la with
  | none => c
  | some k =>
    match Tbl.find c.l1d k with
    | some e =>
      if e.dirty then { c with l1d := Tbl.put c.l1d k { e with line := { e.line with poison := true } } }
      else { c with l1d := Tbl.erase c.l1d k }.leftD la
    | none => c

/-- An error in the data of an L1D line (R174): corrected in the read and in the array, or as `Core.lineErrorD`; poison made is
reported as Deferred. -/
def Dev.l1dError (d : Dev) (h : Hart) (la : Nat) (correctable : Bool) : Dev :=
  if correctable then d.reportUnit h.sock h.core 0 0xFF 0 0 (la * 64)
  else (d.onCore h fun c => c.lineErrorD la).reportUnit h.sock h.core 2 0xFF 0 0 (la * 64)

/-- An error in the data of an L2 line (R174): a clean line is invalidated with its L1 copies, as an eviction does, and its access
misses; a dirty one is poisoned. -/
def Dev.l2Error (a : Tables) (d : Dev) (h : Hart) (la : Nat) (correctable : Bool) : Dev :=
  if correctable then d.reportUnit h.sock h.core 0 0xFF 0 0 (la * 64)
  else
    let d := match (d.core h).line2 la with
      | some e =>
        if e.dirty then d.onCore h fun c =>
          match c.find2 la with
          | some k => { c with l2 := Tbl.put c.l2 k { e with line := { e.line with poison := true } } }
          | none => c
        else d.evict2 a h la
      | none => d
    d.reportUnit h.sock h.core 2 0xFF 0 0 (la * 64)

/-- An uncorrectable crossing-directory entry: its way of the set is fenced, and the set is unknown until WARM reset
(R369). -/
def Dev.xdirError (d : Dev) (s : Sock) (u : Fin 2) (set : Fin 131072) (w : Fin 16) : Dev :=
  let d := d.dropX s u (set.val * 16 + w.val)
  let d := d.onHub s u fun h =>
    { h with
      badWays := Tbl.set 0 h.badWays set.val (Tbl.get 0 h.badWays set.val ||| 2 ^ w.val)
      unknown := if h.unknown.contains set.val then h.unknown else set.val :: h.unknown }
  d.reportUnit s (0x202 + u.val) 6 0xFF 0 0 0

/-- An uncorrectable line of the remap cache: each entry of the set is filled from the table again, HEAT and STAMP zero. -/
def Dev.remapCacheError (d : Dev) (t : Tier) (set : Nat) : Dev :=
  (List.range 8).foldl (fun d i =>
    let f := t.frame set i
    d.setEntryCache t.sock t.hub f { d.entry t.sock t.hub f with heat := 0, stamp := 0 }) d

/-- A heat-cache entry with bad parity: it is invalidated, and the page's heat is lost. -/
def Dev.heatCacheError (d : Dev) (s hub pa : Nat) : Dev := d.onHub s hub fun h => h.dropHeat pa

/-- A correctable error that recurs three times within one millisecond in one row or column is reported (R370), and Hepin
starts the soft repair. -/
def Dev.recurringError (d : Dev) (s src sub addr : Nat) : Dev := d.reportUnit s src 0 sub 0 0 addr

end Sys2Proof.Machine
end

