-- ==== Sys2Proof/Machine/Timing.lean ====
section
/-! DEFINITION. The timing figures as functions (R166, R186, R193 to R205, R263, R303, R542). No step
reads them: a command is one whole step whatever it costs (assumption log 15). -/

namespace Sys2Proof.Machine

/-- Quotient rounded up. -/
def ceilDiv (n d : Nat) : Nat := (n + d - 1) / d

/-! ### Instruction latency (R194 to R197) -/

/-- Latency in core cycles and instructions issued per core cycle (0: one every latency) of a register-to-register instruction
(R194); none for the others. -/
def insnTiming (i : Instr) : Option (Nat × Nat) :=
  match i with
  | .add .. | .sub .. | .and .. | .or .. | .xor .. | .andn .. | .sll .. | .srl .. | .sra .. | .rotr .. | .slt .. | .sltu ..
  | .min .. | .max .. | .minu .. | .maxu .. | .sextb .. | .sexth .. | .sextw .. | .zextw .. | .addi .. | .andi .. | .ori ..
  | .xori .. | .slti .. | .sltiu .. | .slli .. | .srli .. | .srai .. | .rori .. | .setq .. | .insq .. => some (1, 6)
  | .mul .. => some (3, 1)
  | .mulh .. | .mulhu .. => some (4, 1)
  | .div .. | .divu .. | .rem .. | .remu .. => some (20, 0)
  | .crc32cB .. | .crc32cH .. | .crc32cW .. | .crc32cD .. | .crc64B .. | .crc64H .. | .crc64W .. | .crc64D .. => some (3, 2)
  | .hmix .. => some (6, 2)
  | .popc .. | .clz .. | .ctz .. | .bswap .. => some (1, 2)
  | .selb .. => some (3, 2)
  | .fadd .. | .fsub .. | .fmul .. => some (4, 2)
  | .fma .. | .fms .. | .fnma .. | .fnms .. => some (5, 2)
  | .feq .. | .flt .. | .fle .. | .fmin .. | .fmax .. => some (2, 2)
  | .fcvtI .. | .fcvtF .. | .fcvtW .. => some (4, 2)
  | .fdiv _ dbl _ _ _ => some (if dbl then 18 else 12, 0)
  | .fsqrt _ dbl _ _ => some (if dbl then 24 else 16, 0)
  | .vadd .. | .vsub .. | .vand .. | .vor .. | .vxor .. | .vshl .. | .vshr .. | .vsra .. | .vmin .. | .vmax .. | .vminu ..
  | .vmaxu .. | .vsel .. => some (2, 2)
  | .vmul .. => some (5, 2)
  | .vpopc .. => some (3, 2)
  | .vfadd .. | .vfsub .. | .vfmul .. | .vfmin .. | .vfmax .. => some (4, 2)
  | .vfdiv _ o => some (if o.w = 2 then 14 else 22, 0)
  | .vcmp _ _ toG _ => some (if toG then 3 else 2, 2)
  | .vbcast .. | .vext .. | .vins .. => some (3, 2)
  | .vcomp .. => some (4, 1)
  | .pand .. | .por .. | .pxor .. | .pnot .. | .pmov .. | .pget .. | .pcnt .. => some (1, 2)
  | .bc .. | .bz .. | .j .. | .jal .. | .jalr .. | .skip .. => some (1, 2)
  | _ => none

/-- Latency of a load that hits L1D or forwards: one core cycle more for a vector, one for a line split and two for a page
split (R195, R202). -/
def loadLatency (vec lineSplit pageSplit : Bool) : Nat := 4 + vec.toNat + (if pageSplit then 2 else lineSplit.toNat)

/-- A split access completes one core cycle after the later of its parts (R202). -/
def splitLatency (first second : Nat) : Nat := Nat.max first second + 1

/-- Latency of VGATH with `n` active elements that hit (R195). -/
def gatherLatency (n : Nat) : Nat := 4 + ceilDiv n 4

/-- Core cycles until the address of the last of `n` scattered elements is known (R195). -/
def scatterCycles (n : Nat) : Nat := ceilDiv n 2

/-- Latency of VUNPK whose read touches `lines` lines (R195). -/
def unpackLatency (lines : Nat) : Nat := 5 + lines

/-- Core cycles of a mispredict, from resolution to the first issue on the correct path (R166, R197). -/
def mispredictCycles : Nat := 23

/-- Core cycles from retirement of SYSW, TLBI or FENCE.I to the next issue (R197). -/
def serialCycles : Nat := 12

/-- Core cycles of SYSR by register (R197). -/
def sysrCycles (n : Nat) : Nat := if n = 0x001 then 1 else if n = 0x011 then 8 else 3

/-- Core cycles of a synchronous trap's entry, of an interrupt's entry, of TRET and of a chained handler (R197). -/
def entryCycles : Nat × Nat × Nat × Nat := (12, 18, 17, 6)

/-- Core cycles to invalidate all: the L1 walks in parallel, then the walk of L2, two more for each dirty line (R186). -/
def invalidateCycles (dirtyD dirtyL2 : Nat) : Nat := Nat.max 1024 (1024 + 2 * dirtyD) + (16384 + 2 * dirtyL2)

/-! ### Paths through the socket (R198 to R204) -/

/-- The parts of an access: core cycles, mesh cycles, hub cycles, DRAM clock cycles, root periods of a completer. -/
structure Parts where
  c : Nat
  u : Nat
  h : Nat
  k : Nat
  p : Nat
  deriving DecidableEq, Repr

/-- Core cycles of an access at core divisor `d` and DRAM divisor `dd` (R198). -/
def Parts.cycles (x : Parts) (d dd : Nat) : Nat := x.c + ceilDiv (4 * x.u + 6 * x.h + dd * x.k + x.p) d

/-- The same in a supply dip: the dividers of core, mesh and hub double, and every count stays (R220, R466). -/
def Parts.dipCycles (x : Parts) (d dd : Nat) : Nat := x.c + ceilDiv (8 * x.u + 12 * x.h + dd * x.k + x.p) (2 * d)

/-- Root periods of a response time of `tenths` tenths of a nanosecond: ⌈9.6 × E⌉ (R198). -/
def responsePeriods (tenths : Nat) : Nat := ceilDiv (96 * tenths) 100

/-- The mesh cycles of a memory access from landing `r` with home slice at `s` on a hub (R199). -/
def memoryMesh (hub r s : Nat) : Nat := 12 + meshCost r s + meshCost s (exitBridge hub s) + meshCost (entryBridge hub r) r

/-- A peer core in the pod, the line homed on the pod's own slice. -/
def peerParts : Parts := { c := 18, u := 6, h := 0, k := 0, p := 0 }

/-- A hit in the home slice. -/
def sliceParts (r s : Nat) : Parts := { c := 14, u := 12 + meshCost r s + meshCost s r, h := 0, k := 0, p := 0 }

/-- A far atomic at the home slice. -/
def farAtomicParts (r s : Nat) : Parts := { c := 10, u := 10 + meshCost r s + meshCost s r, h := 0, k := 0, p := 0 }

/-- The near tier. -/
def nearParts (hub r s : Nat) (rowHit : Bool) : Parts :=
  { c := 14, u := memoryMesh hub r s, h := if rowHit then 40 else 64, k := 0, p := 0 }

/-- The far tier at DDR5-6400, or at DDR5-4800 when `slow`. -/
def farParts (hub r s : Nat) (rowHit slow : Bool) : Parts :=
  { c := 14, u := memoryMesh hub r s, h := 20, k := if slow then (if rowHit then 48 else 88) else if rowHit then 60 else 112, p := 0 }

/-- A CXL expander that responds in `tenths` tenths of a nanosecond. -/
def cxlParts (hub r s tenths : Nat) : Parts :=
  { c := 14, u := memoryMesh hub r s, h := 32, k := 0, p := responsePeriods tenths }

/-- A device load from the register space of the own socket. -/
def regParts (hub r : Nat) : Parts :=
  { c := 6, u := 8 + meshCost r (exitBridge hub r) + meshCost (entryBridge hub r) r, h := 24, k := 0, p := 0 }

/-- A device load from the landing block of the requester's own landing. -/
def ownLandingParts : Parts := { c := 6, u := 4, h := 0, k := 0, p := 0 }

/-- A device load from an endpoint's BAR. -/
def barParts (hub r tenths : Nat) : Parts := { regParts hub r with h := 32, p := responsePeriods tenths }

/-- An access whose home is `k` hops away, on the other hub than its route's link when `turn` (R201). -/
def Parts.remote (x : Parts) (k : Nat) (turn : Bool) : Parts :=
  if k = 0 then x
  else { x with h := x.h + (64 * k - 6) + (if turn then 6 else 0), u := x.u + (if turn then 32 else 0) }

/-- The outbound part of a device access to register space `k` hops away, after which its target block counts it as
arrived (R542). -/
def outboundParts (hub r k : Nat) (turn : Bool) : Parts :=
  { c := 3, u := 4 + meshCost r (exitBridge hub r) + (if k ≠ 0 && turn then 16 else 0)
    h := 12 + (32 * k - 3) + (if k ≠ 0 && turn then 3 else 0), k := 0, p := 0 }

/-- Hub cycles of one link traversal whose one-way flight takes `ps` picoseconds (R303). -/
def linkHubCycles (ps : Nat) : Nat := 26 + ceilDiv (ps - 2500) 625

/-- A table walk that reads levels of the given costs: each is a load and two core cycles more (R203). -/
def walkCycles (levels : List Nat) : Nat := levels.foldl (fun n l => n + l + 2) 0

/-- Hub cycles that events add to an access (R204): a far-tier correction, a near-tier correction, GDDR6 retries, a miss of the
remap cache, a near-tier miss in CACHE mode. -/
def addedHub (far near : Bool) (retries : Nat) (remap cacheMiss : Bool) : Nat :=
  4 * far.toNat + 2 * near.toNat + 20 * Nat.min 4 retries + 52 * remap.toNat + 56 * cacheMiss.toNat

/-- The mesh cycles that an invalidation of the pods at landings `ps`, in send order, adds (R263). -/
def invalidateMesh (s : Nat) (ps : List Nat) : Nat :=
  (List.range ps.length).foldl (fun w j => Nat.max w (j + meshCost s (ps.getD j 0) + 4 + meshCost (ps.getD j 0) s)) 0

/-- RDM of a socket-exclusive entry that invalidates shared copies (R263). -/
def rdmParts (r s : Nat) (ps : List Nat) : Parts :=
  { c := 14, u := 12 + meshCost r s + invalidateMesh s ps + meshCost s r, h := 0, k := 0, p := 0 }

/-! ### Waits under shares (R205) -/

/-- The grant slots within which a request with `q` of its berth's own ahead is granted, at an arbiter of `g` slots an epoch and
share `s`; none for share 0. -/
def waitBound (s g q : Nat) : Option Nat := if s = 0 then none else some ((q + 2) * ceilDiv g (Nat.max 1 (s * g / 256)))

end Sys2Proof.Machine
end

