-- ==== Sys2Proof/WellFormed.lean ====
section
/-! DEFINITION. Which commands the hardware can be given: operands that the operand types alone do not rule out. -/

namespace Sys2Proof

/-- Whether a command is one the hardware can be given. -/
def Instr.wf : Instr → Bool
  | .vsel _ o => !o.z
  | .vfadd _ o | .vfsub _ o | .vfmul _ o | .vfdiv _ o | .vfmin _ o | .vfmax _ o => 2 ≤ o.w.val
  | .vgath _ _ _ _ _ w _ | .vscatt _ _ _ _ _ w _ => 2 ≤ w.val
  | .vcmp _ o d _ => !o.z && (d || o.vd.toNat < 8)
  | .illegalInstruction _ w => !legalWord w
  | .interruptMessage _ _ _ len _ _ => 1 ≤ len && len ≤ 64
  | .dmaRead r => 1 ≤ r.len && r.len ≤ 4096
  | .dmaWrite r bs _ => bs.length = r.len && 1 ≤ r.len && r.len ≤ 512
  | .peerRequest r wr bs => !wr || bs.length = r.len
  | .remapCacheFill _ _ set => set < 458752
  | .softPpr _ _ _ _ _ _ row => row.toNat < 2 ^ 18
  | _ => true

end Sys2Proof
end

