-- ==== Sys2Proof/Tests/Slice0.lean ====
section
/-! SUPPORT. Tests: WellFormed's smoke tests, words written out from the encodings, small instruction tests whose expected values
come from the spec or from hand calculation, and for every statement with hypotheses states and operands that meet them. -/

set_option Elab.async false

namespace Sys2Proof.Tests
open Sys2Proof Sys2Proof.Machine

/-! ### Small states -/

/-- Core 0 of socket 0. -/
def hA : Hart := { sock := 0, core := 0 }

/-- The reset state with another device part. -/
def st (f : Dev → Dev) : State := State.reset.withDev (f State.reset.dev)

/-- The reset state with core 0 of socket 0 running at 0x1000, changed by `f`. -/
def run (f : Core → Core) : State := st fun d => d.onCore hA fun c => f { c with run := .running, pc := 0x1000 }

/-- What `f` reads from the state that a command answers. -/
def after {α : Type} (c : Instr) (s : State) (dflt : α) (f : State → α) : α :=
  match exec c s with
  | .next t => f t
  | _ => dflt

/-- A g register of core 0 after a command. -/
def g (r : GReg) (c : Instr) (s : State) : Word := after c s 0xDEAD fun t => (t.core hA).getG r

/-! ### WellFormed refuses each ill-formed term -/

/-- V-format operands with width code `w` and Z. -/
def vop (w : Fin 4) (z : Bool) : VOp := { vd := 8, va := 2, vb := 3, pg := 1, w, z }

/-- A device request of `len` bytes. -/
def dma (len : Nat) : DmaReq := { sock := 0, port := 0, addr := 0, len, translated := false, pasid := false, relaxed := false }

/-- A requester of the Wheelhouse view. -/
def qW : Requester := { master := 0xF00, berth := 0, high := true }

theorem test_wf_vsel : (Instr.vsel hA (vop 2 true)).wf = false ∧ (Instr.vsel hA (vop 2 false)).wf = true := by decide
theorem test_wf_vfadd : (Instr.vfadd hA (vop 1 false)).wf = false ∧ (Instr.vfadd hA (vop 2 false)).wf = true := by decide
theorem test_wf_vgath : (Instr.vgath hA 1 2 3 1 1 0).wf = false ∧ (Instr.vgath hA 1 2 3 1 2 0).wf = true := by decide
theorem test_wf_vcmp : (Instr.vcmp hA (vop 2 false) false 0).wf = false ∧ (Instr.vcmp hA (vop 2 true) true 0).wf = false ∧
    (Instr.vcmp hA (vop 2 false) true 0).wf = true := by decide
theorem test_wf_illegal : (Instr.illegalInstruction hA 0x04000000).wf = false ∧ (Instr.illegalInstruction hA 0).wf = true := by decide
theorem test_wf_interrupt : (Instr.interruptMessage qW 0 0 0 16 false).wf = false ∧ (Instr.interruptMessage qW 0 0 65 16 false).wf = false ∧
    (Instr.interruptMessage qW 0 0 64 16 false).wf = true := by decide
theorem test_wf_dmaRead : (Instr.dmaRead (dma 0)).wf = false ∧ (Instr.dmaRead (dma 4097)).wf = false ∧
    (Instr.dmaRead (dma 4096)).wf = true := by decide
theorem test_wf_dmaWrite : (Instr.dmaWrite (dma 2) [0] false).wf = false ∧ (Instr.dmaWrite (dma 0) [] false).wf = false ∧
    (Instr.dmaWrite (dma 1) [0] false).wf = true := by decide
theorem test_wf_peer : (Instr.peerRequest (dma 2) true [0]).wf = false ∧ (Instr.peerRequest (dma 1) true [0]).wf = true := by decide
theorem test_wf_remap : (Instr.remapCacheFill 0 0 458752).wf = false ∧ (Instr.remapCacheFill 0 0 458751).wf = true := by decide
theorem test_wf_row : (Instr.softPpr 0 0 0 0 0 0 0x3FFFF).wf = true := by decide

/-! ### Listed words, written out from the encodings of chapter 03 -/

/-- ADD g3, g1, g2: major 0x01, rd 3, ra 1, rb 2, func 0. -/
theorem test_word_add : legalWord 0b000001_00011_00001_00010_00000000000 = true := by decide
/-- The words that R55 names. -/
theorem test_word_named : legalWord 0 = false ∧ legalWord 0xFFFFFFFF = false := by decide
/-- ADD with func 0x00F, and SEXTB (func 0x020) with a non-zero rb field. -/
theorem test_word_func : legalWord 0b000001_00011_00001_00010_00000001111 = false ∧
    legalWord 0b000001_00011_00001_00010_00000100000 = false := by decide
/-- An atomic other than a minimum or maximum with bit 7 set. -/
theorem test_word_atomic : legalWord 0b100000_00011_00001_00010_000_1_1_00_0000 = false ∧
    legalWord 0b100000_00011_00001_00010_100_1_1_00_0000 = true := by decide
/-- TRET, and TRET with a non-zero rd field. -/
theorem test_word_tret : legalWord 0b111010_00000_00000_00000_00000010000 = true ∧
    legalWord 0b111010_00001_00000_00000_00000010000 = false := by decide
/-- No row of the opcode table has bits. -/
theorem test_decode : decodeTableWord 32 0x04000000 = none := rfl

/-! ### Instructions: expected values computed by hand or given by the spec -/

theorem test_add_wraps : g 3 (.add hA 3 1 2) (run fun c => (c.setG 1 (-1)).setG 2 2) = 1 := by decide +kernel
theorem test_add_source_is_destination : g 1 (.add hA 1 1 1) (run fun c => c.setG 1 0x8000000000000001) = 2 := by decide +kernel
theorem test_sra : g 3 (.sra hA 3 1 2) (run fun c => (c.setG 1 0x8000000000000000).setG 2 0x47) = 0xFF00000000000000 := by decide +kernel
theorem test_rotr : g 3 (.rotr hA 3 1 2) (run fun c => (c.setG 1 1).setG 2 1) = 0x8000000000000000 := by decide +kernel
theorem test_mulh : g 3 (.mulh hA 3 1 2) (run fun c => (c.setG 1 (-1)).setG 2 2) = -1 := by decide +kernel
theorem test_mulhu : g 3 (.mulhu hA 3 1 2) (run fun c => (c.setG 1 (-1)).setG 2 2) = 1 := by decide +kernel
theorem test_div_truncates : g 3 (.div hA 3 1 2) (run fun c => (c.setG 1 (-7)).setG 2 2) = -3 := by decide +kernel
theorem test_rem_sign : g 3 (.rem hA 3 1 2) (run fun c => (c.setG 1 (-7)).setG 2 2) = -1 := by decide +kernel
theorem test_insq : g 3 (.insq hA 3 2 0xBEEF) (run fun c => c.setG 3 (-1)) = 0xFFFFBEEFFFFFFFFF := by decide +kernel
theorem test_setq_sign : g 3 (.setq hA 3 1 0x8000) (run id) = 0xFFFFFFFF80000000 := by decide +kernel
/-- R73's example. -/
theorem test_selb : g 3 (.selb hA 3 1 2) (run fun c => (c.setG 1 0xB4).setG 2 2) = 5 := by decide +kernel
/-- R71's check value: the nine ASCII bytes from 0xFFFF_FFFF, inverted (eight as one step, then the ninth). -/
theorem test_crc32c :
    g 3 (.crc32cB hA 3 1 2) (run fun c => (c.setG 1 (crcStep polyC 32 8 0xFFFFFFFF 0x3837363534333231)).setG 2 0x39) ^^^ 0xFFFFFFFF =
      0xE3069283 := by decide +kernel
/-- R71's check value of CRC64. -/
theorem test_crc64 :
    g 3 (.crc64B hA 3 1 2) (run fun c => (c.setG 1 (crcStep poly64 64 8 (-1) 0x3837363534333231)).setG 2 0x39) ^^^ (-1) =
      0x995DC9BBDF1939FA := by decide +kernel
/-- 1.5 + 2.25 in double precision. -/
theorem test_fadd : g 3 (.fadd hA true 3 1 2) (run fun c => (c.setG 1 0x3FF8000000000000).setG 2 0x4002000000000000) =
    0x400E000000000000 := by decide +kernel
/-- 1 / 3 rounds to nearest even, and is inexact (NX is bit 0). -/
theorem test_fdiv : after (.fdiv hA true 3 1 2) (run fun c => (c.setG 1 0x3FF0000000000000).setG 2 0x4008000000000000) (0, 0)
    (fun t => ((t.core hA).getG 3, bits ((t.core hA).sysGet 0x010) 4 0)) = (0x3FD5555555555555, 1) := by decide +kernel
/-- VADD of bytes wraps in each element, and an inactive element is zero with Z. -/
theorem test_vadd : after (.vadd hA { vop 0 true with vd := 1 })
    (run fun c => ((c.setV 2 0xFF01).setV 3 0x0202).setP 1 1) 1 (fun t => (t.core hA).getV 1) = 0x03 := by decide +kernel
/-- A branch that is taken backwards, and one that is not taken. -/
theorem test_bz : after (.bz hA 1 0 false (-2)) (run id) (0, 0) (fun t => ((t.core hA).pc, (t.core hA).getG 1)) = (0xFF8, 0) ∧
    after (.bz hA 1 1 false (-2)) (run id) 0 (fun t => (t.core hA).pc) = 0x1004 := by decide +kernel
/-- TRAP enters level H with EPC the next instruction: the vector is 0x2000, the frame lies 64 bytes below 0x4000. -/
theorem test_trap : after (.trap hA 7) (run fun c => (c.sysSet 0x201 0x2000).sysSet 0x203 0x4000) (0, 0, 0)
    (fun t => ((t.core hA).pc, (t.core hA).sysGet 0x203,
      ((t.core hA).sb.map fun (e : SbEntry) => lineWord e.data 0).headD 0)) = (0x2000, 0x3FC0, 0x1004) := by decide +kernel

/-! ### Witnesses: states and operands that meet the hypotheses of each statement -/

/-- Whether core 0 has a load at hand (`State.loadHit`). -/
def hits (s : State) (va : Word) (n : Nat) (plain : Bool) : Bool :=
  match s.dev.check s.adm.tab hA (s.core hA).level .load va n plain with
  | (.go ps false, d1) =>
    match d1.loadParts s.adm.tab hA ps with
    | (some vs, d) => !(d1.core hA).atomOut && (firstPoison va ps vs).isNone && d.quiet
    | _ => false
  | _ => false

theorem hits_ok {s : State} {va : Word} {n : Nat} {plain : Bool} (w : hits s va n plain = true) :
    ∃ ps vs d, s.loadHit hA va n plain ps vs d := by
  unfold hits at w
  split at w
  · rename_i ps d1 e
    split at w
    · rename_i vs d f
      simp only [Bool.and_eq_true, Option.isNone_iff_eq_none, Bool.not_eq_true'] at w
      exact ⟨ps, vs, d, d1, e, w.1.1, f, w.1.2, w.2⟩
    · cases w
  · cases w

/-- Whether a store of core 0 fits (`State.storeFits`). -/
def fits (s : State) (va : Word) (n : Nat) : Bool :=
  match s.dev.check s.adm.tab hA (s.core hA).level .store va n true with
  | (.go ps false, d1) =>
    match d1.sbRoom s.adm.tab drainFuel hA ps.length with
    | (true, d2) => ((d2.onCore hA fun c => c.storeEvents ps c.pc).ownEarly s.adm.tab hA ps).quiet
    | _ => false
  | _ => false

theorem fits_ok {s : State} {va : Word} {n : Nat} (w : fits s va n = true) : ∃ ps d, s.storeFits hA va n ps d := by
  unfold fits at w
  split at w
  · rename_i ps d1 e
    split at w
    · rename_i d2 f
      exact ⟨ps, _, d1, d2, e, f, rfl, w⟩
    · cases w
  · cases w

/-- Whether core 0 has an atomic's line (`State.atomHit`). -/
def atomHits (s : State) (va : Word) (n : Nat) : Bool :=
  match s.dev.check s.adm.tab hA (s.core hA).level .atomic va n false with
  | (.go [(pa, m)] _, d1) =>
    let d2 := d1.drainAll s.adm.tab hA
    let x := d2.ownLine s.adm.tab hA pa 1
    match (x.2.core hA).copyOf (lineOf pa) with
    | some l => decide (va.toNat % n = 0) && decide (m = n) && decide (pa % n = 0) && (d2.core hA).sb.isEmpty &&
        !d2.runsFar s.adm.tab hA pa && x.1 && !l.poison && x.2.quiet
    | none => false
  | _ => false

theorem atomHits_ok {s : State} {va : Word} {n : Nat} (w : atomHits s va n = true) : ∃ pa l d, s.atomHit hA va n pa l d := by
  unfold atomHits at w
  split at w
  · rename_i pa m dev d1 e
    dsimp only at w
    split at w
    · rename_i l f
      simp only [Bool.and_eq_true, decide_eq_true_eq, List.isEmpty_iff, Bool.not_eq_true'] at w
      obtain ⟨⟨⟨⟨⟨⟨⟨al, hm⟩, ap⟩, sb⟩, far⟩, own⟩, po⟩, q⟩ := w
      subst hm
      exact ⟨pa, l, _, al, ap, d1, _, dev, e, rfl, sb, far, Prod.ext own rfl, f, po, q⟩
    · cases w
  · cases w

/-- Tables in which berth 1 has pod 0 of socket 0, every way there, and the first GiB. -/
def tab1 : Tables :=
  { Tables.reset with
    state := [(1, .run)], ways := [(1, 0xFFFF)], pods := [(0, 1)], ranges := [{ base := 0, limit := 2 ^ 30, kind := 0, berth := 1 }] }

/-- Core 0 with the line at 0x100000 in its L2 cache, owned, its bytes 0 to 63, and the next line. -/
def mem (f : Core → Core) : State :=
  { run fun c => f { c with
    l2 := [(0, { la := 0x4000, own := true, dirty := false, rrpv := 0
                 line := { data := lineOfBytes ((List.range 64).map (BitVec.ofNat 8)), poison := false } }),
           (16, { la := 0x4001, own := true, dirty := false, rrpv := 0, line := { data := 0, poison := false } })] } with adm := { Admin.reset with tab := tab1 } }

/-- g1 holds the address of the line, g2 the number 3. -/
def regs (c : Core) : Core := (c.setG 1 0x100000).setG 2 3

theorem witness_ready : (run id).ready hA = true ∧ isServer hA = true := by decide +kernel
theorem witness_ExecKeepsQueue : ∃ t, exec (.add hA 3 1 2) (run id) = .next t := ⟨_, rfl⟩
theorem witness_TablesChangeOnlyByAdministration :
    (Instr.add hA 3 1 2).isAdministration = false ∧ ∃ t, exec (.add hA 3 1 2) (run id) = .next t := ⟨rfl, _, rfl⟩
theorem witness_ZeroRegisters : (31 : GReg) ≠ 0 ∧ (7 : PReg) ≠ 0 ∧ (run id).ready hA = true := by decide +kernel
/-- Both widths that a floating-point element can have. -/
theorem witness_VectorFloatLanes : 2 ≤ (vop 2 false).w.val ∧ 2 ≤ (vop 3 true).w.val ∧ (run id).ready hA = true := by decide +kernel
theorem witness_VectorCompareAndMoves : (vop 2 false).z = false ∧ ({ vop 2 false with vd := 7 } : VOp).vd.toNat < 8 := by decide
theorem witness_RegisterFrame : (run id).ready hA = true ∧ isServer hA = true ∧ ∃ t, exec (.sub hA 3 1 2) (run id) = .next t :=
  ⟨by decide +kernel, rfl, _, rfl⟩
/-- A byte, a halfword, a word, a doubleword, the whole line; a load over two lines; an indexed load. -/
theorem witness_LoadResults : hits (mem regs) 0x100000 1 true = true ∧ hits (mem regs) 0x10003F 2 true = true ∧
    hits (mem regs) 0x100000 4 true = true ∧ hits (mem regs) 0x100038 8 true = true ∧ hits (mem regs) 0x100000 64 true = true ∧
    hits (mem regs) (0x100000 + (3 <<< 3)) 8 true = true := by decide +kernel
theorem witness_LoadResults_hit : ∃ ps vs d, (mem regs).loadHit hA 0x10003F 2 true ps vs d := hits_ok (by decide +kernel)
theorem witness_StoreResults : fits (mem regs) 0x100000 1 = true ∧ fits (mem regs) 0x10003F 2 = true ∧
    fits (mem regs) 0x100000 4 = true ∧ fits (mem regs) 0x100038 8 = true ∧ fits (mem regs) 0x100000 64 = true := by decide +kernel
theorem witness_StoreResults_fit : ∃ ps d, (mem regs).storeFits hA 0x10003F 2 ps d := fits_ok (by decide +kernel)
theorem witness_NearAtomics : atomHits (mem regs) 0x100000 8 = true ∧ atomHits (mem regs) 0x10003C 4 = true := by decide +kernel
theorem witness_NearAtomics_hit : ∃ pa l d, (mem regs).atomHit hA 0x100000 8 pa l d := atomHits_ok (by decide +kernel)
theorem witness_AtomicOperations : ({ data := 0, poison := false } : PLine).poison = false := rfl
/-- Core 0 with early ownership requests off (SYS_CORECFG bit 2), 63 entries in its store buffer, and the page of 0x100000 in
its TLB. -/
def full : State :=
  let s := mem fun c => { (regs c).sysSet 0x20B 4 with sb := List.replicate 63 (storeEntry 0x200000 0x200000 8 0 false false) }
  s.withDev (s.dev.check s.adm.tab hA 2 .store 0x100000 8 true).2

theorem witness_StoreFrame : full.ready hA = true ∧ full.quiet = true ∧
    full.dev.check full.adm.tab hA (full.core hA).level .store 0x100000 8 true = (.go [(0x100000, 8)] false, full.dev) ∧
    (full.core hA).sb.length = 63 ∧ bit ((full.core hA).sysGet 0x20B) 2 = true ∧ ((full.core hA).getG 1 + 0 : Word) = 0x100000 := by
  decide +kernel
theorem witness_StoreFrame_next : ∃ t, exec (.sd hA 2 1 0) full = .next t := ⟨_, rfl⟩
/-- VUNPK with 32 values of one bit, and with the widest; no active element. -/
theorem witness_GatherScatterUnpack : hits (mem regs) 0x100000 2 false = true ∧ hits (mem regs) 0x100000 64 false = true ∧
    (run id).quiet = true ∧ ((run id).core hA).sb.length ≤ 64 ∧
    (∀ i, i < elems 2 → bit (((run id).core hA).getP 1) i = false) := by decide +kernel
/-- A target that JALR may go to. -/
theorem witness_Calls : (((run regs).core hA).getG 1 + (0x7FFC : BitVec 16).signExtend 64).toNat % 4 = 0 := by decide +kernel
/-- The least and the greatest offset that opens a window, and a window of which one instruction is left. -/
theorem witness_AnnulWindows : 2 ≤ (2 : BitVec 12).toInt ∧ (17 : BitVec 12).toInt ≤ 17 ∧
    (let s := run fun c => { c with annul := 1 }; (s.core hA).run = .running ∧ 0 < (s.core hA).annul) := by decide +kernel
/-- Readable and writable registers of each kind: plain, SYS_IVCFG, SYS_CACHECTL and SYS_CACHEINV. -/
theorem witness_SystemRegisters :
    let s := run id
    s.ready hA = true ∧ [0x100, 0x109, 0x20D, 0x20E].all (fun n => sysListed hA n && decide (sysLevel n ≤ (s.core hA).level) &&
      (s.core hA).mayWrite n) = true ∧ (s.core hA).sb = [] ∧ (s.core hA).missesOf (-1) = false := by decide +kernel
/-- A number that names no register, an H register at S, and the first and last counter registers at S. -/
theorem witness_SystemRegisterFaults :
    let s := run fun c => c.sysSet 0x000 1
    sysListed hA 0xFFF = false ∧ sysListed hA 0x200 = true ∧ sysLevel 0x200 = 2 ∧ sysListed hA 0x120 = true ∧
      bit ((s.core hA).sysGet 0x210) 8 = false := by decide +kernel

/-- Whether a trap of core 0 finds no interrupt before it and room for its frame (`State.trapFits`). -/
def trapOk (s : State) (f : Flt) : Bool :=
  let d0 := s.faultMet hA f
  let lvl := (d0.core hA).trapLevel hA f.cause
  let a := (d0.core hA).frameAt lvl
  (s.dev.select hA (s.core hA).takeState).isNone && decide (a.toNat % 64 = 0) &&
    match d0.check s.adm.tab hA lvl .store a 64 false with
    | (.go [(_, n)] _, d1) => decide (n = 64) && (d1.sbRoom s.adm.tab drainFuel hA 1).1 && (d1.sbRoom s.adm.tab drainFuel hA 1).2.quiet
    | _ => false

theorem trapOk_ok {s : State} {f : Flt} (w : trapOk s f = true) : ∃ pa d, s.trapFits hA f pa d := by
  unfold trapOk at w
  simp only [Bool.and_eq_true, Option.isNone_iff_eq_none, decide_eq_true_eq] at w
  obtain ⟨⟨sel, al⟩, w⟩ := w
  split at w
  · rename_i pa n dev d1 e
    simp only [Bool.and_eq_true, decide_eq_true_eq] at w
    obtain ⟨⟨hn, room⟩, q⟩ := w
    subst hn
    exact ⟨pa, _, sel, al, q, d1, dev, e, Prod.ext room rfl⟩
  · cases w

/-- Whether core 0's frame is a legal one at hand and no vector is taken in its place (`State.tretFits`). -/
def tretOk (s : State) : Bool :=
  let c := s.core hA
  let sp := c.sysGet (bankOf c.level + 3)
  match s.dev.check s.adm.tab hA c.level .load sp 64 false with
  | (.go ps _, d1) =>
    match d1.loadParts s.adm.tab hA ps with
    | (some vs, d) =>
      let l := joinParts ps vs
      (firstPoison sp ps vs).isNone && d.quiet && decide (c.level ≠ 0) && decide (bits (lineWord l 1) 1 0 ≤ c.level) &&
        decide (bits (lineWord l 1) 1 0 < 3) && !isWheel hA && (d.core hA).iv.isEmpty
    | _ => false
  | _ => false

theorem tretOk_ok {s : State} (w : tretOk s = true) : ∃ l d, s.tretFits hA l d := by
  unfold tretOk at w
  dsimp only at w
  split at w
  · rename_i ps dev d1 e
    split at w
    · rename_i vs d f
      simp only [Bool.and_eq_true, Option.isNone_iff_eq_none, decide_eq_true_eq, Bool.not_eq_true', List.isEmpty_iff] at w
      obtain ⟨⟨⟨⟨⟨⟨po, q⟩, l0⟩, le⟩, lt⟩, wh⟩, iv⟩ := w
      refine ⟨joinParts ps vs, d, l0, le, fun h3 => ?_, fun h => ?_, q, fun n hn => ?_, ps, dev, d1, vs, e, f, po, rfl⟩
      · omega
      · rw [wh] at h
        cases h
      · simp [Dev.select, iv, argMin] at hn
    · cases w
  · cases w

/-- Core 0 with a stack pointer at H, a vector base at 0x2000 and a handler table at the line of `mem`. -/
def trapRegs (c : Core) : Core := (((regs c).sysSet 0x201 0x2000).sysSet 0x203 0x4000).sysSet 0x202 0x100000

theorem witness_TrapsAreTaken : (run trapRegs).ready hA = true ∧ trapOk (run trapRegs) (flt 0x0B 7) = true ∧
    trapOk (run trapRegs) (flt 0x0C 0) = true ∧ legalWord 0 = false ∧ trapOk (run trapRegs) (flt 0x01 0) = true ∧
    Cause.al ∉ [Cause.trap, Cause.brk, Cause.pc, Cause.ow] ∧ trapOk (run trapRegs) (flt (causeCode .al) 5) = true := by decide +kernel
theorem witness_TrapsAreTaken_fit : ∃ pa d, (run trapRegs).trapFits hA (flt 0x0B 7) pa d := trapOk_ok (by decide +kernel)
theorem witness_PoisonAndOwnershipTraps :
    let s := run trapRegs
    s.ready hA = true ∧ (s.dev.translate s.adm.tab hA (s.core hA).level .load 0x100000).1 = .ok 0x100000 false ∧
    trapOk s { cause := 0x0A, tval := 0x100000, rep := some (3, 1, 0x100000) } = true ∧
    trapOk s { cause := 0x08, tval := 0x100000, rep := some (4, 0, 0) } = true := by decide +kernel
/-- The bytes of the line make a frame that returns to U. -/
theorem witness_TrapReturn : ∃ l d, (mem fun c => c.sysSet 0x203 0x100000).tretFits hA l d := tretOk_ok (by decide +kernel)
/-- At H, at S and at U; TLBI of the H regime; a store buffer with nothing left to drain. -/
theorem witness_FencesAndWaits :
    (run id).ready hA = true ∧ (run id).quiet = true ∧ ((run id).core hA).level = 2 ∧
    ((run fun c => (c.setLevel 1).setG 1 0x200).core hA).level = 1 ∧
    bit (((run fun c => (c.setLevel 1).setG 1 0x200).core hA).getG 1) 9 = true ∧ ((run fun c => c.setLevel 0).core hA).level = 0 ∧
    ((run id).dev.drainAll (run id).adm.tab hA).quiet = true ∧ (((run id).dev.drainAll (run id).adm.tab hA).core hA).sb = [] ∧
    (((run id).dev.drainAll (run id).adm.tab hA).core hA).devOut = [] := by decide +kernel

/-- Core 0 at U waiting in WFI with its S timer due and vector 1 enabled for S at PRIO 0. -/
def waits : State :=
  let s := run fun c => { ((c.setLevel 0).sysSet 0x106 1).ivSet 1 0x8000 with run := .waiting }
  s.withDev { s.dev with now := 1 }

/-- A state with pod 0 of socket 0 enabled. -/
def live (s : State) : State := s.withDev (s.dev.onWheel 0 fun w => { w with enabled := [0] })

/-- The least and the greatest vector that a message raises; each of a core's conditions. -/
theorem witness_VectorsBecomePending :
    isServer hA = true ∧ ((live (run id)).core hA).run = .running ∧ (live (run id)).dev.coreThere hA = true ∧
    16 ≤ (16 : BitVec 32).toNat ∧ (1023 : BitVec 32).toNat < 1024 ∧ qW.berth = 0 ∧
    bit (((run id).core hA).sysGet 0x20A) 63 = false ∧
    bit (((run fun c => c.sysSet 0x20A 0x8000000000000000).core hA).sysGet 0x20A) 63 = true ∧
    (waits.core hA).run = .waiting ∧ (waits.core hA).wfiDone (waits.dev.pend hA) = true := by decide +kernel
/-- Core 0 at U with vector 16 pending and enabled for H at PRIO 0; its frame and its handler's entry can be had. -/
def vectored : State := mem fun c => (((trapRegs c).sysSet 0x202 (0x100000 - 128)).setLevel 0).ivSet 16 0x800000000000C000

theorem witness_InterruptsAreTaken :
    let s := vectored
    let lvl := (s.core hA).targetOf hA 16
    let d0 := s.dev.free.2.onCore hA fun c => { c with run := .running }
    let x := d0.check s.adm.tab hA lvl .store ((s.core hA).frameAt lvl) 64 false
    let y := x.2.handlerOf s.adm.tab hA lvl 16
    let z := y.2.sbRoom s.adm.tab drainFuel hA 1
    s.ready hA = true ∧ s.dev.select hA (s.core hA).takeState = some 16 ∧ ((s.core hA).frameAt lvl).toNat % 64 = 0 ∧
    (x.1 = .go [(0x3FC0, 64)] false ∧ y.1 = .addr 0x0706050403020100 ∧ z.1 = true ∧ z.2.quiet = true) ∧
    (run id).dev.select hA ((run id).core hA).takeState = none := by decide +kernel

/-- A load at 0x1000 of the doubleword at 0x100000 into g5 that waits for its line. -/
def waiting (k : Bool) : LqEntry :=
  { loadEntry 0x1000 0x100000 5 false false 8 with parts := [(0x100000, 8)], orderKill := k }

theorem witness_PipelineKills : ((run fun c => { c with lq := [waiting true] }).core hA).lq = [waiting true] ∧
    (waiting true).orderKill = true ∧ (waiting false).orderKill = false ∧ (waiting false).depKill = false ∧
    ({ waiting false with depKill := true } : LqEntry).depKill = true ∧ ((run id).core hA).pred.resolved < 262144 ∧
    262144 ≤ ((run fun c => { c with pred := { c.pred with resolved := 262144 } }).core hA).pred.resolved := by decide +kernel
theorem witness_QueuedLoadsAndStores :
    let s := mem fun c => { c with lq := [waiting false] }
    let x := s.dev.loadParts s.adm.tab hA [(0x100000, 8)]
    (s.core hA).run = .running ∧ (s.core hA).lq = [waiting false] ∧ x.1.isSome = true ∧
    (x.1.all fun vs => (firstPoison 0x100000 [(0x100000, 8)] vs).isNone) = true ∧ x.2.quiet = true ∧ (x.2.core hA).run = .running ∧
    (x.2.core hA).devLoad = none ∧ (x.2.core hA).lq = [waiting false] ∧ (s.core hA).devLoad = none ∧
    (waiting false).kind = .load ∧ (waiting false).given = [] ∧ (waiting false).value = none := by decide +kernel
theorem witness_QueuedLoadsAndStores_store :
    let s := mem fun c => { c with sb := [storeEntry 0x100000 0x100000 8 7 false false] }
    (s.core hA).sb = [storeEntry 0x100000 0x100000 8 7 false false] ∧ s.dev.uncached s.adm.tab hA 0x100000 = false ∧
    (let x := s.dev.ownLine s.adm.tab hA 0x100000;
      x.1 = true ∧ x.2.quiet = true ∧ (x.2.core hA).run = .running ∧ (x.2.core hA).lq = []) ∧ s.quiet = true ∧
    (s.core hA).run = .running ∧ (s.core hA).lq = [] ∧ ((run id).core hA).sb = [] := by decide +kernel
/-- A fetch from the last two instructions of the line with room for one more; sampling on. -/
theorem witness_FetchAndForwards :
    let s := mem fun c => { c with
      fetchPc := 0x100038
      l1i := [(0, { la := 0x4000, own := false, dirty := false, rrpv := 0, line := { data := 5, poison := false } })] }
    let x := s.dev.translate s.adm.tab hA (s.core hA).level .fetch 0x100038
    let y := x.2.fetchLine s.adm.tab hA 0x100038 0x100038
    (s.core hA).run = .running ∧ (s.core hA).fetchRoom ≠ 0 ∧ (s.core hA).fetchPc &&& ~~~ (3 : Word) = 0x100038 ∧
    x.1 = .ok 0x100038 false ∧ (y.1.map fun l => lineInsn l.data 14) = some 0 ∧ y.2.quiet = true ∧
    (Tbl.find (s.core hA).pred.l0 0x100038).isNone = true ∧
    (fetchWords false ((s.core hA).sysGet 0x20C) 0x100038 false (s.core hA).pred 0x100038 [0, 0]).2.2 = 0x100038 + word (4 * 2) := by
  decide +kernel

/-- A message about the line at 0x100000 from core 0 to its home slice. -/
def msg (ty : MsgType) (src dst : Node) : Msg :=
  { ty, src, dst, berth := 1, master := 0, txn := 1, age := 0, aux := false, addr := 0x100000, len := 64, data := 0, poison := false }

theorem witness_FetchAndForwards_held :
    let m := msg .binv (.slice 0 0) (.core 0 0)
    let s := run fun c => { c with delayed := [m] }
    (s.core hA).delayed = [m] ∧ m.ty = .binv ∧ (s.core hA).owns 0x4000 = false ∧ (s.core hA).line2 0x4000 = none ∧
    (s.core hA).lineD 0x4000 = none ∧
    ((s.core hA).vic.find? fun v => v.la = 0x4000 && v.holds) = none := by decide +kernel
theorem witness_FetchAndForwards_sample :
    let s := run fun c => c.sysSet 0x211 0x8000000000000001
    (s.core hA).run = .running ∧ bit ((s.core hA).sysGet 0x211) 63 = true ∧ bits ((s.core hA).sysGet 0x211) 47 0 ≠ 0 ∧
    bit ((s.core hA).sysGet 0x210) 0 = false ∧ bit ((s.core hA).sysGet 0x213) 0 = false := by decide +kernel

/-- A slice entry of the line at 0x100000 without copies; `d` is its dirty bit. -/
def ent (d : Bool) : SEntry :=
  { la := 0x4000, d, rrpv := 0, dstate := 0, hail := false, p0 := { who := 0, mask := 0 }, p1 := { who := 0, mask := 0 }
    p2 := { who := 0, mask := 0 }, busy := false, line := { data := 7, poison := false } }

/-- The reset state with that line in slice 0 of socket 0. -/
def held (e : SEntry) : State := st fun d => d.onSlice 0 0 fun x => { x with ents := [(0, e)] }

/-- A request of core 0 to slice 0. -/
def ask (ty : MsgType) : Msg := msg ty (.core 0 0) (.slice 0 0)

/-- Whether a state holds `e` for the line in a slice and block at rest, as `State.sliceHas` says, and delivers to the slice. -/
def has (s : State) (e : SEntry) : Bool :=
  s.quiet && !s.dev.discards (.slice 0 0) && (s.dev.slice 0 0).idle && decide ((s.dev.slice 0 0).find (lineOf (ask .rds).pa) = some (0, e))

/-- No copy (with the socket exclusive), one sharer, another core as the owner, and a line the socket shares with others. -/
theorem witness_SliceAnswersRequests :
    has (held (ent true)) (ent true) = true ∧ (ent true).dstate = 0 ∧ (ent true).owner = none ∧
    (held (ent true)).dev.socketExclusive 0 (ask .rds).pa (ent true) = true ∧ ((held (ent true)).dev.homePod 0 (ask .rds).pa).2 = false ∧
    (let e := (ent true).addSharer 0; has (held e) e = true ∧ e.dstate = 1 ∧ e.soleOf 0 = true ∧
      (held e).dev.socketExclusive 0 (ask .upg).pa e = true) ∧
    (let e := (ent true).ownedBy 5; has (held e) e = true ∧ e.owner = some 5) ∧
    (let e := ent false; has (held e) e = true ∧ e.owner ≠ some 0 ∧ (held e).dev.socketExclusive 0 (ask .rdm).pa e = false) := by
  decide +kernel
theorem witness_SliceAnswersRequests_has : (held (ent true)).sliceHas 0 0 (ask .rds) 0 (ent true) := by
  refine ⟨?_, ?_, ?_⟩ <;> decide +kernel
/-- A sole sharer, a sole owner, a line without copies whose home is the socket, a line that the slice does not hold, and a
line of another socket. -/
theorem witness_SliceTakesNoticesAndWrites :
    (let e := (ent true).addSharer 0; has (held e) e = true ∧ e.dstate = 1 ∧ e.soleOf 0 = true) ∧
    (let e := (ent true).ownedBy 0; has (held e) e = true ∧ e.dstate = 2 ∧ e.soleOf 0 = true) ∧
    (has (held (ent true)) (ent true) = true ∧ (held (ent true)).dev.socketExclusive 0 (ask .wbs).pa (ent true) = true ∧
      homeSock (ask .atm).pa = 0 ∧ nodeOf (ask .atm).master = some (.core 0 0)) ∧
    (State.reset.quiet = true ∧ State.reset.dev.discards (.slice 0 0) = false ∧ (State.reset.dev.slice 0 0).idle = true ∧
      (State.reset.dev.slice 0 0).find (lineOf (ask .nwr).pa) = none ∧ (State.reset.dev.homePod 0 (ask .nwr).pa).2 = false) ∧
    homeSock (windowSize + 0x100000) = 1 ∧ (State.reset.dev.slice 0 0).find (lineOf (windowSize + 0x100000)) = none := by decide +kernel

/-- A transaction on that line. -/
def txn (ty : MsgType) (acks : List Nat) (fack cmp : Bool) : Txn := { txnOf (ask ty) 2 with acks, fack, cmp }

/-- The line owned by core 5, and a transaction in the slice. -/
def open_ (x : Txn) : State :=
  st fun d => d.onSlice 0 0 fun y => { y with ents := [(0, (ent true).ownedBy 5)], txns := [x] }

theorem witness_SliceAnswersProbes :
    (let s := held ((ent true).ownedBy 5); let m := msg .hprs (.home 0 0) (.slice 0 0);
      s.quiet = true ∧ s.dev.discards m.dst = false ∧ (s.dev.slice 0 0).idle = true ∧ m.src.sock = 0 ∧ (s.dev.homePod 0 m.pa).2 = false ∧
      (s.dev.slice 0 0).find (lineOf m.pa) = some (0, (ent true).ownedBy 5) ∧ ((ent true).ownedBy 5).owner = some 5 ∧
      (State.reset.dev.slice 0 0).find (lineOf m.pa) = none) ∧
    (let x := txn .rdm [0, 1] false true; (open_ x).dev.discards (.slice 0 0) = false ∧ ((open_ x).dev.slice 0 0).txns = [x] ∧ x.la = lineOf (ask .ack).pa ∧ x.acks = [0, 1]) ∧
    (let x := txn .rds [] true true;
      ((open_ x).dev.slice 0 0).txns = [x] ∧ x.fack = true ∧ x.cmp = true ∧ x.req.ty = .rds ∧ coreFrom 0 x.req = some 0 ∧
      (ask .fack).len ≠ 0) ∧
    (let x := txn .rds [] false true;
      x.stage = 2 ∧ x.acks = [] ∧ x.fack = false ∧ x.home = false ∧ x.cmp = true ∧ x.notice = false ∧
      x.req.master = (ask .cmpack).master) := by decide +kernel

/-- A miss on the line at 0x100000. -/
def miss (retry sent : Bool) : Miss :=
  { la := 0x4000, own := true, upg := false, fetch := false, prefetch := false, retry, killed := false, sent, txn := 1, age := 0,
    va := 0x100000, slot := 0 }

/-- A message of slice 0 to core 0. -/
def tell (ty : MsgType) : Msg := msg ty (.slice 0 0) (.core 0 0)

theorem witness_CoreTakesAnswers :
    (let s := run fun c => { c with missL2 := [miss false true] };
      s.quiet = true ∧ (tell .dats).dst = .core 0 0 ∧ s.dev.discards (tell .dats).dst = false ∧ (tell .dats).src.sock = 0 ∧
      (s.core hA).missL2.find? (fun z => z.la = lineOf (tell .dats).pa) = some (miss false true) ∧ (miss false true).killed = false ∧
      (s.core hA).find2 (lineOf (tell .dats).pa) = none ∧ (s.core hA).findD (lineOf (tell .dats).pa) = none ∧
      (tell .dats).len ≠ 0 ∧ l2On hA (s.core hA) = true ∧
      (∃ w < 16, Tbl.find (s.core hA).l2 (lineOf (tell .dats).pa % 1024 * 16 + w) = none) ∧
      ((s.core hA).missL2.any fun z => z.la = lineOf (tell .retry).pa && z.txn = (tell .retry).txn.toNat) = true) ∧
    ((mem id).core hA).line2 (lineOf (tell .grant).pa) ≠ none ∧ ({ tell .wback with txn := 0xFFF } : Msg).txn.toNat = evictTxn ∧
    (let x := { waiting false with atom := true, txn := 1 };
      let s := run fun c => { c with devLoad := some x };
      (s.core hA).run = .running ∧ (s.core hA).devLoad = some x ∧ (s.core hA).lq = [] ∧ x.atom = true ∧ (tell .atr).aux = false) ∧
    (let x := { waiting false with txn := 1 };
      x.atom = false ∧ x.txn = (tell .drsp).txn.toNat ∧ x.poison = none ∧ (tell .drsp).poison = false ∧
      (tell .drsp).len ≠ 0 ∧ (tell .drsp).aux = false ∧ (∀ sp pp, (tell .drsp).src ≠ .port sp pp)) ∧
    (let s := run fun c => { c with devOut := [(1, 0x2000)] }; (s.core hA).devOut = [((tell .drsp).txn.toNat, 0x2000)]) := by
  decide +kernel
/-- Core 0 with the line owned in L2 alone. -/
theorem witness_CoreAnswersForwards :
    let s := mem id
    s.quiet = true ∧ s.dev.discards (tell .fwds).dst = false ∧ (s.core hA).recent = [] ∧ (s.core hA).findD (lineOf (tell .fwds).pa) = none ∧
    (s.core hA).find2 (lineOf (tell .fwds).pa) = some 0 ∧ (s.core hA).line2 (lineOf (tell .fwds).pa) ≠ none ∧
    nodeOf (tell .fwds).master = some (.core 0 0) ∧ (tell .fwds).data.getLsbD 1 = false ∧ (tell .fwds).data.getLsbD 2 = false ∧ remote (tell .fwds) hA = false ∧
    s.dev.tooSoon hA { tell .inv with ty := .inv } = false ∧ masterOf hA ≠ ({ tell .inv with master := 1 } : Msg).master := by
  decide +kernel

/-- A directory entry of the line at 0x100000. -/
def xent (own : Bool) (sp : List Nat) : XEntry :=
  { la := 0x4000, own, sp, hail := false, sumw := false, busy := false, rrpv := 0 }

/-- Hub 0 of socket 0 with that entry and these transactions. -/
def homed (e : XEntry) (ts : List Txn) : State :=
  st fun d => d.onHub 0 0 fun x => { x with xdir := [(xdirSet 0x100000 * 16, e)], txns := ts }

/-- A message to the home agent. -/
def home (ty : MsgType) (src : Node) : Msg := msg ty src (.home 0 0)

/-- An owner in the first other socket and in the last, sharers in two sockets, and a transaction that awaits two answers. -/
theorem witness_HomeAgentWork :
    (∀ q ∈ [1, 15], let s := homed (xent true [q]) [];
      s.quiet = true ∧ (s.dev.hub 0 0).idle = true ∧ (home .hrds (.slice 0 0)).aux = false ∧ q < 16 ∧ q ≠ 0 ∧
      (s.dev.hub 0 0).findX (home .hrds (.slice 0 0)).pa = some (xdirSet 0x100000 * 16, xent true [q])) ∧
    (let s := homed (xent false [0, 1]) [];
      (home .hevs (.slice 0 0)).src.sock = 0 ∧ (s.dev.hub 0 0).findX 0x100000 = some (xdirSet 0x100000 * 16, xent false [0, 1]) ∧
      (xent false [0, 1]).hail = false ∧ notOwned tab1 0 (home .drd (.core 0 0)) = false ∧
      [0, 1].erase (home .hevs (.slice 0 0)).src.sock.val ≠ []) ∧
    (let x := txn .hrdm [0, 1] false false;
      let s := homed (xent false [0, 1]) [x];
      (s.dev.hub 0 0).txns = [x] ∧ x.la = lineOf (home .pack (.slice 0 0)).pa ∧
      x.acks = [(home .pack (.slice 0 0)).src.sock.val, 1]) := by decide +kernel
/-- No copy blocks a page where no slot is in use. -/
theorem witness_HomeAgentWork_free : State.reset.pageFree 0 0x100000 := by
  intro loc _
  rfl
theorem witness_MeshEvents :
    (let s := st fun d => d.onWheel 0 fun w => { w with enabled := [1] };
      s.quiet = true ∧ (tell .inv).src.sock = (tell .inv).dst.sock ∧ s.dev.discards (tell .inv).dst = true ∧
      s.dev.discards (.core 0 2) = false) ∧
    (let s := run fun c => { c with missL2 := [miss true true] };
      (s.core hA).missL2 = [miss true true] ∧ (miss true true).retry = true ∧ (miss true true).sent = true ∧
      (miss true true).upg = false ∧ (∀ y ∈ s.dev.asked, y.2 = false) ∧ (miss true true).la = lineOf (0x100000 : PAddr).toNat ∧ (s.dev.homePod 0 (0x4000 * 64)).2 = false) ∧
    (let v : Resv := { req := ask .rds, what := 1, set := 0, kept := true, ways := 0 };
      let s := st fun d => d.onSlice 0 0 fun x => { x with rsv := [v] };
      (s.dev.slice 0 0).rsv[0]? = some v) ∧
    typeOfCode 0x01 ≠ none ∧ typeOfCode 0x3A ≠ none ∧ typeOfCode 0x3B = none ∧ typeOfCode 0 = none ∧ neighbour 0 1 = some 1 ∧
    neighbour 127 0 = some 111 ∧ (∃ p < 4, neighbour 0 p = none) ∧
    (let m := msg .nrd (.port 0 0) (.slice 0 0); let s := st fun d => { d with asked := [(m, true)] };
      s.dev.asked = [(m, true)] ∧ (s.dev.homePod 0 m.pa).2 = false ∧ m.pa = (0x100000 : PAddr).toNat) := by decide +kernel

/-- A requester of berth 1 that is not at level H. -/
def qU : Requester := { master := 0, berth := 1, high := false }

/-- A refused requester; an access that is too short and one that is not aligned; an offset that holds nothing; each register
of the list, at its first and its last instance. -/
theorem witness_RegisterSpaceRules :
    Requester.mayReach qU = false ∧ Requester.mayReach qW = true ∧ (2 : Fin 4) ≠ 3 ∧ (4 : BitVec 32).toNat % 8 ≠ 0 ∧
    (let off : BitVec 32 := 0xFFFFFFF8;
      off.toNat % 8 = 0 ∧ 0x05000000 ≤ off.toNat ∧ regAt off.toNat = none ∧ logAt off.toNat = none ∧ broadcastReg off.toNat = none) ∧
    (∀ r ∈ [Reg.fcInjAddr, .whSvc, .fcCtl, .pwTdp, .teHubCfg, .xlRoute, .xlHb, .fmScrub, .nmScrub, .pxPortCfg, .whAttestNonce],
      0 < r.place.c1 ∧ 0 < r.place.c2 ∧ State.reset.opens qW 0 r 0 0 0 = true ∧
      State.reset.opens qW 0 r (r.place.c1 - 1) (r.place.c2 - 1) (-1) = true) := by decide +kernel
theorem witness_SliceAndCoreRegisterCommands : qW.berth = 0 ∧ isServer hA = true := by decide
/-- DISABLE changes; WH_REPAIR.GO reads 0. -/
theorem witness_LinkMemoryAndTierRegisterCommands : qW.berth = 0 ∧ true ≠ bit (State.reset.dev.reg 0 .xlLinkCtl 0 0) 8 ∧
    bit (State.reset.dev.reg 0 .xlLinkCtl 0 0) 12 = false ∧ bit (State.reset.dev.reg 0 .whRepair 0 0) 63 = false := by decide +kernel
/-- The Wheelhouse, and a berth's core at level H. -/
theorem witness_FaultRegisterCommands : qW.berth = 0 ∧ sourceExists 0 = true ∧ sourceExists 0xF13 = true ∧
    bit (State.reset.dev.reg 0 .fcSrcSev 0 0) 63 = false ∧ ({ qU with high := true } : Requester).berth ≠ 0 ∧
    ({ qU with high := true } : Requester).high = true := by decide +kernel
/-- The Wheelhouse reaches a function whose engine is not fenced; the last key word of a slot and one before it. -/
theorem witness_FerryAndPortRegisterCommands : State.reset.barOpens qW 0 3 255 = true ∧ qW.berth = 0 ∧ (6 : Fin 8).val < 7 := by
  decide +kernel

/-- Socket 0 running (PW_MODE 3) or not, with slip 0 full or free, from the Wheelhouse to core 1. -/
def slips (runs full : Bool) : State := st fun d =>
  let d := d.setFld 0 .pwMode 0 0 2 0 (if runs then modeRun else 2)
  (d.setReg 0 .mbCfg 0 0 0x800000000F000001).setFld 0 .mbCtl 0 0 63 63 full.toNat

/-- Core 1 through the Wheelhouse view. -/
def q1 : Requester := { master := 1, berth := 0, high := true }

/-- Sender and another master, a free and a full slip, on a socket that runs and on one that does not; the least and the greatest
length; DONE by the receiver and by another. -/
theorem witness_SlipsCarryMessages :
    (slips true false).opens qW 0 .mbData 0 15 5 = true ∧ (slips true false).dev.runs 0 = true ∧
    (slips true false).dev.isSender 0 0 qW.master.toNat = true ∧ (slips true false).dev.slipFull 0 0 = false ∧
    (slips true true).dev.slipFull 0 0 = true ∧ (slips true false).dev.isSender 0 0 q1.master.toNat = false ∧
    (slips false true).opens qW 0 .mbData 0 0 5 = true ∧ (slips false true).dev.runs 0 = false ∧
    (slips true false).opens qW 0 .mbCtl 0 0 (word (2 ^ 63 + 16)) = true ∧ 8 ≤ (8 : BitVec 5).toNat ∧ (16 : BitVec 5).toNat ≤ 16 ∧
    (slips true true).opens q1 0 .mbDone 0 0 1 = true ∧ (slips true true).dev.isReceiver 0 0 q1.master.toNat = true ∧
    (slips true true).dev.isReceiver 0 0 qW.master.toNat = false := by decide +kernel
theorem witness_DoorbellsAndBollards :
    (slips true true).opens qW 0 .mbCfg 0 0 0xF000001 = true ∧ (slips true false).dev.fld 0 .mbCfg 0 0 63 62 = 2 ∧
    bits (0x00CF00CF : Word) 31 28 = 0 ∧ bits (0x00CF00CF : Word) 27 16 < 208 ∧ bits (0x00CF00CF : Word) 7 0 < 208 ∧
    State.reset.opens qW 0 .dbPend 255 0 0xFFFFFFFF = true ∧
    (let s := st fun d => d.setReg 0 .bl 63 0 (word (2 ^ 16 + 0xF00));
      s.opens qW 0 .blRel 63 0 0xF00 = true ∧ bit (s.dev.reg 0 .bl 63 0) 16 = true ∧
      bits (0xF00 : Word) 15 0 = bits (s.dev.reg 0 .bl 63 0) 15 0 ∧ bits (0xF01 : Word) 15 0 ≠ bits (s.dev.reg 0 .bl 63 0) 15 0 ∧
      s.opens qW 0 .blCfg 63 0 (s.dev.withField 0 .blCfg 63 0 63 63 1) = true) ∧
    bit (State.reset.dev.reg 0 .bl 63 0) 16 = false := by decide +kernel
/-- Units at the ends of the list of uncore counters; MAINTAIN and another mode. -/
theorem witness_CounterAndPowerRegisterCommands :
    qW.berth = 0 ∧ (uncUnit 0).isSome = true ∧ (∃ u < 256, (uncUnit u).isNone = true) ∧
    (st fun d => d.setFld 0 .pwMode 0 0 2 0 modeMaintain).dev.mode 0 = modeMaintain ∧ State.reset.dev.mode 0 ≠ modeMaintain ∧
    bit (State.reset.dev.reg 0 .whAttestCmd 63 0) 63 = false := by decide +kernel

/-- Socket 0 with link 0 in a state of its state machine. -/
def linkIn (n : Nat) (f : XLink → XLink) : State := st fun d => (d.setLink 0 0 n).onLink 0 0 f

/-- A flit with a sequence number and no message. -/
def flitOf (n : Nat) : Flit :=
  let f : Flit := { hdr := word (n * 2 ^ 54), slots := 0, crc := 0 }
  { f with crc := word (crc64Of (flitBody f)) }

/-- Lane 0 and lane 15 missing; a partner one bit away; the second and the third failure; each kind of flit; the first NAK of an
acknowledgement and the eighth; lane 0 failing alone. -/
theorem witness_LinkEvents :
    (linkIn 1 id).dev.linkState 0 0 = 1 ∧ (∀ i < 17, (0x1FFFE : BitVec 17).getLsbD i = decide (i ≠ 0)) ∧
    (∀ i < 17, (0x17FFF : BitVec 17).getLsbD i = decide (i ≠ 15)) ∧
    ((linkIn 2 id).dev.linkState 0 0 = 2 ∧ (∀ i < 17, (0x1FFFF : BitVec 17).getLsbD i = true) ∧
      0 ∈ lanesOf (bits ((linkIn 2 id).dev.reg 0 .xlLinkStat 0 0) 31 30) ∧
      0 ≠ bits ((linkIn 2 id).dev.reg 0 .xlLinkStat 0 0) 20 16) ∧
    ((linkIn 3 id).dev.linkState 0 0 = 3 ∧ (linkIn 5 id).dev.linkState 0 0 = 5 ∧ (linkIn 5 id).dev.dipping 0 = false ∧
      ((linkIn 5 fun x => { x with equalized := true }).dev.link 0 0).equalized = true ∧
      (linkIn 5 id).dev.sockId 0 = 0 ∧ (∃ i < 4, 8 = across 0 i) ∧ ¬ ∃ i < 4, 3 = across 0 i) ∧
    (let s := st fun d => (d.setLink 0 0 5).setFld 0 .ckStat 0 0 56 56 1; s.dev.linkState 0 0 = 5 ∧ s.dev.dipping 0 = true) ∧
    (((linkIn 3 fun x => { x with fails := 1 }).dev.link 0 0).fails < 2 ∧ ((linkIn 5 fun x => { x with fails := 1 }).dev.link 0 0).fails < 2 ∧
      2 ≤ ((linkIn 3 fun x => { x with fails := 2 }).dev.link 0 0).fails) ∧
    (linkIn 4 id).dev.linkState 0 0 = 4 ∧
    (let x := linkIn 4 fun x => { x with naks := 7, nakAck := 5 };
      (x.dev.link 0 0).naks = 7 ∧ (x.dev.link 0 0).nakAck = (5 : BitVec 10).toNat) ∧ ((linkIn 4 id).dev.link 0 0).naks = 0 ∧
    (bits ((linkIn 4 id).dev.reg 0 .xlLinkStat 0 0) 15 0 = 0 ∧ bits ((linkIn 4 id).dev.reg 0 .xlLinkStat 0 0) 31 30 = 0 ∧
      ((linkIn 4 id).dev.link 0 0).spareBad = false ∧ (∀ i < 17, (1 : BitVec 17).getLsbD i = decide (i = 0))) ∧
    (∀ i ∈ [0, 1, 8, 9], (0x303 : BitVec 17).getLsbD i = true) := by decide +kernel
/-- The number after 1023 is 0, in order on a link whose last good number is 1023 and out of order otherwise. -/
theorem witness_LinkEvents_flit :
    let f : Flit := { hdr := 0, slots := 0, crc := 1 }
    f.crc ≠ word (crc64Of (flitBody f)) ∧ (flitOf 0).crc = word (crc64Of (flitBody (flitOf 0))) ∧ bits (flitOf 0).hdr 42 41 = 0 ∧ bit (flitOf 0).hdr 43 = false ∧
    (∀ i < 8, ((linkIn 4 id).dev.link 0 i).rx = []) ∧
    ((linkIn 4 id).dev.link 0 0).good = 1023 ∧ bits (flitOf 0).hdr 63 54 = (1023 + 1) % 1024 ∧
    bits (flitOf 1).hdr 63 54 ≠ (1023 + 1) % 1024 := by decide +kernel

/-- The key that signs the test manifest, its hash in the fuses (R485), and its signature. -/
def manKey : Nat := 0xB83155126486DC1D5F0DA59B30D6E46799C04BE718DD701DBE10CEF3BF07A103
/-- A part with that key in slot 0. -/
def fused : Fuses := { Fuses.blank with hash0 := 0xA08ABFAEB1BE1A3BE713E8246B47CDF392B5684969A1BB6E4869ACD4EA4242ED }
/-- Ed25519ph over the bytes before it, made outside Lean from the seed 00 01 … 1F. -/
def manSig : Nat :=
  0x0A03613CB605E9D0FF66C0F8EE9886AE3639F4207A274ED0E9F4CECB6A18EF56AC9CF4D607E0242E405C9AE4A466275650B3B64F4355E27C003BF6A2AC727099

/-- A manifest of 640 bytes: empty firmware and microcode, SYSTEM (n = 1, sockets 0 and 1 expected), and BOOT with berth 1's
entry. -/
def man : List Byte :=
  let sec := fun (t o n : Nat) => leBytes 2 t ++ leBytes 2 0xFFFF ++ leBytes 4 o ++ leBytes 4 n ++ leBytes 4 0
  leBytes 4 0x58464E4D ++ leBytes 2 1 ++ leBytes 2 0 ++ leBytes 2 0x9192 ++ leBytes 2 0 ++ leBytes 2 4 ++ leBytes 2 0 ++
  leBytes 8 1 ++ leBytes 4 0 ++ leBytes 4 640 ++ leBytes 32 manKey ++ leBytes 32 manKey ++ leBytes 32 0 ++
  sec 1 0x100 0 ++ sec 2 0x100 0 ++ sec 3 0x100 256 ++ sec 7 0x200 32 ++ leBytes 64 0 ++
  leBytes 2 1 ++ leBytes 2 3 ++ leBytes 4 1000 ++ leBytes 8 0 ++ List.replicate 128 0xFF ++ leBytes 112 0 ++
  leBytes 2 1 ++ leBytes 2 0xFFFF ++ leBytes 4 0 ++ leBytes 8 0 ++ leBytes 8 0x1000 ++ leBytes 40 0 ++ leBytes 64 manSig

/-- The manifest verifies: its signature was made by another implementation. -/
theorem test_manifest : manStatus fused man = bootOk := by decide +kernel

/-! ### Systems of sockets -/

/-- A socket in a mode, with WH_SYSTEM showing the present sockets, the standby managers, n = 1 and the manager. -/
def upSock (d : Dev) (s mode present standby mgr : Nat) : Dev :=
  (d.setFld s .pwMode 0 0 2 0 mode).setReg s .whSystem 0 0 (word (present + standby * 2 ^ 16 + 2 ^ 41 + mgr * 2 ^ 44))

/-- Link 0 of a socket is ACTIVE towards another. -/
def linkTo (d : Dev) (s t : Nat) : Dev := (d.setLink s 0 4).setFld s .xlLinkStat 0 0 47 44 t

/-- Sockets 0 (the manager) and 1 run, with a link between them, changed by `f`. -/
def duo (f : Dev → Dev) : State := st fun d => f (linkTo (linkTo (upSock (upSock d 0 modeRun 3 0 0) 1 modeRun 3 0 0) 0 1) 1 0)

/-- Socket 0 manages itself on the test manifest, and socket 1 is in LOAD. -/
def joining (f : Dev → Dev) : State :=
  st fun d => f (linkTo (linkTo ((upSock ((upSock d 0 modeRun 1 0 0).onWheel 0 fun w => { w with kept := man, fuses := fused })
    1 2 0 0 0).onWheel 1 fun w => { w with fuses := fused }) 0 1) 1 0)

theorem witness_RoutesTimeAndMembership :
    ((∀ m < 16, State.reset.dev.isManager m = false) ∧
      (sockets.find? fun m => (duo id).dev.isManager m && (duo id).dev.awake m) = some 0 ∧
      (duo id).dev.routeTables ((duo id).dev.members 0) ≠ []) ∧
    (let s := duo fun d => d.onWheel 1 fun w => { w with routes := some (5, [(0, 1)]) };
      (s.dev.wheel 1).routes = some (5, [(0, 1)]) ∧ (∀ k < 8, (s.dev.link 1 k).replay = [] ∧ (s.dev.link 1 k).rx = [])) ∧
    (let s := duo fun d => (List.range 8).foldl (fun d k => (d.setLink 1 k 4).onLink 1 k fun x => { x with replay := [flitOf 0] }) d;
      (∀ k < 8, (s.dev.link 1 k).replay ≠ []) ∧ s.dev.stranded 1 0 = false) ∧
    ((duo id).dev.present 1 1 = true ∧ (duo id).dev.awake 1 = true ∧ (duo id).dev.isManager 1 = false ∧
      (duo id).dev.members 1 = [0, 1]) ∧
    (let s := duo fun d => d.setFld 1 .xlTime 0 0 63 63 1;
      s.dev.managerOf 1 = some 0 ∧ s.dev.fld 1 .xlTime 0 0 63 63 = 1 ∧ s.dev.timeParent 1 0 = some 0) ∧
    (State.reset.dev.usable 0 1 = [] ∧ (duo id).dev.usable 0 1 ≠ [] ∧ 2 ≤ (duo id).dev.mode 0 ∧ (duo id).dev.mode 0 ≤ 5) ∧
    (let m := msg .nwr (.core 0 0) (.home 1 0); let s := st fun d => { d with net := [m] };
      (s.dev.net.find? fun m => m.src = .core 0 0 && m.txn = 1 && m.dst.sock ≠ 0) = some m) := by decide +kernel
/-- A join without a manager; one that is refused, its ID being taken; a manager that would take it during an order or not; and one
whose links pass the check. -/
theorem witness_RoutesTimeAndMembership_join :
    (let s := joining fun d => upSock d 0 modeRun 1 0 5;
      s.dev.mode 1 = 2 ∧ s.dev.present 1 1 = false ∧ (s.dev.wheel 1).board.role ≠ 3 ∧ s.dev.nearMembers 1 = [0] ∧
      s.dev.managerOf 0 = none) ∧
    (let s := joining id;
      s.dev.mode 1 = 2 ∧ s.dev.present 1 1 = false ∧ (s.dev.wheel 1).board.role ≠ 3 ∧ s.dev.nearMembers 1 = [0] ∧
      s.dev.managerOf 0 = some 0 ∧ s.dev.present 0 0 = true ∧ s.dev.isManager 0 = true ∧ s.dev.awake 0 = true ∧
      s.adm.order = none ∧ (((s.dev.onWheel 1 fun w => { w with joinDue := none }).checkWiring 0 1).nearMembers 1) = [0]) ∧
    (let s := joining fun d => d.onWheel 1 fun w => { w with board := { w.board with sockId := 0 } };
      joinRefused s.dev 0 1 true = some 3) := by decide +kernel
theorem witness_RoutesTimeAndMembership_accepted : joinRefused (joining id).dev 0 1 true = none := by
  have a : (joining id).dev.present 0 ((joining id).dev.wheel 1).board.sockId.toNat = false := by decide +kernel
  have b : ¬ 2 ^ (joining id).dev.fld 0 .whSystem 0 0 43 41 ≤ ((joining id).dev.wheel 1).board.sockId.toNat := by decide +kernel
  have c : ((joining id).dev.wheel 1).fuses = fused := by decide +kernel
  have e : ((joining id).dev.wheel 0).kept = man := by decide +kernel
  simp [joinRefused, a, b, c, e, test_manifest]
/-- A leave with no order and no service operation; a lost worker, and a lost manager without a standby. -/
theorem witness_RoutesTimeAndMembership_leave :
    ((duo id).dev.present 1 1 = true ∧ (duo id).dev.svcFree 1 9 0 = true ∧ (duo id).adm.order = none) ∧
    ((duo id).dev.fld 0 .whSystem 0 0 47 44 = 0 ∧ (duo id).dev.present 0 1 = true ∧ (duo id).dev.fld 1 .whSystem 0 0 47 44 = 0 ∧
      (∀ t < 16, ((duo id).dev.fld t .whSystem 0 0 31 16).testBit t = false)) ∧
    (let s := joining id; let t : Tables := { tab1 with state := [(1, .building)] };
      (sockets.find? fun m => s.dev.isManager m && s.dev.awake m) = some 0 ∧ (manBoot (s.dev.wheel 0).kept 1).isSome = true ∧
      t.stateOf 1 = .building ∧ (s.dev.wheel 0).joinWaiting = false ∧
      (∀ u < 16, 1 ∈ t.podBerths u → s.dev.present u u = true ∧ (s.dev.mode u = 2 ∨ s.dev.runs u = true))) := by decide +kernel

/-- Far channel 0 and near channel 0 of socket 0 in service, scrubbed, retrained, and in a set of 1 GiB; hub 0's tiering engine on
with its table; expander port 0 connected. -/
def memory (f : Dev → Dev) : State := st fun d => f <|
  let d := (d.setFld 0 .fmChCfg 0 0 63 60 2).setFld 0 .nmChCfg 0 0 63 60 2
  let d := (d.setFld 0 .fmChCfg 0 0 42 32 1).setReg 0 .fmSet 0 0 (word (2 ^ 63 + 2 ^ 48 + 1))
  let d := (d.setFld 0 .fmScrub 0 0 63 63 1).setFld 0 .nmScrub 0 0 63 63 1
  let d := (d.setFld 0 .fmRetrain 0 0 63 63 1).setFld 0 .nmRetrain 0 0 63 63 1
  d.setFld 0 .teHubCfg 0 0 63 63 1

/-- A candidate copy of a far page of berth 1 into frame 0 of its near pool. -/
def copy : TCopy :=
  { berth := 1, page := 0x1000, frame := 0, heat := 9, read := false, locs := [], buf := [] }

/-- Berth 1 in TIER mode with a budget of 5 copies, its pool the first near GiB, and that candidate waiting. -/
def tiered : State :=
  { memory fun d => ((d.setFld 0 .tePolicy 1 0 61 60 2).setFld 0 .tePolicy 1 0 11 0 5).onHub 0 0 fun h => { h with queue := [copy] } with
    adm := { Admin.reset with tab := { tab1 with
      ranges := [{ base := 0, limit := 2 ^ 30, kind := 0, berth := 1 },
        { base := nearBase 0 0, limit := nearBase 0 0 + 2 ^ 30, kind := 1, berth := 1 }] } } }

/-- A row of far channel 0 that is due for soft repair, the last one. -/
def repairRow : FarLoc := { ch := 0, rank := 15, sub := 1, bg := 7, bank := 3, row := 2 ^ 18 - 1, col := 0 }

theorem witness_MemoryAndTieringEvents :
    (State.reset.dev.chanState 0 true 0 ≠ 2 ∧ ∀ far : Bool, bit ((memory id).dev.retrainReg 0 far 0) 63 = true ∧
      (memory id).dev.chanState 0 far 0 = 2 ∧ ((memory id).dev.hub 0 (chanHub far 0)).slots = [] ∧
      (memory id).dev.dipping 0 = false ∧ bit ((memory id).dev.reg 0 .fmGlobal 0 0) 8 = false) ∧
    (let s := st fun d => (d.setFld 0 .pxPortCfg 0 0 62 62 1).setFld 0 .fmCxl 0 0 63 60 2;
      s.dev.fld 0 .fmCxl 0 0 63 60 < 3 ∧ (s.dev.port 0 (cxlRoot 0)).lost = false ∧
      s.dev.fld 0 .pxPortCfg (cxlRoot 0) 0 62 62 = 1) ∧
    ((∀ far : Bool, (memory id).dev.fld 0 (if far then .fmScrub else .nmScrub) 0 0 63 63 = 1 ∧
      (memory id).dev.chanLines 0 far 0 ≠ 0 ∧
      (memory id).dev.scrubSkips 0 far 0 ((memory id).dev.chanLine 0 far 0 0) = false) ∧
      ((memory fun d => d.onChan 0 0 fun c => { c with scrub := 0x1000000 - 1 }).dev.chan 0 (chanKey true 0)).scrub + 1 =
        (memory id).dev.chanLines 0 true 0) ∧
    (3 : Fin 5).val < 4 ∧ ¬ (4 : Fin 5).val < 4 ∧
    (let s := memory fun d => (d.setFld 0 .fmRas 0 0 35 32 0).onChan 0 0 fun c => { c with rowErr := [(rowKey repairRow, 1)] };
      Tbl.find (s.dev.chan 0 0).sppr (repairRow.rank * 8 + repairRow.bg) = none ∧
      Nat.max 1 (s.dev.fld 0 .fmRas 0 0 35 32) ≤ Tbl.get 0 (s.dev.chan 0 0).rowErr (rowKey repairRow)) ∧
    ((State.reset.dev.hub 0 0).queue = [] ∧ Tbl.find (State.reset.dev.hub 0 0).slots 7 = none ∧
      Tbl.find ((st fun d => d.onHub 0 0 fun h => { h with slots := [(7, copy)] }).dev.hub 0 0).slots 7 ≠ none) ∧
    ((0 : Nat) < 458752 ∧ 458751 < 458752 ∧ (memory id).dev.fld 0 .teHubCfg 0 0 63 63 = 1 ∧ (memory id).dev.setLost 0 0 0 = false) := by
  decide +kernel
theorem witness_MemoryAndTieringEvents_copy :
    let s := tiered
    (s.dev.hub 0 0).queue = [copy] ∧ ((List.range 8).find? fun i => (Tbl.find (s.dev.hub 0 0).slots i).isNone) = some 0 ∧
    (match s.dev.tierAt s.adm.tab copy.page with
    | none => False
    | some t => ((s.dev.copyLocs 0 (s.dev.copyMoves t copy).1).any fun x => s.dev.blockedLoc 0 x) = false ∧
        s.dev.pagesBusy s.adm.tab 0 (s.dev.copyLocs 0 (s.dev.copyMoves t copy).1) = false) ∧
    s.dev.dipping 0 = false ∧ s.dev.blackoutDue 0 0 = false ∧ Tbl.get 0 (s.dev.hub 0 0).done copy.berth < s.dev.fld 0 .tePolicy copy.berth 0 11 0 := by
  simp only [show tiered.dev.tierAt tiered.adm.tab copy.page = some
    { mode := 2, berth := 1, sock := 0, hub := 0, pool := nearBase 0 0, sets := 32768
      fars := [{ base := 0, limit := 2 ^ 30, kind := 0, berth := 1 }] } by decide +kernel]
  decide +kernel

/-- A descriptor of 64 bytes: OP, FLAGS, LENGTH, source, destination. -/
def desc (op flags len src dst : Nat) (ended : Option (BitVec 8 × BitVec 32 × Word)) : Desc :=
  { bytes := lineOfBytes (leBytes 1 op ++ leBytes 1 flags ++ leBytes 2 0 ++ leBytes 4 len ++ leBytes 8 src ++ leBytes 8 dst ++
      leBytes 40 0), ended }

/-- Function 255 of engine 3 of socket 0 with Bus Master Enable and a descriptor in its queue 4095; the line at 0x100000 is in
slice 0. -/
def ferry (x : Desc) : State :=
  (held (ent true)).withDev ((held (ent true)).dev.onFn 0 (fnKey 3 255) fun y => { y with run := [(4095, x)], cfg := [(wCommand, 4)] })

/-- The same for PF0, the Wheelhouse's. -/
def ferry0 (x : Desc) : State :=
  (held (ent true)).withDev ((held (ent true)).dev.onFn 0 (fnKey 0 0) fun y => { y with run := [(0, x)], cfg := [(wCommand, 4)] })

/-- A running descriptor and an ended one; OPs that exist and one that does not; the least and the longest piece of a line. -/
theorem witness_DescriptorsRunAndComplete :
    (let x := desc 0 8 0 0 0 none;
      Tbl.find ((ferry x).dev.fn 0 (fnKey 3 255)).run 4095 = some x ∧ (ferry x).dev.bme 0 3 255 = true ∧ x.ended = none ∧ x.op = 0 ∧
      x.badFormat = false) ∧
    (let x := desc 0 8 0 0 0 (some (1, 0, 0));
      x.ended ≠ none ∧ ((ferry x).dev.writeRecord (ferry x).adm.tab 0 3 255 4095 x).1 = true) ∧
    (∀ op ∈ [0, 1, 2, 3, 4, 8, 9, 10, 11, 16, 17, 18, 19], (desc op 8 64 0 0x100000 none).op = op) ∧
    knownOp (desc 5 8 64 0 0 none).op = false ∧ (knownOp (desc 1 8 0 0 0 none).op = true ∧ (desc 1 8 0 0 0 none).badFormat = true) ∧
    (∀ op ∈ [1, 2, 3, 8], ∀ n ∈ [1, 64], let x := desc op 8 n 0x100000 0x200000 none;
      x.badFormat = false ∧ x.flags.testBit 1 = false ∧ x.flags.testBit 2 = false ∧ x.field 0x10 8 % 64 + x.len ≤ 64 ∧
      x.field 8 8 % 64 + x.len ≤ 64) := by decide +kernel
/-- PF0 reads the line that the slice holds, and can write it. -/
theorem witness_DescriptorsRunAndComplete_data :
    let s := held (ent true)
    let x := s.dev.ferryRead s.adm.tab 0 0 0 0x100000 64
    (match x.1 with
    | .bytes bs => decide (bs.length = 64)
    | _ => false) = true ∧ (s.dev.ferryWrite s.adm.tab 0 0 0 0x100000 (List.replicate 64 5)).1 = some 0 := by decide +kernel

/-- The tables of berth 1 with root port 0 and its window. -/
def tabPort : Tables :=
  { tab1 with
    ports := [(0, 1)]
    ranges := tab1.ranges ++ [{ base := mmioBase 0, limit := mmioBase 0 + 0x7800000000, kind := 3, berth := 1 }] }

/-- Socket 0 running with root port 0 of berth 1 up (DL_UP, a device present), the line at 0x100000 in slice 0, changed by `f`. -/
def ported (f : Dev → Dev) : State :=
  let s := held (ent true)
  { s.withDev <| f <| (((s.dev.setFld 0 .pwMode 0 0 2 0 modeRun).setFld 0 .pxPortCfg 0 0 63 63 1).setFld 0 .pxPortStat 0 0 63 60 2).onPort 0 0
    fun x => { x with present := true } with adm := { Admin.reset with tab := tabPort } }

/-- A device's request at port 0. -/
def req (addr len : Nat) : DmaReq :=
  { sock := 0, port := 0, addr := BitVec.ofNat 64 addr, len, translated := false, pasid := false, relaxed := false }

theorem witness_HostBusEvents :
    (let x := desc 1 8 64 0 0x1000 none; (((ferry x).dev.fn 0 (fnKey 3 255)).run.find? fun q => q.2.ended.isNone) = some (4095, x)) ∧
    (let s := ported fun d => d.onPort 0 0 fun x => { x with loads := [(.core 0 5, 7)] };
      ((List.range 32).find? fun q => (s.dev.port 0 q).loads.contains (.core 0 5, (7 : BitVec 12).toNat)) = some 0) ∧
    (let s := st fun d => d.onFn 0 (fnKey 3 255) fun x => { x with flr := true }; (s.dev.fn 0 (fnKey 3 255)).flr = true) ∧
    (let s := st fun d => d.onFn 0 (fnKey 3 255) fun x =>
        { x with pba := [(2047, true)], cfg := [(wCommand, 4), (wMsix, 0x80000000)], msix := [(4094, 0x000FE00000FFFFFC), (4095, 7)] };
      Tbl.get false (s.dev.fn 0 (fnKey 3 255)).pba 2047 = true ∧ s.dev.msixOpen 0 3 255 2047 = true ∧
      (s.dev.fn 0 (fnKey 3 255)).writes = [] ∧ 0x000FE00000000000 ≤ ((s.dev.fn 0 (fnKey 3 255)).msixWord 2047 0).toNat ∧
      ((s.dev.fn 0 (fnKey 3 255)).msixWord 2047 0).toNat < 0x000FE00001000000 ∧
      ((s.dev.fn 0 (fnKey 3 255)).msixWord 2047 0).toNat % 4 = 0) ∧
    State.reset.dev.portUp 0 0 = false ∧ ((ported id).dev.portUp 0 0 = true ∧ (ported id).dev.berthRuns tabPort 0 1 = true) ∧
    (regionOf 0x100000 = .far 0 0 0x100000 ∧ (req 0x100000 64).pasid = false ∧ tabPort.berthOfPort 0 0 = 1 ∧
      tabPort.covers 1 0x100000 0x100040 = true ∧ ({ req 0 4 with translated := true } : DmaReq).translated = true) ∧
    (∀ q ∈ [4, 4096], tabPort.covers 1 0x000E000000001000 (0x000E000000001000 + q) = true) ∧
    (regionOf 0x000FE00000010000 = .intWin 0 0x10000) ∧
    (regionOf 0x000E000000001000 = .mmio 0 0x1000 ∧ portWindow 0 0x1000 = some (0, 0xC0001000) ∧ 0 / 16 = (req 0 4).port.val / 16 ∧
      (ported id).dev.fld 0 .pxPortStat 0 0 63 60 ≠ 4) ∧
    ((ported id).dev.fld 0 .pxPortCfg 0 0 63 63 = 1 ∧ (ported id).dev.fld 0 .pxPortStat 0 0 63 60 = 2) ∧
    (let s := st fun d => (d.setFld 0 .pxPortCfg 0 0 63 63 1).setFld 0 .pxPortStat 0 0 63 60 1;
      s.dev.portLanes 0 0 = some 16 ∧ s.dev.fld 0 .pxPortCfg 0 0 63 63 = 1 ∧ s.dev.fld 0 .pxPortStat 0 0 63 60 = 1 ∧
      1 ≤ (1 : BitVec 4).toNat ∧ (6 : BitVec 4).toNat ≤ 6 ∧ (1 : BitVec 5) ≠ 0) := by decide +kernel
/-- A read of the line, a write of its last byte, and an atomic on it. -/
theorem witness_HostBusEvents_data :
    let s := ported id
    (s.dev.dmaLines s.adm.tab (req 0x100000 64) (linePieces 65 0x100000 64 0)).1.isSome = true ∧
    (s.dev.uncachedWrite s.adm.tab (portNode 0 0) 1 (portMaster 0 0) 0 0x10003F 1 (lineOfBytes [9]) false true).1 = true ∧
    (let m : Msg := { msg .atm (portNode 0 0) (s.dev.homeSlice 0 0x100000) with master := 0x800, txn := 0, len := 4, data := atmData 0 false false 0 5 0 };
      (s.dev.inbox.any fun q => q.dst = portNode 0 0 && q.ty = .atr && lineOf q.pa = lineOf 0x100000) = false ∧
      (((s.dev.ask s.adm.tab 8 none m).2.take (portNode 0 0) (lineOf 0x100000) (· = .atr)).1.map Msg.poison) = some false) ∧
    0x10003F % 64 + 1 ≤ 64 ∧ (req 0x100000 4).len = 4 * 2 ^ (0 : Fin 3).val ∧ (req 0x100000 16).len = 16 := by decide +kernel
/-- A snapshot of every 2^10 ns that is due at time 0, with room, without, and during another. -/
def snapping (busy : Bool) (size : Nat) : State := st fun d =>
  ((d.setReg 0 .pcSnapCfg 1 0 (word (2 ^ 63 + 10 * 2 ^ 56 + size))).setFld 0 .pcSnapStat 1 0 62 62 busy.toNat)

theorem witness_CountersClocksAndPower :
    (let cfg := State.reset.dev.reg 0 .pcSnapCfg 1 0; ¬ bit cfg 63 = true) ∧
    (let s := snapping false 31; let cfg := s.dev.reg 0 .pcSnapCfg 1 0;
      bit cfg 63 = true ∧ 10 ≤ bits cfg 60 56 ∧ bits cfg 60 56 ≤ 30 ∧ s.dev.now.toNat % 2 ^ bits cfg 60 56 = 0 ∧
      ¬ s.dev.fld 0 .pcSnapStat 1 0 62 62 = 1 ∧ tab1.stateOf 1 = .run ∧
      (recordWords 0 1 0 0 s.dev.now (s.dev.counterWords tab1 0 1)).length * 8 ≤ 2 ^ bits cfg 4 0) ∧
    ((snapping true 31).dev.fld 0 .pcSnapStat 1 0 62 62 = 1 ∧ ¬ (State.reset.adm.tab.stateOf 1 = .run ∨
      State.reset.adm.tab.stateOf 1 = .draining) ∧
      ¬ (recordWords 0 1 0 0 0 ((snapping false 0).dev.counterWords tab1 0 1)).length * 8 ≤
        2 ^ bits ((snapping false 0).dev.reg 0 .pcSnapCfg 1 0) 4 0) ∧
    (State.reset.dev.fld 0 .ckPod 0 0 10 8 = 7 ∧ (st fun d => d.setFld 0 .ckPod 0 0 10 8 0).dev.fld 0 .ckPod 0 0 10 8 ≠ 7) ∧
    ((duo id).dev.dipping 0 = false ∧ 2 ≤ (duo id).dev.mode 0 ∧ (duo id).dev.mode 0 ≠ 7) ∧
    (let s := duo fun d => d.setFld 0 .ckStat 0 0 56 56 1; s.dev.dipping 0 = true ∧ (s.dev.wheel 0).resetPending = false) ∧
    (let s := duo fun d => (d.setFld 0 .ckStat 0 0 56 56 1).onWheel 0 fun w => { w with resetPending := true };
      s.dev.dipping 0 = true ∧ (s.dev.wheel 0).resetPending = true) ∧
    ((11 : Fin 14).val = 11 ∧ (13 : Fin 14).val ≠ 11 ∧ State.reset.dev.mode 0 ≤ 1 ∧
      (st fun d => d.setFld 0 .pwMode 0 0 2 0 7).dev.mode 0 = 7) ∧
    (let s := st fun d => { d with now := 1000000000 };
      s.dev.msSince (s.dev.wheel 0).tdpRaised = true ∧ s.dev.msSince (s.dev.wheel 0).thermRaised = true) ∧
    (([900, 1000] : List Nat)[1]? = some 1000 ∧ ([5, 50000] : List Nat)[1]? = some 50000 ∧ (2 : BitVec 14).getLsbD 1 = true ∧
      railReadings [900, 1000] [5, 50000] 2 = [(1, 1000, 50000)] ∧ wattsOf (railReadings [900, 1000] [5, 50000] 2) = 50) ∧
    (105 ≤ hottestOf [20, 105] ∧ hottestOf [99, 20] < 100 ∧ 125 ≤ hottestOf [20, 20, 125]) ∧
    (let s := st fun d => d.onWheel 0 fun w => { w with lowSamples := 99, coolSamples := 99, watts := List.replicate 100 700 };
      99 ≤ (s.dev.wheel 0).lowSamples ∧ 99 ≤ (s.dev.wheel 0).coolSamples ∧ s.dev.fld 0 .pwTdp 0 0 41 32 = 600 ∧
      600 < meanWatts ((700 :: (s.dev.wheel 0).watts).take 100)) ∧
    (meanWatts [56999] * 100 < 600 * 95 ∧ meanWatts [57000] ≤ 600 ∧ 600 * 95 ≤ meanWatts [57000] * 100) := by decide +kernel
/-- A record in progress whose lines the berth owns, and one whose lines it does not. -/
theorem witness_CountersClocksAndPower_record :
    let s := st fun d => d.onWheel 0 fun k => { k with snaps := [(1, { (d.snap 0 1) with record := List.replicate 8 5, lines := [0x100000, 4096, 0, 0, 0] })] }
    (s.dev.snap 0 1).lines = [0x100000, 4096, 0, 0, 0] ∧ (chunks ((s.dev.snap 0 1).record.length + 1) 8 (s.dev.snap 0 1).record).length = 1 ∧
    tab1.covers 1 0x100000 0x100040 = true ∧ State.reset.adm.tab.covers 1 0x100000 0x100040 = false := by decide +kernel

/-- Socket 0 manages itself on a manifest of a smaller serial number, with the test manifest staged, pods 0 and 13 to 103 enabled
and pods 1 to 12 spare, changed by `f`. -/
def serving (f : Dev → Dev) : State :=
  { st fun d => f ((upSock d 0 modeRun 1 0 0).onWheel 0 fun w =>
      { w with kept := man.set 16 0, staged := man, fuses := fused, enabled := 0 :: (List.range 91).map (13 + ·),
               spares := (List.range 12).map (1 + ·) }) with
    adm := { Admin.reset with mirror := (buildTables State.reset.dev man 0 []).1 } }

theorem test_manifest_length : man.take (Nat.min copySize man.length) = man := by decide +kernel

theorem witness_ManagementPortAndService :
    ((st fun d => d.setFld 0 .pwMode 0 0 2 0 0).dev.i3c 0 = false ∧ State.reset.dev.i3c 0 = true ∧
      State.reset.dev.mode 0 = 1 ∧ (State.reset.dev.wheel 0).sleeping = false ∧
      (let s := st fun d => d.onWheel 0 fun w => { w with sleeping := true }; s.dev.mode 0 = 1 ∧ (s.dev.wheel 0).sleeping = true)) ∧
    ((serving id).dev.runs 0 = true ∧ (serving id).dev.fld 0 .whSvc 0 0 58 56 ≠ 1 ∧ (serving id).adm.order = none) ∧
    (∃ s : State, s.dev.fld 0 .whSvc 0 0 58 56 = 1) ∧
    ((memory id).dev.fld 0 .fmChCfg 0 0 63 60 = 2 ∧ (memory id).dev.i3c 0 = true) ∧
    (st fun d => d.setFld 0 .pwMode 0 0 2 0 2).dev.mode 0 = 2 ∧
    ((serving id).dev.isManager 0 = true ∧ (serving id).dev.awake 0 = true ∧ ((serving id).dev.wheel 0).staged ≠ [] ∧
      ((serving id).dev.wheel 0).kept ≠ [] ∧ ∀ t ∈ (serving id).dev.members 0, t = 0) ∧
    (let s := serving fun d => (d.onCore (coreOf 0 0 0) fun c => { c with run := .running }).onCore (coreOf 0 0 1) fun c =>
        { c with run := .running };
      (s.dev.enabledPods 0).contains 0 = true ∧ s.dev.podFenced 0 0 = false ∧ (s.dev.core (coreOf 0 0 0)).run = .running ∧
      ((s.dev.drainAll s.adm.tab (coreOf 0 0 0)).core (coreOf 0 0 1)).run = .running) ∧
    ((serving id).dev.runs 0 = true ∧ (serving id).dev.mode 0 ≠ modeMaintain ∧ State.reset.dev.runs 0 = false ∧
      State.reset.dev.mode 0 ≠ modeMaintain ∧ (serving id).dev.enabledPods 0 ≠ [] ∧ ((serving id).dev.enabledPods 0).contains 1 = false) := by
  refine ⟨by decide +kernel, by decide +kernel, ⟨st fun d => d.setFld 0 .whSvc 0 0 58 56 1, by decide +kernel⟩,
    by decide +kernel, by decide +kernel, by decide +kernel, by decide +kernel, by decide +kernel⟩
/-- A substitution under way: a slice that is empty at once, with a spare and with none left, and one that still serves a request. -/
theorem witness_ManagementPortAndService_spares :
    let x := fun (s : State) =>
      let r := (s.dev.svcShow 0 4 13 1).emptySlice s.adm.tab 0 (fin104 13)
      (r.1, ((r.2.setFld 0 .ldMeshCtl (landingOf 13) 0 4 4 1).onWheel 0 fun w => { w with replacing := none }).chooseSpare 0 13)
    let go := fun (f : Dev → Dev) => serving fun d => f (d.onWheel 0 fun w => { w with replacing := some 13 })
    ((go id).dev.enabledPods 0).contains 13 = true ∧ ((go id).dev.wheel 0).replacing = some 13 ∧ x (go id) = (true, some 4) ∧
    x (go fun d => d.onWheel 0 fun w => { w with spares := [] }) = (true, none) ∧
    (x (go fun d => d.onSlice 0 13 fun y => { y with ents := [(0, { (ent true).ownedBy 5 with busy := true })], txns := [txn .rdm [2] false true] })).1 = false := by
  decide +kernel
/-- An image that fails its check, one that is the running one's like but newer, and the staged one. -/
theorem witness_ManagementPortAndService_firmware :
    manStatus ((serving id).dev.wheel 0).fuses ([].take (Nat.min copySize 0)) ≠ bootOk ∧
    manStatus ((serving id).dev.wheel 0).fuses (man.take (Nat.min copySize man.length)) = bootOk ∧
    manStatus ((serving id).dev.wheel 0).fuses ((serving id).dev.wheel 0).staged = bootOk := by
  rw [test_manifest_length, show ((serving id).dev.wheel 0).fuses = fused by decide +kernel,
    show ((serving id).dev.wheel 0).staged = man by decide +kernel]
  exact ⟨by decide +kernel, test_manifest, test_manifest⟩
theorem witness_ManagementPortAndService_compatible :
    (let d := (serving id).dev
     let d1 := d.svcShow 0 1 0 1
     let d2 := d1.each (0 :: d1.standbys 0) fun x t => x.onWheel t fun w => w.writeCopy (1 - d1.fld 0 .whBoot 0 0 44 44) man
     compatible (serving id).adm d2 0 man = true ∧ compatible (serving id).adm (d2.onWheel 0 fun w => { w with kept := man }) 0 man = false) := by decide +kernel
/-- Channel 0's set without and with a free stretch for its contents; a channel out of service; an expander; a fenced entry. -/
theorem witness_ManagementPortAndService_units :
    (let d5 := (memory id).dev.svcShow 0 5 0 1;
      2 ≤ (memory id).dev.fld 0 .fmChCfg 0 0 63 60 ∧
      ((d5.farUnit 0 0).all fun u => d5.canEvacuate (memory id).adm.tab 0 0 u.1 u.2) = true ∧
      ((d5.farUnit 0 0).all fun u => d5.canEvacuate
        { Tables.reset with ranges := [{ base := 0, limit := 2 ^ 46, kind := 0, berth := 1 }] } 0 0 u.1 u.2) = false) ∧
    (let ds : List Dimm := [{ rdimm := true, ecc := true, width := 4, density := 16, stack := 1, ranks := 2, mtps := 6400 }];
      let s := memory fun d => (d.setFld 0 .fmChCfg 0 0 63 60 4).onChan 0 0 fun c => { c with dimms := ds };
      s.dev.fld 0 .fmChCfg 0 0 63 60 = 4 ∧ (s.dev.chan 0 0).dimms = ds ∧ ds ≠ []) ∧
    (let s := memory fun d => d.setReg 0 .fmCxl 0 0 (word (2 * 2 ^ 60 + 2 ^ 48 + 2 ^ 32));
      bits (s.dev.reg 0 .fmCxl 0 0) 63 60 = 2 ∧
      (s.dev.svcShow 0 7 0 1).canEvacuate s.adm.tab 0 0 0x10000 (bits (s.dev.reg 0 .fmCxl 0 0) 44 32) = true ∧
      !(s.adm.tab.owners (cxlBase 0 0) (cxlBase 0 0 + gib)).isEmpty = false ∧
      !(({ tab1 with ranges := [{ base := cxlBase 0 0, limit := cxlBase 0 0 + gib, kind := 2, berth := 1 }] } : Tables).owners
        (cxlBase 0 0) (cxlBase 0 0 + gib)).isEmpty = true ∧ bits (State.reset.dev.reg 0 .fmCxl 0 0) 63 60 ≠ 2) ∧
    (let t : Tables := { tab1 with ranges := [{ base := 0, limit := 2 ^ 46, kind := 0, berth := 1 }] };
      (((memory fun d => d.setReg 0 .fmCxl 0 0 (word (2 * 2 ^ 60 + 2 ^ 48 + 2 ^ 32))).dev.svcShow 0 7 0 1).canEvacuate t 0 0 0x10000 1) = false) ∧
    (let d := (memory id).dev; ((d.farUnit 0 0).all fun u => d.redirects 0 0 u.1) = false ∧ ((d.farUnit 0 0).any fun u => d.hasRun 0 0 u.1) = false) ∧
    (let d := (memory fun d => (d.farUnit 0 0).foldl (fun d u =>
        ((d.setFld 0 .teRunA 0 0 63 63 1).setFld 0 .teRunA 0 0 60 43 u.1).setFld 0 .teRunB 0 0 58 56 2) d).dev;
      ((d.farUnit 0 0).all fun u => d.redirects 0 0 u.1) = true ∧ ((d.farUnit 0 0).any fun u => d.hasRun 0 0 u.1) = true) ∧
    ((st fun d => d.setFld 0 .fcFenceA 5 0 63 62 3).dev.fld 0 .fcFenceA 5 0 63 62 = 3 ∧
      State.reset.dev.fld 0 .fcFenceA 5 0 63 62 ≠ 3) := by decide +kernel

/-- The manager's slip 0 holds a message of three words to the Wheelhouse from berth 1, which may administer. -/
def told (w0 w1 w2 : Word) (o : Option Order) (f : Dev → Dev) : State :=
  let s := serving fun d => f <| ((((d.setReg 0 .mbCfg 0 0 (word (2 ^ 62 + 2 ^ 48))).setReg 0 .mbData 0 0 w0).setReg 0 .mbData 0 1 w1).setReg
    0 .mbData 0 2 w2).setFld 0 .mbCtl 0 0 63 63 1
  { s with adm := { s.adm with tab := { tab1 with admin := 1 }, order := o } }

/-- An order whose first operation, a removal from berth 1, waits for the berth. -/
def waitingOrder : Order :=
  { ops := [{ opcode := 7, berth := 1, socket := 0, cls := 0, arg0 := 0, arg1 := 0, arg2 := 0, reserved := 0 }], idx := 0, bytes := []
    seq := 1, sock := 0, berth := 1, waiting := true, settling := false }

theorem witness_ResetsAndOrders :
    (let s := State.reset; (∀ t < 16, t ≠ 0 → s.dev.present t t = false ∨ s.dev.awake t = false)) ∧
    ((st fun d => d.setFld 0 .pwMode 0 0 2 0 0).dev.mode 0 = 0 ∧ (st fun d => d.setFld 0 .pwMode 0 0 2 0 7).dev.mode 0 = 7) ∧
    ((serving id).dev.mode 0 = 3 ∧ (serving id).dev.dipping 0 = false ∧
      (serving fun d => d.setFld 0 .ckStat 0 0 56 56 1).dev.dipping 0 = true) ∧
    (State.reset.dev.mode 0 = 1 ∧ (State.reset.dev.wheel 0).sleeping = false ∧ State.reset.dev.dipping 0 = false) ∧
    (tab1.stateOf 1 ≠ .free ∧ State.reset.adm.tab.stateOf 1 = .free) ∧ (State.reset.dev.wheel 0).staged = [] ∧
    ((serving id).dev.wheel 0).staged ≠ [] ∧
    (let s := st fun d => (upSock d 3 2 0 0 0).setFld 3 .whSystem 0 0 40 39 2 |>.onWheel 3 fun w =>
        { w with board := { w.board with rootLock := true } };
      (s.dev.mode 3 = 2 ∧ s.dev.present 3 3 = false ∧ s.dev.fld 3 .whSystem 0 0 40 39 = 2 ∧ (s.dev.wheel 3).board.rootLock = true) ∧
      (∀ t < 16, s.dev.isManager t = false ∨ s.dev.awake t = false) ∧ (∀ t < 3, s.dev.mode t ≠ 2)) ∧
    (State.reset.dev.hepinHas 0 0 = false ∧
      (told 1 0 128 none fun d => upSock d 0 2 0 0 0).dev.hepinHas 0 0 = true ∧
      ((told 1 0 128 none fun d => upSock d 0 2 0 0 0).dev.slipDone 0 0).managerOf 0 = none) ∧
    (let s := told 1 0 127 none fun d => d.setFld 0 .pwMode 0 0 2 0 5;
      (s.dev.slipDone 0 0).managerOf 0 = some 0 ∧ (s.dev.slipDone 0 0).runs 0 = false) ∧
    (let s := told 1 0 127 none id; s.dev.hepinHas 0 0 = true ∧ s.dev.slipWord 0 0 0 = 1 ∧ (s.dev.slipDone 0 0).managerOf 0 = some 0 ∧
      (s.dev.slipDone 0 0).runs 0 = true ∧ (s.dev.slipDone 0 0).svcBusy = false ∧ s.dev.fld 0 .mbCfg 0 0 53 48 = s.adm.tab.admin ∧
      (s.dev.slipWord 0 0 2).toNat < 128 ∧ (told 1 0 127 none id).dev.fld 0 .mbCfg 0 0 53 48 ≠ Tables.reset.admin) ∧
    (let s := told (word (2 ^ 56)) (word (7 * 2 ^ 32)) 0 (some waitingOrder) id;
      s.dev.hepinHas 0 0 = true ∧ bits (s.dev.slipWord 0 0 0) 63 56 = 1 ∧ s.dev.slipWord 0 0 1 = word (7 * 2 ^ 32 + 0)) := by
  decide +kernel
/-- A Corrected message and a Fatal-berth one of berth 1; a quiet period that ends. -/
theorem witness_ResetsAndOrders_faults :
    let f := fun (m : FMsg) => (st fun d => d.onSock 0 fun x => { x with faults := { x.faults with send := [(3, []), (5, [m])] } })
    let small : FMsg := BitVec.ofNat 128 (2 ^ 105)
    let fatal : FMsg := BitVec.ofNat 128 (5 * 2 ^ 105 + 2 ^ 99)
    let worse : FMsg := BitVec.ofNat 128 (7 * 2 ^ 105)
    ((State.reset.dev.sock 0).faults.send = []) ∧
    (((f small).dev.sock 0).faults.send.find? (fun x => !x.2.isEmpty) = some (5, small :: [])) ∧ small.sev = 1 ∧
    (((f fatal).dev.sock 0).faults.send.find? (fun x => !x.2.isEmpty) = some (5, fatal :: [])) ∧ fatal.sev = 5 ∧ fatal.cls ≠ 0xA ∧
    fatal.berth = 1 ∧ worse.sev = 7 ∧ worse.cls ≠ 0xA ∧
    (((f worse).dev.sock 0).faults.send.find? (fun x => !x.2.isEmpty) = some (5, worse :: [])) ∧
    (2 ≤ (serving id).dev.mode 0 ∧ (serving id).dev.mode 0 ≤ 5) ∧
    (let s := st fun d => (d.setFld 0 .fcFenceA 511 0 63 62 3).onSock 0 fun x => { x with faults := { x.faults with quiet := [511] } };
      (s.dev.sock 0).faults.quiet.contains 511 = true ∧ s.dev.dipping 0 = false) := by decide +kernel
/-- A core whose store buffer is empty, and one whose store waits for a held map entry. -/
theorem witness_ResetsAndOrders_stop :
    let stop := fun (s : State) => (s.dev.drainAll s.adm.tab hA).accessDone s.adm.tab hA
    ((stop (run id)).core hA).sb = [] ∧
    (let s := run fun c => { c with sb := [storeEntry 0x100000 0x100000 8 7 false false] };
      let e := hashOf 0x100000;
      ((stop (s.withDev (s.dev.setFld 0 .ldHmap e 0 7 7 1))).core hA).sb ≠ []) := by decide +kernel
theorem witness_IdleTick : State.reset.pending = [] ∧ State.reset.quiet = true ∧ State.reset.dev.socks = [] ∧
    State.reset.adm.order = none := by decide +kernel
theorem witness_TablesStaySound : State.reset.adm.Inv ∧ ∃ t, step State.reset = .next t := by
  refine ⟨⟨⟨List.Pairwise.nil, by simp [State.reset, Admin.reset, Tables.reset], ?_, by simp [State.reset, Admin.reset, Tables.reset]⟩,
    ⟨List.Pairwise.nil, by simp [State.reset, Admin.reset, Tables.reset], ?_, by simp [State.reset, Admin.reset, Tables.reset]⟩⟩, ?_⟩
  · intro s b c _ _ _; simp [State.reset, Admin.reset, Tables.reset, Tbl.get]
  · intro s b c _ _ _; simp [State.reset, Admin.reset, Tables.reset, Tbl.get]
  · exact ⟨_, rfl⟩

end Sys2Proof.Tests
end

section
/-! The idle step: one reference tick, after which only what waited goes on (assumption log 2). -/

namespace Sys2Proof.Machine

/-! ### The tick -/

@[simp] theorem Dev.tick_now (d : Dev) : d.tick.now = d.now + 1 := rfl

/-- While every socket is as after reset, no core's time counter is listed, and the tick moves the time base alone. -/
theorem Dev.tick_of_socks_nil {d : Dev} (e : d.socks = []) : d.tick = { d with now := d.now + 1 } := by
  simp [Dev.tick, e]

theorem Dev.quiet_withNow {d : Dev} (q : d.quiet = true) (t : Word) : ({ d with now := t } : Dev).quiet = true :=
  Dev.quiet_of_cores q rfl rfl rfl fun _ => rfl

/-! ### The work that waits -/

theorem Dev.sockList_of_socks_nil {d : Dev} (e : d.socks = []) : d.sockList = [] := by
  simp [Dev.sockList, e]

/-- An order that does not wait for slices, or no order at all, does not go on by itself. -/
theorem orderGo_of_not_settling {a : Admin} (d : Dev) (h : ∀ o, a.order = some o → o.settling = false) :
    orderGo a d = (a, d) := by
  unfold orderGo
  split
  case h_1 o e => simp [h o e]
  case h_2 => rfl

/-- With no changed socket and no order that waits for slices, nothing goes on. -/
theorem resumeAll_rest {a : Admin} {d : Dev} (e : d.socks = []) (h : ∀ o, a.order = some o → o.settling = false) :
    resumeAll a d = (a, d) := by
  simp only [resumeAll, Dev.sockList_of_socks_nil e, Dev.each, List.foldl_nil, orderGo_of_not_settling d h]

/-! ### The idle step -/

/-- With nothing in flight and nothing that waits, an idle step moves the time base alone. -/
theorem idle_rest {a : Admin} {d : Dev} (q : d.quiet = true) (e : d.socks = [])
    (h : ∀ o, a.order = some o → o.settling = false) : idle a d = (a, { d with now := d.now + 1 }) := by
  have ticked : d.tick = { d with now := d.now + 1 } := Dev.tick_of_socks_nil e
  have quiet : d.tick.quiet = true := by rw [ticked, Dev.quiet_withNow q]
  have fresh : d.tick.socks = [] := by rw [ticked, e]
  have waiting : resumeAll a d.tick = (a, d.tick) := resumeAll_rest fresh h
  rw [← ticked]
  simp only [idle, Dev.finish_rest a quiet, waiting]

theorem step_of_pending_nil {s : State} (e : s.pending = []) : step s = .next (s.onBoth idle) := by
  simp only [step, e]

@[simp] theorem State.onBoth_adm (s : State) (f : Admin → Dev → Admin × Dev) : (s.onBoth f).adm = (f s.adm s.dev).1 := rfl
@[simp] theorem State.onBoth_dev (s : State) (f : Admin → Dev → Admin × Dev) : (s.onBoth f).dev = (f s.adm s.dev).2 := rfl

/-- A command that leaves the berth tables as they are changes the device part alone. -/
theorem State.onBoth_of_keeps_adm {s : State} {f : Admin → Dev → Admin × Dev} {d : Dev} (h : f s.adm s.dev = (s.adm, d)) :
    s.onBoth f = s.withDev d := by
  simp only [State.onBoth, State.withDev, h]

/-- Settles O58: on an empty queue a step is `idle`, and `idle_rest` says when it moves nothing but the time. -/
theorem idleTick : Obligations.IdleTick := by
  intro s empty
  have idleStep : step s = .next (s.onBoth idle) := step_of_pending_nil empty
  refine ⟨⟨s.onBoth idle, idleStep, ?_, s.onBoth_adm idle, s.onBoth_dev idle⟩, s.dev.tick_now, fun q fresh unsettled => ?_⟩
  · rw [State.onBoth_pending, empty]
  · rw [idleStep, State.onBoth_of_keeps_adm (idle_rest q fresh unsettled)]

end Sys2Proof.Machine
end

section
/-! The berth tables: what soundness (R28, R29) asks of the ranges, the way masks and the states, and how each operation on the
tables keeps it. -/

namespace Sys2Proof.Machine

/-! ### The three parts of soundness -/

/-- Ranges in rising order that share no byte, none of them empty (R29). -/
def RangesSound (rs : List Range) : Prop := rs.Pairwise (fun x y => x.limit ≤ y.base) ∧ ∀ r ∈ rs, r.base < r.limit

/-- Way masks of which no two of a socket share a way (R28). -/
def WaysSound (ws : Tbl (BitVec 16)) : Prop :=
  ∀ s b c, b < 64 → c < 64 → b ≠ c → Tbl.get 0 ws (s * 64 + b) &&& Tbl.get 0 ws (s * 64 + c) = 0

/-- States of berths below 64 alone. -/
def StatesSound (ss : Tbl BState) : Prop := ∀ e ∈ ss, e.1 < 64

theorem Tables.inv_iff (t : Tables) : t.Inv ↔ RangesSound t.ranges ∧ WaysSound t.ways ∧ StatesSound t.state := by
  simp only [Tables.Inv, RangesSound, WaysSound, StatesSound, and_assoc]

/-- Soundness looks at the ranges, the way masks and the states alone. -/
theorem Tables.Inv.of_eq {t u : Tables} (i : t.Inv) (r : u.ranges = t.ranges := by rfl) (w : u.ways = t.ways := by rfl)
    (e : u.state = t.state := by rfl) : u.Inv := by
  rw [Tables.inv_iff] at *
  rwa [r, w, e]

theorem Tables.reset_inv : Tables.reset.Inv := by
  refine (Tables.inv_iff _).2 ⟨⟨List.Pairwise.nil, ?_⟩, ?_, ?_⟩
  · intro r m
    cases m
  · intro s b c _ _ _
    exact BitVec.and_self
  · intro e m
    cases m

/-! ### States -/

theorem StatesSound.set {ss : Tbl BState} (h : StatesSound ss) {b : Nat} (lt : b < 64) (x : BState) :
    StatesSound (Tbl.set .free ss b x) := by
  intro e m
  rcases Tbl.mem_set m with rfl | m
  · exact lt
  · exact h e m

/-- To forget a berth is lawful for every number. -/
theorem StatesSound.set_free {ss : Tbl BState} (h : StatesSound ss) (b : Nat) : StatesSound (Tbl.set .free ss b .free) := by
  intro e m
  rw [Tbl.set, if_pos rfl] at m
  exact h e (List.mem_filter.1 m).1

/-- A berth that exists is one below 64. -/
theorem Tables.Inv.lt_of_exists {t : Tables} (i : t.Inv) {b : Nat} (h : t.stateOf b ≠ .free) : b < 64 := by
  obtain ⟨-, -, states⟩ := t.inv_iff.1 i
  rcases Tbl.get_mem BState.free t.state b with e | m
  · exact absurd e h
  · exact states _ m

theorem Tables.Inv.setState {t : Tables} (i : t.Inv) {b : Nat} (lt : b < 64) (x : BState) : (t.setState b x).Inv := by
  obtain ⟨ranges, ways, states⟩ := t.inv_iff.1 i
  exact (Tables.inv_iff _).2 ⟨ranges, ways, states.set lt x⟩

/-- A berth that exists changes its state. -/
theorem Tables.Inv.setState_of_exists {t : Tables} (i : t.Inv) {b : Nat} {y : BState} (h : t.stateOf b = y) (n : y ≠ .free)
    (x : BState) : (t.setState b x).Inv :=
  i.setState (i.lt_of_exists (h ▸ n)) x

/-! ### Way masks -/

theorem Tbl.get_filter_key {α : Type} (d : α) (t : Tbl α) (p : Nat → Bool) (k : Nat) :
    Tbl.get d (t.filter fun e => p e.1) k = if p k then Tbl.get d t k else d := by
  induction t with
  | nil => simp [Tbl.get]
  | cons e r ih =>
    by_cases same : e.1 = k
    · subst same
      cases h : p e.1 <;> simp_all [Tbl.get]
    · cases h : p e.1 <;> simp [Tbl.get, h, same, ih]

/-- Masks that leave by their place leave the others apart. -/
theorem WaysSound.filter {ws : Tbl (BitVec 16)} (h : WaysSound ws) (p : Nat → Bool) : WaysSound (ws.filter fun e => p e.1) := by
  intro s b c hb hc n
  rw [Tbl.get_filter_key, Tbl.get_filter_key]
  split
  · split
    · exact h s b c hb hc n
    · exact BitVec.and_zero
  · exact BitVec.zero_and

/-- Giving a berth below 64 a mask keeps the masks apart: the check of `setWays` is R28's. -/
theorem Tables.Inv.setWays {t : Tables} (i : t.Inv) (s : Nat) {b : Nat} (lt : b < 64) (m : BitVec 16) : (t.setWays s b m).Inv := by
  obtain ⟨ranges, ways, states⟩ := t.inv_iff.1 i
  unfold Tables.setWays
  split
  case isFalse => exact i
  case isTrue free =>
    simp only [List.all_eq_true, List.mem_range, Bool.or_eq_true, decide_eq_true_eq] at free
    refine (Tables.inv_iff _).2 ⟨ranges, ?_, states⟩
    have other : ∀ s' c, c < 64 → c ≠ b → Tbl.get 0 (Tbl.set 0 t.ways (s * 64 + b) m) (s' * 64 + c) = Tbl.get 0 t.ways (s' * 64 + c) :=
      fun s' c hc n => Tbl.get_set_ne _ _ _ _ (by omega)
    have apart : ∀ s' c, c < 64 → c ≠ b →
        Tbl.get 0 t.ways (s' * 64 + c) &&& Tbl.get 0 (Tbl.set 0 t.ways (s * 64 + b) m) (s' * 64 + b) = 0 := by
      intro s' c hc n
      by_cases same : s' = s
      · subst same
        rw [Tbl.get_set_same]
        exact (free c hc).resolve_left n
      · rw [Tbl.get_set_ne _ _ _ _ (by omega)]
        exact ways s' c b hc lt n
    intro s' c c' hc hc' n
    by_cases isB : c = b
    · subst isB
      rw [other s' c' hc' (Ne.symm n), BitVec.and_comm]
      exact apart s' c' hc' (Ne.symm n)
    · rw [other s' c hc isB]
      by_cases isB' : c' = b
      · subst isB'
        exact apart s' c hc isB
      · rw [other s' c' hc' isB']
        exact ways s' c c' hc hc' n

/-! ### Ranges -/

theorem RangesSound.filter {rs : List Range} (h : RangesSound rs) (p : Range → Bool) : RangesSound (rs.filter p) :=
  ⟨h.1.filter p, fun r m => h.2 r (List.mem_filter.1 m).1⟩

theorem rangesSound_cons {x : Range} {xs : List Range} :
    RangesSound (x :: xs) ↔ (x.base < x.limit ∧ ∀ y ∈ xs, x.limit ≤ y.base) ∧ RangesSound xs := by
  simp only [RangesSound, List.pairwise_cons, List.forall_mem_cons]
  tauto

/-- What is put into a list of ranges starts no lower than the lowest of them did. -/
theorem le_base_of_mem_rangeInsert {lo : Nat} {rs : List Range} {r : Range} (hr : lo ≤ r.base) (h : ∀ x ∈ rs, lo ≤ x.base) :
    ∀ z ∈ rangeInsert rs r, lo ≤ z.base := by
  induction rs generalizing r with
  | nil =>
    intro z m
    rw [rangeInsert, List.mem_singleton] at m
    rwa [m]
  | cons x xs ih =>
    obtain ⟨hx, hxs⟩ := List.forall_mem_cons.1 h
    unfold rangeInsert
    split
    · exact List.forall_mem_cons.2 ⟨hr, h⟩
    · split
      · split
        · exact List.forall_mem_cons.2 ⟨hr, hxs⟩
        · exact List.forall_mem_cons.2 ⟨hr, h⟩
      · split
        · exact ih hx hxs
        · exact List.forall_mem_cons.2 ⟨hx, ih hr hxs⟩

/-- A range that shares no byte with the others takes its place among them. -/
theorem RangesSound.insert {rs : List Range} (h : RangesSound rs) {r : Range} (ne : r.base < r.limit)
    (apart : ∀ x ∈ rs, x.limit ≤ r.base ∨ r.limit ≤ x.base) : RangesSound (rangeInsert rs r) := by
  induction rs generalizing r with
  | nil => exact rangesSound_cons.2 ⟨⟨ne, by simp⟩, h⟩
  | cons x xs ih =>
    obtain ⟨⟨hx, before⟩, tail⟩ := rangesSound_cons.1 h
    obtain ⟨apartX, apartXs⟩ := List.forall_mem_cons.1 apart
    have behind : r.limit ≤ x.base → ∀ y ∈ x :: xs, r.limit ≤ y.base := fun le =>
      List.forall_mem_cons.2 ⟨le, fun y m => by have := before y m; omega⟩
    unfold rangeInsert
    split
    case isTrue lt => exact rangesSound_cons.2 ⟨⟨ne, behind (by omega)⟩, h⟩
    case isFalse =>
      split
      case isTrue touch =>
        split
        · exact rangesSound_cons.2 ⟨⟨show r.base < x.limit by omega, before⟩, tail⟩
        · exact rangesSound_cons.2 ⟨⟨ne, behind (by omega)⟩, h⟩
      case isFalse =>
        split
        case isTrue joined =>
          simp only [Bool.and_eq_true, decide_eq_true_eq] at joined
          refine ih tail (r := { r with base := x.base }) (show x.base < r.limit by omega) fun y m => .inr ?_
          have := before y m
          rcases apartXs y m with le | le
          · have := tail.2 y m
            omega
          · exact le
        case isFalse =>
          have low : ∀ z ∈ rangeInsert xs r, x.limit ≤ z.base := le_base_of_mem_rangeInsert (by omega) before
          exact rangesSound_cons.2 ⟨⟨hx, low⟩, ih tail ne apartXs⟩

/-- What is left of a range lies within it, in order, and is not empty. -/
theorem Range.cut_sound {x : Range} (hx : x.base < x.limit) (b kind : Nat) {lo hi : Nat} (le : lo ≤ hi) :
    RangesSound (x.cut b kind lo hi) ∧ ∀ z ∈ x.cut b kind lo hi, x.base ≤ z.base ∧ z.limit ≤ x.limit := by
  unfold Range.cut
  split
  case isTrue => simp [RangesSound, hx]
  case isFalse meets =>
    simp only [Bool.or_eq_true, decide_eq_true_eq, not_or] at meets
    by_cases low : x.base < lo <;> by_cases high : hi < x.limit <;> simp [RangesSound, low, high] <;> omega

/-- Taking a stretch from a berth leaves the ranges in order. -/
theorem RangesSound.remove {rs : List Range} (h : RangesSound rs) (b kind : Nat) {lo hi : Nat} (le : lo ≤ hi) :
    RangesSound (rangeRemove rs b kind lo hi) := by
  refine ⟨List.pairwise_flatMap.2 ⟨fun x m => (Range.cut_sound (h.2 x m) b kind le).1.1, ?_⟩, fun z m => ?_⟩
  · refine h.1.imp_of_mem fun {x y} mx my before z mz w mw => ?_
    have := ((Range.cut_sound (h.2 x mx) b kind le).2 z mz).2
    have := ((Range.cut_sound (h.2 y my) b kind le).2 w mw).1
    omega
  · obtain ⟨x, mx, mz⟩ := List.mem_flatMap.1 m
    exact (Range.cut_sound (h.2 x mx) b kind le).1.2 z mz

/-- After a berth's stretch of a kind is taken away, no range that is left meets it but those that are not the berth's or not of
that kind. -/
theorem apart_of_mem_rangeRemove {rs : List Range} {b kind lo hi : Nat}
    (others : ∀ x ∈ rs, x.berth ≠ b ∨ x.kind ≠ kind → x.limit ≤ lo ∨ hi ≤ x.base) :
    ∀ z ∈ rangeRemove rs b kind lo hi, z.limit ≤ lo ∨ hi ≤ z.base := by
  intro z m
  obtain ⟨x, mx, mz⟩ := List.mem_flatMap.1 m
  have := others x mx
  unfold Range.cut at mz
  split at mz
  case isTrue out =>
    rw [List.mem_singleton.1 mz]
    simp only [Bool.or_eq_true, decide_eq_true_eq] at out
    tauto
  case isFalse =>
    rcases List.mem_append.1 mz with mz | mz <;> split at mz <;> simp only [List.mem_singleton, List.not_mem_nil] at mz <;>
      subst mz
    · exact .inl le_rfl
    · exact .inr le_rfl

/-- Adding a range checks that it is apart from all others. -/
theorem Tables.Inv.addRange {t : Tables} (i : t.Inv) (r : Range) : (t.addRange r).Inv := by
  obtain ⟨ranges, ways, states⟩ := t.inv_iff.1 i
  unfold Tables.addRange
  split
  case isFalse => exact i
  case isTrue ok =>
    simp only [Bool.and_eq_true, List.all_eq_true, Range.apart, Bool.or_eq_true, decide_eq_true_eq] at ok
    exact (Tables.inv_iff _).2 ⟨ranges.insert ok.1 ok.2, ways, states⟩

/-! ### Whole tables -/

theorem Tables.Inv.without {t : Tables} (i : t.Inv) (b : Nat) : (t.without b).Inv := by
  obtain ⟨ranges, ways, states⟩ := t.inv_iff.1 i
  exact (Tables.inv_iff _).2 ⟨ranges.filter _, ways.filter fun k => k % 64 ≠ b, states.set_free b⟩

theorem Tables.Inv.loseSocket {t : Tables} (i : t.Inv) (s : Nat) : (t.loseSocket s).Inv := by
  obtain ⟨ranges, ways, states⟩ := t.inv_iff.1 i
  exact (Tables.inv_iff _).2 ⟨ranges.filter _, ways.filter fun k => k / 64 ≠ s, states⟩

theorem Tables.Inv.swapPod {t : Tables} (i : t.Inv) (s old new : Nat) : (t.swapPod s old new).Inv := by
  unfold Tables.swapPod
  dsimp only
  split
  · exact i
  · exact i.of_eq

theorem Tables.Inv.regain {t : Tables} (i : t.Inv) (u : Tables) (s : Nat) : (t.regain u s).Inv := by
  unfold Tables.regain
  refine List.foldlRecOn _ _ ?_ fun x hx r _ => hx.addRange r
  exact List.foldlRecOn _ _ i.of_eq fun x hx e _ => hx.setWays s (Nat.mod_lt _ (by decide)) e.2

theorem Tables.Inv.unnamedRun {t : Tables} (i : t.Inv) (m : List Byte) : (t.unnamedRun m).Inv := by
  refine List.foldlRecOn _ _ i fun x hx b mb => ?_
  split
  · exact hx.setState (List.mem_range.1 mb) _
  · exact hx

/-- The tables that a takeover puts in force. -/
theorem Tables.Inv.takeover {mirror : Tables} (i : mirror.Inv) (tab : Tables) : ({ mirror with state := takeoverState tab mirror } : Tables).Inv := by
  obtain ⟨ranges, ways, -⟩ := mirror.inv_iff.1 i
  refine (Tables.inv_iff _).2 ⟨ranges, ways, fun e m => ?_⟩
  obtain ⟨b, mb, made⟩ := List.mem_filterMap.1 m
  obtain ⟨-, made⟩ := Option.ite_none_left_eq_some.1 made
  cases made
  exact List.mem_range.1 mb

end Sys2Proof.Machine
end

section
/-! Operations of change orders keep the berth tables sound (R41, R544, R546). -/

namespace Sys2Proof.Machine

/-- Whatever tables a computation leaves are sound. -/
def SoundOk {ε : Type} (x : Except ε (Tables × Dev)) : Prop := ∀ r, x = .ok r → r.1.Inv

theorem SoundOk.ok {ε : Type} {t : Tables} (i : t.Inv) (d : Dev) : SoundOk (.ok (t, d) : Except ε (Tables × Dev)) := by
  rintro r ⟨⟩
  exact i

/-- A check that refuses in its first branch. -/
theorem SoundOk.unless {ε : Type} {c : Prop} [Decidable c] {e : ε} {x : Except ε (Tables × Dev)} (h : ¬c → SoundOk x) :
    SoundOk (if c then .error e else x) := by
  split
  case isTrue => rintro r ⟨⟩
  case isFalse n => exact h n

/-- A check that refuses in its second branch. -/
theorem SoundOk.when {ε : Type} {c : Prop} [Decidable c] {e : ε} {x : Except ε (Tables × Dev)} (h : c → SoundOk x) :
    SoundOk (if c then x else .error e) := by
  split
  case isTrue y => exact h y
  case isFalse => rintro r ⟨⟩

/-- The berth that CREATE makes is one below 64. -/
theorem COp.berth_lt_of_create {v : OpEnv} {o : COp} (ok : ¬o.badFormat v = true) (create : o.opcode = 0x01) : o.berth < 64 := by
  simp only [COp.badFormat, create, Bool.or_eq_true, decide_eq_true_eq] at ok
  omega

theorem portRange_le (s p : Nat) : (portRange s p).1 < (portRange s p).2 := by
  unfold portRange
  omega

/-- ADD_PORT: the window of the port takes the place of the berth's part of it. -/
theorem RangesSound.addPort {rs : List Range} (h : RangesSound rs) {b s p : Nat}
    (mine : ¬(rs.any fun x => (x.berth ≠ b || x.kind ≠ 3) && x.base < (portRange s p).2 && (portRange s p).1 < x.limit) = true) :
    RangesSound (rangeInsert (rangeRemove rs b 3 (portRange s p).1 (portRange s p).2)
      { base := (portRange s p).1, limit := (portRange s p).2, kind := 3, berth := b }) := by
  have window := portRange_le s p
  refine (h.remove b 3 window.le).insert window (apart_of_mem_rangeRemove fun x m other => ?_)
  simp only [List.any_eq_true, Bool.and_eq_true, Bool.or_eq_true, decide_eq_true_eq, not_exists, not_and] at mine
  by_contra meets
  exact mine x m ⟨other, by omega⟩ (by omega)

/-- An operation leaves sound tables (R546). -/
theorem opApply_sound {t : Tables} (i : t.Inv) (v : OpEnv) (d : Dev) (o : COp) : SoundOk (opApply v t d o) := by
  obtain ⟨ranges, ways, states⟩ := t.inv_iff.1 i
  unfold opApply
  refine SoundOk.unless fun format => ?_
  split
  case isTrue => exact SoundOk.ok i.of_eq d
  split
  case isTrue create => exact SoundOk.when fun _ => SoundOk.ok (i.setState (COp.berth_lt_of_create format create) _) d
  refine SoundOk.unless fun there => SoundOk.unless fun _ => ?_
  have lt : o.berth < 64 := by
    simp only [Bool.or_eq_true, decide_eq_true_eq, not_or] at there
    exact i.lt_of_exists there.2
  split
  · exact SoundOk.ok (i.without _) _
  · refine SoundOk.unless fun _ => SoundOk.unless fun _ => SoundOk.unless fun _ => SoundOk.when fun _ => ?_
    exact SoundOk.ok i.of_eq _
  · exact SoundOk.unless fun _ => SoundOk.ok i.of_eq _
  · exact SoundOk.unless fun _ => SoundOk.unless fun _ => SoundOk.ok (i.setWays _ lt _) _
  · exact SoundOk.unless fun _ => SoundOk.unless fun _ => SoundOk.when fun _ => SoundOk.ok (i.addRange _) _
  · refine SoundOk.unless fun _ => SoundOk.when fun _ => SoundOk.ok ?_ _
    exact (Tables.inv_iff _).2 ⟨ranges.remove _ _ (Nat.le_add_right _ _), ways, states⟩
  · exact SoundOk.ok i.of_eq _
  · refine SoundOk.unless fun _ => SoundOk.unless fun mine => SoundOk.unless fun _ => SoundOk.when fun _ => SoundOk.ok ?_ _
    exact (Tables.inv_iff _).2 ⟨ranges.addPort mine, ways, states⟩
  · refine SoundOk.unless fun _ => SoundOk.ok ?_ _
    exact (Tables.inv_iff _).2 ⟨ranges.remove _ _ (portRange_le _ _).le, ways, states⟩
  · exact SoundOk.unless fun _ => SoundOk.when fun _ => SoundOk.ok i.of_eq _
  · exact SoundOk.unless fun _ => SoundOk.ok i.of_eq _
  · split
    · rintro r ⟨⟩
    · exact SoundOk.unless fun _ => SoundOk.ok i _
  · exact SoundOk.unless fun _ => SoundOk.ok i _
  · exact SoundOk.ok i.of_eq _

/-- The operations that a validation tries one after the other leave sound tables. -/
theorem tryOps_sound (v : OpEnv) (ops : List COp) {t : Tables} (i : t.Inv) (d : Dev) (n : Nat) (gone : Option Nat) :
    ∀ r, tryOps v t d ops n gone = .ok r → r.1.Inv := by
  induction ops generalizing t d n gone with
  | nil =>
    rintro r ⟨⟩
    exact i
  | cons o ops ih =>
    intro r e
    unfold tryOps at e
    split at e
    · cases e
    · next done => exact ih (opApply_sound i v d o _ done) _ _ _ r e

/-- An order that validates leaves sound tables (R43). -/
theorem validate_sound (v : OpEnv) {t : Tables} (i : t.Inv) (d : Dev) (ops : List COp) : SoundOk (validate v t d ops) := by
  intro r e
  unfold validate at e
  split at e
  · cases e
  · next tried =>
    split at e
    · cases e
    · cases e
      exact tryOps_sound v ops i d 0 none _ tried

/-- Manifest and journal give sound tables (R484, R493). -/
theorem buildTables_sound (d : Dev) (m : List Byte) (mgr : Nat) (orders : List (List Byte)) : (buildTables d m mgr orders).1.Inv := by
  unfold buildTables
  refine List.foldlRecOn (motive := fun x : Tables × Dev => x.1.Inv) _ _ ?_ fun x hx o _ => ?_
  · split
    · next built => exact validate_sound _ Tables.reset_inv _ _ _ built
    · exact Tables.reset_inv
  · split
    · next replayed => exact validate_sound _ hx _ _ _ replayed
    · exact hx

/-- The effect of an operation after its resets. -/
theorem performOp_sound (v : OpEnv) {t : Tables} (i : t.Inv) (d : Dev) (o : COp) : (performOp v t d o).1.Inv := by
  unfold performOp
  split
  · exact i
  · next t' d' done => exact opApply_sound i v d o (t', d') done

end Sys2Proof.Machine
end

section
/-! What a change order, a reset, a start, membership and live service do to the administration keeps the berth tables sound, in
force and as last acknowledged. -/

namespace Sys2Proof.Machine

theorem Admin.reset_inv : Admin.reset.Inv := ⟨Tables.reset_inv, Tables.reset_inv⟩

/-- A choice between two outcomes keeps what both keep. -/
theorem inv_ite {c : Prop} [Decidable c] {x y : Admin × Dev} (hx : c → x.1.Inv) (hy : ¬c → y.1.Inv) : (if c then x else y).1.Inv := by
  split
  case isTrue h => exact hx h
  case isFalse h => exact hy h

/-- Work that is done for each member of a list keeps what it keeps for one. -/
theorem inv_foldl {α : Type} {f : Admin × Dev → α → Admin × Dev} (l : List α) {x : Admin × Dev} (i : x.1.Inv)
    (step : ∀ x e, x.1.Inv → (f x e).1.Inv) : (l.foldl f x).1.Inv :=
  List.foldlRecOn (motive := fun x : Admin × Dev => x.1.Inv) l f i fun x hx e _ => step x e hx

/-! ### Change orders (R43 to R46) -/

theorem finishOrder_inv {a : Admin} (i : a.Inv) (d : Dev) (o : Order) : (finishOrder a d o).1.Inv := by
  have made (l : List Nat) : (l.foldl (fun t b => if t.stateOf b = .building then t.setState b .run else t) a.tab).Inv := by
    refine List.foldlRecOn _ _ i.1 fun t ht b _ => ?_
    split
    case isTrue building => exact ht.setState_of_exists building (by decide) _
    case isFalse => exact ht
  exact ⟨made _, made _⟩

/-- The present operation of an order takes effect or waits for slices. -/
theorem opDone_inv {a : Admin} (i : a.Inv) (d : Dev) (o : Order) (x : COp) : (opDone a d o x).1.Inv := by
  unfold opDone
  dsimp only
  split
  · exact i
  · refine ⟨?_, i.2⟩
    have done := performOp_sound (orderEnv d ((d.managerOf o.sock).getD o.sock)) i.1
      (d.opStart (orderEnv d ((d.managerOf o.sock).getD o.sock)) a.tab x) x
    show (ite _ _ _ : Tables).Inv
    split
    case isTrue draining => exact done.setState_of_exists draining (by decide) _
    case isFalse => exact done

theorem runOrder_inv (fuel : Nat) {a : Admin} (i : a.Inv) (d : Dev) (o : Order) : (runOrder fuel a d o).1.Inv := by
  induction fuel generalizing a d o with
  | zero => exact i
  | succ fuel ih =>
    unfold runOrder
    split
    · exact finishOrder_inv i d o
    · next x _ =>
      split
      · refine ⟨?_, i.2⟩
        show (ite _ _ _ : Tables).Inv
        split
        case isTrue running => exact i.1.setState_of_exists running (by decide) _
        case isFalse => exact i.1
      · exact inv_ite (fun _ => opDone_inv i d o x) fun _ => ih (opDone_inv i d o x) _ _

theorem goOn_inv {a : Admin} (i : a.Inv) (d : Dev) (o : Order) : (goOn a d o).1.Inv := by
  unfold goOn
  split
  · exact i
  · next x _ => exact inv_ite (fun _ => opDone_inv i d o x) fun _ => runOrder_inv _ (opDone_inv i d o x) _ _

theorem orderGo_inv {a : Admin} (i : a.Inv) (d : Dev) : (orderGo a d).1.Inv := by
  unfold orderGo
  split
  · exact inv_ite (fun _ => goOn_inv i d _) fun _ => i
  · exact i

theorem drainTimeout_inv {a : Admin} (i : a.Inv) (d : Dev) : (drainTimeout a d).1.Inv := by
  unfold drainTimeout
  split
  · exact inv_ite (fun _ => goOn_inv i d _) fun _ => i
  · exact i

theorem removalAck_inv {a : Admin} (i : a.Inv) (d : Dev) (s n : Nat) : (removalAck a d s n).1.Inv := by
  unfold removalAck
  refine inv_ite (fun _ => i) fun _ => ?_
  dsimp only
  split
  · exact i
  · split
    · exact i
    · exact inv_ite (fun _ => goOn_inv i _ _) fun _ => i

/-- A block that is accepted starts its order; one that is refused leaves the tables. -/
theorem submitBlock_inv {a : Admin} (i : a.Inv) (d : Dev) (s b addr len : Nat) :
    ∀ r, submitBlock a d s b addr len = some r → r.1.Inv := by
  have refused : ∀ (x : Dev) (r : Admin × Dev), some (a, x) = some r → r.1.Inv := by
    rintro x r ⟨⟩
    exact i
  intro r e
  unfold submitBlock at e
  dsimp only at e
  split at e
  · exact refused _ r e
  · iterate 4
      split at e
      · exact refused _ r e
    split at e
    · cases e
    · iterate 3
        split at e
        · exact refused _ r e
      split at e
      · exact refused _ r e
      · split at e
        · exact refused _ r e
        · cases e
          refine runOrder_inv _ ?_ _ _
          exact i

theorem submit_inv {a : Admin} (i : a.Inv) (d : Dev) (s n : Nat) : (submit a d s n).1.Inv := by
  unfold submit
  refine inv_ite (fun _ => i) fun _ => inv_ite (fun _ => ?_) fun _ => i
  cases e : submitBlock a (d.slipDone s n) s (d.fld s .mbCfg n 0 53 48) (d.slipWord s n 1).toNat (d.slipWord s n 2).toNat with
  | none => exact i
  | some r => exact submitBlock_inv i _ _ _ _ _ r e

/-! ### Stops and BERTH reset (R384, R513) -/

theorem stopBerth_inv {a : Admin} (i : a.Inv) (d : Dev) (b : Nat) : (stopBerth a d b).1.Inv :=
  inv_ite (fun _ => i) fun there => ⟨i.1.setState (i.1.lt_of_exists there) _, i.2⟩

theorem berthReset_inv {a : Admin} (i : a.Inv) (d : Dev) (b : Nat) : (berthReset a d b).1.Inv :=
  inv_ite (fun _ => i) fun _ => stopBerth_inv i d b

theorem react_inv {a : Admin} (i : a.Inv) (d : Dev) (s : Nat) (m : FMsg) : (react a d s m).1.Inv :=
  inv_ite (fun _ => i) fun _ => inv_ite (fun _ => i) fun _ => inv_ite (fun _ => i) fun _ =>
    inv_ite (fun _ => stopBerth_inv i d m.berth) fun _ => inv_ite (fun _ => i) fun _ => i

theorem collect_inv {a : Admin} (i : a.Inv) (d : Dev) (s : Nat) : (collect a d s).1.Inv := by
  unfold collect
  split
  · exact react_inv i _ s _
  · exact i

/-! ### Leave, loss and succession (R297 to R301) -/

theorem leaveSystem_inv {a : Admin} (i : a.Inv) (d : Dev) (s : Nat) (keep : Bool) : (leaveSystem a d s keep).1.Inv := by
  have left : (if keep then a else { a with tab := a.tab.loseSocket s, mirror := a.mirror.loseSocket s } : Admin).Inv := by
    split
    · exact i
    · exact ⟨i.1.loseSocket s, i.2.loseSocket s⟩
  exact inv_ite (fun _ => i) fun _ => left

theorem loseMember_inv {a : Admin} (i : a.Inv) (d : Dev) (m lost : Nat) : (loseMember a d m lost).1.Inv :=
  ⟨i.1.loseSocket lost, i.2.loseSocket lost⟩

theorem takeOver_inv {a : Admin} (i : a.Inv) (d : Dev) (m old : Nat) : (takeOver a d m old).1.Inv :=
  loseMember_inv (a := { a with tab := { a.mirror with state := takeoverState a.tab a.mirror }, order := none })
    ⟨i.2.takeover a.tab, i.2⟩ _ m old

theorem socketSilent_inv {a : Admin} (i : a.Inv) (d : Dev) (s silent : Nat) : (socketSilent a d s silent).1.Inv := by
  unfold socketSilent
  refine inv_ite (fun _ => i) fun _ => inv_ite (fun _ => ?_) fun _ => inv_ite (fun _ => loseMember_inv i d s silent) fun _ => i
  extract_lets heirs
  clear_value heirs
  cases heirs with
  | cons t r => exact takeOver_inv i d t silent
  | nil => exact i

/-! ### Starts and joins (R488 to R496) -/

theorem startManager_inv {a : Admin} (i : a.Inv) (d : Dev) (s : Nat) (m : List Byte) (source : Nat) (warm : Option Dev) :
    (startManager a d s m source warm).1.Inv := by
  have sound : ∀ (alone : Bool) (t : Tables), t.Inv → (if alone then t.unnamedRun m else a.tab.regain t s : Tables).Inv := by
    intro alone t ht
    split
    · exact ht.unnamedRun m
    · exact i.1.regain t s
  unfold startManager
  extract_lets d1 w head
  split
  next recs bad _ =>
    extract_lets d2 d3 orphans
    split
    next t0 scratch built =>
      have built_sound := buildTables_sound d3 m s recs
      rw [built] at built_sound
      exact ⟨sound _ t0 built_sound, sound _ t0 built_sound⟩

theorem bootFlash_inv {a : Admin} (i : a.Inv) (d : Dev) (s : Nat) (warm : Option Dev) : (bootFlash a d s warm).1.Inv :=
  inv_ite (fun _ => i) fun _ => startManager_inv i _ s _ 1 warm

theorem startSocket_inv {a : Admin} (i : a.Inv) (d : Dev) (s : Nat) (warm : Option Dev) : (startSocket a d s warm).1.Inv := by
  unfold startSocket
  refine inv_ite (fun _ => i) fun _ => inv_ite (fun _ => i) fun _ => inv_ite (fun _ => i) fun _ => inv_ite (fun _ => ?_) fun _ => ?_
  · exact inv_ite (fun _ => startManager_inv i _ s _ 3 warm) fun _ => bootFlash_inv i _ s _
  · exact inv_ite (fun _ => i) fun _ => i

theorem coldReset_inv {a : Admin} (i : a.Inv) (d : Dev) (s : Nat) (b : Board) : (coldReset a d s b).1.Inv := by
  have kept : ∀ alone : Bool, (if alone then Admin.reset else a : Admin).Inv := by
    intro alone
    split
    · exact Admin.reset_inv
    · exact i
  exact inv_ite (fun _ => startSocket_inv (kept _) _ _ none) fun _ => kept _

theorem warmNow_inv {a : Admin} (i : a.Inv) (d : Dev) (s : Nat) : (warmNow a d s).1.Inv := by
  unfold warmNow
  extract_lets d1 d2
  split
  next a' d3 left =>
    have left_inv := leaveSystem_inv i d2 s true
    rw [left] at left_inv
    exact startSocket_inv left_inv _ s _

theorem warmReset_inv {a : Admin} (i : a.Inv) (d : Dev) (s : Nat) (far : BitVec 12) (near : BitVec 16) :
    (warmReset a d s far near).1.Inv :=
  inv_ite (fun _ => i) fun _ => inv_ite (fun _ => i) fun _ => inv_ite (fun _ => startSocket_inv i _ s none) fun _ => warmNow_inv i _ s

theorem autoWarm_inv {a : Admin} (i : a.Inv) (d : Dev) (s : Nat) : (autoWarm a d s).1.Inv :=
  inv_ite (fun _ => warmReset_inv i d s _ _) fun _ => i

theorem dipEndAll_inv {a : Admin} (i : a.Inv) (d : Dev) (s : Nat) : (dipEndAll a d s).1.Inv :=
  inv_ite (fun _ => warmNow_inv i _ s) fun _ => i

theorem railReset_inv {a : Admin} (i : a.Inv) (d : Dev) (s rail : Nat) (b : Board) : (railReset a d s rail b).1.Inv :=
  inv_ite (fun _ => coldReset_inv i d s b) fun _ => inv_ite (fun _ => i) fun _ => warmReset_inv i d s _ _

theorem standbyBoot_inv {a : Admin} (i : a.Inv) (d : Dev) (s : Nat) (flashOk : Bool) : (standbyBoot a d s flashOk).1.Inv :=
  inv_ite (fun _ => i) fun _ => bootFlash_inv i _ s none

theorem admitMember_inv {a : Admin} (i : a.Inv) (d : Dev) (m s : Nat) : (admitMember a d m s).1.Inv :=
  ⟨i.1.regain _ s, i.2.regain _ s⟩

theorem join_inv {a : Admin} (i : a.Inv) (d : Dev) (s via : Nat) (verified : Bool) : (join a d s via verified).1.Inv := by
  unfold join
  refine inv_ite (fun _ => i) fun _ => ?_
  split
  · exact i
  · refine inv_ite (fun _ => i) fun _ => ?_
    split
    · exact i
    · exact inv_ite (fun _ => i) fun _ => admitMember_inv i _ _ s

theorem joinsDue_inv {a : Admin} (i : a.Inv) (d : Dev) : (joinsDue a d).1.Inv := by
  refine inv_ite (fun _ => i) fun _ => inv_foldl _ i fun x s hx => ?_
  dsimp only
  split
  · exact join_inv hx _ s _ _
  · exact hx

theorem berthRelease_inv {a : Admin} (i : a.Inv) (d : Dev) (b : Nat) : (berthRelease a d b).1.Inv := by
  unfold berthRelease
  split
  · exact i
  · split
    · exact i
    · refine inv_ite (fun _ => i) fun may => ⟨i.1.setState (i.1.lt_of_exists fun free => ?_) _, i.2⟩
      simp [free] at may

/-! ### Live service (R499 to R506) -/

theorem svcTables_inv {a : Admin} (i : a.Inv) (d : Dev) (s op arg : Nat) {f : Admin → Dev → Nat × Admin × Dev}
    (h : ∀ d, (f a d).2.1.Inv) : (svcTables a d s op arg f).1.Inv :=
  inv_ite (fun _ => i) fun _ => h _

theorem wheelRestart_inv {a : Admin} (i : a.Inv) (d : Dev) (s : Nat) (reverified : Bool) : (wheelRestart a d s reverified).1.Inv :=
  inv_ite (fun _ => i) fun _ => inv_ite (fun _ => i) fun _ => inv_ite (fun _ => i) fun _ => inv_ite (fun _ => i) fun _ => i

theorem activate_inv {a : Admin} (i : a.Inv) (d : Dev) (s : Nat) : (activate a d s).1.Inv :=
  inv_ite (fun _ => i) fun _ => svcTables_inv i d s 2 0 fun _ => inv_foldl _ i fun _ t hx => wheelRestart_inv hx _ t true

theorem substituteEnd_inv {a : Admin} (i : a.Inv) (d : Dev) (s pod : Nat) : (substituteEnd a d s pod).2.1.Inv := by
  unfold substituteEnd
  dsimp only
  split
  · exact i
  · exact ⟨i.1.swapPod s pod _, i.2.swapPod s pod _⟩

theorem substituteGo_inv {a : Admin} (i : a.Inv) (d : Dev) (s pod : Nat) : (substituteGo a d s pod).2.1.Inv := by
  unfold substituteGo
  split
  split
  · exact substituteEnd_inv i _ s pod
  · exact i

theorem substitute_inv {a : Admin} (i : a.Inv) (d : Dev) (s pod : Nat) : (substitute a d s pod).2.1.Inv := by
  unfold substitute
  exact substituteGo_inv i _ s pod

theorem podSubstitution_inv {a : Admin} (i : a.Inv) (d : Dev) (s pod : Nat) : (podSubstitution a d s pod).1.Inv := by
  refine svcTables_inv i d s 4 pod fun d => ?_
  split
  · exact substitute_inv i d s pod
  · exact i

/-- A substitution that the Wheelhouse goes on with or starts by itself. -/
theorem podsGo_inv {a : Admin} (i : a.Inv) (d : Dev) (s : Nat) : (podsGo a d s).1.Inv := by
  unfold podsGo
  extract_lets go
  have going (pod : Nat) : (go pod).1.Inv := by
    unfold go
    split
    next done =>
      have kept := substitute_inv i (d.svcShow s 4 pod svcRunning) s pod
      rw [done] at kept
      exact kept
  clear_value go
  split
  · exact going _
  · refine inv_ite (fun _ => i) fun _ => ?_
    split
    · exact going _
    · exact i

theorem leaveRequest_inv {a : Admin} (i : a.Inv) (d : Dev) (s : Nat) : (leaveRequest a d s).1.Inv := by
  refine svcTables_inv i d s 9 0 fun d => ?_
  split
  · exact leaveSystem_inv i d s false
  · exact i

theorem sleepSocket_inv {a : Admin} (i : a.Inv) (d : Dev) (s : Nat) : (sleepSocket a d s).1.Inv := by
  unfold sleepSocket
  extract_lets d1 d2
  split
  next a' d3 left =>
    have left_inv := leaveSystem_inv i d2 s true
    rw [left] at left_inv
    exact left_inv

theorem powerRequest_inv {a : Admin} (i : a.Inv) (d : Dev) (s req : Nat) (b : Board) : (powerRequest a d s req b).1.Inv := by
  unfold powerRequest
  extract_lets ok
  have accepted {x : Admin × Dev} (h : x.1.Inv) : (ok x).1.Inv := h
  refine inv_ite (fun _ => i) fun _ => ?_
  split
  · refine inv_ite (fun _ => i) fun _ => inv_ite (fun _ => ?_) fun _ => ?_
    · exact accepted (warmReset_inv i d s _ _)
    · exact accepted (coldReset_inv i d s _)
  · exact inv_ite (fun _ => accepted (sleepSocket_inv i d s)) fun _ => i
  · exact accepted (coldReset_inv i d s b)
  · exact accepted (warmReset_inv i d s _ _)
  · exact i

end Sys2Proof.Machine
end

section
/-! Every step keeps the berth tables sound: the administration commands and the idle step by what they do to the administration,
every other command because it does nothing to it. -/

namespace Sys2Proof.Machine

/-- A command that is no administration command changes the sockets alone. -/
theorem exec_of_not_administration {c : Instr} (other : c.isAdministration = false) (s : State) :
    ∃ f : Admin → Dev → Dev, exec c s = .next (s.onDev f) := by
  cases c
  case coldReset | warmReset | berthReset | whr | standbyBootTimeout | submit | removalAck | drainTimeout | join | leave |
      socketSilent | berthRelease | activate | sparePodSubstitution | dipEnd | railResetThreshold | power | faultMessage =>
    cases other
  all_goals exact ⟨_, rfl⟩

/-- Settles O3: every command but the administration commands acts on the sockets alone. -/
theorem tablesChangeOnlyByAdministration : Obligations.TablesChangeOnlyByAdministration := by
  intro c s t other e
  obtain ⟨f, changed⟩ := exec_of_not_administration other s
  rw [changed] at e
  cases e
  exact s.onDev_adm f

/-- An administration command keeps the berth tables sound. -/
theorem exec_inv_of_administration {c : Instr} (admin : c.isAdministration = true) {s : State} (i : s.adm.Inv) :
    ∃ f : Admin → Dev → Admin × Dev, exec c s = .next (s.onTables f) ∧ (f s.adm s.dev).1.Inv := by
  cases c
  case coldReset => exact ⟨_, rfl, coldReset_inv i _ _ _⟩
  case warmReset => exact ⟨_, rfl, warmReset_inv i _ _ _ _⟩
  case berthReset => exact ⟨_, rfl, berthReset_inv i _ _⟩
  case whr => exact ⟨_, rfl, wheelRestart_inv i _ _ _⟩
  case standbyBootTimeout => exact ⟨_, rfl, standbyBoot_inv i _ _ _⟩
  case submit => exact ⟨_, rfl, joinsDue_inv (submit_inv i _ _ _) _⟩
  case removalAck => exact ⟨_, rfl, joinsDue_inv (removalAck_inv i _ _ _) _⟩
  case drainTimeout => exact ⟨_, rfl, joinsDue_inv (drainTimeout_inv i _) _⟩
  case join => exact ⟨_, rfl, join_inv i _ _ _ _⟩
  case leave => exact ⟨_, rfl, leaveRequest_inv i _ _⟩
  case socketSilent => exact ⟨_, rfl, socketSilent_inv i _ _ _⟩
  case berthRelease => exact ⟨_, rfl, berthRelease_inv i _ _⟩
  case activate => exact ⟨_, rfl, activate_inv i _ _⟩
  case sparePodSubstitution => exact ⟨_, rfl, podSubstitution_inv i _ _ _⟩
  case dipEnd => exact ⟨_, rfl, dipEndAll_inv i _ _⟩
  case railResetThreshold => exact ⟨_, rfl, railReset_inv i _ _ _ _⟩
  case power => exact ⟨_, rfl, powerRequest_inv i _ _ _ _⟩
  case faultMessage => exact ⟨_, rfl, collect_inv i _ _⟩
  all_goals cases admin

/-- The work that waits on the sockets goes on. -/
theorem resumeAll_inv {a : Admin} (i : a.Inv) (d : Dev) : (resumeAll a d).1.Inv := by
  unfold resumeAll
  extract_lets d1
  split
  next a1 d2 pods =>
    have pods_inv := inv_foldl d1.sockList (x := (a, d1)) i fun x s hx => podsGo_inv hx x.2 s.val
    rw [pods] at pods_inv
    split
    next a2 d3 resets =>
      have resets_inv := inv_foldl d2.sockList (x := (a1, d2)) pods_inv fun x s hx => autoWarm_inv hx x.2 s.val
      rw [resets] at resets_inv
      exact orderGo_inv resets_inv d3

theorem idle_inv {a : Admin} (i : a.Inv) (d : Dev) : (idle a d).1.Inv := by
  unfold idle
  split
  next a1 d1 resumed =>
    have resumed_inv := resumeAll_inv i (d.tick.finish a)
    rw [resumed] at resumed_inv
    exact resumed_inv

/-- Settles O59: soundness is kept by each administration command and by the idle step; no other command touches the tables. -/
theorem tablesStaySound : Obligations.TablesStaySound := by
  intro s t i e
  rcases p : s.pending with _ | ⟨c, rest⟩
  case nil =>
    rw [step_of_pending_nil p] at e
    cases e
    rw [State.onBoth_adm]
    exact idle_inv i s.dev
  case cons =>
    simp only [step, p] at e
    cases admin : c.isAdministration with
    | false =>
      rw [tablesChangeOnlyByAdministration c _ t admin e]
      exact i
    | true =>
      obtain ⟨f, changed, sound⟩ := exec_inv_of_administration admin (s := { s with pending := rest }) i
      rw [changed] at e
      cases e
      rwa [State.onTables_adm]

/-- Settles O60: no berth, no mask and no range exists after reset. -/
theorem resetTablesSound : Obligations.ResetTablesSound := Admin.reset_inv

end Sys2Proof.Machine
end

section
/-! Writes of the register space: which requests reach it, where they land, and what they store (R32, R33, R535, R536). -/

namespace Sys2Proof.Machine

/-! ### A write command -/

/-- A request that may not reach the register space is answered with a bus error. -/
theorem writeCommand_of_not_mayReach {q : Requester} (out : Requester.mayReach q = false) (a : Admin) (d : Dev) (s off size : Nat) (v : Word) :
    d.writeCommand a q s off size v = d.answer [1] := by
  simp [Dev.writeCommand, out]

/-- A store that answers no bus error is done: the answer is 0, and its traffic runs to its end. -/
theorem execRegisterWrite_done {s : State} {q : Requester} (reach : Requester.mayReach q = true) {sk : Sock} {off : BitVec 32} {size : Fin 4}
    {v : Word} {d : Dev} (stored : s.dev.regStoreSized s.adm sk.val q off.toNat size.val v = (false, d)) :
    exec (.registerWrite q sk off size v) s = .next (s.done d) := by
  show Host.Outcome.next (s.withDev (s.dev.writeCommand s.adm q sk.val off.toNat size.val v)) = _
  have zero : word false.toNat = 0 := rfl
  simp only [Dev.writeCommand, reach, stored, Bool.not_true, Bool.false_eq_true, if_false, zero, State.done, State.ended]

/-- Only an aligned 8-byte store is taken (R535). -/
theorem regStoreSized_of_odd {off size : Nat} (odd : size ≠ 3 ∨ off % 8 ≠ 0) (a : Admin) (d : Dev) (s : Nat) (q : Requester) (v : Word) :
    d.regStoreSized a s q off size v = (false, d.regNote s q off) := by
  simp [Dev.regStoreSized, odd]

theorem regStoreSized_of_aligned {off : Nat} (aligned : off % 8 = 0) (a : Admin) (d : Dev) (s : Nat) (q : Requester) (v : Word) :
    d.regStoreSized a s q off 3 v = d.regWrite a s q off v := by
  simp [Dev.regStoreSized, aligned]

/-! ### Where a write lands -/

/-- Outside the blocks that note their own dropped writes, and outside the berth tables. -/
def plainOffset (off : Nat) : Prop := off < 0x02000000 ∨ 0x05000000 ≤ off

/-- A write to an offset that holds nothing. -/
theorem regWrite_of_hole {off : Nat} (place : plainOffset off) (noReg : regAt off = none) (noLog : logAt off = none)
    (noBlock : broadcastReg off = none) (a : Admin) (d : Dev) (s : Nat) (q : Requester) (v : Word) :
    d.regWrite a s q off v = (false, if q.berth = 0 then d else d.regNote s q off) := by
  have noTable : ¬(0x02000000 ≤ off ∧ off < 0x03000000) := by
    unfold plainOffset at place
    omega
  have noSlip : ¬(0x04000000 ≤ off ∧ off < 0x05000000) := by
    unfold plainOffset at place
    omega
  by_cases wheel : q.berth = 0 <;>
    simp only [Dev.regWrite, Dev.dropNote, Bool.and_eq_true, decide_eq_true_eq, noTable, noSlip, noReg, noLog, noBlock, wheel, ne_eq,
      not_true, not_false_eq_true, if_false, if_true]

theorem regAt_at {r : Reg} (space : r.place.bar = false) {i j : Nat} (hi : i < r.place.c1) (hj : j < r.place.c2)
    (here : regHere r i = true) : regAt (r.at i j) = some (r, i, j) := by
  have found := r.find_at hi hj
  rw [space] at found
  simp [regAt, found, here]

/-- A write that the requester's view shows goes to its register. -/
theorem regWrite_of_opens {s : State} {q : Requester} {sk : Sock} {r : Reg} {i j : Nat} {v : Word} (opens : s.opens q sk r i j v = true)
    (space : r.place.bar = false) (hi : i < r.place.c1) (hj : j < r.place.c2)
    (noTable : ¬(0x02000000 ≤ r.at i j ∧ r.at i j < 0x03000000)) :
    s.dev.regWrite s.adm sk.val q (r.at i j) v = s.dev.regStore s.adm sk.val q r i j (r.at i j) v := by
  simp only [State.opens, Bool.and_eq_true, Bool.or_eq_true, decide_eq_true_eq, Bool.not_eq_true'] at opens
  obtain ⟨⟨-, here⟩, seen⟩ := opens
  by_cases wheel : q.berth = 0
  · simp [Dev.regWrite, noTable, regAt_at space hi hj here, wheel]
  · obtain ⟨⟨shown, good⟩, some_⟩ := seen.resolve_left wheel
    simp [Dev.regWrite, noTable, regAt_at space hi hj here, shown, good, some_]

/-! ### Registers without command bits -/

/-- Registers that a write stores and does nothing else. -/
def storedRegs : List Reg :=
  [.fcInjAddr, .whSvc, .fcCtl, .pwTdp, .teHubCfg, .xlRoute, .xlHb, .fmScrub, .nmScrub, .pxPortCfg, .whAttestNonce]

/-- Each of them lies in the register space, outside the berth tables, at aligned offsets of 32 bits. -/
theorem place_of_storedRegs {r : Reg} (m : r ∈ storedRegs) {i j : Nat} (hi : i < r.place.c1) (hj : j < r.place.c2) :
    r.place.bar = false ∧ ¬(0x02000000 ≤ r.at i j ∧ r.at i j < 0x03000000) ∧ r.at i j % 8 = 0 ∧ r.at i j < 2 ^ 32 := by
  simp only [storedRegs, List.mem_cons, List.not_mem_nil, or_false] at m
  rcases m with rfl | rfl | rfl | rfl | rfl | rfl | rfl | rfl | rfl | rfl | rfl <;>
    simp only [Reg.at, Reg.place] at hi hj ⊢ <;> exact ⟨trivial, by omega, by omega, by omega⟩

theorem regStore_of_storedRegs {r : Reg} (m : r ∈ storedRegs) (a : Admin) (d : Dev) (s : Nat) (q : Requester) (i j off : Nat) (v : Word) :
    d.regStore a s q r i j off v = (false, d.setReg s r i j
      (r.written (decide (q.berth ≠ 0)) (decide (d.fld s .whBoot 0 0 63 63 = 1)) (d.reg s r i j) v)) := by
  simp only [storedRegs, List.mem_cons, List.not_mem_nil, or_false] at m
  rcases m with rfl | rfl | rfl | rfl | rfl | rfl | rfl | rfl | rfl | rfl | rfl <;> rfl

/-- Settles O41: a write is refused, noted, ignored or stored by the place it names and the view it comes from. -/
theorem registerSpaceRules : Obligations.RegisterSpaceRules := by
  intro s q sk off size v r i j
  refine ⟨fun out => ?_, fun reach odd => ?_, fun reach aligned place noReg noLog noBlock => ?_, fun m hi hj opens => ?_⟩
  · show Host.Outcome.next (s.withDev (s.dev.writeCommand s.adm q sk.val off.toNat size.val v)) = _
    rw [writeCommand_of_not_mayReach out]
  · exact execRegisterWrite_done reach
      (regStoreSized_of_odd (odd.imp_left fun n e => n (Fin.ext e)) s.adm s.dev sk.val q v)
  · refine execRegisterWrite_done reach ?_
    exact (regStoreSized_of_aligned aligned s.adm s.dev sk.val q v).trans (regWrite_of_hole place noReg noLog noBlock _ _ _ _ _)
  · obtain ⟨space, noTable, aligned, small⟩ := place_of_storedRegs m hi hj
    have reach : Requester.mayReach q = true := by
      simp only [State.opens, Bool.and_eq_true] at opens
      exact opens.1.1
    refine execRegisterWrite_done reach ?_
    rw [BitVec.toNat_ofNat, Nat.mod_eq_of_lt small]
    exact ((regStoreSized_of_aligned aligned _ _ _ _ _).trans (regWrite_of_opens opens space hi hj noTable)).trans
      (regStore_of_storedRegs m _ _ _ _ _ _ _ _)

end Sys2Proof.Machine
end

section
/-! PW_MODE.MODE of a socket through the work that ends a command (R472): reads of the mode after the primitive changes of a state. -/

namespace Sys2Proof.Machine

/-- The arrays that start below PW_MODE and have a place, for some indices, where it is; and PW_MODE itself. -/
def Reg.nearMode : List Reg :=
  [.pwMode, .whDevid, .whAttestNonce, .fcCnt, .fcSrcSev, .fcFenceA, .btCtrl, .btPods0, .btPods1, .btWays, .btShare, .btRangeBase,
    .btRangeLimit, .ckPod]

@[simp] theorem Reg.mem_nearMode (r : Reg) : r ∈ Reg.nearMode ↔
    r = .pwMode ∨ r = .whDevid ∨ r = .whAttestNonce ∨ r = .fcCnt ∨ r = .fcSrcSev ∨ r = .fcFenceA ∨ r = .btCtrl ∨ r = .btPods0 ∨
      r = .btPods1 ∨ r = .btWays ∨ r = .btShare ∨ r = .btRangeBase ∨ r = .btRangeLimit ∨ r = .ckPod := by
  simp [Reg.nearMode]

/-- Every other register is behind a BAR, above PW_MODE, a single place elsewhere, or an array whose stride passes over PW_MODE. -/
theorem Reg.place_of_not_nearMode (r : Reg) : r ∉ Reg.nearMode → r.place.bar = true ∨ 0x3002000 < r.place.base ∨
    (r.place.base ≠ 0x3002000 ∧ r.place.s1 = 0 ∧ r.place.s2 = 0) ∨ r = .whAttestCmd ∨ r = .fcFenceB := by
  cases r <;> decide

theorem Reg.at_ne_of_not_nearMode {r : Reg} (h : r ∉ Reg.nearMode) (bar : r.place.bar = false) (i j : Nat) :
    Reg.pwMode.at 0 0 ≠ r.at i j := by
  show 0x3002000 ≠ r.place.base + i * r.place.s1 + j * r.place.s2
  rcases r.place_of_not_nearMode h with h | h | ⟨h, h1, h2⟩ | rfl | rfl
  · simp [bar] at h
  · omega
  · rw [h1, h2]
    omega
  · show 0x3002000 ≠ 0x1020 + i * 0x40 + j * 0
    omega
  · show 0x3002000 ≠ 0x1020008 + i * 0x10 + j * 0
    omega

/-- A mode that the end of a command does not change: the socket neither runs nor is in MAINTAIN (R472). -/
def restMode (m : Nat) : Prop := m ≠ modeRun ∧ m ≠ modeDegraded ∧ m ≠ modeMaintain

/-- The mode depends on the registers alone. -/
@[simp] theorem Dev.mode_onSock (d : Dev) (s : Nat) (f : Socket → Socket) (h : ∀ q, (f q).regs = q.regs) (k : Nat) :
    (d.onSock s f).mode k = d.mode k := by
  have e := Dev.onSock_keeps Socket.regs d s f h k
  simp only [Dev.mode, Dev.fld, Dev.reg, show Reg.pwMode.place.bar = false from rfl, e, Bool.false_eq_true, if_false]

theorem Dev.mode_setReg_apart (d : Dev) (s : Nat) (r : Reg) (i j : Nat) (v : Word) (k : Nat)
    (n : r.place.bar = true ∨ Reg.pwMode.at 0 0 ≠ r.at i j) : (d.setReg s r i j v).mode k = d.mode k := by
  unfold Dev.mode Dev.fld
  rw [Dev.reg_setReg_ne]
  exact .inr (n.imp_left fun h => by rw [h]; decide)

theorem Dev.mode_setReg_elsewhere (d : Dev) {s k : Nat} (r : Reg) (i j : Nat) (v : Word) (n : k ≠ s) : (d.setReg s r i j v).mode k = d.mode k := by
  unfold Dev.mode Dev.fld
  rw [Dev.reg_setReg_ne _ _ (.inl n)]

theorem Dev.mode_setReg_above (d : Dev) (s : Nat) {r : Reg} (h : 0x3002000 < r.place.base) (i j : Nat) (v : Word) (k : Nat) :
    (d.setReg s r i j v).mode k = d.mode k := by
  apply Dev.mode_setReg_apart
  right
  show 0x3002000 ≠ r.place.base + i * r.place.s1 + j * r.place.s2
  omega

/-- The places of another register are elsewhere. -/
theorem Dev.mode_setReg_ne (d : Dev) (s : Nat) {r : Reg} (n : r ≠ .pwMode) {i j : Nat} (hi : i < r.place.c1) (hj : j < r.place.c2)
    (v : Word) (k : Nat) : (d.setReg s r i j v).mode k = d.mode k := by
  apply Dev.mode_setReg_apart
  cases b : r.place.bar
  · have apart := Reg.all_apart Reg.pwMode (Reg.mem_all _) r (Reg.mem_all _) n.symm
    exact .inr (Reg.apart_at apart b.symm Nat.zero_lt_one Nat.zero_lt_one hi hj)
  · exact .inl rfl

/-- What the decoder of the register space and the BARs finds lies within the array of its register. -/
theorem Reg.bounds_of_find {bar : Bool} {off : Nat} {r : Reg} {i j : Nat} (e : Reg.find bar off = some (r, i, j)) :
    i < r.place.c1 ∧ j < r.place.c2 ∧ r.place.bar = bar ∧ off = r.at i j := by
  obtain ⟨q, _, found⟩ := List.exists_of_findSome?_eq_some e
  split at found
  · next same_space =>
    obtain ⟨⟨i', j'⟩, hq, same⟩ := Option.map_eq_some_iff.mp found
    obtain ⟨hi, hj, place⟩ := Reg.index_some hq
    cases same
    exact ⟨hi, hj, same_space, place⟩
  · nomatch found

@[simp] theorem Dev.mode_setReg (d : Dev) (s : Nat) (r : Reg) (i j : Nat) (v : Word) (k : Nat) (h : r ∉ Reg.nearMode) :
    (d.setReg s r i j v).mode k = d.mode k := by
  apply Dev.mode_setReg_apart
  cases b : r.place.bar
  · exact .inr (Reg.at_ne_of_not_nearMode h b i j)
  · exact .inl rfl

@[simp] theorem Dev.mode_setFld (d : Dev) (s : Nat) (r : Reg) (i j hi lo v k : Nat) (h : r ∉ Reg.nearMode) :
    (d.setFld s r i j hi lo v).mode k = d.mode k := d.mode_setReg s r i j _ k h

@[simp] theorem Dev.mode_bump (d : Dev) (s : Nat) (r : Reg) (i j hi lo n k : Nat) (h : r ∉ Reg.nearMode) :
    (d.bump s r i j hi lo n).mode k = d.mode k := d.mode_setFld s r i j hi lo _ k h

/-! ### Parts of the state other than registers -/

@[simp] theorem Dev.mode_onCore (d : Dev) (h : Hart) (f : Core → Core) (k : Nat) : (d.onCore h f).mode k = d.mode k := by
  unfold Dev.onCore
  exact Dev.mode_onSock _ _ _ (by intro q; rfl) k

@[simp] theorem Dev.mode_onSlice (d : Dev) (s p : Nat) (f : Slice → Slice) (k : Nat) : (d.onSlice s p f).mode k = d.mode k := by
  unfold Dev.onSlice
  exact Dev.mode_onSock _ _ _ (by intro q; rfl) k

@[simp] theorem Dev.mode_onHub (d : Dev) (s u : Nat) (f : Hub → Hub) (k : Nat) : (d.onHub s u f).mode k = d.mode k := by
  unfold Dev.onHub
  exact Dev.mode_onSock _ _ _ (by intro q; rfl) k

@[simp] theorem Dev.mode_onChan (d : Dev) (s c : Nat) (f : Chan → Chan) (k : Nat) : (d.onChan s c f).mode k = d.mode k := by
  unfold Dev.onChan
  exact Dev.mode_onSock _ _ _ (by intro q; rfl) k

@[simp] theorem Dev.mode_onLink (d : Dev) (s l : Nat) (f : XLink → XLink) (k : Nat) : (d.onLink s l f).mode k = d.mode k := by
  unfold Dev.onLink
  exact Dev.mode_onSock _ _ _ (by intro q; rfl) k

@[simp] theorem Dev.mode_onFn (d : Dev) (s n : Nat) (f : Fn → Fn) (k : Nat) : (d.onFn s n f).mode k = d.mode k := by
  unfold Dev.onFn
  exact Dev.mode_onSock _ _ _ (by intro q; rfl) k

@[simp] theorem Dev.mode_onPort (d : Dev) (s p : Nat) (f : Port → Port) (k : Nat) : (d.onPort s p f).mode k = d.mode k := by
  unfold Dev.onPort
  exact Dev.mode_onSock _ _ _ (by intro q; rfl) k

@[simp] theorem Dev.mode_onWheel (d : Dev) (s : Nat) (f : Wheel → Wheel) (k : Nat) : (d.onWheel s f).mode k = d.mode k := by
  unfold Dev.onWheel
  exact Dev.mode_onSock _ _ _ (by intro q; rfl) k

/-- The mode is read from the sockets: what else a state holds does not matter. -/
@[simp] theorem Dev.mode_mk (d : Dev) (now : Word) (fresh : Nat) (mem : List Host.Cell) (meta_ : Tbl (BitVec 3)) (net inbox : List Msg)
    (asked : List (Msg × Bool)) (again : List Msg) (out : List Word) (k : Nat) :
    Dev.mode { now, fresh, mem, meta_, net, inbox, asked, again, socks := d.socks, out } k = d.mode k := rfl

@[simp] theorem Dev.mode_send (d : Dev) (m : Msg) (k : Nat) : (d.send m).mode k = d.mode k := rfl

@[simp] theorem Dev.mode_sendAll (d : Dev) (ms : List Msg) (k : Nat) : (d.sendAll ms).mode k = d.mode k := rfl

@[simp] theorem Dev.mode_free (d : Dev) (k : Nat) : d.free.2.mode k = d.mode k := rfl

/-- The state of a pair that is known. -/
theorem Dev.mode_of_eq {α : Type} {p : α × Dev} {v : α} {d : Dev} (e : p = (v, d)) (k : Nat) : d.mode k = p.2.mode k := by rw [e]

/-! ### Repetition and choice -/

/-- The mode that every pass of a loop keeps in the state it carries, the loop keeps. -/
theorem Dev.mode_foldl_part {α β : Type} (part : β → Dev) (f : β → α → β) (k : Nat) (h : ∀ x y, (part (f x y)).mode k = (part x).mode k)
    (l : List α) (x : β) : (part (l.foldl f x)).mode k = (part x).mode k := by
  induction l generalizing x with
  | nil => rfl
  | cons y r ih => rw [List.foldl_cons, ih, h]

/-- A mode that every pass of a loop keeps, the loop keeps. -/
theorem Dev.mode_foldl_keeps {α β : Type} (part : β → Dev) {f : β → α → β} {k n : Nat}
    (h : ∀ x y, (part x).mode k = n → (part (f x y)).mode k = n) (l : List α) {x : β} (start : (part x).mode k = n) :
    (part (l.foldl f x)).mode k = n := by
  induction l generalizing x with
  | nil => exact start
  | cons y r ih => exact ih (h x y start)

@[simp] theorem Dev.mode_foldl {α : Type} (f : Dev → α → Dev) (k : Nat) (h : ∀ d x, (f d x).mode k = d.mode k) (l : List α) (d : Dev) :
    (l.foldl f d).mode k = d.mode k := Dev.mode_foldl_part id f k h l d

@[simp] theorem Dev.mode_each {α : Type} (f : Dev → α → Dev) (k : Nat) (h : ∀ d x, (f d x).mode k = d.mode k) (l : List α) (d : Dev) :
    (d.each l f).mode k = d.mode k := Dev.mode_foldl f k h l d

@[simp] theorem Dev.mode_foldl_snd {α β : Type} (f : β × Dev → α → β × Dev) (k : Nat) (h : ∀ x y, (f x y).2.mode k = x.2.mode k)
    (l : List α) (x : β × Dev) : (l.foldl f x).2.mode k = x.2.mode k := Dev.mode_foldl_part Prod.snd f k h l x

@[simp] theorem Dev.mode_ite (c : Prop) [Decidable c] (x y : Dev) (k : Nat) : (if c then x else y).mode k = if c then x.mode k else y.mode k :=
  apply_ite (fun d : Dev => d.mode k) c x y

@[simp] theorem Dev.mode_ite_snd {α : Type} (c : Prop) [Decidable c] (x y : α × Dev) (k : Nat) :
    (if c then x else y).2.mode k = if c then x.2.mode k else y.2.mode k :=
  apply_ite (fun d : α × Dev => d.2.mode k) c x y

end Sys2Proof.Machine
end

section
/-! The mode through memory, the caches, the slices and the homes: none of them writes a power register. -/

namespace Sys2Proof.Machine

/-! ### Fault reports -/

@[simp] theorem Dev.mode_reportKind (d : Dev) (s : Nat) (e : FEv) (kind : Nat) (forced : Bool) (k : Nat) :
    (d.reportKind s e kind forced).mode k = d.mode k := by
  unfold Dev.reportKind
  dsimp only
  split
  · rfl
  · exact Dev.mode_onSock _ _ _ (by intro q; rfl) k

@[simp] theorem Dev.mode_report (d : Dev) (s : Nat) (e : FEv) (k : Nat) : (d.report s e).mode k = d.mode k := by simp [Dev.report]

@[simp] theorem Dev.mode_reportUnit (d : Dev) (s src cls sub berth access addr : Nat) (k : Nat) :
    (d.reportUnit s src cls sub berth access addr).mode k = d.mode k := by simp [Dev.reportUnit]

@[simp] theorem Dev.mode_reportAt (a : Tables) (d : Dev) (s src cls sub access addr : Nat) (k : Nat) :
    (d.reportAt a s src cls sub access addr).mode k = d.mode k := by simp [Dev.reportAt]

@[simp] theorem Dev.mode_noteAccess (d : Dev) (s : Nat) (src : Nat) (master berth access addr : Nat) (k : Nat) :
    (d.noteAccess s src master berth access addr).mode k = d.mode k := by simp [Dev.noteAccess]

@[simp] theorem Dev.mode_notice (d : Dev) (s src : Nat) (k : Nat) : (d.notice s src).mode k = d.mode k := by simp [Dev.notice]

theorem Dev.mode_force (a : Tables) (d : Dev) (s : Nat) {src : Nat} (h : src < 4096) (k : Nat) : (d.force a s src).mode k = d.mode k := by
  unfold Dev.force Dev.setFld
  rw [Dev.mode_setReg_apart, Dev.mode_reportKind]
  right
  show 0x3002000 ≠ 0x1010000 + src * 8 + 0 * 0
  omega

@[simp] theorem Dev.mode_uncore (d : Dev) (s : Nat) (cfg cnt : Reg) (unit ev b n k : Nat) (h : cnt ∉ Reg.nearMode) :
    (d.uncore s cfg cnt unit ev b n).mode k = d.mode k := by
  unfold Dev.uncore
  apply Dev.mode_foldl
  intro d i
  rw [Dev.mode_ite, Dev.mode_bump _ _ _ _ _ _ _ _ _ h, ite_self]

/-! ### Lines of DRAM -/

@[simp] theorem Dev.mode_putRaw (d : Dev) (loc : Nat) (m : MLine) (k : Nat) : (d.putRaw loc m).mode k = d.mode k := by simp [Dev.putRaw]

/-! ### Tiering -/

@[simp] theorem Dev.mode_fillSet (d : Dev) (s hub set : Nat) (k : Nat) : (d.fillSet s hub set).mode k = d.mode k := by simp [Dev.fillSet]

@[simp] theorem Dev.mode_setEntryCache (d : Dev) (s hub f : Nat) (e : REnt) (k : Nat) :
    (d.setEntryCache s hub f e).mode k = d.mode k := by simp [Dev.setEntryCache]

@[simp] theorem Dev.mode_setEntry (d : Dev) (s hub f : Nat) (e : REnt) (k : Nat) : (d.setEntry s hub f e).mode k = d.mode k := by
  unfold Dev.setEntry
  rw [Dev.mode_foldl, Dev.mode_setEntryCache]
  intro d w
  exact d.mode_mk ..

@[simp] theorem Dev.mode_tierLoc (a : Tables) (d : Dev) (pa : Nat) (k : Nat) : (d.tierLoc a pa).2.mode k = d.mode k := by
  unfold Dev.tierLoc
  dsimp only
  (repeat' split) <;> simp

@[simp] theorem Dev.mode_locate (a : Tables) (d : Dev) (pa : Nat) (k : Nat) : (d.locate a pa).2.mode k = d.mode k := by
  unfold Dev.locate
  split
  · next e => exact (Dev.mode_of_eq e k).trans (d.mode_tierLoc a pa k)
  · simp

@[simp] theorem Dev.mode_markDirty (a : Tables) (d : Dev) (pa loc : Nat) (k : Nat) : (d.markDirty a pa loc).mode k = d.mode k := by
  unfold Dev.markDirty
  dsimp only
  (repeat' split) <;> simp

@[simp] theorem Dev.mode_chanEvent (d : Dev) (loc ev b : Nat) (k : Nat) : (d.chanEvent loc ev b).mode k = d.mode k := by
  unfold Dev.chanEvent
  dsimp only
  (repeat' split) <;> simp

@[simp] theorem Dev.mode_cxlSilent (d : Dev) (loc : Nat) (k : Nat) : (d.cxlSilent loc).2.mode k = d.mode k := by
  unfold Dev.cxlSilent
  split <;> simp

@[simp] theorem Dev.mode_memRead (a : Tables) (d : Dev) (w : Who) (pa : Nat) (k : Nat) : (d.memRead a w pa).2.mode k = d.mode k := by
  unfold Dev.memRead
  dsimp only
  split
  · next e =>
    have h := (Dev.mode_of_eq e k).trans (d.mode_locate a pa k)
    split <;> simp [h]
  · next e => simp [Dev.mode_of_eq e k]
  · next e => simp [Dev.mode_of_eq e k]

@[simp] theorem Dev.mode_memWrite (a : Tables) (d : Dev) (w : Who) (pa : Nat) (m : MLine) (k : Nat) :
    (d.memWrite a w pa m).mode k = d.mode k := by
  unfold Dev.memWrite
  dsimp only
  split
  · next e =>
    have h := (Dev.mode_of_eq e k).trans (d.mode_locate a pa k)
    split <;> simp [h]
  · next e => simp [Dev.mode_of_eq e k]
  · next e => simp [Dev.mode_of_eq e k]

@[simp] theorem Dev.mode_memWriteLine (a : Tables) (d : Dev) (w : Who) (pa : Nat) (l : PLine) (k : Nat) :
    (d.memWriteLine a w pa l).mode k = d.mode k := by simp [Dev.memWriteLine]

/-! ### Heat (R337 to R340) -/

@[simp] theorem Dev.mode_candidate (d : Dev) (s hub : Nat) (c : TCopy) (k : Nat) :
    (d.candidate s hub c).mode k = d.mode k := by simp [Dev.candidate]

@[simp] theorem Dev.mode_heatPage (d : Dev) (t : Tier) (pa : Nat) (k : Nat) : (d.heatPage t pa).mode k = d.mode k := by
  unfold Dev.heatPage
  dsimp only
  (repeat' split) <;> simp

@[simp] theorem Dev.mode_sampleHome (a : Tables) (d : Dev) (pa : Nat) (k : Nat) : (d.sampleHome a pa).mode k = d.mode k := by
  unfold Dev.sampleHome
  split <;> simp

/-! ### Whose traffic -/

@[simp] theorem Dev.mode_supply (d : Dev) (m : Msg) (ty : MsgType) (src : Node) (l : PLine) (copy : Bool) (k : Nat) :
    (d.supply m ty src l copy).mode k = d.mode k := by
  unfold Dev.supply
  dsimp only
  (repeat' split) <;> simp

/-! ### Lookup and replacement -/

@[simp] theorem Dev.mode_sendNotice (a : Tables) (d : Dev) (h : Hart) (v : Victim) (k : Nat) :
    (d.sendNotice a h v).mode k = d.mode k := by simp [Dev.sendNotice]

@[simp] theorem Dev.mode_giveBack (a : Tables) (d : Dev) (h : Hart) (v : Victim) (k : Nat) :
    (d.giveBack a h v).mode k = d.mode k := by simp [Dev.giveBack]

@[simp] theorem Dev.mode_evict2 (a : Tables) (d : Dev) (h : Hart) (la : Nat) (k : Nat) : (d.evict2 a h la).mode k = d.mode k := by
  unfold Dev.evict2
  dsimp only
  (repeat' split) <;> simp

@[simp] theorem Dev.mode_put2 (a : Tables) (d : Dev) (h : Hart) (e : CLine) (k : Nat) : (d.put2 a h e).mode k = d.mode k := by
  unfold Dev.put2
  dsimp only
  (repeat' split) <;> simp

/-! ### Answers to messages sent to a core -/

@[simp] theorem Dev.mode_ownerAnswers (d : Dev) (h : Hart) (m : Msg) (k : Nat) : (d.ownerAnswers h m).mode k = d.mode k := by
  unfold Dev.ownerAnswers
  dsimp only
  (repeat' split) <;> simp

@[simp] theorem Dev.mode_podInv (d : Dev) (h : Hart) (m : Msg) (k : Nat) : (d.podInv h m).mode k = d.mode k := by
  unfold Dev.podInv
  rw [Dev.mode_send, Dev.mode_foldl]
  intro d i
  split <;> simp

@[simp] theorem Dev.mode_coreForward (d : Dev) (h : Hart) (m : Msg) (now : Bool) (k : Nat) :
    (d.coreForward h m now).mode k = d.mode k := by simp [Dev.coreForward]

@[simp] theorem Dev.mode_answerDelayed (d : Dev) (h : Hart) (k : Nat) : (d.answerDelayed h).mode k = d.mode k := by simp [Dev.answerDelayed]

/-! ### Requests without a miss register (R237, R250) -/

@[simp] theorem Dev.mode_answered (d : Dev) (m : Msg) (k : Nat) : (d.answered m).mode k = d.mode k := by simp [Dev.answered]

@[simp] theorem Dev.mode_refusedAsk (d : Dev) (m : Msg) (k : Nat) : (d.refusedAsk m).mode k = d.mode k := by simp [Dev.refusedAsk]

@[simp] theorem Dev.mode_coreData (a : Tables) (d : Dev) (h : Hart) (m : Msg) (k : Nat) : (d.coreData a h m).mode k = d.mode k := by
  unfold Dev.coreData
  dsimp only
  (repeat' split) <;> simp

@[simp] theorem Dev.mode_coreGrant (a : Tables) (d : Dev) (h : Hart) (m : Msg) (k : Nat) : (d.coreGrant a h m).mode k = d.mode k := by
  unfold Dev.coreGrant
  dsimp only
  (repeat' split) <;> simp

@[simp] theorem Dev.mode_coreWback (d : Dev) (h : Hart) (m : Msg) (k : Nat) : (d.coreWback h m).mode k = d.mode k := by simp [Dev.coreWback]

@[simp] theorem Dev.mode_coreRetry (d : Dev) (h : Hart) (m : Msg) (k : Nat) : (d.coreRetry h m).mode k = d.mode k := by simp [Dev.coreRetry]

@[simp] theorem Dev.mode_atCore (a : Tables) (d : Dev) (h : Hart) (m : Msg) (k : Nat) : (d.atCore a h m).mode k = d.mode k := by
  unfold Dev.atCore
  split <;> simp

/-! ### Entries -/

@[simp] theorem Dev.mode_putEnt (d : Dev) (s : Sock) (p : Fin 104) (k : Nat) (e : SEntry) (κ : Nat) :
    (d.putEnt s p k e).mode κ = d.mode κ := by simp [Dev.putEnt]

@[simp] theorem Dev.mode_dropEnt (d : Dev) (s : Sock) (p : Fin 104) (k : Nat) (κ : Nat) :
    (d.dropEnt s p k).mode κ = d.mode κ := by simp [Dev.dropEnt]

@[simp] theorem Dev.mode_showBusy (d : Dev) (s : Sock) (p : Fin 104) (la : Nat) (k : Nat) : (d.showBusy s p la).mode k = d.mode k := by
  unfold Dev.showBusy
  split <;> simp

@[simp] theorem Dev.mode_addTxn (d : Dev) (s : Sock) (p : Fin 104) (t : Txn) (k : Nat) :
    (d.addTxn s p t).mode k = d.mode k := by simp [Dev.addTxn]

@[simp] theorem Dev.mode_addProbe (d : Dev) (s : Sock) (p : Fin 104) (t : Txn) (k : Nat) :
    (d.addProbe s p t).mode k = d.mode k := by simp [Dev.addProbe]

@[simp] theorem Dev.mode_updTxn (d : Dev) (s : Sock) (p : Fin 104) (t t' : Txn) (k : Nat) :
    (d.updTxn s p t t').mode k = d.mode k := by simp [Dev.updTxn]

/-! ### Messages of a slice -/

@[simp] theorem Dev.mode_refuse (a : Tables) (d : Dev) (s : Sock) (p : Fin 104) (m : Msg) (what : Nat) (k : Nat) :
    (d.refuse a s p m what).mode k = d.mode k := by simp [Dev.refuse]

/-! ### Evictions (R227, R233, R264) -/

@[simp] theorem Dev.mode_evFree (d : Dev) (s : Sock) (p : Fin 104) (la : Nat) (k : Nat) :
    (d.evFree s p la).mode k = d.mode k := by simp [Dev.evFree]

@[simp] theorem Dev.mode_evictDone (a : Tables) (d : Dev) (s : Sock) (p : Fin 104) (v : EvBuf) (k : Nat) :
    (d.evictDone a s p v).mode k = d.mode k := by simp [Dev.evictDone]

@[simp] theorem Dev.mode_backInvalidate (a : Tables) (d : Dev) (s : Sock) (p : Fin 104) (e : SEntry) (k : Nat) :
    (d.backInvalidate a s p e).2.mode k = d.mode k := by
  unfold Dev.backInvalidate
  split <;> simp

@[simp] theorem Dev.mode_evictEnt (a : Tables) (d : Dev) (s : Sock) (p : Fin 104) (k : Nat) (e : SEntry) (κ : Nat) :
    (d.evictEnt a s p k e).mode κ = d.mode κ := by simp [Dev.evictEnt]

theorem Dev.mode_allocate {a : Tables} {d d' : Dev} {s : Sock} {p : Fin 104} {m : Msg} (e : d.allocate a s p m = .inr d') (k : Nat) :
    d'.mode k = d.mode k := by
  unfold Dev.allocate at e
  dsimp only at e
  split at e
  · nomatch e
  · split at e
    · nomatch e
    · split at e
      · cases e
        simp
      · split at e
        · nomatch e
        · cases e
          simp

/-! ### The end of a transaction -/

@[simp] theorem Dev.mode_endTxn (d : Dev) (s : Sock) (p : Fin 104) (t : Txn) (k : Nat) :
    (d.endTxn s p t).mode k = d.mode k := by simp [Dev.endTxn]

@[simp] theorem Dev.mode_tryEnd (d : Dev) (s : Sock) (p : Fin 104) (t : Txn) (k : Nat) :
    (d.tryEnd s p t).mode k = d.mode k := by simp [Dev.tryEnd]

@[simp] theorem Dev.mode_stepTxn (d : Dev) (s : Sock) (p : Fin 104) (t t' : Txn) (k : Nat) :
    (d.stepTxn s p t t').mode k = d.mode k := by simp [Dev.stepTxn]

/-! ### Atomics (R65, R275) -/

@[simp] theorem Dev.mode_sendAtr (d : Dev) (m : Msg) (src : Node) (old : Word) (poison other : Bool) (k : Nat) :
    (d.sendAtr m src old poison other).mode k = d.mode k := by
  unfold Dev.sendAtr
  split <;> simp

/-! ### Copies removed: the second half of a transaction -/

@[simp] theorem Dev.mode_releaseWrites (d : Dev) (s : Sock) (p : Fin 104) (t : Txn) (k : Nat) :
    (d.releaseWrites s p t).mode k = d.mode k := by
  unfold Dev.releaseWrites
  dsimp only
  (repeat' split) <;> simp

@[simp] theorem Dev.mode_copiesGone (d : Dev) (s : Sock) (p : Fin 104) (t : Txn) (k : Nat) (e : SEntry) (κ : Nat) :
    (d.copiesGone s p t k e).mode κ = d.mode κ := by
  unfold Dev.copiesGone
  dsimp only
  (repeat' split) <;> simp

@[simp] theorem Dev.mode_removeCopies (d : Dev) (s : Sock) (p : Fin 104) (t : Txn) (k : Nat) :
    (d.removeCopies s p t).mode k = d.mode k := by
  unfold Dev.removeCopies
  dsimp only
  (repeat' split) <;> simp

@[simp] theorem Dev.mode_exclusively (d : Dev) (s : Sock) (p : Fin 104) (m : Msg) (e : SEntry) (k : Nat) :
    (d.exclusively s p m e).mode k = d.mode k := by simp [Dev.exclusively]

/-! ### Requests (R261) -/

@[simp] theorem Dev.mode_readHit (d : Dev) (s : Sock) (p : Fin 104) (m : Msg) (c k : Nat) (e : SEntry) (κ : Nat) :
    (d.readHit s p m c k e).mode κ = d.mode κ := by
  unfold Dev.readHit
  split <;> simp

@[simp] theorem Dev.mode_coreRequest (a : Tables) (d : Dev) (s : Sock) (p : Fin 104) (m : Msg) (c : Nat) (k : Nat) :
    (d.coreRequest a s p m c).mode k = d.mode k := by
  unfold Dev.coreRequest
  dsimp only
  split
  · simp
  · split
    · simp
    · next e => simp [Dev.mode_allocate e]

@[simp] theorem Dev.mode_nonAllocating (d : Dev) (s : Sock) (p : Fin 104) (m : Msg) (k : Nat) :
    (d.nonAllocating s p m).mode k = d.mode k := by
  unfold Dev.nonAllocating
  dsimp only
  (repeat' split) <;> simp

@[simp] theorem Dev.mode_startWrite (d : Dev) (s : Sock) (p : Fin 104) (m : Msg) (k : Nat) : (d.startWrite s p m).mode k = d.mode k := by
  unfold Dev.startWrite
  split <;> simp

@[simp] theorem Dev.mode_absorbWrite (a : Tables) (d : Dev) (s : Sock) (p : Fin 104) (m : Msg) (k : Nat) :
    (d.absorbWrite a s p m).mode k = d.mode k := by simp [Dev.absorbWrite]

@[simp] theorem Dev.mode_farAtomic (a : Tables) (d : Dev) (s : Sock) (p : Fin 104) (m : Msg) (k : Nat) :
    (d.farAtomic a s p m).mode k = d.mode k := by
  unfold Dev.farAtomic
  dsimp only
  split
  · simp
  · split
    · simp
    · split
      · simp
      · split
        · simp
        · next e => simp [Dev.mode_allocate e]

@[simp] theorem Dev.mode_probe (d : Dev) (s : Sock) (p : Fin 104) (m : Msg) (k : Nat) : (d.probe s p m).mode k = d.mode k := by
  unfold Dev.probe
  dsimp only
  (repeat' split) <;> simp

@[simp] theorem Dev.mode_sliceRequest (a : Tables) (d : Dev) (s : Sock) (p : Fin 104) (m : Msg) (again : Bool) (k : Nat) :
    (d.sliceRequest a s p m again).mode k = d.mode k := by
  unfold Dev.sliceRequest
  dsimp only
  (repeat' split) <;> simp

/-! ### Notices and answers -/

@[simp] theorem Dev.mode_sliceAck (a : Tables) (d : Dev) (s : Sock) (p : Fin 104) (la pod : Nat) (k : Nat) :
    (d.sliceAck a s p la pod).mode k = d.mode k := by
  unfold Dev.sliceAck
  dsimp only
  (repeat' split) <;> simp

@[simp] theorem Dev.mode_intoEntry (d : Dev) (s : Sock) (p : Fin 104) (la : Nat) (l : PLine) (k : Nat) :
    (d.intoEntry s p la l).mode k = d.mode k := by
  unfold Dev.intoEntry
  split <;> simp

@[simp] theorem Dev.mode_notice_ (a : Tables) (d : Dev) (s : Sock) (p : Fin 104) (m : Msg) (c : Nat) (k : Nat) :
    (d.notice_ a s p m c).mode k = d.mode k := by
  unfold Dev.notice_
  dsimp only
  (repeat' split) <;> simp

@[simp] theorem Dev.mode_downgraded (d : Dev) (s : Sock) (p : Fin 104) (m : Msg) (k : Nat) : (d.downgraded s p m).mode k = d.mode k := by
  unfold Dev.downgraded
  dsimp only
  (repeat' split) <;> simp

@[simp] theorem Dev.mode_forwarded (d : Dev) (s : Sock) (p : Fin 104) (m : Msg) (k : Nat) : (d.forwarded s p m).mode k = d.mode k := by
  unfold Dev.forwarded
  dsimp only
  (repeat' split) <;> simp

@[simp] theorem Dev.mode_sliceCmp (d : Dev) (s : Sock) (p : Fin 104) (m : Msg) (k : Nat) : (d.sliceCmp s p m).mode k = d.mode k := by
  unfold Dev.sliceCmp
  dsimp only
  (repeat' split) <;> simp

@[simp] theorem Dev.mode_sliceNothing (d : Dev) (s : Sock) (p : Fin 104) (t : Txn) (k : Nat) :
    (d.sliceNothing s p t).mode k = d.mode k := by
  unfold Dev.sliceNothing
  split <;> simp

@[simp] theorem Dev.mode_sliceFill (d : Dev) (s : Sock) (p : Fin 104) (m : Msg) (k : Nat) : (d.sliceFill s p m).mode k = d.mode k := by
  unfold Dev.sliceFill
  dsimp only
  (repeat' split) <;> simp

@[simp] theorem Dev.mode_sliceWback (d : Dev) (s : Sock) (p : Fin 104) (m : Msg) (k : Nat) : (d.sliceWback s p m).mode k = d.mode k := by
  unfold Dev.sliceWback
  split <;> simp

@[simp] theorem Dev.mode_atSlice (a : Tables) (d : Dev) (s : Sock) (p : Fin 104) (m : Msg) (again : Bool) (k : Nat) :
    (d.atSlice a s p m again).mode k = d.mode k := by
  unfold Dev.atSlice
  dsimp only
  (repeat' split) <;> simp

/-! ### The crossing directory (R270) -/

@[simp] theorem Dev.mode_putX (d : Dev) (s : Sock) (u : Fin 2) (k : Nat) (e : XEntry) (κ : Nat) :
    (d.putX s u k e).mode κ = d.mode κ := by simp [Dev.putX]

@[simp] theorem Dev.mode_dropX (d : Dev) (s : Sock) (u : Fin 2) (k : Nat) (κ : Nat) :
    (d.dropX s u k).mode κ = d.mode κ := by simp [Dev.dropX]

@[simp] theorem Dev.mode_putSummary (a : Tables) (d : Dev) (pa code : Nat) (k : Nat) : (d.putSummary a pa code).mode k = d.mode k := by
  unfold Dev.putSummary
  split
  · rfl
  · split
    · next e => simp [Dev.mode_of_eq e k]
    · next e => simp [Dev.mode_of_eq e k]

@[simp] theorem Dev.mode_evictX (a : Tables) (d : Dev) (s : Sock) (u : Fin 2) (k : Nat) (e : XEntry) (κ : Nat) :
    (d.evictX a s u k e).mode κ = d.mode κ := by simp [Dev.evictX]

@[simp] theorem Dev.mode_allocX (a : Tables) (d : Dev) (s : Sock) (u : Fin 2) (e : XEntry) (k : Nat) :
    (d.allocX a s u e).mode k = d.mode k := by
  unfold Dev.allocX
  dsimp only
  (repeat' split) <;> simp

@[simp] theorem Dev.mode_freeX (a : Tables) (d : Dev) (s : Sock) (u : Fin 2) (k : Nat) (e : XEntry) (κ : Nat) :
    (d.freeX a s u k e).mode κ = d.mode κ := by simp [Dev.freeX]

@[simp] theorem Dev.mode_clearX (a : Tables) (d : Dev) (s : Sock) (u : Fin 2) (pa t : Nat) (k : Nat) :
    (d.clearX a s u pa t).mode k = d.mode k := by
  unfold Dev.clearX
  split <;> simp

/-! ### Answers -/

@[simp] theorem Dev.mode_readerServed (d : Dev) (me : Node) (m : Msg) (k : Nat) :
    (d.readerServed me m).mode k = d.mode k := by simp [Dev.readerServed]

@[simp] theorem Dev.mode_homeData (d : Dev) (me : Node) (m : Msg) (ty : MsgType) (l : PLine) (k : Nat) :
    (d.homeData me m ty l).mode k = d.mode k := by
  unfold Dev.homeData
  dsimp only
  (repeat' split) <;> simp

@[simp] theorem Dev.mode_homeEnd (d : Dev) (s : Sock) (u : Fin 2) (t : Txn) (k : Nat) : (d.homeEnd s u t).mode k = d.mode k := by
  unfold Dev.homeEnd
  dsimp only
  (repeat' split) <;> simp

@[simp] theorem Dev.mode_homeTxn (d : Dev) (s : Sock) (u : Fin 2) (t t' : Txn) (k : Nat) :
    (d.homeTxn s u t t').mode k = d.mode k := by simp [Dev.homeTxn]

@[simp] theorem Dev.mode_homeWrites (a : Tables) (d : Dev) (s : Sock) (u : Fin 2) (t : Txn) (k : Nat) :
    (d.homeWrites a s u t).mode k = d.mode k := by simp [Dev.homeWrites]

@[simp] theorem Dev.mode_homeServe (a : Tables) (d : Dev) (s : Sock) (u : Fin 2) (t : Txn) (k : Nat) :
    (d.homeServe a s u t).mode k = d.mode k := by
  unfold Dev.homeServe
  extract_lets +onlyGivenNames m me pa la r here code hit miss lost deferred line0 line sumw done
  have hdef (y : Dev) : (deferred y).mode k = y.mode k := by simp [deferred]
  have hdone (y : Dev) : (done y).mode k = y.mode k := by simp [done]
  clear_value deferred done hit miss
  split
  case h_1 =>
    extract_lets +onlyGivenNames d1 remote shared fresh d2
    have h1 : d1.mode k = d.mode k := by simp [d1, hdef]
    have h2 : d2.mode k = d1.mode k := by
      clear_value fresh d1
      simp only [d2]
      split <;> simp
    simp [hdone, h1, h2]
  case h_2 | h_3 =>
    extract_lets +onlyGivenNames d1 d2
    have h1 : d1.mode k = d.mode k := by simp [d1, hdef]
    have h2 : d2.mode k = d1.mode k := by
      clear_value d1
      simp only [d2]
      split <;> simp
    simp [hdone, h1, h2]
  case h_4 | h_5 =>
    extract_lets +onlyGivenNames d1
    have h1 : d1.mode k = d.mode k := by simp only [d1]; split <;> simp
    simp [hdef, h1]
  case h_6 =>
    extract_lets +onlyGivenNames d1
    have h1 : d1.mode k = d.mode k := by simp only [d1]; split <;> simp
    clear_value d1
    dsimp only
    simp [hdef, h1]
  case h_7 => simp

@[simp] theorem Dev.mode_ownerError (d : Dev) (me : Node) (m : Msg) (k : Nat) : (d.ownerError me m).mode k = d.mode k := by
  unfold Dev.ownerError
  dsimp only
  (repeat' split) <;> simp

@[simp] theorem Dev.mode_refuseOwner (d : Dev) (s : Sock) (u : Fin 2) (m : Msg) (k : Nat) :
    (d.refuseOwner s u m).mode k = d.mode k := by simp [Dev.refuseOwner]

@[simp] theorem Dev.mode_homeStart (a : Tables) (d : Dev) (s : Sock) (u : Fin 2) (m : Msg) (k : Nat) :
    (d.homeStart a s u m).mode k = d.mode k := by
  unfold Dev.homeStart
  extract_lets +onlyGivenNames me pa la r h others share entry code
  clear_value entry
  split
  · simp
  · extract_lets +onlyGivenNames d1 d2
    have h2 : d2.mode k = d.mode k := by simp [d2, d1]
    clear_value d2
    split
    extract_lets +onlyGivenNames d3 near ts d4
    have h4 : d4.mode k = d.mode k := by simp [d4, d3, h2]
    clear_value d4
    dsimp only
    cases entry <;> simp [h4]

@[simp] theorem Dev.mode_homeRequest (a : Tables) (d : Dev) (s : Sock) (u : Fin 2) (m : Msg) (k : Nat) :
    (d.homeRequest a s u m).mode k = d.mode k := by
  unfold Dev.homeRequest
  dsimp only
  (repeat' split) <;> simp

@[simp] theorem Dev.mode_homeWrite (a : Tables) (d : Dev) (s : Sock) (u : Fin 2) (m : Msg) (k : Nat) :
    (d.homeWrite a s u m).mode k = d.mode k := by
  unfold Dev.homeWrite
  dsimp only
  (repeat' split) <;> simp

@[simp] theorem Dev.mode_homeAnswer (a : Tables) (d : Dev) (s : Sock) (u : Fin 2) (m : Msg) (k : Nat) :
    (d.homeAnswer a s u m).mode k = d.mode k := by
  unfold Dev.homeAnswer
  dsimp only
  split <;> simp

@[simp] theorem Dev.mode_freshen (d : Dev) (s : Sock) (u : Fin 2) (la : Nat) (l : PLine) (k : Nat) :
    (d.freshen s u la l).mode k = d.mode k := by simp [Dev.freshen]

@[simp] theorem Dev.mode_homeWb (a : Tables) (d : Dev) (s : Sock) (u : Fin 2) (m : Msg) (k : Nat) :
    (d.homeWb a s u m).mode k = d.mode k := by simp [Dev.homeWb]

@[simp] theorem Dev.mode_homeCmp (a : Tables) (d : Dev) (s : Sock) (u : Fin 2) (m : Msg) (k : Nat) :
    (d.homeCmp a s u m).mode k = d.mode k := by
  unfold Dev.homeCmp
  dsimp only
  (repeat' split) <;> simp

/-! ### Device accesses to memory (R308, R364) -/

@[simp] theorem Dev.mode_deviceAnswer (d : Dev) (me : Node) (m : Msg) (l : Line) (bad : Bool) (k : Nat) :
    (d.deviceAnswer me m l bad).mode k = d.mode k := by simp [Dev.deviceAnswer]

@[simp] theorem Dev.mode_homeDevice (a : Tables) (d : Dev) (s : Sock) (u : Fin 2) (m : Msg) (k : Nat) :
    (d.homeDevice a s u m).mode k = d.mode k := by simp [Dev.homeDevice]

@[simp] theorem Dev.mode_atHome (a : Tables) (d : Dev) (s : Sock) (u : Fin 2) (m : Msg) (again : Bool) (k : Nat) :
    (d.atHome a s u m again).mode k = d.mode k := by
  unfold Dev.atHome
  split <;> simp

/-! ### Routes -/

@[simp] theorem Dev.mode_linkEvent (d : Dev) (s k ev b n : Nat) (κ : Nat) :
    (d.linkEvent s k ev b n).mode κ = d.mode κ := by simp [Dev.linkEvent]

@[simp] theorem Dev.mode_countHops (d : Dev) (b : Nat) (hops : List (Nat × Nat × Nat)) (k : Nat) :
    (d.countHops b hops).mode k = d.mode k := by simp [Dev.countHops]

/-! ### Router inputs (R217, R222) -/

@[simp] theorem Dev.mode_countCross (d : Dev) (m : Msg) (k : Nat) : (d.countCross m).mode k = d.mode k := by simp [Dev.countCross]

theorem Dev.mode_pickNet {d : Dev} {stuck l : List Msg} {r : Option Msg × Dev} (e : d.pickNet stuck l = some r) (k : Nat) :
    r.2.mode k = d.mode k := by
  induction l generalizing stuck with
  | nil => simp [Dev.pickNet] at e
  | cons m rest ih =>
    unfold Dev.pickNet at e
    split at e
    · exact ih e
    · split at e
      · cases e
        simp
      · exact ih e
      · cases e
        simp

/-! ### After a stop (R217, R218, R222) -/

theorem Dev.mode_moveOne {d : Dev} {s slot turn : Nat} {granted : List Nat} {r : Nat × Option Msg × Dev}
    (e : d.moveOne s slot granted turn = some r) (k : Nat) : r.2.2.mode k = d.mode k := by
  unfold Dev.moveOne at e
  split at e
  · nomatch e
  · dsimp only at e
    split at e
    · nomatch e
    · split at e
      · cases e
        simp
      · split at e
        · cases e
          simp
        · split at e <;>
          · cases e
            simp

@[simp] theorem Dev.mode_meshResume (d : Dev) (fuel s slot : Nat) (granted : List Nat) (turn : Nat) (out : List Msg) (k : Nat) :
    (d.meshResume fuel s slot granted turn out).2.mode k = d.mode k := by
  induction fuel generalizing d slot granted turn out with
  | zero => rfl
  | succ n ih =>
    unfold Dev.meshResume
    split
    · rfl
    · next e =>
      have h := Dev.mode_moveOne e k
      split <;> simp [ih, h]

end Sys2Proof.Machine
end

section
/-! The mode through the traffic of an access, and through the blocks that a register write reaches: slips, slices,
tiering, links, interrupts and ferries. -/

namespace Sys2Proof.Machine

/-! ### Requests of a core -/

@[simp] theorem Dev.mode_sendMiss (a : Tables) (d : Dev) (h : Hart) (r : Miss) (k : Nat) :
    (d.sendMiss a h r).mode k = d.mode k := by simp [Dev.sendMiss]

@[simp] theorem Dev.mode_replayCore (a : Tables) (d : Dev) (h : Hart) (la : Option Nat) (k : Nat) :
    (d.replayCore a h la).mode k = d.mode k := by simp [Dev.replayCore]

@[simp] theorem Dev.mode_nextTxn (d : Dev) (h : Hart) (k : Nat) : (d.nextTxn h).2.mode k = d.mode k := by simp [Dev.nextTxn]

@[simp] theorem Dev.mode_offerL2 (d : Dev) (h : Hart) (k : Nat) : (d.offerL2 h).mode k = d.mode k := by simp [Dev.offerL2]

@[simp] theorem Dev.mode_missesGo (a : Tables) (d : Dev) (h : Hart) (k : Nat) : (d.missesGo a h).mode k = d.mode k := by simp [Dev.missesGo]

@[simp] theorem Dev.mode_replaySlices (d : Dev) (of_ : Option (Node × Nat)) (k : Nat) : (d.replaySlices of_).mode k = d.mode k := by
  unfold Dev.replaySlices
  dsimp only
  rw [Dev.mode_each]
  · rfl
  · intro d m
    split
    · split <;> simp
    · rfl

@[simp] theorem Dev.mode_replayAsked (d : Dev) (p : Msg → Bool) (k : Nat) : (d.replayAsked p).mode k = d.mode k := by
  unfold Dev.replayAsked
  apply Dev.mode_each
  intro d x
  simp

/-! ### Ordered writers (R410) -/

@[simp] theorem Dev.mode_setWriter (d : Dev) (n : Node) (l : List (Msg × Bool)) (k : Nat) : (d.setWriter n l).mode k = d.mode k := by
  unfold Dev.setWriter
  split <;> simp

@[simp] theorem Dev.mode_unexpected (d : Dev) (n : Node) (k : Nat) : (d.unexpected n).mode k = d.mode k := by
  unfold Dev.unexpected
  split <;> simp

@[simp] theorem Dev.mode_atOther (d : Dev) (m : Msg) (k : Nat) : (d.atOther m).mode k = d.mode k := by
  unfold Dev.atOther
  split <;> simp

/-! ### Absent sockets (R299) -/

@[simp] theorem Dev.mode_absentTarget (d : Dev) (m : Msg) (k : Nat) : (d.absentTarget m).mode k = d.mode k := by
  unfold Dev.absentTarget
  split <;> simp

@[simp] theorem Dev.mode_absentHome (d : Dev) (m : Msg) (k : Nat) : (d.absentHome m).mode k = d.mode k := by
  unfold Dev.absentHome
  split <;> simp

/-! ### Delivery -/

@[simp] theorem Dev.mode_discard (d : Dev) (m : Msg) (k : Nat) : (d.discard m).mode k = d.mode k := by simp [Dev.discard]

@[simp] theorem Dev.mode_deliver (a : Tables) (d : Dev) (m : Msg) (again : Bool) (k : Nat) : (d.deliver a m again).mode k = d.mode k := by
  unfold Dev.deliver
  dsimp only
  (repeat' split) <;> simp

@[simp] theorem Dev.mode_settle (a : Tables) (fuel : Nat) (d : Dev) (k : Nat) : (d.settle a fuel).mode k = d.mode k := by
  induction fuel generalizing d with
  | zero => rfl
  | succ n ih =>
    unfold Dev.settle
    split
    · simp [ih]
    · split
      · next e => simp [ih, Dev.mode_pickNet e k]
      · next e => simp [ih, Dev.mode_pickNet e k]
      · rfl

@[simp] theorem Dev.mode_runNet (a : Tables) (fuel : Nat) (self : Option Hart) (d : Dev) (k : Nat) :
    (d.runNet a fuel self).mode k = d.mode k := by
  induction fuel generalizing d with
  | zero => simp [Dev.runNet]
  | succ n ih =>
    unfold Dev.runNet
    simp [ih]

@[simp] theorem Dev.mode_quiesce (a : Tables) (d : Dev) (k : Nat) : (d.quiesce a).mode k = d.mode k := by simp [Dev.quiesce]

@[simp] theorem Dev.mode_meshGo (a : Tables) (d : Dev) (s l : Nat) (k : Nat) : (d.meshGo a s l).mode k = d.mode k := by
  unfold Dev.meshGo
  split
  · rfl
  · simp

/-! ### Lines of a core -/

@[simp] theorem Dev.mode_take (d : Dev) (who : Node) (la : Nat) (p : MsgType → Bool) (k : Nat) : (d.take who la p).2.mode k = d.mode k := by
  unfold Dev.take
  split <;> simp

/-! ### Requests without a miss register (R237, R250, R410, R411) -/

@[simp] theorem Dev.mode_ask (a : Tables) (fuel : Nat) (self : Option Hart) (d : Dev) (m : Msg) (k : Nat) :
    (d.ask a fuel self m).2.mode k = d.mode k := by
  induction fuel generalizing d with
  | zero =>
    unfold Dev.ask
    split <;> rfl
  | succ n ih =>
    unfold Dev.ask
    split
    · rfl
    · dsimp only
      split <;> simp [ih]

@[simp] theorem Dev.mode_nrdLine (a : Tables) (fuel : Nat) (d : Dev) (m : Msg) (k : Nat) : (d.nrdLine a fuel m).2.mode k = d.mode k := by
  unfold Dev.nrdLine
  extract_lets +onlyGivenNames old d1
  have h1 : d1.mode k = d.mode k := by simp [d1]
  clear_value d1
  split
  · next e => simp [Dev.mode_of_eq e k, h1]
  · next e =>
    split
    · next e' => simp [Dev.mode_of_eq e' k, Dev.mode_of_eq e k, h1]
    · next e' => simp [Dev.mode_of_eq e' k, Dev.mode_of_eq e k, h1]

@[simp] theorem Dev.mode_orderedWrite (a : Tables) (fuel : Nat) (relaxed : Bool) (d : Dev) (m : Msg) (k : Nat) :
    (d.orderedWrite a fuel relaxed m).2.mode k = d.mode k := by
  induction fuel generalizing d with
  | zero => rfl
  | succ n ih =>
    unfold Dev.orderedWrite
    dsimp only
    split
    · rfl
    · split
      · next e => simp [Dev.mode_of_eq e k]
      · next e => simp [ih, Dev.mode_of_eq e k]

@[simp] theorem Dev.mode_coreWrite (a : Tables) (fuel : Nat) (d : Dev) (m : Msg) (k : Nat) :
    (d.coreWrite a fuel m).2.mode k = d.mode k := by
  unfold Dev.coreWrite
  split
  · split
    · next e => simp [Dev.mode_of_eq e k]
    · next e => simp [Dev.mode_of_eq e k]
  · simp

@[simp] theorem Dev.mode_writeLineMsg (a : Tables) (fuel : Nat) (relaxed : Bool) (d : Dev) (m : Msg) (k : Nat) :
    (d.writeLineMsg a fuel relaxed m).2.mode k = d.mode k := by
  simp only [Dev.writeLineMsg]
  (repeat' split) <;> simp

@[simp] theorem Dev.mode_takeMiss (d : Dev) (h : Hart) (la : Nat) (own fetch : Bool) (who va : Nat) (k : Nat) :
    (d.takeMiss h la own fetch who va).2.mode k = d.mode k := by
  unfold Dev.takeMiss
  dsimp only
  (repeat' split) <;> simp

@[simp] theorem Dev.mode_getLine (a : Tables) (fuel : Nat) (d : Dev) (h : Hart) (la : Nat) (own fetch : Bool) (who va : Nat) (k : Nat) :
    (d.getLine a fuel h la own fetch who va).mode k = d.mode k := by
  induction fuel generalizing d with
  | zero => rfl
  | succ n ih =>
    unfold Dev.getLine
    dsimp only
    split
    · rfl
    · split
      · simp
      · split
        · next e => simp [Dev.mode_of_eq e k]
        · next e => simp [ih, Dev.mode_of_eq e k]

@[simp] theorem Dev.mode_prefetch (a : Tables) (d : Dev) (h : Hart) (la : Nat) (k : Nat) :
    (d.prefetch a h la).mode k = d.mode k := by simp [Dev.prefetch]

@[simp] theorem Dev.mode_stream (a : Tables) (d : Dev) (h : Hart) (la : Nat) (k : Nat) : (d.stream a h la).mode k = d.mode k := by
  unfold Dev.stream
  dsimp only
  (repeat' split) <;> simp

@[simp] theorem Dev.mode_readLine (a : Tables) (d : Dev) (h : Hart) (pa : Nat) (old : Bool) (k : Nat) :
    (d.readLine a h pa old).2.mode k = d.mode k := by
  unfold Dev.readLine
  dsimp only
  split
  · simp
  · split
    · split <;> simp
    · split
      · simp
      · split
        · next e => simp [Dev.mode_of_eq e k]
        · next e => split <;> simp [Dev.mode_of_eq e k]

@[simp] theorem Dev.mode_ownLine (a : Tables) (d : Dev) (h : Hart) (pa : Nat) (who : Nat) (k : Nat) :
    (d.ownLine a h pa who).2.mode k = d.mode k := by simp [Dev.ownLine]

/-! ### The store buffer (R133) -/

@[simp] theorem Dev.mode_uncachedMask (a : Tables) (d : Dev) (who : Node) (berth master txn : Nat) (la : Nat) (mask : BitVec 64)
    (v : Line)     (poison : Bool) (relaxed : Bool) (k : Nat) :
    (d.uncachedMask a who berth master txn la mask v poison relaxed).2.mode k = d.mode k := by simp [Dev.uncachedMask]

@[simp] theorem Dev.mode_uncachedWrite (a : Tables) (d : Dev) (who : Node) (berth master txn : Nat) (pa n : Nat) (v : Line)    
    (poison : Bool) (relaxed : Bool) (k : Nat) :
    (d.uncachedWrite a who berth master txn pa n v poison relaxed).2.mode k = d.mode k := by simp [Dev.uncachedWrite]

@[simp] theorem Dev.mode_drainOne (a : Tables) (d : Dev) (h : Hart) (k : Nat) : (d.drainOne a h).2.mode k = d.mode k := by
  unfold Dev.drainOne
  split <;> simp

@[simp] theorem Dev.mode_drainSb (a : Tables) (fuel : Nat) (d : Dev) (h : Hart) (k : Nat) : (d.drainSb a fuel h).mode k = d.mode k := by
  induction fuel generalizing d with
  | zero => rfl
  | succ n ih =>
    unfold Dev.drainSb
    split
    · next e => simp [ih, Dev.mode_of_eq e k]
    · next e => simp [Dev.mode_of_eq e k]

@[simp] theorem Dev.mode_drainAll (a : Tables) (d : Dev) (h : Hart) (k : Nat) : (d.drainAll a h).mode k = d.mode k := by simp [Dev.drainAll]

@[simp] theorem Dev.mode_accessDone (a : Tables) (d : Dev) (h : Hart) (k : Nat) :
    (d.accessDone a h).mode k = d.mode k := by simp [Dev.accessDone]

/-! ### Invalidate all (R184 to R187) -/

@[simp] theorem Dev.mode_flushL2 (a : Tables) (d : Dev) (h : Hart) (k : Nat) : (d.flushL2 a h).mode k = d.mode k := by simp [Dev.flushL2]

/-! ### Modes and requesters -/

@[simp] theorem Dev.mode_slipNote (d : Dev) (s : Nat) (q : Requester) (off : Nat) (k : Nat) :
    (d.slipNote s q off).mode k = d.mode k := by simp [Dev.slipNote]

@[simp] theorem Dev.mode_ring (d : Dev) (s r b : Nat) (k : Nat) : (d.ring s r b).mode k = d.mode k := by simp [Dev.ring]

/-! ### Slips -/

@[simp] theorem Dev.mode_postSlip (d : Dev) (s n len : Nat) (k : Nat) : (d.postSlip s n len).mode k = d.mode k := by simp [Dev.postSlip]

@[simp] theorem Dev.mode_slipEntry (d : Dev) (s n : Nat) (q : Requester) (off : Nat) (k : Nat) :
    (d.slipEntry s n q off).2.mode k = d.mode k := by simp [Dev.slipEntry]

@[simp] theorem Dev.mode_wheelPut (d : Dev) (s n : Nat) (ws : List Word) (k : Nat) :
    (d.wheelPut s n ws).mode k = d.mode k := by simp [Dev.wheelPut]

@[simp] theorem Dev.mode_setSlipQueue (d : Dev) (s n : Nat) (l : List (Bool × List Word)) (k : Nat) :
    (d.setSlipQueue s n l).mode k = d.mode k := by simp [Dev.setSlipQueue]

@[simp] theorem Dev.mode_slipNext (d : Dev) (s n : Nat) (k : Nat) : (d.slipNext s n).mode k = d.mode k := by
  unfold Dev.slipNext
  split <;> simp

@[simp] theorem Dev.mode_slipDone (d : Dev) (s n : Nat) (k : Nat) : (d.slipDone s n).mode k = d.mode k := by simp [Dev.slipDone]

@[simp] theorem Dev.mode_receiverReset (d : Dev) (s n : Nat) (k : Nat) :
    (d.receiverReset s n).mode k = d.mode k := by simp [Dev.receiverReset]

@[simp] theorem Dev.mode_slipsOfReset (d : Dev) (s : Nat) (cores : List Nat) (k : Nat) :
    (d.slipsOfReset s cores).mode k = d.mode k := by simp [Dev.slipsOfReset]

/-! ### Register writes of the block -/

@[simp] theorem Dev.mode_writeMbData (d : Dev) (s n i : Nat) (q : Requester) (v : Word) (k : Nat) :
    (d.writeMbData s n i q v).2.mode k = d.mode k := by
  unfold Dev.writeMbData
  split
  all_goals next e => simp [Dev.mode_of_eq e k]

@[simp] theorem Dev.mode_writeMbCtl (d : Dev) (s n : Nat) (q : Requester) (v : Word) (k : Nat) :
    (d.writeMbCtl s n q v).2.mode k = d.mode k := by
  unfold Dev.writeMbCtl
  split
  all_goals next e => simp [Dev.mode_of_eq e k]

@[simp] theorem Dev.mode_writeMbDone (d : Dev) (s n : Nat) (q : Requester) (v : Word) (k : Nat) :
    (d.writeMbDone s n q v).mode k = d.mode k := by simp [Dev.writeMbDone]

@[simp] theorem Dev.mode_writeMbCfg (t : Tables) (d : Dev) (s n : Nat) (q : Requester) (v : Word) (k : Nat) :
    (d.writeMbCfg t s n q v).mode k = d.mode k := by simp [Dev.writeMbCfg]

/-! ### Bollards (R441 to R443) -/

@[simp] theorem Dev.mode_readBollard (d : Dev) (s b : Nat) (q : Requester) (k : Nat) :
    (d.readBollard s b q).2.mode k = d.mode k := by simp [Dev.readBollard]

@[simp] theorem Dev.mode_freeBollard (d : Dev) (s b : Nat) (k : Nat) : (d.freeBollard s b).mode k = d.mode k := by simp [Dev.freeBollard]

@[simp] theorem Dev.mode_writeBlRel (d : Dev) (s b : Nat) (q : Requester) (v : Word) (k : Nat) :
    (d.writeBlRel s b q v).mode k = d.mode k := by simp [Dev.writeBlRel]

/-! ### Range invalidation (R243 to R246) -/

@[simp] theorem Dev.mode_walkEntry (a : Tables) (d : Dev) (s : Sock) (p : Fin 104) (k la : Nat) (κ : Nat) :
    (d.walkEntry a s p k la).mode κ = d.mode κ := by
  unfold Dev.walkEntry
  dsimp only
  (repeat' split) <;> simp

@[simp] theorem Dev.mode_walkGo (a : Tables) (d : Dev) (s : Sock) (p : Fin 104) (k : Nat) :
    (d.walkGo a s p).mode k = d.mode k := by simp [Dev.walkGo]

@[simp] theorem Dev.mode_walk (a : Tables) (d : Dev) (s : Sock) (p : Fin 104) (want : Nat → SEntry → Bool) (k : Nat) :
    (d.walk a s p want).2.mode k = d.mode k := by simp [Dev.walk]

@[simp] theorem Dev.mode_invalidate (a : Tables) (d : Dev) (s : Sock) (pods : List (Fin 104)) (lo hi : Nat) (way : Option Nat) (k : Nat) :
    (d.invalidate a s pods lo hi way).2.mode k = d.mode k := by simp [Dev.invalidate]

@[simp] theorem Dev.mode_runRinv (a : Tables) (d : Dev) (s : Sock) (pods : List (Fin 104)) (k : Nat) :
    (d.runRinv a s pods).mode k = d.mode k := by simp [Dev.runRinv]

/-! ### Way locks (R239 to R242) -/

@[simp] theorem Dev.mode_writeLock (t : Tables) (d : Dev) (s : Nat) (q : Requester) (pods : List (Fin 104)) (off lock : Nat) (k : Nat) :
    (d.writeLock t s q pods off lock).mode k = d.mode k := by simp [Dev.writeLock]

@[simp] theorem Dev.mode_lockLine (a : Tables) (d : Dev) (s : Sock) (p : Fin 104) (b la : Nat) (k : Nat) :
    (d.lockLine a s p b la).2.mode k = d.mode k := by
  unfold Dev.lockLine
  dsimp only
  (repeat' split) <;> simp

@[simp] theorem Dev.mode_lockFill (a : Tables) (d : Dev) (s : Sock) (pods : List (Fin 104)) (k : Nat) :
    (d.lockFill a s pods).mode k = d.mode k := by
  unfold Dev.lockFill
  apply Dev.mode_each
  intro d p
  extract_lets +onlyGivenNames l cmd lo hi b finish
  have ends (d : Dev) (st : Nat) : (finish d st).mode k = d.mode k := by simp [finish]
  clear_value finish
  split
  · rfl
  · split
    · exact ends ..
    · split
      · exact ends ..
      · split
        · exact ends ..
        · dsimp only
          rw [ends, Dev.mode_setReg, Dev.mode_foldl_part (fun x : Nat × Nat × Dev => x.2.2)]
          · intro x y
            split <;> simp
          · simp

/-! ### The home map (R247, R248) -/

@[simp] theorem Dev.mode_releaseHolds (a : Tables) (d : Dev) (s : Sock) (k : Nat) :
    (d.releaseHolds a s).mode k = d.mode k := by simp [Dev.releaseHolds]

@[simp] theorem Dev.mode_writeHmap (a : Tables) (d : Dev) (s : Sock) (e : Nat) (v : Word) (k : Nat) :
    (d.writeHmap a s e v).mode k = d.mode k := by simp [Dev.writeHmap]

@[simp] theorem Dev.mode_fenceDone (d : Dev) (s : Sock) (p : Fin 104) (k : Nat) :
    (d.fenceDone s p).mode k = d.mode k := by simp [Dev.fenceDone]

@[simp] theorem Dev.mode_fenceWay (a : Tables) (d : Dev) (s : Sock) (p : Fin 104) (w : Nat) (k : Nat) :
    (d.fenceWay a s p w).mode k = d.mode k := by simp [Dev.fenceWay]

@[simp] theorem Dev.mode_unfenceWay (d : Dev) (s : Sock) (p : Fin 104) (w : Nat) (k : Nat) :
    (d.unfenceWay s p w).mode k = d.mode k := by simp [Dev.unfenceWay]

/-! ### Pages -/

@[simp] theorem Dev.mode_writePage (d : Dev) (loc : Nat) (ls : List MLine) (k : Nat) : (d.writePage loc ls).mode k = d.mode k := by
  unfold Dev.writePage
  apply Dev.mode_foldl
  intro d i
  dsimp only
  split <;> simp

@[simp] theorem Dev.mode_movePage (a : Tables) (d : Dev) (s hub src dst : Nat) (k : Nat) :
    (d.movePage a s hub src dst).mode k = d.mode k := by simp [Dev.movePage]

@[simp] theorem Dev.mode_zeroRaw (d : Dev) (lo hi : Nat) (k : Nat) : (d.zeroRaw lo hi).mode k = d.mode k := by simp [Dev.zeroRaw]

@[simp] theorem Dev.mode_zeroFill (d : Dev) (s lo hi : Nat) (k : Nat) : (d.zeroFill s lo hi).mode k = d.mode k := by simp [Dev.zeroFill]

/-! ### Copies (R340, R342) -/

@[simp] theorem Dev.mode_unblock (d : Dev) (s hub : Nat) (k : Nat) : (d.unblock s hub).mode k = d.mode k := by simp [Dev.unblock]

@[simp] theorem Dev.mode_showHub (d : Dev) (s hub : Nat) (k : Nat) : (d.showHub s hub).mode k = d.mode k := by simp [Dev.showHub]

@[simp] theorem Dev.mode_moveHeat (d : Dev) (t : Tier) (c : TCopy) (e' : REnt) (k : Nat) :
    (d.moveHeat t c e').mode k = d.mode k := by simp [Dev.moveHeat]

@[simp] theorem Dev.mode_copyWrite (a : Tables) (d : Dev) (s hub i : Nat) (k : Nat) : (d.copyWrite a s hub i).mode k = d.mode k := by
  unfold Dev.copyWrite
  dsimp only
  (repeat' split) <;> simp

/-! ### Epochs (R341) -/

@[simp] theorem Dev.mode_threshStart (d : Dev) (s b : Nat) (k : Nat) : (d.threshStart s b).mode k = d.mode k := by simp [Dev.threshStart]

/-! ### Draining and modes (R345, R346) -/

@[simp] theorem Dev.mode_drainFrame (a : Tables) (d : Dev) (t : Tier) (f : Nat) (k : Nat) :
    (d.drainFrame a t f).mode k = d.mode k := by simp [Dev.drainFrame]

@[simp] theorem Dev.mode_rewriteSet (t : Tables) (d : Dev) (s hub b set k : Nat) : (d.rewriteSet t s hub b set).mode k = d.mode k := by
  unfold Dev.rewriteSet
  dsimp only
  split
  · rfl
  · rw [Dev.mode_each, Dev.mode_putRaw]
    intro d x
    split
    · apply Dev.mode_foldl
      intro d w
      exact d.mode_mk ..
    · exact d.mode_mk ..

@[simp] theorem Dev.mode_drainBerth (a : Tables) (d : Dev) (s hub b k : Nat) : (d.drainBerth a s hub b).mode k = d.mode k := by
  unfold Dev.drainBerth
  extract_lets +onlyGivenNames d1 d2
  have h1 : d1.mode k = d.mode k := by
    apply Dev.mode_foldl
    intro d i
    split <;> simp
  have h2 : d2.mode k = d.mode k := by simp [d2, h1]
  clear_value d2
  dsimp only
  split <;> simp [h2]

@[simp] theorem Dev.mode_writeDrain (a : Tables) (d : Dev) (s hub b : Nat) (v : Bool) (k : Nat) :
    (d.writeDrain a s hub b v).mode k = d.mode k := by simp [Dev.writeDrain]

@[simp] theorem Dev.mode_writeMode (t : Tables) (d : Dev) (s : Nat) (q : Requester) (b mode k : Nat) :
    (d.writeMode t s q b mode).mode k = d.mode k := by
  unfold Dev.writeMode
  extract_lets +onlyGivenNames old
  split
  · simp
  · extract_lets +onlyGivenNames d1
    have h1 : d1.mode k = d.mode k := by
      simp only [d1]
      split
      · apply Dev.mode_foldl
        intro d hub
        split <;> simp
      · rfl
    simp [h1]

/-! ### Runs (R347, R348) -/

@[simp] theorem Dev.mode_runPages (a : Tables) (d : Dev) (s hub r src dst n k : Nat) :
    (d.runPages a s hub r src dst n).mode k = d.mode k := by
  induction n generalizing d with
  | zero => rfl
  | succ n ih =>
    unfold Dev.runPages
    dsimp only
    split
    · simp [ih]
    · rfl

@[simp] theorem Dev.mode_moveStretch (a : Tables) (d : Dev) (s hub lo hi dst : Nat) (k : Nat) :
    (d.moveStretch a s hub lo hi dst).mode k = d.mode k := by simp [Dev.moveStretch]

@[simp] theorem Dev.mode_runCopy (a : Tables) (d : Dev) (s hub r src dst pages : Nat) (k : Nat) :
    (d.runCopy a s hub r src dst pages).mode k = d.mode k := by simp [Dev.runCopy]

@[simp] theorem Dev.mode_runStep (a : Tables) (d : Dev) (s hub r : Nat) (k : Nat) :
    (d.runStep a s hub r).mode k = d.mode k := by simp [Dev.runStep]

@[simp] theorem Dev.mode_runGo (a : Tables) (d : Dev) (s hub r : Nat) (k : Nat) :
    (d.runGo a s hub r).mode k = d.mode k := by simp [Dev.runGo]

/-! ### Evacuation of a unit (R349, R509) -/

@[simp] theorem Dev.mode_evacuate (a : Tables) (d : Dev) (s hub : Nat) (src len : Nat) (k : Nat) :
    (d.evacuate a s hub src len).mode k = d.mode k := by
  unfold Dev.evacuate
  dsimp only
  (repeat' split) <;> simp

/-! ### Repairs -/

@[simp] theorem Dev.mode_emptySets (a : Tables) (d : Dev) (s : Sock) (array agent : Nat) (hit : Nat → Bool) (k : Nat) :
    (d.emptySets a s array agent hit).mode k = d.mode k := by simp [Dev.emptySets]

@[simp] theorem Dev.mode_softRepair (a : Tables) (d : Dev) (s : Sock) (k : Nat) :
    (d.softRepair a s).mode k = d.mode k := by simp [Dev.softRepair]

/-! ### States -/

@[simp] theorem Dev.mode_setLink (d : Dev) (s k st : Nat) (κ : Nat) : (d.setLink s k st).mode κ = d.mode κ := by simp [Dev.setLink]

@[simp] theorem Dev.mode_linkDown (d : Dev) (s k : Nat) (κ : Nat) : (d.linkDown s k).mode κ = d.mode κ := by
  unfold Dev.linkDown
  dsimp only
  (repeat' split) <;> simp

/-! ### Training -/

@[simp] theorem Dev.mode_linkRetrain (d : Dev) (s k : Nat) (κ : Nat) : (d.linkRetrain s k).mode κ = d.mode κ := by simp [Dev.linkRetrain]

@[simp] theorem Dev.mode_linkDisable (d : Dev) (s k : Nat) (v : Bool) (κ : Nat) :
    (d.linkDisable s k v).mode κ = d.mode κ := by simp [Dev.linkDisable]

/-! ### Interrupts -/

@[simp] theorem Dev.mode_wake (d : Dev) (h : Hart) (k : Nat) : (d.wake h).mode k = d.mode k := by simp [Dev.wake]

@[simp] theorem Dev.mode_raise (d : Dev) (h : Hart) (n : Nat) (k : Nat) : (d.raise h n).mode k = d.mode k := by simp [Dev.raise]

@[simp] theorem Dev.mode_ringWake (d : Dev) (s r : Nat) (k : Nat) : (d.ringWake s r).mode k = d.mode k := by
  unfold Dev.ringWake
  split <;> simp

@[simp] theorem Dev.mode_interrupt (t : Tables) (d : Dev) (s off len : Nat) (data : BitVec 32) (berth master : Nat) (poisoned : Bool)
    (k : Nat) : (d.interrupt t s off len data berth master poisoned).mode k = d.mode k := by
  unfold Dev.interrupt
  dsimp only
  (repeat' split) <;> simp

/-! ### Configuration space (R405; layout of the capabilities: assumption log 14) -/

@[simp] theorem Dev.mode_setFnCfg (d : Dev) (s e f w : Nat) (v : BitVec 32) (k : Nat) :
    (d.setFnCfg s e f w v).mode k = d.mode k := by simp [Dev.setFnCfg]

/-! ### MSI-X (R412) -/

@[simp] theorem Dev.mode_msixSend (t : Tables) (d : Dev) (s e f v : Nat) (k : Nat) :
    (d.msixSend t s e f v).mode k = d.mode k := by simp [Dev.msixSend]

@[simp] theorem Dev.mode_msixRaise (t : Tables) (d : Dev) (s e f v : Nat) (k : Nat) :
    (d.msixRaise t s e f v).mode k = d.mode k := by simp [Dev.msixRaise]

@[simp] theorem Dev.mode_msixAll (t : Tables) (d : Dev) (s e f : Nat) (k : Nat) :
    (d.msixAll t s e f).mode k = d.mode k := by simp [Dev.msixAll]

/-! ### Addresses -/

@[simp] theorem Dev.mode_portSend (d : Dev) (s p addr : Nat) (write : Bool) (bytes : List Byte) (k : Nat) :
    (d.portSend s p addr write bytes).mode k = d.mode k := by simp [Dev.portSend]

@[simp] theorem Dev.mode_deviceBytes (d : Dev) (n : Nat) (k : Nat) : (d.deviceBytes n).2.mode k = d.mode k := by simp [Dev.deviceBytes]

@[simp] theorem Dev.mode_ferryWrite (a : Tables) (d : Dev) (s e f addr : Nat) (bs : List Byte) (k : Nat) :
    (d.ferryWrite a s e f addr bs).2.mode k = d.mode k := by
  unfold Dev.ferryWrite
  split <;> simp

/-! ### Queues (R401 to R403) -/

@[simp] theorem Dev.mode_setQState (d : Dev) (s fk i st status : Nat) (k : Nat) :
    (d.setQState s fk i st status).mode k = d.mode k := by simp [Dev.setQState]

@[simp] theorem Dev.mode_halt (d : Dev) (s fk i status : Nat) (k : Nat) : (d.halt s fk i status).mode k = d.mode k := by simp [Dev.halt]

@[simp] theorem Dev.mode_qShow (d : Dev) (s fk i : Nat) (k : Nat) : (d.qShow s fk i).mode k = d.mode k := by simp [Dev.qShow]

@[simp] theorem Dev.mode_showSlots (t : Tables) (d : Dev) (s e : Nat) (k : Nat) :
    (d.showSlots t s e).mode k = d.mode k := by simp [Dev.showSlots]

@[simp] theorem Dev.mode_writeRecord (a : Tables) (d : Dev) (s e f i : Nat) (x : Desc) (k : Nat) :
    (d.writeRecord a s e f i x).2.mode k = d.mode k := by
  unfold Dev.writeRecord
  dsimp only
  split
  · simp
  · split
    · next e' => simp [Dev.mode_of_eq e' k]
    · next e' => simp [Dev.mode_of_eq e' k]

@[simp] theorem Dev.mode_writeDb (d : Dev) (s e f i tail : Nat) (k : Nat) :
    (d.writeDb s e f i tail).mode k = d.mode k := by simp [Dev.writeDb]

@[simp] theorem Dev.mode_writeQc (d : Dev) (s e f i : Nat) (v : Word) (k : Nat) :
    (d.writeQc s e f i v).mode k = d.mode k := by simp [Dev.writeQc]

/-! ### Bus Master Enable (R409) -/

@[simp] theorem Dev.mode_bmeClear (t : Tables) (d : Dev) (s e f : Nat) (k : Nat) :
    (d.bmeClear t s e f).mode k = d.mode k := by simp [Dev.bmeClear]

@[simp] theorem Dev.mode_heldGo (a : Tables) (d : Dev) (s e f : Nat) (l : List (Nat × Desc)) (k : Nat) :
    (d.heldGo a s e f l).mode k = d.mode k := by
  induction l generalizing d with
  | nil => rfl
  | cons x r ih =>
    unfold Dev.heldGo
    dsimp only
    split
    · next e' => simp [Dev.mode_of_eq e' k]
    · next e' => simp [ih, Dev.mode_of_eq e' k]

@[simp] theorem Dev.mode_bmeSet (a : Tables) (d : Dev) (s e f : Nat) (k : Nat) :
    (d.bmeSet a s e f).mode k = d.mode k := by simp [Dev.bmeSet]

/-! ### Peer windows (R415, R416) -/

@[simp] theorem Dev.mode_commitWindows (a : Tables) (d : Dev) (s e f : Nat) (k : Nat) :
    (d.commitWindows a s e f).mode k = d.mode k := by simp [Dev.commitWindows]

/-! ### Tags and time-outs (R413, R414) -/

@[simp] theorem Dev.mode_showTags (d : Dev) (s fk : Nat) (k : Nat) : (d.showTags s fk).mode k = d.mode k := by simp [Dev.showTags]

/-! ### Function-level and engine reset (R417 to R419) -/

@[simp] theorem Dev.mode_fnReset (d : Dev) (s e f : Nat) (k : Nat) : (d.fnReset s e f).mode k = d.mode k := by simp [Dev.fnReset]

@[simp] theorem Dev.mode_flrStart (t : Tables) (d : Dev) (s e f : Nat) (k : Nat) :
    (d.flrStart t s e f).mode k = d.mode k := by simp [Dev.flrStart]

@[simp] theorem Dev.mode_engineDone (d : Dev) (s e : Nat) (k : Nat) : (d.engineDone s e).mode k = d.mode k := by simp [Dev.engineDone]

@[simp] theorem Dev.mode_engineReset (t : Tables) (d : Dev) (s e : Nat) (k : Nat) :
    (d.engineReset t s e).mode k = d.mode k := by simp [Dev.engineReset]

@[simp] theorem Dev.mode_fenceEngine (d : Dev) (s e : Nat) (k : Nat) : (d.fenceEngine s e).mode k = d.mode k := by simp [Dev.fenceEngine]

@[simp] theorem Dev.mode_admitEngine (t : Tables) (d : Dev) (s e : Nat) (k : Nat) :
    (d.admitEngine t s e).mode k = d.mode k := by simp [Dev.admitEngine]

end Sys2Proof.Machine
end

section
/-! The mode through the fault collector, the host bus, the power domains and the device targets: a socket at rest stays in its mode. -/

namespace Sys2Proof.Machine

/-! ### Latch and queue (R382, R383) -/

@[simp] theorem Dev.mode_showQueue (d : Dev) (s : Nat) (k : Nat) : (d.showQueue s).mode k = d.mode k := by simp [Dev.showQueue]

@[simp] theorem Dev.mode_popFault (d : Dev) (s : Nat) (k : Nat) : (d.popFault s).mode k = d.mode k := by simp [Dev.popFault]

/-! ### CORE and POD reset (R508, R513) -/

@[simp] theorem Dev.mode_resetCores (a : Tables) (d : Dev) (hs : List Hart) (k : Nat) : (d.resetCores a hs).mode k = d.mode k := by
  unfold Dev.resetCores
  dsimp only
  (repeat' split) <;> simp

@[simp] theorem Dev.mode_coreReset (a : Tables) (d : Dev) (h : Hart) (k : Nat) :
    (d.coreReset a h).mode k = d.mode k := by simp [Dev.coreReset]

@[simp] theorem Dev.mode_podReset (a : Tables) (d : Dev) (s : Sock) (pod : Nat) (k : Nat) :
    (d.podReset a s pod).mode k = d.mode k := by simp [Dev.podReset]

/-! ### DEGRADED RUN (R387) -/

@[simp] theorem Dev.mode_showSpares (d : Dev) (s : Nat) (k : Nat) : (d.showSpares s).mode k = d.mode k := by simp [Dev.showSpares]

theorem Dev.mode_degrade {d : Dev} {k : Nat} (h : restMode (d.mode k)) (s : Nat) : (d.degrade s).mode k = d.mode k := by
  unfold Dev.degrade
  extract_lets +onlyGivenNames d1 n d2
  have h2 : d2.mode k = d.mode k := by simp [d2, d1]
  clear_value d2
  split
  · next runs =>
    have apart : k ≠ s := by
      rintro rfl
      obtain ⟨run, degraded, _⟩ := h
      simp [Dev.runs, h2, run, degraded] at runs
    rw [Dev.setFld, Dev.mode_setReg_elsewhere _ _ _ _ _ apart, h2]
  · exact h2

/-! ### Fencing units (R386) -/

@[simp] theorem Dev.mode_portLoadsEnd (d : Dev) (s p : Nat) (k : Nat) : (d.portLoadsEnd s p).mode k = d.mode k := by simp [Dev.portLoadsEnd]

theorem Dev.mode_setFld_ckPod (d : Dev) (s : Nat) {p : Nat} (hp : p < 512) (hi lo v k : Nat) :
    (d.setFld s .ckPod p 0 hi lo v).mode k = d.mode k := by
  apply Dev.mode_setReg_apart
  right
  show 0x3002000 ≠ 0x3001000 + p * 0x8 + 0 * 0
  omega

@[simp] theorem Dev.mode_showStep (a : Tables) (d : Dev) (s p k : Nat) (hp : p < 512) : (d.showStep a s p).mode k = d.mode k := by
  simp [Dev.showStep, Dev.mode_setFld_ckPod d s hp]

@[simp] theorem Dev.mode_gatePod (a : Tables) (d : Dev) (s : Sock) (pod k : Nat) (hp : pod < 512) :
    (d.gatePod a s pod).mode k = d.mode k := by
  unfold Dev.gatePod
  rw [Dev.mode_setFld_ckPod _ _ hp]
  simp

theorem podOf_lt (h : Hart) : podOf h < 512 := by
  have := h.core.isLt
  unfold podOf
  omega

@[simp] theorem Dev.mode_fenceCore (a : Tables) (d : Dev) (h : Hart) (k : Nat) : (d.fenceCore a h).mode k = d.mode k := by
  unfold Dev.fenceCore
  simp [Dev.mode_gatePod _ _ _ _ _ (podOf_lt h)]

@[simp] theorem Dev.mode_admitCore (a : Tables) (d : Dev) (h : Hart) (k : Nat) : (d.admitCore a h).mode k = d.mode k := by
  unfold Dev.admitCore
  simp [Dev.mode_showStep _ _ _ _ _ (podOf_lt h)]

@[simp] theorem Dev.mode_fenceUnit (a : Tables) (d : Dev) (s src sub : Nat) (k : Nat) : (d.fenceUnit a s src sub).mode k = d.mode k := by
  unfold Dev.fenceUnit
  dsimp only
  (repeat' split) <;> simp

@[simp] theorem Dev.mode_admitUnit (a : Tables) (d : Dev) (s src sub : Nat) (k : Nat) : (d.admitUnit a s src sub).mode k = d.mode k := by
  unfold Dev.admitUnit
  dsimp only
  (repeat' split) <;> simp

/-! ### The fence table (R388, R389) -/

@[simp] theorem Dev.mode_setQuiet (d : Dev) (s n : Nat) (on : Bool) (k : Nat) :
    (d.setQuiet s n on).mode k = d.mode k := by simp [Dev.setQuiet]

@[simp] theorem Dev.mode_recordFence (d : Dev) (s src sub : Nat) (on : Bool) (k : Nat) :
    (d.recordFence s src sub on).mode k = d.mode k := by simp [Dev.recordFence]

@[simp] theorem Dev.mode_podReturns (a : Tables) (d : Dev) (s pod k : Nat) : (d.podReturns a s pod).mode k = d.mode k := by
  unfold Dev.podReturns
  dsimp only
  split
  · rfl
  · next c =>
    have hp : pod < 512 := by
      simp only [Bool.or_eq_true, decide_eq_true_eq, not_or] at c
      omega
    simp [hp]

theorem Dev.mode_setFld_fcFenceA (d : Dev) (s : Nat) {n : Nat} (hn : n < 512) (hi lo v k : Nat) :
    (d.setFld s .fcFenceA n 0 hi lo v).mode k = d.mode k :=
  d.mode_setReg_ne s (by decide) hn Nat.zero_lt_one _ k

theorem Dev.mode_admitEntry {d : Dev} {k : Nat} (h : restMode (d.mode k)) (a : Tables) (s : Nat) {n : Nat} (hn : n < 512) :
    (d.admitEntry a s n).mode k = d.mode k := by
  have cell (d : Dev) (hi lo v : Nat) := d.mode_setFld_fcFenceA s hn hi lo v k
  unfold Dev.admitEntry
  dsimp only
  rw [Dev.mode_degrade] <;> simp [Dev.bump, cell, h]

theorem Dev.mode_writeFence {d : Dev} {k : Nat} (h : restMode (d.mode k)) (a : Tables) (s : Nat) {n : Nat} (hn : n < 512) (st : Nat) :
    (d.writeFence a s n st).mode k = d.mode k := by
  have cell (d : Dev) (v : Word) : (d.setReg s .fcFenceA n 0 v).mode k = d.mode k :=
    d.mode_setReg_ne s (by decide) hn Nat.zero_lt_one v k
  unfold Dev.writeFence
  dsimp only
  split
  · rfl
  · split
    · split
      · rw [Dev.mode_degrade] <;> simp [cell, h]
      · rfl
    · split
      · exact Dev.mode_admitEntry h a s hn
      · rw [Dev.mode_degrade] <;> simp [d.mode_setFld_fcFenceA s hn, h]

/-! ### Accepting a message -/

@[simp] theorem Dev.mode_firstRearm (d : Dev) (s : Nat) (k : Nat) : (d.firstRearm s).mode k = d.mode k := by simp [Dev.firstRearm]

@[simp] theorem Dev.mode_logRearm (d : Dev) (s src : Nat) (k : Nat) : (d.logRearm s src).mode k = d.mode k := by simp [Dev.logRearm]

/-! ### Root ports (R420, R423) -/

@[simp] theorem Dev.mode_setPortCfg (d : Dev) (s p w : Nat) (v : BitVec 32) (k : Nat) :
    (d.setPortCfg s p w v).mode k = d.mode k := by simp [Dev.setPortCfg]

/-! ### Hot-plug, removal, containment, keys (R427, R428, R421) -/

@[simp] theorem Dev.mode_writeIde (d : Dev) (s p slot i : Nat) (v : Word) (k : Nat) :
    (d.writeIde s p slot i v).mode k = d.mode k := by simp [Dev.writeIde]

/-! ### Configuration space (R541, R407) -/

@[simp] theorem Dev.mode_cfgRead (d : Dev) (s off : Nat) (k : Nat) : (d.cfgRead s off).2.mode k = d.mode k := by
  unfold Dev.cfgRead
  split <;> simp

@[simp] theorem Dev.mode_portCfgWrite (d : Dev) (s p w : Nat) (q : Requester) (v : BitVec 32) (k : Nat) :
    (d.portCfgWrite s p w q v).mode k = d.mode k := by simp [Dev.portCfgWrite]

@[simp] theorem Dev.mode_fnCfgWrite (a : Tables) (d : Dev) (s e f w : Nat) (q : Requester) (v : BitVec 32) (k : Nat) :
    (d.fnCfgWrite a s e f w q v).mode k = d.mode k := by simp [Dev.fnCfgWrite]

@[simp] theorem Dev.mode_cfgWrite (a : Tables) (d : Dev) (s off : Nat) (q : Requester) (v : BitVec 32) (k : Nat) :
    (d.cfgWrite a s off q v).mode k = d.mode k := by
  unfold Dev.cfgWrite
  split <;> simp

/-! ### BAR0 of a ferry function (R406) -/

@[simp] theorem Dev.mode_barWrite (a : Tables) (d : Dev) (s e f o : Nat) (v : Word) (k : Nat) :
    (d.barWrite a s e f o v).mode k = d.mode k := by
  unfold Dev.barWrite
  dsimp only
  split
  · simp
  · split
    · simp
    · simp
    · simp
    · simp
    · next found =>
      apply Dev.mode_setReg_apart
      obtain ⟨_, _, bar, _⟩ := Reg.bounds_of_find found
      exact .inl bar
    · rfl

/-! ### The integrated region (R407, R541) -/

@[simp] theorem Dev.mode_integratedOk (t : Tables) (d : Dev) (q : Requester) (s off access : Nat) (k : Nat) :
    (d.integratedOk t q s off access).2.mode k = d.mode k := by
  unfold Dev.integratedOk
  dsimp only
  (repeat' split) <;> simp

@[simp] theorem Dev.mode_integratedRead (t : Tables) (d : Dev) (q : Requester) (s off n k : Nat) :
    (d.integratedRead t q s off n).2.mode k = d.mode k := by
  unfold Dev.integratedRead
  split
  · next e => simp [Dev.mode_of_eq e k]
  · next e =>
    split
    · dsimp only
      split <;> simp [Dev.mode_of_eq e k]
    · dsimp only
      split <;> simp [Dev.mode_of_eq e k]

@[simp] theorem Dev.mode_integratedWrite (a : Tables) (d : Dev) (q : Requester) (s off n : Nat) (v : Word) (k : Nat) :
    (d.integratedWrite a q s off n v).mode k = d.mode k := by
  unfold Dev.integratedWrite
  split
  · next e => simp [Dev.mode_of_eq e k]
  · next e =>
    have h := (Dev.mode_of_eq e k).trans (d.mode_integratedOk a q s off 8 k)
    split
    · split
      · simp [h]
      · dsimp only
        split <;> simp [h]
    · simp [h]

/-! ### Uncore units -/

@[simp] theorem Dev.mode_uncBerth (d : Dev) (s : Nat) (cfg cnt : Reg) (u i b k : Nat) (hcfg : cfg ∉ Reg.nearMode) (hcnt :
    cnt ∉ Reg.nearMode) :
    (d.uncBerth s cfg cnt u i b).mode k = d.mode k := by
  unfold Dev.uncBerth
  rw [Dev.mode_setReg _ _ _ _ _ _ _ hcnt, Dev.mode_setReg _ _ _ _ _ _ _ hcfg]

@[simp] theorem Dev.mode_writeUncCfg (d : Dev) (s : Nat) (cfg cnt : Reg) (u i : Nat) (berthView : Bool) (v : Word) (k : Nat)
    (hcfg : cfg ∉ Reg.nearMode) (hcnt : cnt ∉ Reg.nearMode) : (d.writeUncCfg s cfg cnt u i berthView v).mode k = d.mode k := by
  unfold Dev.writeUncCfg
  dsimp only
  rw [Dev.mode_ite, Dev.mode_uncBerth _ _ _ _ _ _ _ _ hcfg hcnt, ite_self, Dev.mode_setReg _ _ _ _ _ _ _ hcfg]

/-! ### Snapshots (R451 to R455) -/

@[simp] theorem Dev.mode_setSnap (d : Dev) (s b : Nat) (x : Snap) (k : Nat) : (d.setSnap s b x).mode k = d.mode k := by simp [Dev.setSnap]

@[simp] theorem Dev.mode_writeSnapCfg (t : Tables) (d : Dev) (s b : Nat) (q : Requester) (v : Word) (k : Nat) :
    (d.writeSnapCfg t s b q v).mode k = d.mode k := by simp [Dev.writeSnapCfg]

/-! ### MAINTAIN (R472, R474) -/

@[simp] theorem Dev.mode_badMode (d : Dev) (s : Nat) (k : Nat) : (d.badMode s).mode k = d.mode k := by simp [Dev.badMode]

/-- A socket that does not run does not enter MAINTAIN. -/
theorem Dev.mode_enterMaintain {d : Dev} {k : Nat} (h : restMode (d.mode k)) (a : Tables) (s : Sock) :
    (d.enterMaintain a s).mode k = d.mode k := by
  unfold Dev.enterMaintain
  split
  · simp
  · next runs =>
    have apart : k ≠ s.val := by
      rintro rfl
      obtain ⟨run, degraded, _⟩ := h
      simp [Dev.runs, run, degraded] at runs
    dsimp only
    rw [Dev.setFld, Dev.mode_setReg_elsewhere _ _ _ _ _ apart]
    simp

/-- Only a socket in MAINTAIN leaves it. -/
theorem Dev.mode_leaveMaintain {d : Dev} {k : Nat} (h : restMode (d.mode k)) (s : Nat) : (d.leaveMaintain s).mode k = d.mode k := by
  unfold Dev.leaveMaintain
  split
  · simp
  · next maintains =>
    have apart : k ≠ s := by
      rintro rfl
      exact maintains h.2.2
    have moved (v : Nat) : (d.setFld s .pwMode 0 0 2 0 v).mode k = d.mode k := d.mode_setReg_elsewhere _ _ _ _ apart
    dsimp only
    rw [Dev.mode_degrade] <;> simp [moved, h]

theorem Dev.mode_writeModeReq {d : Dev} {k : Nat} (h : restMode (d.mode k)) (a : Tables) (s : Sock) (req : Nat) :
    (d.writeModeReq a s req).mode k = d.mode k := by
  unfold Dev.writeModeReq
  split
  · exact Dev.mode_enterMaintain h a s
  · split
    · exact Dev.mode_leaveMaintain h s
    · simp

/-! ### Power domains (R469, R470) -/

@[simp] theorem Dev.mode_domainOff (d : Dev) (s i : Nat) (k : Nat) : (d.domainOff s i).mode k = d.mode k := by
  unfold Dev.domainOff
  dsimp only
  (repeat' split) <;> simp

@[simp] theorem Dev.mode_domainOn (d : Dev) (s i : Nat) (k : Nat) : (d.domainOn s i).mode k = d.mode k := by
  unfold Dev.domainOn
  split <;> simp

@[simp] theorem Dev.mode_domainSet (t : Tables) (d : Dev) (s set k : Nat) : (d.domainSet t s set).mode k = d.mode k := by
  unfold Dev.domainSet
  dsimp only
  rw [Dev.mode_foldl, Dev.mode_foldl]
  · simp
  all_goals
    intro d i
    simp

/-! ### GO (R508) -/

@[simp] theorem Dev.mode_coreGo (t : Tables) (d : Dev) (h : Hart) (k : Nat) : (d.coreGo t h).mode k = d.mode k := by simp [Dev.coreGo]

@[simp] theorem Dev.mode_writeCoreCtl (a : Tables) (d : Dev) (h : Hart) (v : Word) (k : Nat) :
    (d.writeCoreCtl a h v).mode k = d.mode k := by simp [Dev.writeCoreCtl]

/-! ### Commands of the register space -/

@[simp] theorem Dev.mode_regNote (d : Dev) (s : Nat) (q : Requester) (off : Nat) (k : Nat) :
    (d.regNote s q off).mode k = d.mode k := by simp [Dev.regNote]

@[simp] theorem Dev.mode_dropNote (d : Dev) (s : Nat) (q : Requester) (off : Nat) (k : Nat) :
    (d.dropNote s q off).mode k = d.mode k := by simp [Dev.dropNote]

/-! ### The views -/

@[simp] theorem Dev.mode_regRead (a : Admin) (d : Dev) (s : Nat) (q : Requester) (off : Nat) (k : Nat) :
    (d.regRead a s q off).2.mode k = d.mode k := by
  unfold Dev.regRead
  dsimp only
  (repeat' split) <;> simp

/-! ### Attestation (R495 to R497) -/

@[simp] theorem Dev.mode_attest (a : Admin) (d : Dev) (s b k : Nat) : (d.attest a s b).mode k = d.mode k := by
  simp [Dev.attest]

@[simp] theorem Dev.mode_writeAttest (a : Admin) (d : Dev) (s b : Nat) (v : Word) (k : Nat) :
    (d.writeAttest a s b v).mode k = d.mode k := by simp [Dev.writeAttest]

/-! ### Writes -/

@[simp] theorem Dev.mode_writePolicy (t : Tables) (d : Dev) (s b : Nat) (q : Requester) (v : Word) (k : Nat) :
    (d.writePolicy t s b q v).mode k = d.mode k := by simp [Dev.writePolicy]

@[simp] theorem Dev.mode_writeLinkCtl (d : Dev) (s k : Nat) (locked : Bool) (v : Word) (κ : Nat) :
    (d.writeLinkCtl s k locked v).mode κ = d.mode κ := by simp [Dev.writeLinkCtl]

@[simp] theorem Dev.mode_xdirClear (d : Dev) (s hub : Nat) (k : Nat) : (d.xdirClear s hub).mode k = d.mode k := by simp [Dev.xdirClear]

theorem Dev.mode_writeSev (a : Tables) (d : Dev) (s : Nat) {src : Nat} (h : src < 4096) (v : Word) (k : Nat) :
    (d.writeSev a s src v).mode k = d.mode k := by
  unfold Dev.writeSev
  dsimp only
  rw [Dev.mode_ite, Dev.mode_force _ _ _ h, ite_self]
  exact d.mode_setReg_ne s (by decide) h Nat.zero_lt_one _ k

@[simp] theorem Dev.mode_writeRepair (a : Tables) (d : Dev) (s : Sock) (v : Word) (k : Nat) :
    (d.writeRepair a s v).mode k = d.mode k := by simp [Dev.writeRepair]

@[simp] theorem Dev.mode_writeLockCmd (a : Tables) (d : Dev) (s : Sock) (pods : List (Fin 104)) (v : Word) (k : Nat) :
    (d.writeLockCmd a s pods v).mode k = d.mode k := by simp [Dev.writeLockCmd]

@[simp] theorem Dev.mode_writeRinvCmd (a : Tables) (d : Dev) (s : Sock) (pods : List (Fin 104)) (v : Word) (k : Nat) :
    (d.writeRinvCmd a s pods v).mode k = d.mode k := by simp [Dev.writeRinvCmd]

theorem Dev.mode_writeSlice (a : Tables) (d : Dev) (s : Nat) (q : Requester) (pods : List (Fin 104)) {r : Reg} (h :
    0x3002000 < r.place.base)
    (off : Nat) (v : Word) (k : Nat) : (d.writeSlice a s q pods r off v).mode k = d.mode k := by
  unfold Dev.writeSlice
  split
  · simp
  · simp
  · simp
  · apply Dev.mode_each
    intro d p
    exact d.mode_setReg_above s h ..

theorem Dev.mode_regStore {d : Dev} {k : Nat} (h : restMode (d.mode k)) (a : Admin) (s : Nat) (q : Requester) {r : Reg} {i j : Nat}
    (hi : i < r.place.c1) (hj : j < r.place.c2) (off : Nat) (v : Word) : (d.regStore a s q r i j off v).2.mode k = d.mode k := by
  have plain (n : r ≠ .pwMode) (w : Word) : (d.setReg s r i j w).mode k = d.mode k := d.mode_setReg_ne s n hi hj w k
  unfold Dev.regStore
  dsimp only
  split
  case h_13 =>
    split
    · exact Dev.mode_writeFence h _ s hi _
    · rfl
  case h_14 => exact d.mode_writeSev _ s hi v k
  case h_15 => exact Dev.mode_writeModeReq h _ _ _
  case h_17 | h_18 | h_19 | h_20 | h_21 | h_22 | h_23 =>
    split
    · exact d.mode_writeSlice _ s q _ (by decide) off v k
    · rfl
  case h_25 => split <;> simp
  case h_40 => exact plain (by assumption) _
  all_goals simp [plain]

/-- What the register space shows at an offset lies within the array of its register. -/
theorem bounds_of_regAt {off : Nat} {r : Reg} {i j : Nat} (e : regAt off = some (r, i, j)) : i < r.place.c1 ∧ j < r.place.c2 := by
  unfold regAt at e
  split at e
  · next found =>
    obtain ⟨hi, hj, _⟩ := Reg.bounds_of_find found
    split at e
    · cases e
      exact ⟨hi, hj⟩
    · nomatch e
  · nomatch e

/-- The broadcast block holds registers of the landings. -/
theorem base_of_broadcastReg {off : Nat} {r : Reg} (e : broadcastReg off = some r) : 0x3002000 < r.place.base := by
  unfold broadcastReg at e
  split at e
  · split at e
    · split at e
      · next found =>
        cases e
        obtain ⟨_, _, _, place⟩ := Reg.bounds_of_find found
        simp only [Reg.at] at place
        omega
      · nomatch e
    · nomatch e
  · nomatch e

theorem Dev.mode_regWrite {d : Dev} {k : Nat} (h : restMode (d.mode k)) (a : Admin) (s : Nat) (q : Requester) (off : Nat) (v : Word) :
    (d.regWrite a s q off v).2.mode k = d.mode k := by
  unfold Dev.regWrite
  dsimp only
  split
  · simp
  · split
    · next e =>
      obtain ⟨hi, hj⟩ := bounds_of_regAt e
      split
      · simp
      · split
        · simp
        · rw [Dev.mode_regStore _ a s q hi hj] <;> simp [h]
    · split
      · simp
      · split
        · simp
        · rfl
        · split
          · next e => exact d.mode_writeSlice _ s q _ (base_of_broadcastReg e) off v k
          · rfl

theorem Dev.mode_regStoreSized {d : Dev} {k : Nat} (h : restMode (d.mode k)) (a : Admin) (s : Nat) (q : Requester) (off size : Nat)
    (v : Word) : (d.regStoreSized a s q off size v).2.mode k = d.mode k := by
  unfold Dev.regStoreSized
  split
  · simp
  · exact Dev.mode_regWrite h a s q off v

@[simp] theorem Dev.mode_regLoad (a : Admin) (d : Dev) (s : Nat) (q : Requester) (off n : Nat) (k : Nat) :
    (d.regLoad a s q off n).2.mode k = d.mode k := by simp [Dev.regLoad]

/-! ### Device targets -/

@[simp] theorem Dev.mode_drdData (d : Dev) (m : Msg) (v : Line) (k : Nat) : (d.drdData m v).mode k = d.mode k := by simp [Dev.drdData]

@[simp] theorem Dev.mode_busAnswer (d : Dev) (m : Msg) (k : Nat) : (d.busAnswer m).mode k = d.mode k := by simp [Dev.busAnswer]

theorem Dev.mode_serveRegs {d : Dev} {k : Nat} (h : restMode (d.mode k)) (a : Admin) (s off : Nat) (m : Msg) :
    (d.serveRegs a s off m).mode k = d.mode k := by
  unfold Dev.serveRegs
  dsimp only
  split
  · simp
  · split
    · simp
    · rw [Dev.mode_ite, Dev.mode_busAnswer, Dev.mode_drdData, ite_self]
      apply Dev.mode_foldl_keeps Prod.snd _ _ rfl
      intro x i keeps
      exact (Dev.mode_regStoreSized (by rwa [keeps]) ..).trans keeps

@[simp] theorem Dev.mode_serveIntegrated (t : Tables) (d : Dev) (s off : Nat) (m : Msg) (k : Nat) :
    (d.serveIntegrated t s off m).mode k = d.mode k := by simp [Dev.serveIntegrated]

@[simp] theorem Dev.mode_servePort (d : Dev) (s p addr : Nat) (m : Msg) (k : Nat) :
    (d.servePort s p addr m).mode k = d.mode k := by simp [Dev.servePort]

theorem Dev.mode_serveTarget {d : Dev} {k : Nat} (h : restMode (d.mode k)) (a : Admin) (t : Sock) (m : Msg) :
    (d.serveTarget a t m).mode k = d.mode k := by
  unfold Dev.serveTarget
  dsimp only
  split
  · split <;> simp
  · split
    · simp
    · split
      · exact Dev.mode_serveRegs h a _ _ m
      · split
        · simp
        · split <;> simp
      · simp

theorem Dev.mode_serveAll {d : Dev} {k : Nat} (h : restMode (d.mode k)) (a : Admin) (fuel : Nat) :
    (d.serveAll a fuel).mode k = d.mode k := by
  induction fuel generalizing d with
  | zero => rfl
  | succ n ih =>
    unfold Dev.serveAll
    split
    · rfl
    · next m _ =>
      dsimp only
      split
      · next t _ =>
        have served := Dev.mode_serveTarget (d := { d with inbox := d.inbox.erase m }) (k := k) h a t m
        rw [ih] <;> rw [Dev.mode_quiesce, served]
        · rfl
        · exact h
      · simp

end Sys2Proof.Machine
end

section
/-! The mode through translation, traps and the retirement of instructions. -/

namespace Sys2Proof.Machine

/-! ### Loads by physical address -/

@[simp] theorem Dev.mode_loadPart (a : Tables) (fuel : Nat) (d : Dev) (h : Hart) (pa n : Nat) (waited old : Bool) (k : Nat) :
    (d.loadPart a fuel h pa n waited old).2.mode k = d.mode k := by
  induction fuel generalizing d waited with
  | zero => rfl
  | succ fuel ih =>
    unfold Dev.loadPart
    dsimp only
    split
    · split
      · next e => simp [ih, Dev.mode_of_eq e k]
      · next e => simp [Dev.mode_of_eq e k]
    · split
      · split
        · rfl
        · split
          · next e => simp [ih, Dev.mode_of_eq e k]
          · next e => simp [Dev.mode_of_eq e k]
      · split
        · next e => simp [Dev.mode_of_eq e k]
        · next e => simp [Dev.mode_of_eq e k]

/-! ### The store buffer's intake -/

@[simp] theorem Dev.mode_sbRoom (a : Tables) (fuel : Nat) (d : Dev) (h : Hart) (n k : Nat) :
    (d.sbRoom a fuel h n).2.mode k = d.mode k := by
  induction fuel generalizing d with
  | zero => rfl
  | succ fuel ih =>
    unfold Dev.sbRoom
    split
    · rfl
    · split
      · next e => simp [ih, Dev.mode_of_eq e k]
      · next e => simp [Dev.mode_of_eq e k]

/-! ### Translation -/

/-- A table walk keeps what its reads keep. -/
theorem mode_walkTable {rd : Dev → Nat → TRead × Dev} {k : Nat} (reads : ∀ d pa, (rd d pa).2.mode k = d.mode k) (fail : Flt)
    (ok : Word → Bool) (fuel table addr : Nat) (d : Dev) : (walkTable rd fail ok fuel table addr d).2.mode k = d.mode k := by
  induction fuel generalizing table d with
  | zero => rfl
  | succ n ih =>
    unfold walkTable
    dsimp only
    split
    · next e => simp [Dev.mode_of_eq e k, reads]
    · next e => simp [Dev.mode_of_eq e k, reads]
    · next e => simp [ih, Dev.mode_of_eq e k, reads]

@[simp] theorem Dev.mode_tableRead (a : Tables) (h : Hart) (va : Word) (d : Dev) (pa k : Nat) :
    (d.tableRead a h va pa).2.mode k = d.mode k := by
  unfold Dev.tableRead
  split
  · rfl
  · split
    · next e => simp [Dev.mode_of_eq e k]
    · next e => simp [Dev.mode_of_eq e k]

@[simp] theorem Dev.mode_stage2 (a : Tables) (d : Dev) (h : Hart) (va : Word) (ia : Nat) (acc : Access) (k : Nat) :
    (d.stage2 a h va ia acc).2.mode k = d.mode k :=
  mode_walkTable (fun d pa => d.mode_tableRead a h va pa k) ..

@[simp] theorem Dev.mode_tableRead2 (a : Tables) (h : Hart) (va : Word) (acc : Access) (d : Dev) (ia k : Nat) :
    (d.tableRead2 a h va acc ia).2.mode k = d.mode k := by
  unfold Dev.tableRead2
  split
  · rfl
  · split
    all_goals next e => simp [Dev.mode_of_eq e k]

@[simp] theorem Dev.mode_tlbFill (a : Tables) (d : Dev) (h : Hart) (lvl : Nat) (acc : Access) (va : Word) (e : TlbEntry) (size pa : Nat)
    (k : Nat) : (d.tlbFill a h lvl acc va e size pa).2.mode k = d.mode k := by simp [Dev.tlbFill]

@[simp] theorem Dev.mode_translate (a : Tables) (d : Dev) (h : Hart) (lvl : Nat) (acc : Access) (va : Word) (k : Nat) :
    (d.translate a h lvl acc va).2.mode k = d.mode k := by
  unfold Dev.translate
  extract_lets +onlyGivenNames c hreg s1 s2 blank
  clear_value blank s1 s2
  split
  · rfl
  · split
    · rfl
    · split
      · rfl
      · extract_lets +onlyGivenNames hit
        clear_value hit
        split
        · rfl
        · extract_lets +onlyGivenNames d1
          have h1 : d1.mode k = d.mode k := by simp [d1]
          clear_value d1
          split
          · simp [h1]
          · extract_lets +onlyGivenNames d2 v48 root rd first
            have h2 : d2.mode k = d.mode k := by simp [d2, h1]
            have h3 : first.2.mode k = d.mode k := by
              simp only [first]
              split
              · rw [mode_walkTable, h2]
                intro d pa
                simp only [rd]
                split <;> simp
              · exact h2
            clear_value first
            split
            · exact h3
            · exact h3
            · next d3 =>
              have h4 : d3.mode k = d.mode k := h3
              dsimp only
              split
              · simp [h4]
              · split
                · exact h4
                · split
                  all_goals next e => simp [Dev.mode_of_eq e k, h4]

/-! ### Whole accesses -/

@[simp] theorem Dev.mode_check (a : Tables) (d : Dev) (h : Hart) (lvl : Nat) (acc : Access) (va : Word) (n : Nat) (plain : Bool) (k : Nat) :
    (d.check a h lvl acc va n plain).2.mode k = d.mode k := by
  unfold Dev.check
  dsimp only
  (repeat' split) <;> simp

@[simp] theorem Dev.mode_loadParts (a : Tables) (d : Dev) (h : Hart) (ps : List (Nat × Nat)) (old : Bool) (k : Nat) :
    (d.loadParts a h ps old).2.mode k = d.mode k := by
  unfold Dev.loadParts
  apply Dev.mode_foldl_part Prod.snd
  intro x p
  split
  · rfl
  · split
    · next e => simp [Dev.mode_of_eq e k]
    · next e => simp [Dev.mode_of_eq e k]

/-! ### Traps -/

@[simp] theorem Dev.mode_coreReport (a : Tables) (d : Dev) (h : Hart) (cls access addr : Nat) (k : Nat) :
    (d.coreReport a h cls access addr).mode k = d.mode k := by simp [Dev.coreReport]

@[simp] theorem Dev.mode_fltReport (a : Tables) (d : Dev) (h : Hart) (f : Flt) (k : Nat) : (d.fltReport a h f).mode k = d.mode k := by
  unfold Dev.fltReport
  split <;> simp

/-! ### Entry (R103, R105) -/

@[simp] theorem Dev.mode_handlerOf (a : Tables) (d : Dev) (h : Hart) (lvl n k : Nat) : (d.handlerOf a h lvl n).2.mode k = d.mode k := by
  unfold Dev.handlerOf
  dsimp only
  split
  · next e => simp [Dev.mode_of_eq e k]
  · next e => simp [Dev.mode_of_eq e k]
  · next e =>
    have h1 := (Dev.mode_of_eq e k).trans (d.mode_check ..)
    split
    · next e' => simp [Dev.mode_of_eq e' k, h1]
    · next e' => simp [Dev.mode_of_eq e' k, h1]

@[simp] theorem Dev.mode_enter (a : Tables) (d : Dev) (h : Hart) (lvl : Nat) (cause tval epc : Word) (vec : Option Nat) (k : Nat) :
    (d.enter a h lvl cause tval epc vec).2.mode k = d.mode k := by
  unfold Dev.enter
  extract_lets +onlyGivenNames c bank f
  split
  · rfl
  · split
    · next e => simp [Dev.mode_of_eq e k]
    · next e => simp [Dev.mode_of_eq e k]
    · next d1 e =>
      have h1 := (Dev.mode_of_eq e k).trans (d.mode_check ..)
      extract_lets +onlyGivenNames target
      have h2 : target.2.mode k = d.mode k := by
        simp only [target]
        split
        · exact h1
        · simp [h1]
      clear_value target
      split
      · next e' => simp [h2]
      · next e' => simp [h2]
      · next d2 =>
        split
        · next e' => simp [Dev.mode_of_eq e' k, h2]
        · next e' => simp [Dev.mode_of_eq e' k, h2]

@[simp] theorem Dev.mode_stopCore (a : Tables) (d : Dev) (h : Hart) (k : Nat) : (d.stopCore a h).mode k = d.mode k := by simp [Dev.stopCore]

@[simp] theorem Dev.mode_frameTrap (a : Tables) (d : Dev) (h : Hart) (lvl : Nat) (inner tval epc : Word) (k : Nat) :
    (d.frameTrap a h lvl inner tval epc).mode k = d.mode k := by
  unfold Dev.frameTrap
  dsimp only
  split
  · simp
  · split
    all_goals next e => simp [Dev.mode_of_eq e k]

@[simp] theorem Dev.mode_takeTrap (a : Tables) (d : Dev) (h : Hart) (cause : Nat) (tval epc : Word) (k : Nat) :
    (d.takeTrap a h cause tval epc).mode k = d.mode k := by
  unfold Dev.takeTrap
  dsimp only
  split
  all_goals next e => simp [Dev.mode_of_eq e k]

@[simp] theorem Dev.mode_takeVector (a : Tables) (d : Dev) (h : Hart) (n : Nat) (epc : Word) (k : Nat) :
    (d.takeVector a h n epc).mode k = d.mode k := by
  unfold Dev.takeVector
  dsimp only
  split
  all_goals next e => simp [Dev.mode_of_eq e k]

@[simp] theorem Dev.mode_fault (a : Tables) (d : Dev) (h : Hart) (f : Flt) (epc : Word) (k : Nat) :
    (d.fault a h f epc).mode k = d.mode k := by
  unfold Dev.fault
  split <;> simp

@[simp] theorem Dev.mode_faultHere (a : Tables) (d : Dev) (h : Hart) (f : Flt) (k : Nat) :
    (d.faultHere a h f).mode k = d.mode k := by simp [Dev.faultHere]

/-! ### Device stores that met an error (R118) -/

@[simp] theorem Dev.mode_storeBusError (a : Tables) (d : Dev) (h : Hart) (va : Word) (pa : Nat) (k : Nat) :
    (d.storeBusError a h va pa).mode k = d.mode k := by simp [Dev.storeBusError]

/-! ### Retirement of a load -/

@[simp] theorem Dev.mode_retireLoad (a : Tables) (d : Dev) (h : Hart) (e : LqEntry) (k : Nat) : (d.retireLoad a h e).mode k = d.mode k := by
  unfold Dev.retireLoad
  split <;> simp

/-! ### Stores -/

@[simp] theorem Dev.mode_ownEarly (a : Tables) (d : Dev) (h : Hart) (ps : List (Nat × Nat)) (k : Nat) :
    (d.ownEarly a h ps).mode k = d.mode k := by simp [Dev.ownEarly]

@[simp] theorem Dev.mode_storeNow (a : Tables) (d : Dev) (h : Hart) (va : Word) (n : Nat) (v : Line) (k : Nat) :
    (d.storeNow a h va n v).mode k = d.mode k := by
  unfold Dev.storeNow
  split
  · next e => simp [Dev.mode_of_eq e k]
  · next e => simp [Dev.mode_of_eq e k]
  · next e =>
    have h1 := (Dev.mode_of_eq e k).trans (d.mode_check ..)
    split
    · next e' => simp [Dev.mode_of_eq e' k, h1]
    · next e' => simp [Dev.mode_of_eq e' k, h1]

@[simp] theorem Dev.mode_genStore (a : Tables) (d : Dev) (h : Hart) (i k : Nat) : (d.genStore a h i).mode k = d.mode k := by
  unfold Dev.genStore
  dsimp only
  split
  · rfl
  · split
    · rfl
    · rfl
    · rfl
    · split <;> split
      · rfl
      · split
        all_goals next e => simp [Dev.mode_of_eq e k]
      · rfl
      · split
        all_goals next e => simp [Dev.mode_of_eq e k]

@[simp] theorem Dev.mode_genStores (a : Tables) (d : Dev) (h : Hart) (k : Nat) :
    (d.genStores a h).mode k = d.mode k := by simp [Dev.genStores]

/-! ### Retirement from the window (R126, R130, R142) -/

@[simp] theorem Dev.mode_retireWindow (a : Tables) (fuel : Nat) (d : Dev) (h : Hart) (k : Nat) :
    (d.retireWindow a fuel h).mode k = d.mode k := by
  induction fuel generalizing d with
  | zero => rfl
  | succ n ih =>
    unfold Dev.retireWindow
    split
    · next same _ =>
      cases same
      dsimp only
      split
      · rfl
      · split <;> simp [ih]
    · rfl

@[simp] theorem Dev.mode_windowGo (a : Tables) (d : Dev) (h : Hart) (k : Nat) : (d.windowGo a h).mode k = d.mode k := by simp [Dev.windowGo]

/-! ### What a device's answer does at a core -/

@[simp] theorem Dev.mode_atomDone (a : Tables) (d : Dev) (h : Hart) (e : LqEntry) (old : Word) (poison other : Bool) (k : Nat) :
    (d.atomDone a h e old poison other).mode k = d.mode k := by simp [Dev.atomDone]

@[simp] theorem Dev.mode_coreAnswer (a : Tables) (d : Dev) (h : Hart) (m : Msg) (k : Nat) : (d.coreAnswer a h m).mode k = d.mode k := by
  unfold Dev.coreAnswer
  dsimp only
  (repeat' split) <;> simp

@[simp] theorem Dev.mode_coreAnswers (a : Tables) (d : Dev) (k : Nat) : (d.coreAnswers a).mode k = d.mode k := by
  unfold Dev.coreAnswers
  dsimp only
  rw [Dev.mode_each, Dev.mode_each]
  · rfl
  · intro d m
    split <;> simp
  · intro d h
    split <;> simp
/-! ### The end of a command -/

/-- The end of a command keeps the mode of a socket at rest. -/
theorem Dev.mode_finish {d : Dev} {k : Nat} (h : restMode (d.mode k)) (a : Admin) : (d.finish a).mode k = d.mode k := by
  unfold Dev.finish
  rw [Dev.mode_coreAnswers, Dev.mode_serveAll _] <;> simp [h]

@[simp] theorem Dev.mode_showSteps (a : Tables) (d : Dev) (k : Nat) : (d.showSteps a).mode k = d.mode k := by
  unfold Dev.showSteps
  apply Dev.mode_foldl
  intro d s
  split
  · rfl
  · refine List.foldlRecOn (motive := fun y : Dev => y.mode k = d.mode k) _ _ rfl fun y keeps p hp => ?_
    rw [Dev.mode_showStep a y s p k (by simp at hp; omega), keeps]

/-- A command that ends with `tabled` keeps the mode of a socket at rest. -/
theorem State.mode_tabled (s : State) (a : Admin) {d : Dev} {k : Nat} (h : restMode (d.mode k)) :
    (s.tabled (a, d)).dev.mode k = d.mode k := by
  simp [State.tabled, Dev.mode_finish h]

end Sys2Proof.Machine
end

section
/-! A stop that brings no HOLD. The send queues of the collector are keyed by any number, and a state that no run reaches may hold a message
under a number that no source has: 4187136. FC_SRC_SEV of that number falls on PW_MODE. When the message's FORCE bit clears there, the word
that is left is the one FC_SRC_SEV resets to, so that the place is empty, and PW_MODE reads its own reset value: STANDBY, which a
Fatal-socket stop leaves as it is (R384, R472). -/

namespace Sys2Proof.Machine

/-- A Fatal-socket message with FORCE. -/
def strayFatal : FMsg := BitVec.ofNat 128 (6 * 2 ^ 105 + 2 ^ 78)

/-- Socket 0 in LOAD, its PW_MODE holding the word that FC_SRC_SEV resets to, and a message under the stray source number. -/
def strayState : State :=
  { State.reset with
    dev := State.reset.dev.onSock 0 fun k =>
      { k with
        regs := [(Reg.pwMode.at 0 0, Reg.fcSrcSev.resetWord)]
        faults := { k.faults with send := [(4187136, [strayFatal])] } } }

/-- Why the number is stray. -/
example : Reg.fcSrcSev.at 4187136 0 = Reg.pwMode.at 0 0 := rfl

theorem strayFatal_fields : strayFatal.sev = 6 ∧ strayFatal.cls ≠ 0xA := by decide +kernel

theorem strayState_mode : 2 ≤ strayState.dev.mode 0 ∧ strayState.dev.mode 0 ≤ 5 := by decide +kernel

theorem strayState_head : (strayState.dev.sock 0).faults.send.find? (fun x => !x.2.isEmpty) = some (4187136, [strayFatal]) := by
  decide +kernel

/-- The collector leaves the socket in STANDBY, not in HOLD. -/
theorem collect_strayState : (collect strayState.adm strayState.dev 0).1 = strayState.adm ∧
    (collect strayState.adm strayState.dev 0).2.mode 0 = 1 := by
  decide +kernel

theorem exec_strayState : exec (.faultMessage 0) strayState =
    .next (strayState.tabled (strayState.adm, (collect strayState.adm strayState.dev 0).2)) := by
  have ends : exec (.faultMessage 0) strayState = .next (strayState.tabled (collect strayState.adm strayState.dev 0)) :=
    congrArg Host.Outcome.next (strayState.onTables_eq _)
  rw [ends, ← Prod.mk.eta (p := collect strayState.adm strayState.dev 0), collect_strayState.1]

/-- No state in HOLD ends as this one does: the end of a command keeps both modes, STANDBY and HOLD. -/
theorem strayState_not_held (x : Dev) (ends : exec (.faultMessage 0) strayState = .next (strayState.tabled (strayState.adm, x))) :
    x.mode 0 ≠ modeHold := by
  intro held
  have standby := collect_strayState.2
  have same := Host.Outcome.next.inj (exec_strayState.symm.trans ends)
  have modes : (strayState.tabled (strayState.adm, (collect strayState.adm strayState.dev 0).2)).dev.mode 0 =
      (strayState.tabled (strayState.adm, x)).dev.mode 0 := by rw [same]
  rw [State.mode_tabled _ _ (by rw [standby]; simp [restMode, modeRun, modeDegraded, modeMaintain]),
    State.mode_tabled _ _ (by rw [held]; simp [restMode, modeRun, modeDegraded, modeMaintain, modeHold]), standby, held] at modes
  exact absurd modes (by decide)

/-- Refutes O56: its clause on a Fatal-socket message fails in `strayState`, a state that no run reaches, where the message's source number is
no source's and the FORCE bit that clears with it is PW_MODE's. -/
theorem not_resetsAndOrders : ¬ Obligations.ResetsAndOrders := by
  unfold Obligations.ResetsAndOrders
  intro h
  obtain ⟨-, -, -, -, -, -, -, -, -, -, -, -, -, -, -, -, -, -, -, -, accepts, -, -⟩ :=
    h strayState 0 (strayState.dev.wheel 0).board 0 0 0 0 ⟨0, 0⟩ false false 0 0
  obtain ⟨-, stops, -⟩ := accepts 4187136 strayFatal [] strayState_head
  obtain ⟨sev, cls⟩ := strayFatal_fields
  obtain ⟨x, ends, held⟩ := stops (.inl sev) cls strayState_mode.1 strayState_mode.2
  exact strayState_not_held x ends held

end Sys2Proof.Machine
end

section
/-! Bits of words and of vector registers: masks, quarters and elements (R57, R67). -/

namespace Sys2Proof.Machine

/-! ### Masks -/

/-- Masking keeps the low bits. -/
theorem getLsbD_mask (n i : Nat) (x : Word) : (x &&& word (2 ^ n - 1)).getLsbD i = (decide (i < n) && x.getLsbD i) := by
  rw [BitVec.getLsbD_and, word, BitVec.getLsbD_ofNat, Nat.testBit_two_pow_sub_one]
  by_cases h : i < 64
  · simp [h, Bool.and_comm]
  · simp [h, BitVec.getLsbD_of_ge x i (Nat.le_of_not_lt h)]

theorem mask_eq_setWidth (n : Nat) (x : Word) : x &&& word (2 ^ n - 1) = (x.setWidth n).setWidth 64 := by
  apply BitVec.eq_of_getLsbD_eq
  intro i lt
  rw [getLsbD_mask, BitVec.getLsbD_setWidth, BitVec.getLsbD_setWidth, decide_eq_true lt, Bool.true_and]

theorem ofNat_mul_two_pow (n k : Nat) : BitVec.ofNat 64 (n * 2 ^ k) = BitVec.ofNat 64 n <<< k := by
  apply BitVec.eq_of_toNat_eq
  rw [BitVec.toNat_shiftLeft, BitVec.toNat_ofNat, BitVec.toNat_ofNat, Nat.shiftLeft_eq, Nat.mod_mul_mod]

/-- A quarter of a register replaced (R57). -/
theorem putBits_quarter (z : Word) (q : Fin 4) (imm : BitVec 16) :
    putBits z (16 * q.val + 15) (16 * q.val) imm.toNat =
      (z &&& ~~~ ((0xFFFF : Word) <<< (16 * q.val))) ||| (imm.setWidth 64 <<< (16 * q.val)) := by
  have width : 16 * q.val + 15 + 1 - 16 * q.val = 16 := by omega
  have mask : BitVec.ofNat 64 ((2 ^ 16 - 1) * 2 ^ (16 * q.val)) = (0xFFFF : Word) <<< (16 * q.val) := ofNat_mul_two_pow _ _
  have field : (imm.setWidth 64 : Word) &&& 0xFFFF = imm.setWidth 64 := by
    have low : (imm.setWidth 64).setWidth 16 = imm := by simp
    rw [show (0xFFFF : Word) = word (2 ^ 16 - 1) from rfl, mask_eq_setWidth, low]
  rw [putBits, width, mask, ofNat_mul_two_pow, BitVec.ofNat_toNat, ← BitVec.shiftLeft_and_distrib, field]

/-! ### Elements of a vector register -/

theorem ewBits_mul_elems (w : Fin 4) : elems w * ewBits w = 512 := by
  fin_cases w <;> rfl

theorem ewBits_pos (w : Fin 4) : 0 < ewBits w := by
  fin_cases w <;> decide

theorem ewBits_le (w : Fin 4) : ewBits w ≤ 64 := by
  fin_cases w <;> decide

theorem getLsbD_elem (w : Fin 4) (v : Line) (i j : Nat) :
    (elem w v i).getLsbD j = (decide (j < ewBits w) && v.getLsbD (i * ewBits w + j)) := by
  rw [elem, getLsbD_mask, BitVec.getLsbD_setWidth, BitVec.getLsbD_ushiftRight]
  by_cases inside : j < ewBits w
  · have : j < 64 := Nat.lt_of_lt_of_le inside (ewBits_le w)
    simp [inside, this]
  · simp [inside]

/-- The bits of a register made of elements. -/
theorem getLsbD_ofElems {w : Fin 4} {j : Nat} (inside : j < ewBits w) :
    ∀ (es : List Word) (i : Nat), i * ewBits w + j < 512 → (ofElems w es).getLsbD (i * ewBits w + j) = (es.getD i 0).getLsbD j
  | [], i, _ => by simp [ofElems]
  | e :: es, 0, below => by
    rw [Nat.zero_mul, Nat.zero_add] at below ⊢
    rw [ofElems, BitVec.getLsbD_or, BitVec.getLsbD_shiftLeft, BitVec.getLsbD_setWidth, getLsbD_mask]
    simp [inside, below]
  | e :: es, i + 1, below => by
    have step : (i + 1) * ewBits w + j = i * ewBits w + j + ewBits w := by rw [Nat.succ_mul]; omega
    have high : ¬ i * ewBits w + j + ewBits w < ewBits w := by omega
    rw [step] at below ⊢
    rw [ofElems, BitVec.getLsbD_or, BitVec.getLsbD_shiftLeft, BitVec.getLsbD_setWidth, getLsbD_mask, Nat.add_sub_cancel,
      getLsbD_ofElems inside es i (by omega)]
    simp [below, high]

/-- An element of a register made of elements is the low bits of what was put there. -/
theorem elem_ofElems (w : Fin 4) (es : List Word) {i : Nat} (lt : i < elems w) :
    elem w (ofElems w es) i = es.getD i 0 &&& word (2 ^ ewBits w - 1) := by
  apply BitVec.eq_of_getLsbD_eq
  intro j _
  rw [getLsbD_elem, getLsbD_mask]
  by_cases inside : j < ewBits w
  · have below : i * ewBits w + j < 512 := by
      have := ewBits_mul_elems w
      have : (i + 1) * ewBits w ≤ elems w * ewBits w := Nat.mul_le_mul_right _ lt
      rw [Nat.succ_mul] at this
      omega
    rw [getLsbD_ofElems inside es i below]
  · simp [inside]

/-- An element has no bits above its width. -/
theorem elem_mask (w : Fin 4) (v : Line) (i : Nat) : elem w v i &&& word (2 ^ ewBits w - 1) = elem w v i := by
  rw [elem, BitVec.and_assoc, BitVec.and_self]

theorem elem_lanes (w : Fin 4) (p : Word) (z : Bool) (old : Line) (f : Nat → Word) {i : Nat} (lt : i < elems w) :
    elem w (lanes w p z old f) i =
      if bit p i then f i &&& word (2 ^ ewBits w - 1) else if z then 0 else elem w old i := by
  rw [lanes, elem_ofElems w _ lt]
  have entry : ((List.range (elems w)).map fun i => if bit p i then f i else if z then 0 else elem w old i).getD i 0 =
      if bit p i then f i else if z then 0 else elem w old i := by
    simp [List.getD, lt]
  rw [entry]
  split
  · rfl
  · split
    · exact BitVec.zero_and
    · rw [elem_mask]

end Sys2Proof.Machine
end

section
/-! Instructions that only change their core: on a ready hart each is one change of that core, so that what it writes is all there is to
say of it (R57 to R60, R67, R68, R71 to R73). -/

namespace Sys2Proof.Machine

/-! ### One change of the core -/

section
variable {s : State} {h : Hart} (r : s.ready h = true)
include r

/-- An instruction of every core. -/
theorem nextCore_of_regInsn {f g : Core → Core} (e : (f (s.core h)).next = g (s.core h)) :
    (.next (s.onDev fun _ d => d.regInsn h f) : Answer) = s.nextCore h g :=
  State.next_onCore (Dev.regInsn_ready r f) g e

theorem nextG_of_aluRR (rd ra rb : GReg) (f : Word → Word → Word) :
    (.next (s.onDev fun _ d => d.aluRR h rd ra rb f) : Answer) =
      s.nextG h rd (f ((s.core h).getG ra) ((s.core h).getG rb)) :=
  nextCore_of_regInsn r rfl

theorem nextG_of_aluR (rd ra : GReg) (f : Word → Word) :
    (.next (s.onDev fun _ d => d.aluR h rd ra f) : Answer) = s.nextG h rd (f ((s.core h).getG ra)) :=
  nextCore_of_regInsn r rfl

theorem nextG_of_regInsn (rd : GReg) (v : Core → Word) :
    (.next (s.onDev fun _ d => d.regInsn h fun c => c.setG rd (v c)) : Answer) = s.nextG h rd (v (s.core h)) :=
  nextCore_of_regInsn r rfl

variable (v : isServer h = true)
include v

/-- An instruction of a group that server cores alone implement (R90). -/
theorem nextCore_of_serverInsn {f g : Core → Core} (w : Word) (e : (f (s.core h)).next = g (s.core h)) :
    (.next (s.onDev fun a d => d.serverInsn a h w f) : Answer) = s.nextCore h g :=
  State.next_onCore (Dev.serverInsn_ready r v s.adm w f) g e

theorem nextG_of_serverInsn (w : Word) (rd : GReg) (x : Core → Word) :
    (.next (s.onDev fun a d => d.serverInsn a h w fun c => c.setG rd (x c)) : Answer) = s.nextG h rd (x (s.core h)) :=
  nextCore_of_serverInsn r v w rfl

theorem nextV_of_serverInsn (w : Word) (vd : VReg) (x : Core → Line) :
    (.next (s.onDev fun a d => d.serverInsn a h w fun c => c.setV vd (x c)) : Answer) = s.nextV h vd (x (s.core h)) :=
  nextCore_of_serverInsn r v w rfl

theorem nextP_of_serverInsn (w : Word) (pd : PReg) (x : Core → Word) :
    (.next (s.onDev fun a d => d.serverInsn a h w fun c => c.setP pd (x c)) : Answer) = s.nextP h pd (x (s.core h)) :=
  nextCore_of_serverInsn r v w rfl

theorem nextG_of_dbInsn (n : Nat) (rd ra rb : GReg) (f : Word → Word → Word) :
    (.next (s.onDev fun a d => d.dbInsn a h n rd ra rb f) : Answer) =
      s.nextG h rd (f ((s.core h).getG ra) ((s.core h).getG rb)) :=
  nextG_of_serverInsn r v _ rd _

theorem nextF_of_fpInsn (w : Word) (rd : GReg) (f : Core → Word × BitVec 5) :
    (.next (s.onDev fun a d => d.fpInsn a h w rd f) : Answer) = s.nextF h rd (f (s.core h)) :=
  nextCore_of_serverInsn r v w rfl

end

/-! ### Integer instructions (R57, R58) -/

/-- Settles O4: each of the instructions is `aluRR` of the operation that R57 names. -/
theorem integerThreeRegister : Obligations.IntegerThreeRegister := by
  intro s h rd ra rb r
  dsimp only
  and_intros
  all_goals exact nextG_of_aluRR r rd ra rb _

/-- The most negative value divided by all ones wraps to itself (R58). -/
theorem divS_eq (a b : Word) :
    divS a b = if b = 0 then BitVec.allOnes 64
      else if a = 0x8000000000000000 ∧ b = BitVec.allOnes 64 then 0x8000000000000000
      else BitVec.ofInt 64 (a.toInt.tdiv b.toInt) := by
  unfold divS
  refine if_congr Iff.rfl rfl ?_
  split
  case isTrue overflow => rw [overflow.1, overflow.2]; decide
  case isFalse => rfl

/-- The remainder of the most negative value by all ones is zero (R58). -/
theorem remS_eq (a b : Word) :
    remS a b = if b = 0 then a
      else if a = 0x8000000000000000 ∧ b = BitVec.allOnes 64 then 0
      else BitVec.ofInt 64 (a.toInt.tmod b.toInt) := by
  unfold remS
  refine if_congr Iff.rfl rfl ?_
  split
  case isTrue overflow => rw [overflow.1, overflow.2]; decide
  case isFalse => rfl

/-- Settles O5: the four instructions are `aluRR` of `divS`, `remS`, `divU` and `remU`, whose overflow case `divS_eq` and `remS_eq`
compute. -/
theorem integerDivision : Obligations.IntegerDivision := by
  intro s h rd ra rb r
  dsimp only
  refine ⟨?_, ?_, nextG_of_aluRR r rd ra rb divU, nextG_of_aluRR r rd ra rb remU⟩
  · rw [← divS_eq]
    exact nextG_of_aluRR r rd ra rb divS
  · rw [← remS_eq]
    exact nextG_of_aluRR r rd ra rb remS

/-- Settles O6: each of the instructions is `aluR` of the operation that R57 names, but for SETQ and INSQ, which read no ra; INSQ's field
is `putBits_quarter`. -/
theorem integerImmediate : Obligations.IntegerImmediate := by
  intro s h rd ra imm sh q r
  dsimp only
  have insq : exec (.insq h rd q imm) s =
      s.nextG h rd (putBits ((s.core h).getG rd) (16 * q.val + 15) (16 * q.val) imm.toNat) := nextG_of_regInsn r rd _
  rw [putBits_quarter] at insq
  have setq : exec (.setq h rd q imm) s = s.nextG h rd (imm.signExtend 64 <<< (16 * q.val)) := nextG_of_regInsn r rd _
  refine ⟨?_, ?_, ?_, ?_, ?_, ?_, ?_, ?_, ?_, ?_, ?_, ?_, ?_, ?_, setq, insq⟩
  all_goals exact nextG_of_aluR r rd ra _

/-! ### Floating-point and database instructions (R59, R60, R71 to R73) -/

/-- Settles O8: each of the instructions is `fpInsn` of its operation, which retires whatever the flags are. -/
theorem floatingPointNeverTraps : Obligations.FloatingPointNeverTraps := by
  intro s h dbl rd ra rb rc r v
  dsimp only
  and_intros
  all_goals exact nextF_of_fpInsn r v _ rd _

/-- Settles O9: each of the instructions is `dbInsn` of the function that R71, R72 or R73 gives. -/
theorem databaseScalar : Obligations.DatabaseScalar := by
  intro s h rd ra rb r v
  dsimp only
  and_intros
  all_goals exact nextG_of_dbInsn r v _ rd ra _ _

/-! ### Vector instructions (R67, R68) -/

/-- An integer V-format instruction, element by element. -/
theorem lanes_of_vecInsn {s : State} {h : Hart} (r : s.ready h = true) (v : isServer h = true) (o : VOp) (n : Nat)
    (f : Word → Word → Word) :
    ∃ l : Line, (.next (s.onDev fun a d => d.vecInsn a h o n f) : Answer) = s.nextV h o.vd l ∧ ∀ i, i < elems o.w →
      elem o.w l i =
        if bit ((s.core h).getP o.pg) i then
          f (elem o.w ((s.core h).getV o.va) i) (elem o.w ((s.core h).getV o.vb) i) &&& word (2 ^ ewBits o.w - 1)
        else if o.z then 0 else elem o.w ((s.core h).getV o.vd) i :=
  ⟨_, nextV_of_serverInsn r v _ o.vd _, fun _ lt => elem_lanes o.w _ o.z _ _ lt⟩

/-- VSEL, element by element. -/
theorem lanes_of_vsel {s : State} {h : Hart} (r : s.ready h = true) (v : isServer h = true) {o : VOp} (z : o.z = false) :
    ∃ l : Line, exec (.vsel h o) s = s.nextV h o.vd l ∧ ∀ i, i < elems o.w →
      elem o.w l i =
        if bit ((s.core h).getP o.pg) i then elem o.w ((s.core h).getV o.va) i else elem o.w ((s.core h).getV o.vb) i := by
  have legal : exec (.vsel h o) s = .next (s.onDev fun a d => d.serverInsn a h (wordVr o 13) fun c =>
      c.setV o.vd (lanes o.w (c.getP o.pg) false (c.getV o.vb) fun i => elem o.w (c.getV o.va) i)) := by
    show execVsel h o s = _
    simp only [execVsel, z, Bool.false_eq_true, if_false]
  refine ⟨_, legal.trans (nextV_of_serverInsn r v _ o.vd _), fun i lt => ?_⟩
  rw [elem_lanes o.w _ false _ _ lt, elem_mask]
  rfl

/-- Settles O10: each of the instructions is `vecInsn` of its operation, but VSEL, which picks elements. -/
theorem vectorIntegerLanes : Obligations.VectorIntegerLanes := by
  intro s h o r v
  dsimp only
  refine ⟨?_, ?_, ?_, ?_, ?_, ?_, ?_, ?_, ?_, ?_, ?_, ?_, ?_, ?_, lanes_of_vsel r v⟩
  all_goals exact lanes_of_vecInsn r v o _ _

/-- A floating-point V-format instruction of 32- or 64-bit elements. -/
theorem nextCore_of_vecFp {s : State} {h : Hart} (r : s.ready h = true) (v : isServer h = true) {o : VOp} (wide : 2 ≤ o.w.val)
    (n : Nat) (f : Bool → Rm → Word → Word → Word × BitVec 5) {g : Core → Core}
    (e : g (s.core h) =
      (let c := s.core h
       let r := fun i => f (o.w = 3) c.rm (elem o.w (c.getV o.va) i) (elem o.w (c.getV o.vb) i)
       ((c.setV o.vd (lanes o.w (c.getP o.pg) o.z (c.getV o.vd) fun i => (r i).1)).setFlags
          (lanesFlags o.w (c.getP o.pg) fun i => (r i).2)).next)) :
    (.next (s.onDev fun a d => d.vecFp a h o n f) : Answer) = s.nextCore h g := by
  simp only [Dev.vecFp, if_neg (Nat.not_lt.2 wide)]
  exact nextCore_of_serverInsn r v _ e.symm

/-- Settles O11: each of the instructions is `vecFp` of its operation, legal at these widths. -/
theorem vectorFloatLanes : Obligations.VectorFloatLanes := by
  intro s h o r v wide
  dsimp only
  and_intros
  all_goals exact nextCore_of_vecFp r v wide _ _ rfl

/-- VEC-CMP where it is legal (R68). -/
theorem execVcmp_legal {o : VOp} (z : o.z = false) {dest : Bool} (named : dest = true ∨ o.vd.toNat < 8) (h : Hart) (cond : Fin 8)
    (s : State) :
    exec (.vcmp h o dest cond) s = .next (s.onDev fun a d => d.serverInsn a h (wordVcmp o dest cond) fun c =>
      let r := predOf o.w fun i =>
        bit (c.getP o.pg) i && condElem o.w cond (elem o.w (c.getV o.va) i) (elem o.w (c.getV o.vb) i)
      if dest then c.setG o.vd r else c.setP (o.vd.setWidth 3) r) := by
  have legal : (o.z || (!dest && decide (8 ≤ o.vd.toNat))) = false := by
    rcases named with e | e
    · simp [z, e]
    · simp [z, e]
  show execVcmp h o dest cond s = _
  simp only [execVcmp, legal, Bool.false_eq_true, if_false]

/-- Settles O12: each of the instructions writes one register; VEC-CMP is legal under the conditions. -/
theorem vectorCompareAndMoves : Obligations.VectorCompareAndMoves := by
  intro s h w vd va ga gb pd pa pb o cond r v
  dsimp only
  refine ⟨nextV_of_serverInsn r v _ vd _, nextG_of_serverInsn r v _ ga _, nextV_of_serverInsn r v _ vd _,
    nextV_of_serverInsn r v _ vd _, nextP_of_serverInsn r v _ pd _, nextP_of_serverInsn r v _ pd _,
    nextP_of_serverInsn r v _ pd _, nextP_of_serverInsn r v _ pd _, nextP_of_serverInsn r v _ pd _,
    nextG_of_serverInsn r v _ ga _, nextG_of_serverInsn r v _ ga _, fun z => ?_, fun z low => ?_⟩
  · rw [execVcmp_legal z (.inl rfl)]
    exact nextG_of_serverInsn r v _ o.vd _
  · rw [execVcmp_legal z (.inr low)]
    exact nextP_of_serverInsn r v _ (o.vd.setWidth 3) _

end Sys2Proof.Machine
end

section
/-! What retiring an instruction leaves of its core, and the frame of the instructions that write one g register (R448, R449). -/

namespace Sys2Proof.Machine

/-! ### Counting -/

/-- The system registers that counting an event changes: the event and instruction counters, the sample count and the sampled
address. -/
def tallied (n : Nat) : Prop := (0x120 ≤ n ∧ n ≤ 0x129) ∨ n = 0x212 ∨ n = 0x213

theorem foldl_preserves {α β γ : Type} {P : α → γ} {f : α → β → α} {l : List β} (step : ∀ a, ∀ b ∈ l, P (f a b) = P a) (a : α) :
    P (l.foldl f a) = P a := by
  induction l generalizing a with
  | nil => rfl
  | cons b l ih => rw [List.foldl_cons, ih fun a c m => step a c (List.mem_cons_of_mem _ m), step a b List.mem_cons_self]

section
variable {α : Type} (P : Core → α) (hs : ∀ (c : Core) (n : Nat) (v : Word), tallied n → P (c.sysSet n v) = P c)
  (hv : ∀ (c : Core) (v : Word), P (c.ivSet 3 v) = P c)
include hs hv

/-- Sampling changes the sample count, the sampled address and vector 3 alone. -/
theorem Core.sample_preserves (c : Core) (ip : Word) (killed : Bool) : P (c.sample ip killed) = P c := by
  unfold Core.sample Core.raise
  dsimp only
  split
  · rw [hs _ _ _ (by simp [tallied]), hv]
  · rw [hs _ _ _ (by simp [tallied]), hs _ _ _ (by simp [tallied]), hv]

/-- Counting an event changes the registers it tallies in and vector 3 alone. -/
theorem Core.event_preserves (c : Core) (ev n : Nat) (ip : Word) : P (c.event ev n ip) = P c := by
  have counters : ∀ (c : Core) (l : Nat), P ((List.range 8).foldl (fun c i =>
      if evSelected (c.sysGet (0x130 + i)) 0 ev l then
        c.sysSet (0x120 + i) (putBits (c.sysGet (0x120 + i)) 47 0 (satAdd 48 (bits (c.sysGet (0x120 + i)) 47 0) n))
      else c) c) = P c := by
    intro c l
    refine foldl_preserves (fun c i m => ?_) c
    have := List.mem_range.1 m
    split
    · exact hs _ _ _ (.inl (by omega))
    · rfl
  unfold Core.event
  split
  · rfl
  · dsimp only
    split
    · split
      · rw [Core.sample_preserves P hs hv, counters]
      · rw [hs _ _ _ (by simp [tallied]), counters]
    · exact counters _ _

theorem Core.countInst_preserves (c : Core) : P c.countInst = P c := by
  unfold Core.countInst
  dsimp only
  rw [Core.event_preserves P hs hv]
  split
  · rfl
  · exact hs _ _ _ (by simp [tallied])

/-- Retiring an instruction changes what it tallies in, vector 3, the PC and fetch alone. -/
theorem Core.next_preserves
    (hm : ∀ (c : Core) (pc fp : Word) (q : List Fetched) (p : Predictor), P { c with pc, fetchPc := fp, fetchQ := q, pred := p } = P c)
    (c : Core) : P c.next = P c := by
  rw [Core.next, Core.retire, Core.moveTo_keeps P hm, Core.countInst_preserves P hs hv]

end

theorem Core.ivGet_ivSet_ne (c : Core) {m n : Nat} (ne : m ≠ n) (v : Word) : (c.ivSet n v).ivGet m = c.ivGet m :=
  Tbl.get_set_ne _ _ _ _ ne

theorem Core.sysGet_sysSet_tallied {m n : Nat} (untouched : ¬ tallied m) (c : Core) (v : Word) (t : tallied n) :
    (c.sysSet n v).sysGet m = c.sysGet m :=
  Core.sysGet_sysSet_ne c (fun e : m = n => untouched (e ▸ t)) v

theorem Core.sysGet_next_untallied {n : Nat} (untouched : ¬ tallied n) (c : Core) : c.next.sysGet n = c.sysGet n :=
  Core.next_preserves (Core.sysGet · n) (fun c _ v => Core.sysGet_sysSet_tallied untouched c v) (fun _ _ => rfl)
    (fun _ _ _ _ _ => rfl) c

theorem Core.ivGet_next {n : Nat} (ne : n ≠ 3) (c : Core) : c.next.ivGet n = c.ivGet n :=
  Core.next_preserves (Core.ivGet · n) (fun _ _ _ _ => rfl) (fun c => Core.ivGet_ivSet_ne c ne) (fun _ _ _ _ _ => rfl) c

@[simp] theorem Core.next_tlb (c : Core) : c.next.tlb = c.tlb :=
  Core.next_preserves Core.tlb (fun _ _ _ _ => rfl) (fun _ _ => rfl) (fun _ _ _ _ _ => rfl) c

@[simp] theorem Core.next_l1d (c : Core) : c.next.l1d = c.l1d :=
  Core.next_preserves Core.l1d (fun _ _ _ _ => rfl) (fun _ _ => rfl) (fun _ _ _ _ _ => rfl) c

@[simp] theorem Core.next_l2 (c : Core) : c.next.l2 = c.l2 :=
  Core.next_preserves Core.l2 (fun _ _ _ _ => rfl) (fun _ _ => rfl) (fun _ _ _ _ _ => rfl) c

@[simp] theorem Core.next_annul (c : Core) : c.next.annul = c.annul :=
  Core.next_preserves Core.annul (fun _ _ _ _ => rfl) (fun _ _ => rfl) (fun _ _ _ _ _ => rfl) c

@[simp] theorem Core.getG_next (c : Core) (r : GReg) : c.next.getG r = c.getG r := by
  rw [Core.getG, Core.next_g, Core.getG]

/-! ### A write of a g register -/

/-- A write of a g register changes the table of g registers alone. -/
theorem Core.setG_keeps {α : Type} (P : Core → α) (hg : ∀ (c : Core) (g : Tbl Word), P { c with g } = P c) (c : Core) (r : GReg)
    (v : Word) : P (c.setG r v) = P c := by
  unfold Core.setG
  split
  · rfl
  · exact hg c _

@[simp] theorem Core.setG_v (c : Core) (r : GReg) (x : Word) : (c.setG r x).v = c.v := Core.setG_keeps Core.v (fun _ _ => rfl) c r x
@[simp] theorem Core.setG_p (c : Core) (r : GReg) (x : Word) : (c.setG r x).p = c.p := Core.setG_keeps Core.p (fun _ _ => rfl) c r x
@[simp] theorem Core.setG_pc (c : Core) (r : GReg) (x : Word) : (c.setG r x).pc = c.pc := Core.setG_keeps Core.pc (fun _ _ => rfl) c r x
@[simp] theorem Core.setG_sb (c : Core) (r : GReg) (x : Word) : (c.setG r x).sb = c.sb := Core.setG_keeps Core.sb (fun _ _ => rfl) c r x
@[simp] theorem Core.setG_tlb (c : Core) (r : GReg) (x : Word) : (c.setG r x).tlb = c.tlb :=
  Core.setG_keeps Core.tlb (fun _ _ => rfl) c r x
@[simp] theorem Core.setG_l1d (c : Core) (r : GReg) (x : Word) : (c.setG r x).l1d = c.l1d :=
  Core.setG_keeps Core.l1d (fun _ _ => rfl) c r x
@[simp] theorem Core.setG_l2 (c : Core) (r : GReg) (x : Word) : (c.setG r x).l2 = c.l2 := Core.setG_keeps Core.l2 (fun _ _ => rfl) c r x
@[simp] theorem Core.sysGet_setG (c : Core) (r : GReg) (x : Word) (n : Nat) : (c.setG r x).sysGet n = c.sysGet n :=
  Core.setG_keeps (Core.sysGet · n) (fun _ _ => rfl) c r x
@[simp] theorem Core.ivGet_setG (c : Core) (r : GReg) (x : Word) (n : Nat) : (c.setG r x).ivGet n = c.ivGet n :=
  Core.setG_keeps (Core.ivGet · n) (fun _ _ => rfl) c r x

/-! ### The frame -/

/-- What an instruction of hart `h` that writes `rd` and goes on leaves as it was. -/
def State.onlyG (s t : State) (h : Hart) (rd : GReg) : Prop :=
  (∀ r, r ≠ rd → (t.core h).getG r = (s.core h).getG r) ∧ (t.core h).v = (s.core h).v ∧ (t.core h).p = (s.core h).p ∧
  (∀ n, n < 0x120 ∨ (0x129 < n ∧ n < 0x212) ∨ 0x213 < n → (t.core h).sysGet n = (s.core h).sysGet n) ∧
  (∀ n, n ≠ 3 → (t.core h).ivGet n = (s.core h).ivGet n) ∧ (t.core h).sb = (s.core h).sb ∧ (t.core h).tlb = (s.core h).tlb ∧
  (t.core h).l1d = (s.core h).l1d ∧ (t.core h).l2 = (s.core h).l2 ∧ (t.core h).pc = (s.core h).pc + 4 ∧
  (∀ g, g ≠ h → t.core g = s.core g) ∧ (∀ a, Memory.read t.dev.mem a = Memory.read s.dev.mem a) ∧
  (∀ k r i j, t.dev.reg k r i j = s.dev.reg k r i j) ∧ t.adm = s.adm ∧ t.pending = s.pending

@[simp] theorem State.core_withCore_same (s : State) (h : Hart) (f : Core → Core) : (s.withCore h f).core h = f (s.core h) :=
  Dev.core_onCore_same _ _ _

theorem State.core_withCore_ne (s : State) {h g : Hart} (ne : g ≠ h) (f : Core → Core) : (s.withCore h f).core g = s.core g :=
  Dev.core_onCore_ne _ _ ne

/-- Writing one g register and going on changes that register, the PC and what counting changes. -/
theorem onlyG_of_nextG {s t : State} {h : Hart} {rd : GReg} {v : Word} (e : s.nextG h rd v = .next t) : s.onlyG t h rd := by
  obtain rfl : s.withCore h (fun c => (c.setG rd v).next) = t := Host.Outcome.next.inj e
  refine ⟨fun r ne => ?_, ?_, ?_, fun n out => ?_, fun n ne => ?_, ?_, ?_, ?_, ?_, ?_, fun g ne => State.core_withCore_ne s ne _,
    fun _ => rfl, fun k r i j => Dev.reg_onCore _ _ _ _ _ _ _, rfl, rfl⟩
  · simp [Core.getG_setG_ne _ ne]
  · simp
  · simp
  · have untouched : ¬ tallied n := by unfold tallied; omega
    simp [Core.sysGet_next_untallied untouched]
  · simp [Core.ivGet_next ne]
  all_goals simp

theorem onlyG_of_regInsn {s : State} {h : Hart} (r : s.ready h = true) (rd : GReg) (v : Core → Word) (t : State)
    (e : (.next (s.onDev fun _ d => d.regInsn h fun c => c.setG rd (v c)) : Answer) = .next t) : s.onlyG t h rd :=
  onlyG_of_nextG ((nextG_of_regInsn r rd v).symm.trans e)

theorem onlyG_of_serverInsn {s : State} {h : Hart} (r : s.ready h = true) (u : isServer h = true) (w : Word) (rd : GReg)
    (v : Core → Word) (t : State)
    (e : (.next (s.onDev fun a d => d.serverInsn a h w fun c => c.setG rd (v c)) : Answer) = .next t) : s.onlyG t h rd :=
  onlyG_of_nextG ((nextG_of_serverInsn r u w rd v).symm.trans e)

/-- Settles O13: each of the instructions writes `rd` alone, the integer ones on every core and the others on a server core;
`onlyG_of_nextG` is the frame. -/
theorem registerFrame : Obligations.RegisterFrame := by
  intro s t h rd ra rb va pa w q imm sh c r v m e
  show s.onlyG t h rd
  revert c
  simp only [List.forall_mem_cons]
  iterate 39 refine ⟨onlyG_of_regInsn r rd _ t, ?_⟩
  iterate 17 refine ⟨onlyG_of_serverInsn r v _ rd _ t, ?_⟩
  exact fun c none => absurd none List.not_mem_nil

end Sys2Proof.Machine
end

section
/-! Control transfer: where a branch, jump or call goes and what it leaves, and the windows that annul (R51, R75 to R80). -/

namespace Sys2Proof.Machine

/-! ### Resolution -/

section
variable {α : Type} (P : Core → α) (hs : ∀ (c : Core) (n : Nat) (v : Word), tallied n → P (c.sysSet n v) = P c)
  (hv : ∀ (c : Core) (v : Word), P (c.ivSet 3 v) = P c)
  (hm : ∀ (c : Core) (pc fp : Word) (q : List Fetched) (p : Predictor), P { c with pc, fetchPc := fp, fetchQ := q, pred := p } = P c)

include hm in
/-- A branch that executes changes fetch and the predictor alone. -/
theorem Core.resolveAt_keeps (c : Core) (i : Nat) (f : Option Fetched) (k : BKind) (live taken : Bool) (pc target npc : Word) :
    P (c.resolveAt i f k live taken pc target npc) = P c := by
  have fetch : ∀ (c : Core) (fp : Word) (q : List Fetched) (p : Predictor),
      P { c with fetchPc := fp, fetchQ := q, pred := p } = P c := fun c fp q p => hm c c.pc fp q p
  simp only [Core.resolveAt, apply_ite P, fetch, ite_self]

include hs hv hm

/-- A branch that retires changes what counting changes, the PC, fetch and the predictor alone. -/
theorem Core.retireBranch_preserves (c : Core) (f : Option Fetched) (k : BKind) (live taken : Bool) (target npc : Word) :
    P (c.retireBranch f k live taken target npc) = P c := by
  have pred : ∀ (c : Core) (p : Predictor), P { c with pred := p } = P c := fun c p => hm c c.pc c.fetchPc c.fetchQ p
  have restart : ∀ c : Core, P { c.refetch npc with pc := npc } = P c := fun c => hm c npc npc [] _
  simp only [Core.retireBranch, apply_ite P, restart, Core.moveTo_keeps P hm, Core.countInst_preserves P hs hv,
    Core.event_preserves P hs hv, pred, ite_self]

/-- A control transfer changes what counting changes, the PC, fetch and the predictor alone. -/
theorem Core.resolve_preserves (c : Core) (h : Hart) (k : BKind) (live taken : Bool) (target npc : Word) :
    P (c.resolve h k live taken target npc) = P c := by
  unfold Core.resolve
  split
  · rw [Core.retire, Core.moveTo_keeps P hm, Core.countInst_preserves P hs hv]
    split <;> exact Core.event_preserves P hs hv _ _ _ _
  · rw [Core.retireBranch_preserves P hs hv hm, Core.resolveAt_keeps P hm]

/-- An annulled instruction changes what counting changes, the PC, fetch, the predictor and the window alone. -/
theorem Core.annulOne_preserves (hw : ∀ (c : Core) (n : Nat), P { c with annul := n } = P c) (c : Core) : P c.annulOne = P c := by
  have pred : ∀ (c : Core) (p : Predictor), P { c with pred := p } = P c := fun c p => hm c c.pc c.fetchPc c.fetchQ p
  unfold Core.annulOne
  rw [hw, Core.next_preserves P hs hv hm, Core.event_preserves P hs hv]
  split
  · split
    · exact pred _ _
    · rfl
  · rfl

end

@[simp] theorem Core.retireBranch_pc (c : Core) (f : Option Fetched) (k : BKind) (live taken : Bool) (target npc : Word) :
    (c.retireBranch f k live taken target npc).pc = npc := by
  simp only [Core.retireBranch, apply_ite Core.pc, Core.moveTo_pc, ite_self]

@[simp] theorem Core.resolve_pc (c : Core) (h : Hart) (k : BKind) (live taken : Bool) (target npc : Word) :
    (c.resolve h k live taken target npc).pc = npc := by
  unfold Core.resolve
  split
  · exact Core.retire_pc _ _
  · exact Core.retireBranch_pc _ _ _ _ _ _ _

@[simp] theorem Core.annulOne_pc (c : Core) : c.annulOne.pc = c.pc + 4 := by
  have kept : ∀ c : Core, (c.event 0x05 1 c.pc).pc = c.pc := fun c =>
    Core.event_preserves Core.pc (fun _ _ _ _ => rfl) (fun _ _ => rfl) c _ _ _
  unfold Core.annulOne
  show Core.pc (Core.next _) = _
  rw [Core.next_pc, kept]
  split
  · split <;> rfl
  · rfl

@[simp] theorem Core.annulOne_annul (c : Core) : c.annulOne.annul = c.annul - 1 := by
  unfold Core.annulOne
  show Core.annul _ - 1 = _
  split
  · split <;> rfl
  · rfl

@[simp] theorem Core.getG_resolve (c : Core) (h : Hart) (k : BKind) (live taken : Bool) (target npc : Word) (r : GReg) :
    (c.resolve h k live taken target npc).getG r = c.getG r :=
  Core.resolve_preserves (Core.getG · r) (fun _ _ _ _ => rfl) (fun _ _ => rfl) (fun _ _ _ _ _ => rfl) c h k live taken target npc

/-! ### The registers and the store buffer, which control transfer leaves -/

/-- The registers and the store buffer of a core. -/
def Core.files (c : Core) : Tbl Word × Tbl Line × Tbl Word × List SbEntry := (c.g, c.v, c.p, c.sb)

theorem Core.files_resolve (c : Core) (h : Hart) (k : BKind) (live taken : Bool) (target npc : Word) :
    (c.resolve h k live taken target npc).files = c.files :=
  Core.resolve_preserves Core.files (fun _ _ _ _ => rfl) (fun _ _ => rfl) (fun _ _ _ _ _ => rfl) c h k live taken target npc

theorem Core.files_annulOne (c : Core) : c.annulOne.files = c.files :=
  Core.annulOne_preserves Core.files (fun _ _ _ _ => rfl) (fun _ _ => rfl) (fun _ _ _ _ _ => rfl) (fun _ _ => rfl) c

theorem Core.files_openWindow (c : Core) (holds : Bool) (n : Nat) : (c.openWindow holds n).files = c.files := by
  have kept : c.next.files = c.files :=
    Core.next_preserves Core.files (fun _ _ _ _ => rfl) (fun _ _ => rfl) (fun _ _ _ _ _ => rfl) c
  cases holds <;> exact kept

@[simp] theorem Core.openWindow_pc (c : Core) (holds : Bool) (n : Nat) : (c.openWindow holds n).pc = c.pc + 4 := by
  cases holds <;> exact c.next_pc

theorem Core.openWindow_annul {c : Core} (none : c.annul = 0) (holds : Bool) (n : Nat) :
    (c.openWindow holds n).annul = if holds then n else 0 := by
  cases holds
  · exact c.next_annul.trans none
  · rfl

/-- A change of a core that leaves its registers and its store buffer. -/
theorem State.onlyPc_withCore {s : State} {h : Hart} {f : Core → Core} (kept : (f (s.core h)).files = (s.core h).files) :
    s.onlyPc (s.withCore h f) h := by
  obtain ⟨g, v, p, sb⟩ : _ ∧ _ ∧ _ ∧ _ := by simpa only [Core.files, Prod.mk.injEq] using kept
  refine ⟨?_, ?_, ?_, ?_, fun k ne => State.core_withCore_ne s ne f, rfl, rfl, rfl⟩
  all_goals rwa [State.core_withCore_same]

/-! ### Instructions that may enter the window -/

/-- Nothing is before the instruction of a ready hart, which takes it at once. -/
theorem Dev.inWindow_ready {d : Dev} {h : Hart} (r : d.ready h = true) (ok : Core → Bool) (behind now : Dev → Dev) :
    d.inWindow h ok behind now = now d := by
  obtain ⟨run, -, lq, devLoad, -⟩ := (d.ready_iff h).1 r
  have first : (d.core h).behind = false := by simp [Core.behind, Core.atomOut, lq, devLoad]
  unfold Dev.inWindow
  rw [Dev.wake_running run]
  simp only [first, Bool.false_eq_true, if_false]
  exact Dev.insn_ready r now

theorem annulWindow_false {n : Nat} (off : BitVec n) : annulWindow false off = none := by simp [annulWindow]

theorem annulWindow_true {n : Nat} {off : BitVec n} (lo : 2 ≤ off.toInt) (hi : off.toInt ≤ 17) :
    annulWindow true off = some (off.toInt.toNat - 1) := by simp [annulWindow, lo, hi]

section
variable {d : Dev} {h : Hart} (r : d.ready h = true)
include r

theorem Dev.not_annulling : ((d.core h).run = .running && decide (0 < (d.core h).annul)) = false := by
  obtain ⟨-, annul, -⟩ := (d.ready_iff h).1 r
  simp [annul]

/-- A branch without a window goes to its target when its condition holds, else to the next instruction. -/
theorem Dev.branch_ready {n : Nat} {annul : Bool} {off : BitVec n} (w : annulWindow annul off = none) (deps : List GReg)
    (holds : Core → Bool) :
    d.branch h deps annul off holds = d.onCore h fun c =>
      c.resolve h .cond true (holds c) (branchTarget c.pc off) (if holds c then branchTarget c.pc off else c.pc + 4) := by
  simp only [Dev.branch, Dev.not_annulling r, Bool.false_eq_true, if_false, Dev.inWindow_ready r, w]

/-- A branch with a window opens it when its condition holds. -/
theorem Dev.branch_ready_window {n k : Nat} {annul : Bool} {off : BitVec n} (w : annulWindow annul off = some k) (deps : List GReg)
    (holds : Core → Bool) : d.branch h deps annul off holds = d.onCore h fun c => c.openWindow (holds c) k := by
  simp only [Dev.branch, Dev.not_annulling r, Bool.false_eq_true, if_false, Dev.inWindow_ready r, w]

end

/-- A command that changes one core answers the state with that core changed. -/
theorem State.next_withCore {s : State} {h : Hart} {f : Admin → Dev → Dev} {g : Core → Core} (e : f s.adm s.dev = s.dev.onCore h g) :
    (.next (s.onDev f) : Answer) = .next (s.withCore h g) := by
  rw [State.onDev_eq, e]
  rfl

/-! ### Branches and calls (R75 to R77) -/

/-- Settles O20: a branch without a window is one resolution of its core, by `branch_ready`, and the PC goes where it resolves. -/
theorem branches : Obligations.Branches := by
  intro s h ra rb cond o12 o17 o26 r
  dsimp only
  refine ⟨⟨_, State.next_withCore (Dev.branch_ready r (annulWindow_false o12) _ _),
      State.onlyPc_withCore (Core.files_resolve _ _ _ _ _ _ _), ?_⟩,
    ⟨_, State.next_withCore (Dev.branch_ready r (annulWindow_false o17) _ _),
      State.onlyPc_withCore (Core.files_resolve _ _ _ _ _ _ _), ?_⟩,
    ⟨_, State.next_withCore (Dev.insn_ready r _), State.onlyPc_withCore (Core.files_resolve _ _ _ _ _ _ _), ?_⟩, fun x y => ?_⟩
  · rw [State.core_withCore_same, Core.resolve_pc]
    rfl
  · rw [State.core_withCore_same, Core.resolve_pc]
    rfl
  · rw [State.core_withCore_same, Core.resolve_pc]
    rfl
  · refine ⟨rfl, ?_, rfl, rfl, rfl, rfl⟩
    simp [condHolds, beq_eq_decide]

/-- JALR to a target that is a multiple of 4. -/
theorem Dev.jalr_ready {d : Dev} {h : Hart} (r : d.ready h = true) {rd ra : GReg} {imm : BitVec 16}
    (aligned : (effAddr ((d.core h).getG ra) imm).toNat % 4 = 0) (s : State) (own : s.dev = d) :
    exec (.jalr h rd ra imm) s = .next (s.withCore h fun c =>
      (c.setG rd (c.pc + 4)).resolve h (jalrKind rd ra) true true (effAddr ((d.core h).getG ra) imm)
        (effAddr ((d.core h).getG ra) imm)) := by
  subst own
  refine State.next_withCore ((Dev.inWindow_ready r _ _ _).trans ?_)
  simp only [aligned, ne_eq, not_true, if_false]

/-- Settles O21: JAL and JALR write the address of the next instruction and resolve to their target, which JALR takes from the
registers as they were. -/
theorem calls : Obligations.Calls := by
  intro s h rd ra imm off r
  dsimp only
  refine ⟨⟨_, State.next_withCore (Dev.insn_ready r _), ?_, ?_, fun q ne => ?_⟩, fun aligned =>
    ⟨_, Dev.jalr_ready r aligned s rfl, ?_, fun named => ?_, fun q ne => ?_⟩⟩
  · rw [State.core_withCore_same, Core.resolve_pc]
    rfl
  · rw [State.core_withCore_same, Core.getG_resolve, Core.getG_setG_same _ (by decide)]
  · rw [State.core_withCore_same, Core.getG_resolve, Core.getG_setG_ne _ ne]
  · rw [State.core_withCore_same, Core.resolve_pc]
    rfl
  · rw [State.core_withCore_same, Core.getG_resolve, Core.getG_setG_same _ named]
  · rw [State.core_withCore_same, Core.getG_resolve, Core.getG_setG_ne _ ne]

/-- Settles O7: the registers that read as constants discard writes, and JAL's return address is in g1 by O21. -/
theorem zeroRegisters : Obligations.ZeroRegisters := by
  refine ⟨fun c v => ⟨rfl, rfl, rfl, rfl⟩, fun c r v named => Core.getG_setG_same c named v,
    fun c r v named => Core.getP_setP_same c named v, fun s h off r => ?_⟩
  obtain ⟨⟨t, e, -, link, -⟩, -⟩ := calls s h 0 0 0 off r
  exact ⟨t, e, link⟩

/-! ### Annulled windows (R78 to R80) -/

/-- Inside a window `insn` annuls the instruction. -/
theorem Dev.insn_annulled {d : Dev} {h : Hart} (run : (d.core h).run = .running) (window : 0 < (d.core h).annul) (body : Dev → Dev) :
    d.insn h body = d.onCore h Core.annulOne := by
  unfold Dev.insn
  rw [Dev.wake_running run]
  simp only [run, window, ne_eq, not_true, if_false, if_true]

theorem Dev.aluRR_annulled {d : Dev} {h : Hart} (run : (d.core h).run = .running) (window : 0 < (d.core h).annul) (rd ra rb : GReg)
    (f : Word → Word → Word) : d.aluRR h rd ra rb f = d.onCore h Core.annulOne := by
  rw [Dev.aluRR, Dev.regInsn, Dev.insn_annulled run window]

/-- A ready hart is in no window. -/
theorem State.annul_of_ready {s : State} {h : Hart} (r : s.ready h = true) : (s.core h).annul = 0 := by
  obtain ⟨-, annul, -⟩ := (s.dev.ready_iff h).1 r
  exact annul

/-- Settles O22: an opener retires and leaves its window by `openWindow`, and an instruction inside one is `annulOne`. -/
theorem annulWindows : Obligations.AnnulWindows := by
  intro s h rd ra rb cond n o12
  dsimp only
  refine ⟨fun r => ⟨_, State.next_withCore (Dev.insn_ready r _), State.onlyPc_withCore (Core.files_openWindow _ _ _), ?_, ?_⟩,
    fun r lo hi => ⟨_, State.next_withCore (Dev.branch_ready_window r (annulWindow_true lo hi) _ _),
      State.onlyPc_withCore (Core.files_openWindow _ _ _), ?_, ?_⟩,
    fun run window => ⟨_, State.next_withCore (Dev.aluRR_annulled run window _ _ _ _), State.onlyPc_withCore (Core.files_annulOne _), ?_, ?_⟩⟩
  · rw [State.core_withCore_same, Core.openWindow_pc]
  · rw [State.core_withCore_same, Core.openWindow_annul (State.annul_of_ready r)]
  · rw [State.core_withCore_same, Core.openWindow_pc]
  · rw [State.core_withCore_same, Core.openWindow_annul (State.annul_of_ready r)]
    split <;> omega
  · rw [State.core_withCore_same, Core.annulOne_pc]
  · rw [State.core_withCore_same, Core.annulOne_annul]

end Sys2Proof.Machine
end

section
/-! Loads, stores and fences whose accesses are performed at once: from a block at rest, what they answer is one change of their core
(R61, R69, R70, R74, R86, R112, R133, R142 to R144). -/

namespace Sys2Proof.Machine

/-! ### A core at rest -/

theorem Dev.core_atRest {d : Dev} (q : d.quiet = true) (h : Hart) : (d.core h).atRest = true := by
  obtain ⟨-, -, -, rest⟩ := d.quiet_iff.1 q
  rcases Tbl.get_mem Core.reset (d.sock h.sock.val).cores h.core.val with e | m
  · rw [Dev.core, e]
    rfl
  · exact (Dev.cores_rest_iff d).1 rest h.sock _ m h.core.isLt

/-- The end of an access forgets which lines it took and which it installed (R183, R260). -/
def Core.forget (c : Core) : Core := { c with recent := [], newD := [] }

/-- With no answer held back, the end of an access forgets and no more. -/
theorem Dev.accessDone_rest {d : Dev} (q : d.quiet = true) (a : Tables) (h : Hart) : d.accessDone a h = d.onCore h Core.forget := by
  have rest := Dev.core_atRest q h
  simp only [Core.atRest, Bool.and_eq_true] at rest
  obtain ⟨⟨delayed, -⟩, -⟩ := rest
  simp only [Dev.accessDone, delayed, if_true]
  rfl

theorem Dev.quiet_forget {d : Dev} (q : d.quiet = true) (h : Hart) : (d.onCore h Core.forget).quiet = true :=
  Dev.quiet_onCore q h _ fun _ rest => rest

/-- An access that leaves the block at rest ends there. -/
theorem Dev.accessDone_finish {d : Dev} (q : d.quiet = true) (a : Admin) (h : Hart) :
    (d.accessDone a.tab h).finish a = d.onCore h Core.forget := by
  rw [Dev.accessDone_rest q, Dev.finish_rest a (Dev.quiet_forget q h)]

theorem Core.atRest_setG (c : Core) (r : GReg) (v : Word) : (c.setG r v).atRest = c.atRest :=
  Core.setG_keeps Core.atRest (fun _ _ => rfl) c r v

theorem Core.atRest_loadReg (c : Core) (e : LqEntry) (v : Line) : (c.loadReg e v).atRest = c.atRest := by
  unfold Core.loadReg
  split
  · rfl
  · exact Core.atRest_setG _ _ _

/-! ### Events of accesses -/

section
variable {α : Type} (P : Core → α) (hs : ∀ (c : Core) (n : Nat) (v : Word), tallied n → P (c.sysSet n v) = P c)
  (hv : ∀ (c : Core) (v : Word), P (c.ivSet 3 v) = P c)
include hs hv

theorem Core.loadEvents_preserves (c : Core) (lvl : Nat) (waited : Bool) (ip : Word) : P (c.loadEvents lvl waited ip) = P c := by
  simp only [Core.loadEvents, Core.event_preserves P hs hv]

theorem Core.storeEvents_preserves (c : Core) (ps : List (Nat × Nat)) (ip : Word) : P (c.storeEvents ps ip) = P c := by
  simp only [Core.storeEvents, Core.event_preserves P hs hv]

end

theorem Core.atRest_loadEvents (c : Core) (lvl : Nat) (waited : Bool) (ip : Word) : (c.loadEvents lvl waited ip).atRest = c.atRest :=
  Core.loadEvents_preserves Core.atRest (fun _ _ _ _ => rfl) (fun _ _ => rfl) c lvl waited ip

theorem Core.atRest_storeEvents (c : Core) (ps : List (Nat × Nat)) (ip : Word) : (c.storeEvents ps ip).atRest = c.atRest :=
  Core.storeEvents_preserves Core.atRest (fun _ _ _ _ => rfl) (fun _ _ => rfl) c ps ip

@[simp] theorem State.core_withDev (s : State) (d : Dev) (h : Hart) : (s.withDev d).core h = d.core h := rfl

/-- A command whose device effect is known. -/
theorem State.next_withDev {s : State} {f : Admin → Dev → Dev} {d : Dev} (e : f s.adm s.dev = d) :
    (.next (s.onDev f) : Answer) = .next (s.withDev d) := by
  rw [State.onDev_eq, e]

/-! ### Loads (R61) -/

/-- The oldest load whose parts are at hand is performed. -/
theorem Dev.performLoad_hit {a : Tables} {d1 d : Dev} {h : Hart} {e : LqEntry} {vs : List Part} (given : e.given = [])
    (out : (d1.core h).atomOut = false) (got : d1.loadParts a h e.parts = (some vs, d)) :
    d1.performLoad a h [] e = ({ e with
      value := some (joinParts e.parts vs), poison := firstPoison e.va e.parts vs
      lvl := vs.foldl (fun m v => Nat.max m v.lvl) 0, waited := e.waited || vs.any fun v => v.waited
      src := vs.map fun _ => 0 }, d) := by
  have parts : d1.windowParts a h [] e.given e.parts = (some (vs.map fun v => (v, 0)), false, d) := by
    simp [Dev.windowParts, given, out, got]
  have plain : (vs.map fun v => (v, 0)).map Prod.fst = vs := by simp [Function.comp_def]
  have source : (vs.map fun v => (v, 0)).map Prod.snd = vs.map fun _ => 0 := by simp [Function.comp_def]
  simp [Dev.performLoad, parts, plain, source]

/-- The oldest load, its data at hand, retires at once. -/
theorem State.loadNow_hit {s : State} {h : Hart} {va : Word} {n : Nat} {ps : List (Nat × Nat)} {vs : List Part} {d : Dev}
    (hit : s.loadHit h va n true ps vs d) (pc : Word) (rd : Nat) (vec signed : Bool) :
    (s.dev.loadNow s.adm.tab h (loadEntry pc va rd vec signed n)).finish s.adm =
      (d.onCore h fun c => ((c.loadReg (loadEntry pc va rd vec signed n) (joinParts ps vs)).loadEvents
        (vs.foldl (fun m v => Nat.max m v.lvl) 0) (vs.any fun v => v.waited) pc).next).onCore h Core.forget := by
  obtain ⟨d1, checked, out, got, clean, q⟩ := hit
  have performed := Dev.performLoad_hit (e := { loadEntry pc va rd vec signed n with parts := ps }) rfl out got
  have checked' : s.dev.check s.adm.tab h (s.dev.core h).level .load (loadEntry pc va rd vec signed n).va
      (loadEntry pc va rd vec signed n).size true = (.go ps false, d1) := checked
  have clean' : firstPoison (loadEntry pc va rd vec signed n).va ps vs = none := clean
  unfold Dev.loadNow
  rw [checked']
  simp only [Bool.false_eq_true, if_false, performed, Option.isSome_some, if_true, Dev.retireLoad, clean', Option.getD_some]
  exact Dev.accessDone_finish (Dev.quiet_onCore q h _ fun c rest => by
    rwa [Core.atRest_next, Core.atRest_loadEvents, Core.atRest_loadReg]) _ _

theorem Dev.loadInsn_ready {d : Dev} {h : Hart} (r : d.ready h = true) (a : Tables) (deps : List GReg) (va : Core → Word) (rd : BitVec 5)
    (vec signed : Bool) (n : Nat) :
    d.loadInsn a h deps va rd vec signed n = d.loadNow a h (loadEntry (d.core h).pc (va (d.core h)) rd.toNat vec signed n) :=
  Dev.inWindow_ready r _ _ _

theorem nextLoad_of_loadInsn {s : State} {h : Hart} (r : s.ready h = true) {va : Core → Word} {n : Nat} {ps : List (Nat × Nat)}
    {vs : List Part} {d : Dev} (hit : s.loadHit h (va (s.core h)) n true ps vs d) (deps : List GReg) (rd : BitVec 5)
    (vec signed : Bool) {w : Core → Core}
    (e : ∀ c, c.loadReg (loadEntry (s.core h).pc (va (s.core h)) rd.toNat vec signed n) (joinParts ps vs) = w c) :
    (.next (s.onDev fun a d => (d.loadInsn a.tab h deps va rd vec signed n).finish a) : Answer) =
      s.nextLoad h d vs (s.core h).pc w := by
  obtain rfl : (fun c => c.loadReg (loadEntry (s.core h).pc (va (s.core h)) rd.toNat vec signed n) (joinParts ps vs)) = w := funext e
  refine State.next_withDev ?_
  rw [Dev.loadInsn_ready r]
  exact State.loadNow_hit hit _ _ _ _

theorem nextLoad_of_loadI {s : State} {h : Hart} (r : s.ready h = true) {rd ra : GReg} {imm : BitVec 16} {n : Nat}
    {ps : List (Nat × Nat)} {vs : List Part} {d : Dev}
    (hit : s.loadHit h ((s.core h).getG ra + imm.signExtend 64) n true ps vs d) (signed : Bool) {w : Core → Core}
    (e : ∀ c pc va, c.loadReg (loadEntry pc va rd.toNat false signed n) (joinParts ps vs) = w c) :
    (.next (s.onDev fun a d => d.loadI a h rd ra imm signed n) : Answer) = s.nextLoad h d vs (s.core h).pc w :=
  nextLoad_of_loadInsn r (va := fun c => effAddr (c.getG ra) imm) hit [ra] rd false signed fun c => e c _ _

theorem Core.loadReg_vec (c : Core) (pc va : Word) (vd : VReg) (signed : Bool) (n : Nat) (v : Line) :
    c.loadReg (loadEntry pc va vd.toNat true signed n) v = c.setV vd v := by
  simp [Core.loadReg, loadEntry, windowEntry]

theorem Core.loadReg_scalar (c : Core) (pc va : Word) (rd : GReg) (signed : Bool) (n : Nat) (v : Line) :
    c.loadReg (loadEntry pc va rd.toNat false signed n) v =
      c.setG rd (if signed then sext (8 * n) (v.setWidth 64 &&& word (2 ^ (8 * n) - 1)) else v.setWidth 64 &&& word (2 ^ (8 * n) - 1)) := by
  have reg : BitVec.ofNat 5 rd.toNat = rd := by simp
  show c.setG (BitVec.ofNat 5 rd.toNat) _ = _
  rw [reg]
  rfl

/-- The low `n` bits of a value, as the low `n` bits of its low word. -/
theorem setWidth_low {n : Nat} (fits : n ≤ 64) (v : Line) :
    v.setWidth 64 &&& word (2 ^ n - 1) = (v.setWidth n).setWidth 64 := by
  rw [mask_eq_setWidth, BitVec.setWidth_setWidth_of_le _ fits]

theorem Core.loadReg_zext (c : Core) (pc va : Word) (rd : GReg) {n : Nat} (fits : 8 * n ≤ 64) (v : Line) :
    c.loadReg (loadEntry pc va rd.toNat false false n) v = c.setG rd ((v.setWidth (8 * n)).setWidth 64) := by
  rw [Core.loadReg_scalar, setWidth_low fits]
  rfl

theorem Core.loadReg_sext (c : Core) (pc va : Word) (rd : GReg) {n : Nat} (fits : 8 * n ≤ 64) (v : Line) :
    c.loadReg (loadEntry pc va rd.toNat false true n) v = c.setG rd ((v.setWidth (8 * n)).signExtend 64) := by
  have low : ((v.setWidth (8 * n)).setWidth 64).setWidth (8 * n) = v.setWidth (8 * n) := by
    rw [BitVec.setWidth_setWidth_of_le _ fits, BitVec.setWidth_eq]
  rw [Core.loadReg_scalar, setWidth_low fits, sext, low]
  rfl

/-- Settles O14: each of the instructions is `loadInsn` of its address, size and extension, which a load with its data at hand retires
by `loadReg`. -/
theorem loadResults : Obligations.LoadResults := by
  intro s h rd ra rb vd imm size scale zext ps vs d r
  dsimp only
  refine ⟨?_, ?_, ?_, ?_, ?_, ?_, ?_, ?_, ?_, ?_⟩
  all_goals intro hit
  · exact nextLoad_of_loadI r hit true fun c _ _ => c.loadReg_sext _ _ rd (by decide) _
  · exact nextLoad_of_loadI r hit false fun c _ _ => c.loadReg_zext _ _ rd (by decide) _
  · exact nextLoad_of_loadI r hit true fun c _ _ => c.loadReg_sext _ _ rd (by decide) _
  · exact nextLoad_of_loadI r hit false fun c _ _ => c.loadReg_zext _ _ rd (by decide) _
  · exact nextLoad_of_loadI r hit true fun c _ _ => c.loadReg_sext _ _ rd (by decide) _
  · exact nextLoad_of_loadI r hit false fun c _ _ => c.loadReg_zext _ _ rd (by decide) _
  · exact nextLoad_of_loadI r hit false fun c _ _ => (c.loadReg_zext _ _ rd (by decide) _).trans (by simp)
  · exact nextLoad_of_loadInsn r (va := fun c => effAddr (c.getG ra) imm) hit [ra] vd true false fun c => c.loadReg_vec _ _ vd _ _ _
  · refine nextLoad_of_loadInsn r (va := fun c => idxAddr (c.getG ra) (c.getG rb) scale) hit [ra, rb] rd false (!zext)
      fun c => (c.loadReg_scalar _ _ rd _ _ _).trans ?_
    cases zext <;> rfl
  · exact nextLoad_of_loadInsn r (va := fun c => idxAddr (c.getG ra) (c.getG rb) scale) hit [ra, rb] rd true (!zext)
      fun c => c.loadReg_vec _ _ rd _ _ _

/-! ### Stores (R61, R133) -/

theorem Core.atRest_pushParts (ps : List (Nat × Nat)) (c : Core) (va : Word) (v : Line) (dev split : Bool) :
    (c.pushParts va ps v dev split).atRest = c.atRest := by
  induction ps generalizing c va v with
  | nil => rfl
  | cons p ps ih => rw [Core.pushParts, ih, Core.atRest_pushStore]

/-- A store that fits retires at once. -/
theorem State.storeNow_fits {s : State} {h : Hart} {va : Word} {n : Nat} {ps : List (Nat × Nat)} {d : Dev}
    (fits : s.storeFits h va n ps d) (v : Line) :
    (s.dev.storeNow s.adm.tab h va n v).finish s.adm =
      (d.onCore h fun c => (c.pushParts va ps v false (1 < ps.length)).next).onCore h Core.forget := by
  obtain ⟨d1, d2, checked, room, early, q⟩ := fits
  have checked' : s.dev.check s.adm.tab h (s.dev.core h).level .store va n true = (.go ps false, d1) := checked
  unfold Dev.storeNow
  rw [checked']
  simp only [room, Bool.false_eq_true, if_false, early]
  exact Dev.accessDone_finish (Dev.quiet_onCore q h _ fun c rest => by rwa [Core.atRest_next, Core.atRest_pushParts]) _ _

theorem Dev.storeInsn_ready {d : Dev} {h : Hart} (r : d.ready h = true) (a : Tables) (f : StForm) :
    d.storeInsn a h f = d.storeNow a h (f.addr (d.core h)) f.n (f.data (d.core h)) :=
  Dev.inWindow_ready r _ _ _

theorem nextStore_of_storeInsn {s : State} {h : Hart} (r : s.ready h = true) {f : StForm} {va : Word} {ps : List (Nat × Nat)} {v : Line}
    {d : Dev} (addr : f.addr (s.core h) = va) (data : f.data (s.core h) = v) (fits : s.storeFits h va f.n ps d) :
    (.next (s.onDev fun a d => (d.storeInsn a.tab h f).finish a) : Answer) = s.nextStore h d va ps v := by
  subst addr data
  refine State.next_withDev ?_
  rw [Dev.storeInsn_ready r]
  exact State.storeNow_fits fits _

theorem StForm.addr_imm (c : Core) (ra : GReg) (imm : BitVec 16) (rs : Nat) (vec : Bool) (n : Nat) :
    ({ ra := ra.toNat, rb := none, imm, rs, vec, n } : StForm).addr c = c.getG ra + imm.signExtend 64 := by
  simp [StForm.addr, effAddr]

theorem StForm.addr_idx (c : Core) (ra rb : GReg) (scale : Fin 4) (imm : BitVec 16) (rs : Nat) (vec : Bool) (n : Nat) :
    ({ ra := ra.toNat, rb := some (rb.toNat, scale), imm, rs, vec, n } : StForm).addr c = c.getG ra + (c.getG rb <<< scale.val) := by
  simp [StForm.addr, idxAddr]

theorem StForm.data_scalar (c : Core) (ra : Nat) (rb : Option (Nat × Fin 4)) (imm : BitVec 16) (rs : GReg) (n : Nat) :
    ({ ra, rb, imm, rs := rs.toNat, vec := false, n } : StForm).data c = (c.getG rs).setWidth 512 := by
  simp [StForm.data]

theorem StForm.data_vec (c : Core) (ra : Nat) (rb : Option (Nat × Fin 4)) (imm : BitVec 16) (rs : VReg) (n : Nat) :
    ({ ra, rb, imm, rs := rs.toNat, vec := true, n } : StForm).data c = c.getV rs := by
  simp [StForm.data]

/-- Settles O15: each of the instructions is `storeInsn` of its address, size and data. -/
theorem storeResults : Obligations.StoreResults := by
  intro s h rs ra rb vr imm size scale ps d r
  dsimp only
  refine ⟨?_, ?_, ?_, ?_, ?_, ?_, ?_⟩
  iterate 4 exact nextStore_of_storeInsn r (StForm.addr_imm _ ra _ _ _ _) (StForm.data_scalar _ _ _ _ rs _)
  · exact nextStore_of_storeInsn r (StForm.addr_imm _ ra _ _ _ _) (StForm.data_vec _ _ _ _ vr _)
  · exact nextStore_of_storeInsn r (StForm.addr_idx _ ra rb _ _ _ _ _) (StForm.data_scalar _ _ _ _ rs _)
  · exact nextStore_of_storeInsn r (StForm.addr_idx _ ra rb _ _ _ _ _) (StForm.data_vec _ _ _ _ rs _)

/-- With room for its entries a store finds the buffer as it is. -/
theorem Dev.sbRoom_room {d : Dev} {h : Hart} {n : Nat} (room : (d.core h).sb.length + n ≤ 64) (a : Tables) :
    d.sbRoom a drainFuel h n = (true, d) := by
  show Dev.sbRoom a 80 d h n = _
  unfold Dev.sbRoom
  simp only [room, if_true]

/-- With early ownership requests disabled a store makes none (R132). -/
theorem Dev.ownEarly_off {d : Dev} {h : Hart} (off : bit ((d.core h).sysGet 0x20B) 2 = true) (a : Tables) (p : Nat × Nat) :
    d.ownEarly a h [p] = d := by
  simp [Dev.ownEarly, Dev.each, off]

/-- Where an entry goes depends on the store buffer alone. -/
theorem Core.pushStore_sb {c e : Core} (same : c.sb = e.sb) (x : SbEntry) (split : Bool) :
    (c.pushStore x split).sb = (e.pushStore x split).sb := by
  unfold Core.pushStore
  rw [same]
  split
  · split <;> rfl
  · rfl

/-- What the core of a store within one line becomes. -/
def Core.stored (va : Word) (pa n : Nat) (v : Line) (c : Core) : Core :=
  (((c.storeEvents [(pa, n)] c.pc).pushStore (storeEntry va pa n v false false) false).next).forget

/-- A store within one line, with room and no early ownership request, fits, and counts its events alone. -/
theorem State.storeFits_one {s : State} {h : Hart} {va : Word} {pa n : Nat} (q : s.quiet = true)
    (checked : s.dev.check s.adm.tab h (s.core h).level .store va n true = (.go [(pa, n)] false, s.dev))
    (room : (s.core h).sb.length < 64) (off : bit ((s.core h).sysGet 0x20B) 2 = true) :
    s.storeFits h va n [(pa, n)] (s.dev.onCore h fun c => c.storeEvents [(pa, n)] c.pc) := by
  refine ⟨s.dev, s.dev, checked, Dev.sbRoom_room room _, Dev.ownEarly_off ?_ _ _, ?_⟩
  · have untouched : ¬ tallied 0x20B := by unfold tallied; omega
    rwa [Dev.core_onCore_same, Core.storeEvents_preserves (Core.sysGet · 0x20B)
      (fun c _ v => Core.sysGet_sysSet_tallied untouched c v) (fun _ _ => rfl)]
  · exact Dev.quiet_onCore q h _ fun c rest => by rwa [Core.atRest_storeEvents]

/-- What a store leaves of its core but the store buffer, the counters, the sampling vector, the PC and fetch. -/
theorem Core.stored_preserves {α : Type} (P : Core → α)
    (hs : ∀ (c : Core) (n : Nat) (v : Word), tallied n → P (c.sysSet n v) = P c)
    (hv : ∀ (c : Core) (v : Word), P (c.ivSet 3 v) = P c)
    (hm : ∀ (c : Core) (pc fp : Word) (q : List Fetched) (p : Predictor), P { c with pc, fetchPc := fp, fetchQ := q, pred := p } = P c)
    (hb : ∀ (c : Core) (l : List SbEntry), P { c with sb := l } = P c) (hf : ∀ c : Core, P c.forget = P c)
    (va : Word) (pa n : Nat) (v : Line) (c : Core) : P (c.stored va pa n v) = P c := by
  rw [Core.stored, hf, Core.next_preserves P hs hv hm, Core.pushStore_keeps P hb, Core.storeEvents_preserves P hs hv]

theorem Core.stored_sb (va : Word) (pa n : Nat) (v : Line) (c : Core) :
    (c.stored va pa n v).sb = (c.pushStore (storeEntry va pa n v false false) false).sb := by
  have events : (c.storeEvents [(pa, n)] c.pc).sb = c.sb :=
    Core.storeEvents_preserves Core.sb (fun _ _ _ _ => rfl) (fun _ _ => rfl) c _ _
  show (Core.next _).sb = _
  rw [Core.next_sb, Core.pushStore_sb events]

/-- Settles O16: by O15 SD is one entry pushed, and `stored_preserves` is what that leaves. -/
theorem storeFrame : Obligations.StoreFrame := by
  intro s h rs ra imm pa t r q
  dsimp only
  intro checked room off e
  have answer := nextStore_of_storeInsn r (StForm.addr_imm _ ra imm _ _ 8) (StForm.data_scalar _ _ _ _ rs _)
    (State.storeFits_one q checked room off)
  obtain rfl := Host.Outcome.next.inj (answer.symm.trans e)
  obtain ⟨net, -⟩ := s.dev.quiet_iff.1 q
  simp only [State.core_withDev, Dev.core_onCore_same]
  refine ⟨Core.stored_sb .., ?_, ?_, ?_, fun n ne => ?_, ?_, fun g ne => ?_, fun _ => rfl, net, rfl, rfl, fun k r i j => ?_⟩
  · exact Core.stored_preserves Core.g (fun _ _ _ _ => rfl) (fun _ _ => rfl) (fun _ _ _ _ _ => rfl) (fun _ _ => rfl) (fun _ => rfl) ..
  · exact Core.stored_preserves Core.v (fun _ _ _ _ => rfl) (fun _ _ => rfl) (fun _ _ _ _ _ => rfl) (fun _ _ => rfl) (fun _ => rfl) ..
  · exact Core.stored_preserves Core.p (fun _ _ _ _ => rfl) (fun _ _ => rfl) (fun _ _ _ _ _ => rfl) (fun _ _ => rfl) (fun _ => rfl) ..
  · exact Core.stored_preserves (Core.ivGet · n) (fun _ _ _ _ => rfl) (fun c => Core.ivGet_ivSet_ne c ne) (fun _ _ _ _ _ => rfl)
      (fun _ _ => rfl) (fun _ => rfl) ..
  · exact Core.stored_preserves Core.tlb (fun _ _ _ _ => rfl) (fun _ _ => rfl) (fun _ _ _ _ _ => rfl) (fun _ _ => rfl) (fun _ => rfl) ..
  · rw [Dev.core_onCore_ne _ _ ne, Dev.core_onCore_ne _ _ ne, Dev.core_onCore_ne _ _ ne]
    rfl
  · simp

/-! ### Unpacking, gathers and scatters (R69, R70, R74) -/

/-- With no active element there is no access to make. -/
theorem elemAddrs_none {w : Fin 4} {p : Word} (idle : ∀ i, i < elems w → bit p i = false) (base : Word) (ix : Line) (scale : Fin 4) :
    elemAddrs w base ix p scale = [] := by
  have active : (List.range (elems w)).filter (fun i => bit p i) = [] :=
    List.filter_eq_nil_iff.2 fun i m => by simp [idle i (List.mem_range.1 m)]
  rw [elemAddrs, active, List.map_nil]

@[simp] theorem Core.getV_next (c : Core) (r : VReg) : c.next.getV r = c.getV r := by
  rw [Core.getV, Core.next_v, Core.getV]

section
variable {s : State} {h : Hart} (r : s.ready h = true) (u : isServer h = true)
include r u

/-- VUNPK whose bytes are at hand. -/
theorem exec_vunpk_hit {vd : VReg} {ra rb : GReg} {k : Fin 32} {ps : List (Nat × Nat)} {vs : List Part} {d : Dev}
    (hit : s.loadHit h ((s.core h).getG ra + ((s.core h).getG rb >>> 3)) (unpackBytes ((s.core h).getG rb).toNat (k.val + 1)) false
      ps vs d) :
    exec (.vunpk h vd ra rb k) s = .next (s.withDev ((d.onCore h Core.forget).onCore h fun c =>
      ((c.loadEvents (vs.foldl (fun m v => Nat.max m v.lvl) 0) (vs.any fun v => v.waited) c.pc).setV vd
        (unpackElems (joinNat ps vs) ((s.core h).getG rb).toNat (k.val + 1))).next)) := by
  obtain ⟨d1, checked, -, got, clean, q⟩ := hit
  have checked' : s.dev.check s.adm.tab h (s.dev.core h).level .load ((s.dev.core h).getG ra + ((s.dev.core h).getG rb >>> 3))
      (unpackBytes ((s.dev.core h).getG rb).toNat (k.val + 1)) false = (.go ps false, d1) := checked
  have clean' : firstPoison ((s.dev.core h).getG ra + ((s.dev.core h).getG rb >>> 3)) ps vs = none := clean
  have server : isWheel h = false := by simpa [isServer] using u
  refine State.next_withDev ((Dev.insn_ready r _).trans ?_)
  simp only [server, Bool.false_eq_true, if_false, Dev.unpack, checked', got, clean', Dev.accessDone_rest q]
  exact Dev.finish_rest _ (Dev.quiet_onCore (Dev.quiet_forget q h) h _ fun c rest => by
    rw [Core.atRest_next]
    exact (Core.atRest_loadEvents _ _ _ _).trans rest)

variable {w : Fin 4} (wide : 2 ≤ w.val) (q : s.quiet = true) (pg : PReg)
  (idle : ∀ i, i < elems w → bit ((s.core h).getP pg) i = false)
include wide q idle

/-- VGATH with no active element writes back what it found. -/
theorem exec_vgath_idle (vd vb : VReg) (ra : GReg) (scale : Fin 4) :
    exec (.vgath h vd ra vb pg w scale) s = .next (s.withDev ((s.dev.onCore h Core.forget).onCore h fun c =>
      (c.setV vd (ofElems w ((List.range (elems w)).map (elem w (c.getV vd))))).next)) := by
  have legal : (isWheel h || decide (w.val < 2)) = false := by
    have server : isWheel h = false := by simpa [isServer] using u
    simp [server, Nat.not_lt.2 wide]
  have idle' : ∀ i, i < elems w → bit ((s.dev.core h).getP pg) i = false := idle
  refine State.next_withDev ((Dev.insn_ready r _).trans ?_)
  simp only [legal, Bool.false_eq_true, if_false, elemAddrs_none idle', Dev.gatherElems, Dev.gatherLoads, List.foldl_nil,
    List.find?_nil, Dev.accessDone_rest q]
  exact Dev.finish_rest _ (Dev.quiet_onCore (Dev.quiet_forget q h) h _ fun c rest => by
    rw [Core.atRest_next]
    exact rest)

/-- VSCATT with no active element stores nothing. -/
theorem exec_vscatt_idle (room : (s.core h).sb.length ≤ 64) (vd vb : VReg) (ra : GReg) (scale : Fin 4) :
    exec (.vscatt h vd ra vb pg w scale) s = .next (s.withDev ((s.dev.onCore h Core.next).onCore h Core.forget)) := by
  have legal : (isWheel h || decide (w.val < 2)) = false := by
    have server : isWheel h = false := by simpa [isServer] using u
    simp [server, Nat.not_lt.2 wide]
  have idle' : ∀ i, i < elems w → bit ((s.dev.core h).getP pg) i = false := idle
  refine State.next_withDev ((Dev.insn_ready r _).trans ?_)
  simp only [legal, Bool.false_eq_true, if_false, elemAddrs_none idle', Dev.scatterElems, Dev.checkElems, List.foldl_nil, List.map_nil,
    List.sum_nil, Dev.sbRoom_room (d := s.dev) (n := 0) room]
  exact Dev.accessDone_finish (Dev.quiet_onCore q h _ fun c rest => by rwa [Core.atRest_next]) _ _

end

/-- The elements of a register, put together again, are its elements. -/
theorem elem_ofElems_elem (w : Fin 4) (v : Line) {i : Nat} (lt : i < elems w) :
    elem w (ofElems w ((List.range (elems w)).map (elem w v))) i = elem w v i := by
  rw [elem_ofElems w _ lt]
  simp [List.getD, lt, elem_mask]

/-- Settles O19: VUNPK is one load of its bytes; with no active element VGATH and VSCATT make no access, and VGATH writes the elements
back as they were. -/
theorem gatherScatterUnpack : Obligations.GatherScatterUnpack := by
  intro s h vd vb ra rb pg w scale k ps vs d r u
  dsimp only
  refine ⟨fun hit => ⟨_, exec_vunpk_hit r u hit, ?_, ?_⟩, fun wide q room idle =>
    ⟨⟨_, exec_vgath_idle r u wide q pg idle vd vb ra scale, ?_, fun i lt => ?_, ?_, rfl⟩,
      _, exec_vscatt_idle r u wide q pg idle room vd vb ra scale, ?_, ?_, ?_, ?_, rfl⟩⟩
  all_goals simp only [State.core_withDev, Dev.core_onCore_same]
  · have kept : ∀ (c : Core) (l : Nat) (b : Bool) (ip : Word), (c.loadEvents l b ip).pc = c.pc := fun c l b ip =>
      Core.loadEvents_preserves Core.pc (fun _ _ _ _ => rfl) (fun _ _ => rfl) c l b ip
    rw [Core.next_pc]
    exact congrArg (· + 4) (kept _ _ _ _)
  · rw [Core.getV_next, Core.getV_setV_same]
    rfl
  · rw [Core.next_g]
    rfl
  · rw [Core.getV_next, Core.getV_setV_same]
    exact elem_ofElems_elem w _ lt
  · rw [Core.next_pc]
    rfl
  · exact Core.next_g _
  · exact Core.next_v _
  · exact Core.next_sb _
  · exact Core.next_pc _

end Sys2Proof.Machine
end

section
/-! Fences, WFI and TLBI from a block at rest (R86, R95, R112, R142 to R144). -/

namespace Sys2Proof.Machine

theorem Core.atRest_nextKill (c : Core) : c.nextKill.atRest = c.atRest := by
  rw [Core.nextKill, Core.atRest_jump, Core.atRest_countInst]

section
variable {s : State} {h : Hart} (r : s.ready h = true) {d : Dev} (drained : s.dev.drainAll s.adm.tab h = d) (empty : (d.core h).sb = [])
  (q : d.quiet = true)
include r drained empty q

/-- FENCE retires once draining has left the store buffer empty (R142). -/
theorem exec_fence_drained : exec (.fence h) s = .next (s.withDev (d.onCore h Core.next)) := by
  refine State.next_withDev ((Dev.inWindow_ready r _ _ _).trans ?_)
  simp only [drained, empty, List.isEmpty_nil, if_true]
  exact Dev.finish_rest _ (Dev.quiet_onCore q h _ fun c rest => by rwa [Core.atRest_next])

/-- FENCE.I restarts fetch besides (R144). -/
theorem exec_fenceI_drained : exec (.fenceI h) s = .next (s.withDev (d.onCore h Core.nextKill)) := by
  refine State.next_withDev ((Dev.insn_ready r _).trans ?_)
  simp only [drained, empty, List.isEmpty_nil, if_true]
  exact Dev.finish_rest _ (Dev.quiet_onCore q h _ fun c rest => by rwa [Core.atRest_nextKill])

/-- FENCE.IO retires when besides no device store is unacknowledged (R143). -/
theorem exec_fenceIo_drained (acked : (d.core h).devOut = []) : exec (.fenceIo h) s = .next (s.withDev (d.onCore h Core.next)) := by
  refine State.next_withDev ((Dev.insn_ready r _).trans ?_)
  simp only [drained, Dev.finish_rest s.adm q, empty, acked, List.isEmpty_nil, Bool.and_self, if_true]

end

section
variable {s : State} {h : Hart} (r : s.ready h = true)
include r

/-- WFI above U retires when a vector completes it and waits otherwise (R112). -/
theorem exec_wfi_above (above : (s.core h).level ≠ 0) : exec (.wfi h) s = .next (s.withCore h fun c =>
    if c.wfiDone (s.dev.pend h) then c.next else { c with run := .waiting }) := by
  have above' : (s.dev.core h).level ≠ 0 := above
  refine State.next_withDev ((Dev.insn_ready r _).trans ?_)
  simp only [above', if_false]
  split
  case isTrue complete => exact Dev.onCore_congr (if_pos complete).symm
  case isFalse pending => exact Dev.onCore_congr (if_neg pending).symm

/-- TLBI above U, at S with an operand of the S regime, drops the entries that its operand names (R95). -/
theorem exec_tlbi_above {ra : GReg} (above : (s.core h).level ≠ 0)
    (regime : (s.core h).level ≠ 1 ∨ bit ((s.core h).getG ra) 9 = false) :
    exec (.tlbi h ra) s = .next (s.withCore h fun c => (c.tlbi (c.getG ra)).nextKill) := by
  have above' : (s.dev.core h).level ≠ 0 := above
  have regime' : (decide ((s.dev.core h).level = 1) && bit ((s.dev.core h).getG ra) 9) = false := by
    rcases regime with n | b
    · have : (s.dev.core h).level ≠ 1 := n
      simp [this]
    · have : bit ((s.dev.core h).getG ra) 9 = false := b
      simp [this]
  refine State.next_withDev ((Dev.insn_ready r _).trans ?_)
  simp only [above', regime', Bool.false_eq_true, if_false]

/-- TLBI of the H regime at S is illegal (R95). -/
theorem exec_tlbi_illegal {ra : GReg} (atS : (s.core h).level = 1) (hreg : bit ((s.core h).getG ra) 9 = true) :
    exec (.tlbi h ra) s = .next (s.ended (s.dev.wordFault s.adm.tab h 0x01 (wordRR 0x3A 0 ra 0 0x020))) := by
  have atS' : (s.dev.core h).level = 1 := atS
  have hreg' : bit ((s.dev.core h).getG ra) 9 = true := hreg
  refine State.next_withDev ((Dev.insn_ready r _).trans ?_)
  simp only [atS', hreg', decide_true, Bool.and_self, one_ne_zero, if_false, if_true]
  rfl

variable (atU : (s.core h).level = 0)
include atU

theorem exec_wfi_atU : exec (.wfi h) s = .next (s.ended (s.dev.wordFault s.adm.tab h 0x02 (wordRR 0x3A 0 0 0 0x011))) := by
  have atU' : (s.dev.core h).level = 0 := atU
  refine State.next_withDev ((Dev.insn_ready r _).trans ?_)
  simp only [atU', if_true]

theorem exec_tlbi_atU (ra : GReg) :
    exec (.tlbi h ra) s = .next (s.ended (s.dev.wordFault s.adm.tab h 0x02 (wordRR 0x3A 0 ra 0 0x020))) := by
  have atU' : (s.dev.core h).level = 0 := atU
  refine State.next_withDev ((Dev.insn_ready r _).trans ?_)
  simp only [atU', if_true]

theorem exec_tret_atU : exec (.tret h) s = .next (s.ended (s.dev.wordFault s.adm.tab h 0x02 wordTret)) := by
  have atU' : (s.dev.core h).level = 0 := atU
  refine State.next_withDev ((Dev.insn_ready r _).trans ?_)
  simp only [Dev.tret, atU', if_true]

end

/-- Settles O28: one lemma for each instruction and case. -/
theorem fencesAndWaits : Obligations.FencesAndWaits := by
  intro s h ra d r _
  dsimp only
  refine ⟨fun drained empty q => ⟨exec_fence_drained r drained empty q, exec_fenceI_drained r drained empty q,
      exec_fenceIo_drained r drained empty q⟩,
    fun above => ⟨exec_wfi_above r above, exec_tlbi_above r above, exec_tlbi_illegal r⟩,
    fun atU => ⟨exec_wfi_atU r atU, exec_tlbi_atU r atU ra, exec_tret_atU r atU⟩⟩

end Sys2Proof.Machine
end

section
/-! Lines as masks of bytes, and what an atomic makes of a line (R65, R66, R276). -/

namespace Sys2Proof.Machine

/-! ### Masks of bytes -/

theorem getLsbD_run (a b i : Nat) :
    (BitVec.ofNat 512 ((2 ^ a - 1) * 2 ^ b)).getLsbD i = (decide (i < 512) && decide (b ≤ i) && decide (i < a + b)) := by
  rw [BitVec.getLsbD_ofNat, Nat.testBit_mul_two_pow, Nat.testBit_two_pow_sub_one, Bool.and_assoc]
  congr 1
  by_cases low : b ≤ i
  · simp only [low, decide_true, Bool.true_and]
    congr 1
    simp only [eq_iff_iff]
    omega
  · simp [low]

/-- The bits of a line that a mask of bytes selects. -/
theorem getLsbD_byteMask (m : BitVec 64) (i : Nat) : (byteMask m).getLsbD i = (decide (i < 512) && m.getLsbD (i / 8)) := by
  have upTo : ∀ n, ((List.range n).foldl (fun acc i => if m.getLsbD i then acc ||| (0xFF : Line) <<< (8 * i) else acc) 0).getLsbD i =
      (decide (i < 512) && decide (i / 8 < n) && m.getLsbD (i / 8)) := by
    intro n
    induction n with
    | zero =>
      simp only [List.range_zero, List.foldl_nil, Nat.not_lt_zero, decide_false, Bool.and_false, Bool.false_and]
      exact BitVec.getLsbD_zero
    | succ n ih =>
      rw [List.range_succ, List.foldl_append, List.foldl_cons, List.foldl_nil]
      have byte : ((0xFF : Line) <<< (8 * n)).getLsbD i = (decide (i < 512) && decide (i / 8 = n)) := by
        rw [BitVec.getLsbD_shiftLeft, show (0xFF : Line) = BitVec.ofNat 512 (2 ^ 8 - 1) from rfl, BitVec.getLsbD_ofNat,
          Nat.testBit_two_pow_sub_one, Bool.eq_iff_iff]
        simp only [Bool.and_eq_true, Bool.not_eq_true', decide_eq_true_eq, decide_eq_false_iff_not]
        omega
      by_cases here : i / 8 = n
      · split
        case isTrue set =>
          rw [BitVec.getLsbD_or, ih, byte]
          simp [here, set]
        case isFalse clear =>
          rw [ih]
          simp [here, clear]
      · have before : decide (i / 8 < n + 1) = decide (i / 8 < n) := decide_eq_decide.2 (by omega)
        split
        case isTrue =>
          rw [BitVec.getLsbD_or, ih, byte, before]
          simp [here]
        case isFalse => rw [ih, before]
  rw [byteMask, upTo 64]
  by_cases lt : i < 512
  · have : i / 8 < 64 := by omega
    simp [lt, this]
  · simp [lt]

theorem byteMask_maskOf (off n : Nat) :
    byteMask (maskOf off n) = BitVec.ofNat 512 ((2 ^ (8 * n) - 1) * 2 ^ (8 * off)) := by
  apply BitVec.eq_of_getLsbD_eq
  intro i lt
  rw [getLsbD_byteMask, getLsbD_run, maskOf, BitVec.getLsbD_ofNat, Nat.testBit_mul_two_pow, Nat.testBit_two_pow_sub_one,
    Bool.eq_iff_iff]
  simp only [Bool.and_eq_true, decide_eq_true_eq]
  omega

/-- Bytes merged into a line and then taken from it by their mask are merged once. -/
theorem maskMerge_lineMerge (off n : Nat) (l v : Line) :
    maskMerge l (lineMerge l off n v) (maskOf off n) = lineMerge l off n v := by
  simp only [maskMerge, lineMerge, byteMask_maskOf]
  generalize BitVec.ofNat 512 ((2 ^ (8 * n) - 1) * 2 ^ (8 * off)) = m
  ext i
  simp only [BitVec.getElem_or, BitVec.getElem_and, BitVec.getElem_not]
  cases m[i] <;> simp

/-! ### What an atomic makes of a line -/

theorem sext_full (v : Word) : sext 64 v = v := by simp [sext]

theorem bits_full (v : Word) : bits v 63 0 = v.toNat := by
  simp [bits, nbits, Nat.mod_eq_of_lt v.isLt]

/-- On a line without poison an atomic that stores `v` merges it in. -/
theorem atomicLine_store {l : PLine} (clean : l.poison = false) {off op : Nat} {uns dword : Bool} {rb rd v : Word}
    (e : atomicStore op uns dword ((lineSlice l.data off (if dword then 8 else 4)).setWidth 64) rb rd = some v) :
    atomicLine l off op uns dword rb rd = ((lineSlice l.data off (if dword then 8 else 4)).setWidth 64,
      { l with data := lineMerge l.data off (if dword then 8 else 4) (v.setWidth 512) }) := by
  simp only [atomicLine, clean, Bool.false_eq_true, if_false, e]

/-- An atomic that stores nothing leaves the line. -/
theorem atomicLine_keep {l : PLine} {off op : Nat} {uns dword : Bool} {rb rd : Word}
    (e : atomicStore op uns dword ((lineSlice l.data off (if dword then 8 else 4)).setWidth 64) rb rd = none) :
    atomicLine l off op uns dword rb rd = ((lineSlice l.data off (if dword then 8 else 4)).setWidth 64, l) := by
  simp only [atomicLine, e, ite_self]

/-- A CAS of 8 bytes on a line without poison. -/
theorem atomicLine_cas {l : PLine} (clean : l.poison = false) (off : Nat) (rb rd : Word) :
    atomicLine l off 7 false true rb rd =
      if (lineSlice l.data off 8).setWidth 64 = rd then
        ((lineSlice l.data off 8).setWidth 64, { l with data := lineMerge l.data off 8 (rb.setWidth 512) })
      else ((lineSlice l.data off 8).setWidth 64, l) := by
  by_cases same : (lineSlice l.data off 8).setWidth 64 = rd
  · rw [if_pos same]
    refine atomicLine_store (dword := true) clean ?_
    simp [atomicStore, same]
  · rw [if_neg same]
    have differs : (if bits ((lineSlice l.data off 8).setWidth 64) 63 0 = bits rd 63 0 then some rb else none) = none := by
      rw [bits_full, bits_full]
      exact if_neg fun e => same (BitVec.eq_of_toNat_eq e)
    exact atomicLine_keep (dword := true) differs

/-- Settles O18: each operation is `atomicStore` of its code, whose comparisons at 8 bytes are those of whole registers. -/
theorem atomicOperations : Obligations.AtomicOperations := by
  intro l off rb rd clean
  dsimp only
  refine ⟨?_, ?_, ?_, ?_, ?_, ?_, ?_, ?_, ?_, atomicLine_cas clean off rb rd, ?_, ?_⟩
  iterate 4 exact atomicLine_store (dword := true) clean rfl
  · refine atomicLine_store (dword := true) clean ?_
    simp [atomicStore, sext_full]
  · refine atomicLine_store (dword := true) clean ?_
    simp [atomicStore, sext_full]
  · refine atomicLine_store (dword := true) clean ?_
    simp [atomicStore, bits_full, BitVec.ult]
  · refine atomicLine_store (dword := true) clean ?_
    simp [atomicStore, bits_full, BitVec.ult]
  · exact atomicLine_store (dword := true) clean rfl
  · exact atomicLine_store (dword := false) clean rfl
  · exact atomicLine_store (dword := false) clean rfl

end Sys2Proof.Machine
end

section
/-! What a write of an owned line does to a core's caches, and near atomics (R65, R132, R173, R189, R274). -/

namespace Sys2Proof.Machine

/-! ### Sets of a cache -/

/-- Whether a place of a cache holds a line. -/
def holdsLine (t : Tbl CLine) (la k : Nat) : Bool := (Tbl.find t k).any fun e => e.la = la

theorem wayOf_eq (t : Tbl CLine) (set ways la : Nat) :
    wayOf t set ways la = ((List.range ways).map (set * ways + ·)).find? (holdsLine t la) := by
  unfold wayOf
  congr 1
  funext k
  unfold holdsLine
  cases Tbl.find t k <;> rfl

/-- The way that is found holds the line. -/
theorem find_of_wayOf {t : Tbl CLine} {set ways la k : Nat} (e : wayOf t set ways la = some k) :
    ∃ x, Tbl.find t k = some x ∧ x.la = la := by
  rw [wayOf_eq] at e
  simpa [holdsLine, Option.any_eq_true] using List.find?_some e

/-- An entry that stays one of the same line leaves the lookup. -/
theorem wayOf_put {t : Tbl CLine} {k : Nat} {x y : CLine} (old : Tbl.find t k = some x) (same : y.la = x.la) (set ways la : Nat) :
    wayOf (Tbl.put t k y) set ways la = wayOf t set ways la := by
  have pred : holdsLine (Tbl.put t k y) la = holdsLine t la := by
    funext j
    unfold holdsLine
    by_cases e : j = k
    · rw [e, Tbl.find_put_same, old]
      simp [same]
    · rw [Tbl.find_put_ne _ _ e]
  rw [wayOf_eq, wayOf_eq, pred]

/-- A line that no way of its set holds is found where it is put. -/
theorem wayOf_put_new {t : Tbl CLine} {set ways w : Nat} {y : CLine} (lt : w < ways) (absent : wayOf t set ways y.la = none) :
    wayOf (Tbl.put t (set * ways + w) y) set ways y.la = some (set * ways + w) := by
  rw [wayOf_eq, List.find?_eq_none] at absent
  obtain ⟨k, found⟩ : ∃ k, wayOf (Tbl.put t (set * ways + w) y) set ways y.la = some k := by
    rw [← Option.isSome_iff_exists, wayOf_eq, List.find?_isSome]
    exact ⟨_, List.mem_map_of_mem (List.mem_range.2 lt), by simp [holdsLine]⟩
  have here : k = set * ways + w := by
    by_contra other
    rw [wayOf_eq] at found
    have holds := List.find?_some found
    rw [holdsLine, Tbl.find_put_ne _ _ other] at holds
    exact absent k (List.mem_of_find?_eq_some found) holds
  rw [found, here]

/-- Every line of `u` is in `t`, in the same place. -/
def Tbl.within (u t : Tbl CLine) : Prop := ∀ k x, Tbl.find u k = some x → ∃ y, Tbl.find t k = some y ∧ y.la = x.la

theorem wayOf_within {u t : Tbl CLine} (sub : Tbl.within u t) {set ways la : Nat} (absent : wayOf t set ways la = none) :
    wayOf u set ways la = none := by
  rw [wayOf_eq, List.find?_eq_none] at *
  intro k m holds
  obtain ⟨x, at_, line⟩ : ∃ x, Tbl.find u k = some x ∧ x.la = la := by simpa [holdsLine, Option.any_eq_true] using holds
  obtain ⟨y, at', line'⟩ := sub k x at_
  exact absent k m (by simp [holdsLine, at', line', line])

theorem Tbl.within_refl (t : Tbl CLine) : Tbl.within t t := fun _ x e => ⟨x, e, rfl⟩

theorem Tbl.within_trans {u v t : Tbl CLine} (a : Tbl.within u v) (b : Tbl.within v t) : Tbl.within u t := by
  intro k x e
  obtain ⟨y, e', l⟩ := a k x e
  obtain ⟨z, e'', l'⟩ := b k y e'
  exact ⟨z, e'', l'.trans l⟩

theorem Tbl.within_put {t : Tbl CLine} {k : Nat} {x y : CLine} (old : Tbl.find t k = some x) (same : y.la = x.la) :
    Tbl.within (Tbl.put t k y) t := by
  intro j z e
  by_cases h : j = k
  · subst h
    rw [Tbl.find_put_same, Option.some_inj] at e
    exact ⟨x, old, by rw [← same, e]⟩
  · rw [Tbl.find_put_ne _ _ h] at e
    exact ⟨z, e, rfl⟩

theorem Tbl.find_erase_same {α : Type} (t : Tbl α) (k : Nat) : Tbl.find (Tbl.erase t k) k = none := by
  induction t with
  | nil => rfl
  | cons e r ih =>
    rw [Tbl.erase_cons]
    split
    case isTrue => exact ih
    case isFalse other => rw [Tbl.find, if_neg other, ih]

theorem Tbl.find_erase_ne {α : Type} (t : Tbl α) {j k : Nat} (ne : j ≠ k) : Tbl.find (Tbl.erase t k) j = Tbl.find t j := by
  induction t with
  | nil => rfl
  | cons e r ih =>
    rw [Tbl.erase_cons]
    split
    case isTrue here => rw [ih, Tbl.find, if_neg (fun e => ne (e.symm.trans here))]
    case isFalse => rw [Tbl.find, Tbl.find, ih]

theorem Tbl.within_erase (t : Tbl CLine) (k : Nat) : Tbl.within (Tbl.erase t k) t := by
  intro j x e
  by_cases h : j = k
  · rw [h, Tbl.find_erase_same] at e
    exact absurd e (by simp)
  · rw [Tbl.find_erase_ne _ h] at e
    exact ⟨x, e, rfl⟩

theorem mem_of_argMin {α : Type} {key : α → Nat} {l : List α} {x : α} (e : argMin l key = some x) : x ∈ l := by
  have kept : ∀ (l : List α) (acc : Option α), l.foldl (fun acc x => match acc with
      | none => some x
      | some y => if key x < key y then some x else some y) acc = some x → acc = some x ∨ x ∈ l := by
    intro l
    induction l with
    | nil => exact fun acc e => .inl e
    | cons a l ih =>
      intro acc e
      rcases ih _ e with now | later
      · cases acc with
        | none => exact .inr (by simp [Option.some_inj.1 now])
        | some y =>
          dsimp only at now
          split at now
          · exact .inr (by simp [Option.some_inj.1 now])
          · exact .inl now
      · exact .inr (List.mem_cons_of_mem _ later)
  rcases kept l none e with h | h
  · exact absurd h (by simp)
  · exact h

theorem plruVictim_lt (b : BitVec 7) : plruVictim b < 8 := by
  have half := Bool.toNat_le (b.getLsbD 0)
  have quarter := Bool.toNat_le (b.getLsbD (1 + (b.getLsbD 0).toNat))
  have last := Bool.toNat_le (b.getLsbD (3 + 2 * (b.getLsbD 0).toNat + (b.getLsbD (1 + (b.getLsbD 0).toNat)).toNat))
  simp only [plruVictim]
  omega

/-- The way for a new line is one of the eight. -/
theorem victimWay_lt (t : Tbl CLine) (plru : Tbl (BitVec 7)) (set : Nat) (newL : List Nat) : victimWay t plru set newL < 8 := by
  have tree : plruVictim (Tbl.get 0 plru set) < 8 := plruVictim_lt _
  unfold victimWay
  split
  case h_1 w free => exact List.mem_range.1 (List.mem_of_find?_eq_some free)
  case h_2 =>
    dsimp only
    split
    · exact tree
    · split
      case h_1 w old => exact List.mem_range.1 (List.mem_of_find?_eq_some old)
      case h_2 =>
        cases e : argMin (List.range 8) _ with
        | none => exact tree
        | some w => exact List.mem_range.1 (mem_of_argMin e)

/-! ### What the operations on the caches leave -/

section
variable {α : Type} (P : Core → α)
  (hc : ∀ (c : Core) (i x y : Tbl CLine) (r : Tbl (BitVec 7)) (n : List Nat) (q : List LqEntry),
    P { c with l1i := i, l1d := x, l2 := y, plruD := r, newD := n, lq := q } = P c)
include hc

theorem Core.dropI_keeps (c : Core) (la : Nat) : P (c.dropI la) = P c := by
  unfold Core.dropI
  split
  · exact hc c _ c.l1d c.l2 c.plruD c.newD c.lq
  · rfl

theorem Core.syncD_keeps (c : Core) (la : Nat) : P (c.syncD la) = P c := by
  unfold Core.syncD
  split
  · split
    · split
      · exact hc c c.l1i _ _ c.plruD c.newD c.lq
      · rfl
    · rfl
  · rfl

theorem Core.leftD_keeps (c : Core) (la : Nat) : P (c.leftD la) = P c := hc c c.l1i c.l1d c.l2 c.plruD c.newD _

theorem Core.dropD_keeps (c : Core) (la : Nat) : P (c.dropD la) = P c := by
  unfold Core.dropD
  dsimp only
  split
  · exact (Core.leftD_keeps P hc _ la).trans ((hc _ (c.syncD la).l1i _ (c.syncD la).l2 (c.syncD la).plruD (c.syncD la).newD
      (c.syncD la).lq).trans (Core.syncD_keeps P hc c la))
  · split
    · exact Core.syncD_keeps P hc c la
    · exact (Core.leftD_keeps P hc _ la).trans (Core.syncD_keeps P hc c la)

theorem Core.touchD_keeps (c : Core) (k : Nat) : P (c.touchD k) = P c := hc c c.l1i c.l1d c.l2 _ c.newD c.lq

theorem Core.putD_keeps (c : Core) (e : CLine) : P (c.putD e) = P c := by
  have owned : P (if e.own then c.dropI e.la else c) = P c := by
    split
    · exact Core.dropI_keeps P hc c _
    · rfl
  unfold Core.putD
  dsimp only
  generalize (if e.own then c.dropI e.la else c) = c1 at *
  split
  · exact (Core.touchD_keeps P hc _ _).trans ((hc c1 c1.l1i _ c1.l2 c1.plruD c1.newD c1.lq).trans owned)
  · refine (Core.touchD_keeps P hc _ _).trans ?_
    split
    case h_1 v _ =>
      exact (hc (c1.dropD v.la) (c1.dropD v.la).l1i _ (c1.dropD v.la).l2 (c1.dropD v.la).plruD _ (c1.dropD v.la).lq).trans
        ((Core.dropD_keeps P hc c1 _).trans owned)
    case h_2 => exact (hc c1 c1.l1i _ c1.l2 c1.plruD _ c1.lq).trans owned

theorem Core.fillD_keeps (c : Core) (la : Nat) : P (c.fillD la) = P c := by
  unfold Core.fillD
  split
  · split
    · exact (Core.putD_keeps P hc _ _).trans (hc c c.l1i c.l1d _ c.plruD c.newD c.lq)
    · rfl
  · rfl

theorem Core.writeLine_keeps (h : Hart) (c : Core) (la : Nat) (m : BitVec 64) (v : Line) : P (c.writeLine h la m v) = P c := by
  have at2 : ∀ (c : Core) (y : Tbl CLine), P { c with l2 := y } = P c := fun c y => hc c c.l1i c.l1d y c.plruD c.newD c.lq
  have atD : ∀ (c : Core) (x : Tbl CLine), P { c with l1d := x } = P c := fun c x => hc c c.l1i x c.l2 c.plruD c.newD c.lq
  rw [← Core.dropI_keeps P hc c la]
  unfold Core.writeLine
  dsimp only
  generalize c.dropI la = c1
  split
  · have filled : P (if (c1.findD la).isSome then c1 else c1.fillD la) = P c1 := by
      split
      · rfl
      · exact Core.fillD_keeps P hc c1 la
    rw [← filled]
    generalize (if (c1.findD la).isSome then c1 else c1.fillD la) = c2
    split
    · split
      · split
        · split
          · rw [at2, Core.touchD_keeps P hc, atD]
          · rw [Core.touchD_keeps P hc, atD]
        · rw [Core.touchD_keeps P hc, atD]
      · rfl
    · rfl
  · split
    · split
      · exact at2 _ _
      · rfl
    · rfl

end

/-! ### Lookups -/

theorem Core.findD_on {c : Core} (on : (bit (c.sysGet 0x20D) 1 && bit (c.sysGet 0x20D) 2) = true) (la : Nat) :
    c.findD la = wayOf c.l1d (la % 128) 8 la := if_pos on

theorem Core.findD_of_lineD {c : Core} {la : Nat} {x : CLine} (e : c.lineD la = some x) :
    ∃ k, c.findD la = some k ∧ Tbl.find c.l1d k = some x := Option.bind_eq_some_iff.1 e

theorem Core.find2_of_line2 {c : Core} {la : Nat} {x : CLine} (e : c.line2 la = some x) :
    ∃ k, c.find2 la = some k ∧ Tbl.find c.l2 k = some x := Option.bind_eq_some_iff.1 e

theorem Core.findD_none_of_lineD {c : Core} {la : Nat} (e : c.lineD la = none) : c.findD la = none := by
  cases found : c.findD la with
  | none => rfl
  | some k =>
    have way : wayOf c.l1d (la % 128) 8 la = some k := by
      unfold Core.findD at found
      split at found
      · exact found
      · exact absurd found (by simp)
    obtain ⟨x, at_, -⟩ := find_of_wayOf way
    rw [Core.lineD, found, Option.bind_some, at_] at e
    exact absurd e (by simp)

theorem Core.la_of_find2 {c : Core} {la k : Nat} {x : CLine} (found : c.find2 la = some k) (at_ : Tbl.find c.l2 k = some x) :
    x.la = la := by
  unfold Core.find2 at found
  split at found
  · obtain ⟨y, at', line⟩ := find_of_wayOf found
    rw [at_, Option.some_inj] at at'
    rw [at', line]
  · exact absurd found (by simp)

theorem Core.copyOf_of_lineD {c : Core} {la : Nat} {x : CLine} (e : c.lineD la = some x) : c.copyOf la = some x.line := by
  unfold Core.copyOf
  rw [e]

theorem Core.copyOf_of_line2 {c : Core} {la : Nat} {x : CLine} (none : c.lineD la = none) (e : c.line2 la = some x) :
    c.copyOf la = some x.line := by
  unfold Core.copyOf
  rw [none, e]
  rfl

/-- The copy of a line comes from L1D, else from L2. -/
theorem Core.copyOf_cases {c : Core} {la : Nat} {l : PLine} (held : c.copyOf la = some l) :
    (∃ x, c.lineD la = some x ∧ x.line = l) ∨ (c.lineD la = none ∧ ∃ x, c.line2 la = some x ∧ x.line = l) := by
  unfold Core.copyOf at held
  split at held
  case h_1 x e => exact .inl ⟨x, e, Option.some_inj.1 held⟩
  case h_2 e => exact .inr ⟨e, Option.map_eq_some_iff.1 held⟩

/-- The copy of a line depends on L1D, L2 and their enables alone. -/
theorem Core.copyOf_congr {c e : Core} (x : c.l1d = e.l1d) (y : c.l2 = e.l2) (s : c.sysGet 0x20D = e.sysGet 0x20D) (la : Nat) :
    c.copyOf la = e.copyOf la := by
  simp only [Core.copyOf, Core.lineD, Core.line2, Core.findD, Core.find2, x, y, s]

/-! ### Filling L1D -/

theorem Core.within_syncD (c : Core) (la : Nat) : Tbl.within (c.syncD la).l1d c.l1d := by
  unfold Core.syncD
  split
  · split
    case h_1 e _ at_ _ =>
      split
      · exact Tbl.within_put at_ rfl
      · exact Tbl.within_refl _
    case h_2 => exact Tbl.within_refl _
  · exact Tbl.within_refl _

theorem Core.within_dropD (c : Core) (la : Nat) : Tbl.within (c.dropD la).l1d c.l1d := by
  unfold Core.dropD
  dsimp only
  split
  · exact Tbl.within_trans (Tbl.within_erase _ _) (Core.within_syncD c la)
  · split <;> exact Core.within_syncD c la

theorem Core.sysGet_dropI (c : Core) (la n : Nat) : (c.dropI la).sysGet n = c.sysGet n :=
  Core.dropI_keeps (Core.sysGet · n) (fun _ _ _ _ _ _ _ => rfl) c la

theorem Core.sysGet_dropD (c : Core) (la n : Nat) : (c.dropD la).sysGet n = c.sysGet n :=
  Core.dropD_keeps (Core.sysGet · n) (fun _ _ _ _ _ _ _ => rfl) c la

theorem Core.sysGet_fillD (c : Core) (la n : Nat) : (c.fillD la).sysGet n = c.sysGet n :=
  Core.fillD_keeps (Core.sysGet · n) (fun _ _ _ _ _ _ _ => rfl) c la

theorem Core.dropI_l1d (c : Core) (la : Nat) : (c.dropI la).l1d = c.l1d := by
  unfold Core.dropI
  split <;> rfl

theorem Core.dropI_l2 (c : Core) (la : Nat) : (c.dropI la).l2 = c.l2 := by
  unfold Core.dropI
  split <;> rfl

/-- A line put in a way of its set, which no way held, is found. -/
theorem Core.lineD_place {c : Core} {e : CLine} {w : Nat} (on : (bit (c.sysGet 0x20D) 1 && bit (c.sysGet 0x20D) 2) = true)
    (absent : wayOf c.l1d (e.la % 128) 8 e.la = none) (lt : w < 8) (n : List Nat) :
    (({ c with l1d := Tbl.put c.l1d (e.la % 128 * 8 + w) e, newD := n } : Core).touchD (e.la % 128 * 8 + w)).lineD e.la = some e := by
  have found : (({ c with l1d := Tbl.put c.l1d (e.la % 128 * 8 + w) e, newD := n } : Core).touchD (e.la % 128 * 8 + w)).findD e.la =
      some (e.la % 128 * 8 + w) := (if_pos on).trans (wayOf_put_new lt absent)
  rw [Core.lineD, found, Option.bind_some]
  exact Tbl.find_put_same _ _ _

/-- A line that L1D does not hold is there once it is installed. -/
theorem Core.lineD_putD {c : Core} {e : CLine} (on : (bit (c.sysGet 0x20D) 1 && bit (c.sysGet 0x20D) 2) = true)
    (absent : wayOf c.l1d (e.la % 128) 8 e.la = none) : (c.putD e).lineD e.la = some e := by
  have first : wayOf (if e.own then c.dropI e.la else c).l1d (e.la % 128) 8 e.la = none ∧
      (if e.own then c.dropI e.la else c).sysGet 0x20D = c.sysGet 0x20D := by
    split
    · exact ⟨by rw [Core.dropI_l1d, absent], Core.sysGet_dropI _ _ _⟩
    · exact ⟨absent, rfl⟩
  unfold Core.putD
  dsimp only
  generalize (if e.own then c.dropI e.la else c) = c1 at *
  obtain ⟨absent1, sys1⟩ := first
  rw [← sys1] at on
  rw [Core.findD_on on, absent1]
  dsimp only
  split
  case h_1 v _ =>
    refine Core.lineD_place (c := c1.dropD v.la) ?_ (wayOf_within (Core.within_dropD c1 v.la) absent1) (victimWay_lt _ _ _ _) _
    rw [Core.sysGet_dropD, on]
  case h_2 => exact Core.lineD_place on absent1 (victimWay_lt _ _ _ _) _

/-- Filling L1D from L2 gives it L2's line. -/
theorem Core.lineD_fillD {c : Core} {la : Nat} {x : CLine} (on : (bit (c.sysGet 0x20D) 1 && bit (c.sysGet 0x20D) 2) = true)
    (absent : c.lineD la = none) (e : c.line2 la = some x) : (c.fillD la).lineD la = some { x with dirty := false } := by
  obtain ⟨k, found, at_⟩ := Core.find2_of_line2 e
  obtain rfl : x.la = la := Core.la_of_find2 found at_
  have way : wayOf c.l1d (x.la % 128) 8 x.la = none := by rw [← Core.findD_on on, Core.findD_none_of_lineD absent]
  unfold Core.fillD
  simp only [found, at_]
  exact Core.lineD_putD (c := { c with l2 := Tbl.put c.l2 k { x with rrpv := 0 } }) (e := { x with dirty := false }) on way

/-! ### Writing an owned line -/

/-- The line `l` with the bytes that a mask selects taken from `v`; a full line clears poison. -/
def PLine.overwrite (l : PLine) (m : BitVec 64) (v : Line) : PLine :=
  { data := maskMerge l.data v m, poison := l.poison && m ≠ BitVec.allOnes 64 }

/-- A line of L1D that keeps its place is the copy. -/
theorem Core.copyOf_replaceD {c : Core} {la k : Nat} {x y : CLine} (found : c.findD la = some k) (at_ : Tbl.find c.l1d k = some x)
    {e : Core} (l1d : e.l1d = Tbl.put c.l1d k y) (sys : e.sysGet 0x20D = c.sysGet 0x20D) (same : y.la = x.la) {l : PLine}
    (line : y.line = l) : e.copyOf la = some l := by
  have way : e.findD la = c.findD la := by simp only [Core.findD, sys, l1d, wayOf_put at_ same]
  rw [← line]
  refine Core.copyOf_of_lineD ?_
  rw [Core.lineD, way, found, Option.bind_some, l1d, Tbl.find_put_same]

/-- A line of L2 that keeps its place is the copy where L1D holds none. -/
theorem Core.copyOf_replace2 {c : Core} {la k : Nat} {x y : CLine} (found : c.find2 la = some k) (at_ : Tbl.find c.l2 k = some x)
    {e : Core} (l2 : e.l2 = Tbl.put c.l2 k y) (sys : e.sysGet 0x20D = c.sysGet 0x20D) (same : y.la = x.la) {l : PLine}
    (line : y.line = l) (absent : e.lineD la = none) : e.copyOf la = some l := by
  have way : e.find2 la = c.find2 la := by simp only [Core.find2, sys, l2, wayOf_put at_ same]
  rw [← line]
  refine Core.copyOf_of_line2 absent ?_
  rw [Core.line2, way, found, Option.bind_some, l2, Tbl.find_put_same]

/-- A write to a line that a server core holds changes its copy, wherever the copy is. -/
theorem Core.copyOf_writeLine {h : Hart} (u : isWheel h = false) {c : Core} {la : Nat} {l : PLine} (held : c.copyOf la = some l)
    (m : BitVec 64) (v : Line) : (c.writeLine h la m v).copyOf la = some (l.overwrite m v) := by
  rw [← Core.copyOf_congr (Core.dropI_l1d c la) (Core.dropI_l2 c la) (Core.sysGet_dropI c la _)] at held
  unfold Core.writeLine
  dsimp only
  generalize c.dropI la = c1 at *
  by_cases l1 : l1dOn h c1 = true
  · have on : (bit (c1.sysGet 0x20D) 1 && bit (c1.sysGet 0x20D) 2) = true := by
      simpa [l1dOn, l2On, u, and_comm] using l1
    have filled : ∃ x, (if (c1.findD la).isSome then c1 else c1.fillD la).lineD la = some x ∧ x.line = l := by
      rcases Core.copyOf_cases held with ⟨x, e, line⟩ | ⟨absent, x, e, line⟩
      · obtain ⟨k, found, -⟩ := Core.findD_of_lineD e
        exact ⟨x, by rw [found, Option.isSome_some, if_pos rfl, e], line⟩
      · refine ⟨{ x with dirty := false }, ?_, line⟩
        rw [Core.findD_none_of_lineD absent, Option.isSome_none, if_neg Bool.false_ne_true, Core.lineD_fillD on absent e]
    rw [if_pos l1]
    generalize (if (c1.findD la).isSome then c1 else c1.fillD la) = c2 at *
    obtain ⟨x, e, rfl⟩ := filled
    obtain ⟨k, found, at_⟩ := Core.findD_of_lineD e
    simp only [found, at_]
    split
    · split
      · refine Core.copyOf_replaceD (y := { x with own := true, dirty := true, line := x.line.overwrite m v }) found at_ ?_ ?_ ?_ ?_ <;> rfl
      · refine Core.copyOf_replaceD (y := { x with own := true, dirty := true, line := x.line.overwrite m v }) found at_ ?_ ?_ ?_ ?_ <;> rfl
    · refine Core.copyOf_replaceD (y := { x with own := true, dirty := true, line := x.line.overwrite m v }) found at_ ?_ ?_ ?_ ?_ <;> rfl
  · have off : (bit (c1.sysGet 0x20D) 1 && bit (c1.sysGet 0x20D) 2) = false := by
      simpa [l1dOn, l2On, u, Bool.and_comm] using l1
    have absent : ∀ c : Core, c.sysGet 0x20D = c1.sysGet 0x20D → c.lineD la = none := by
      intro c sys
      rw [Core.lineD, Core.findD, sys, off, if_neg Bool.false_ne_true, Option.bind_none]
    rw [if_neg l1]
    rcases Core.copyOf_cases held with ⟨x, e, -⟩ | ⟨-, x, e, rfl⟩
    · rw [absent c1 rfl] at e
      exact absurd e (by simp)
    · obtain ⟨k, found, at_⟩ := Core.find2_of_line2 e
      simp only [found, at_]
      refine Core.copyOf_replace2 (y := { x with dirty := true, line := x.line.overwrite m v }) found at_ ?_ ?_ ?_ ?_ (absent _ ?_) <;> rfl

end Sys2Proof.Machine
end

section
/-! Near atomics: the read and the write of the owned line, and what retires with them (R65, R66, R273, R274). -/

namespace Sys2Proof.Machine

/-! ### The contention predictor -/

/-- Training changes the predictor's table alone. -/
theorem Core.trainAtom_keeps {α : Type} (P : Core → α) (hk : ∀ (c : Core) (t : Tbl (Nat × Nat)), P { c with cont := t } = P c)
    (c : Core) (pc : Word) (pa : Nat) (up alloc : Bool) : P (c.trainAtom pc pa up alloc) = P c := by
  unfold Core.trainAtom
  dsimp only
  split
  · split
    · exact hk c _
    · split
      · exact hk c _
      · rfl
  · split
    · exact hk c _
    · rfl

/-! ### What the core of a near atomic becomes -/

/-- The owned line written, where the atomic changes it. -/
def Core.nearWrite (h : Hart) (pa n : Nat) (l l' : PLine) (c : Core) : Core :=
  if l' = l then c else c.writeLine h (lineOf pa) (maskOf (pa % 64) n) l'.data

/-- The contention predictor trained by a near atomic (R273). -/
def Core.nearTrain (pa : Nat) (owned forwarded : Bool) (c : Core) : Core :=
  if owned then c.trainAtom c.pc pa false false else if forwarded then c.trainAtom c.pc pa true true else c

/-- A near atomic retired: the line written, the predictor trained and the old value in its register. -/
def Core.nearDone (h : Hart) (pa n : Nat) (owned had : Bool) (l l' : PLine) (rd : GReg) (old : Word) (c : Core) : Core :=
  let t := (c.nearWrite h pa n l l').nearTrain pa owned (!had && c.fillFwd)
  ((t.setG rd old).event 0x0F 1 t.pc).next

section
variable {α : Type} (P : Core → α) (hk : ∀ (c : Core) (t : Tbl (Nat × Nat)), P { c with cont := t } = P c)
include hk

theorem Core.nearTrain_keeps (pa : Nat) (owned forwarded : Bool) (c : Core) : P (c.nearTrain pa owned forwarded) = P c := by
  unfold Core.nearTrain
  split
  · exact Core.trainAtom_keeps P hk c _ _ _ _
  · split
    · exact Core.trainAtom_keeps P hk c _ _ _ _
    · rfl

/-- What neither caches nor the predictor hold is as it was before the atomic writes its register. -/
theorem Core.nearTrain_nearWrite_keeps
    (hc : ∀ (c : Core) (i x y : Tbl CLine) (r : Tbl (BitVec 7)) (n : List Nat) (q : List LqEntry),
      P { c with l1i := i, l1d := x, l2 := y, plruD := r, newD := n, lq := q } = P c)
    (h : Hart) (pa n : Nat) (owned forwarded : Bool) (l l' : PLine) (c : Core) :
    P ((c.nearWrite h pa n l l').nearTrain pa owned forwarded) = P c := by
  rw [Core.nearTrain_keeps P hk, Core.nearWrite]
  split
  · rfl
  · exact Core.writeLine_keeps P hc h c _ _ _

end

section
variable (h : Hart) (pa n : Nat) (owned had : Bool) (l l' : PLine) (rd : GReg) (old : Word) (c : Core)

theorem Core.getG_nearDone_same (ne : rd ≠ 0) : (c.nearDone h pa n owned had l l' rd old).getG rd = old := by
  rw [Core.nearDone, Core.getG_next, Core.event_preserves (Core.getG · rd) (fun _ _ _ _ => rfl) (fun _ _ => rfl),
    Core.getG_setG_same _ ne]

theorem Core.getG_nearDone_ne {q : GReg} (ne : q ≠ rd) : (c.nearDone h pa n owned had l l' rd old).getG q = c.getG q := by
  rw [Core.nearDone, Core.getG_next, Core.event_preserves (Core.getG · q) (fun _ _ _ _ => rfl) (fun _ _ => rfl),
    Core.getG_setG_ne _ ne, Core.nearTrain_nearWrite_keeps (Core.getG · q) (fun _ _ => rfl) (fun _ _ _ _ _ _ _ => rfl)]

theorem Core.pc_nearDone : (c.nearDone h pa n owned had l l' rd old).pc = c.pc + 4 := by
  rw [Core.nearDone, Core.next_pc, Core.event_preserves Core.pc (fun _ _ _ _ => rfl) (fun _ _ => rfl), Core.setG_pc,
    Core.nearTrain_nearWrite_keeps Core.pc (fun _ _ => rfl) (fun _ _ _ _ _ _ _ => rfl)]

theorem Core.atRest_nearDone (rest : c.atRest = true) : (c.nearDone h pa n owned had l l' rd old).atRest = true := by
  rw [Core.nearDone, Core.atRest_next, Core.event_preserves Core.atRest (fun _ _ _ _ => rfl) (fun _ _ => rfl), Core.atRest_setG,
    Core.nearTrain_nearWrite_keeps Core.atRest (fun _ _ => rfl) (fun _ _ _ _ _ _ _ => rfl), rest]

/-- Retiring leaves the copy that the write left. -/
theorem Core.copyOf_nearDone (la : Nat) :
    (c.nearDone h pa n owned had l l' rd old).copyOf la = (c.nearWrite h pa n l l').copyOf la := by
  have untouched : ¬ tallied 0x20D := by unfold tallied; omega
  refine Core.copyOf_congr ?_ ?_ ?_ la
  · rw [Core.nearDone, Core.next_l1d, Core.event_preserves Core.l1d (fun _ _ _ _ => rfl) (fun _ _ => rfl), Core.setG_l1d,
      Core.nearTrain_keeps Core.l1d fun _ _ => rfl]
  · rw [Core.nearDone, Core.next_l2, Core.event_preserves Core.l2 (fun _ _ _ _ => rfl) (fun _ _ => rfl), Core.setG_l2,
      Core.nearTrain_keeps Core.l2 fun _ _ => rfl]
  · rw [Core.nearDone, Core.sysGet_next_untallied untouched, Core.event_preserves (Core.sysGet · 0x20D)
      (fun c _ v => Core.sysGet_sysSet_tallied untouched c v) (fun _ _ => rfl), Core.sysGet_setG,
      Core.nearTrain_keeps (Core.sysGet · 0x20D) fun _ _ => rfl]

end

/-- An atomic leaves its line, or merges its bytes into it. -/
theorem atomicLine_cases {l : PLine} (clean : l.poison = false) (off op : Nat) (uns dword : Bool) (rb rd : Word) :
    (atomicLine l off op uns dword rb rd).2 = l ∨
      ∃ v, (atomicLine l off op uns dword rb rd).2 = { l with data := lineMerge l.data off (if dword then 8 else 4) v } := by
  cases e : atomicStore op uns dword ((lineSlice l.data off (if dword then 8 else 4)).setWidth 64) rb rd with
  | none => exact .inl (by rw [atomicLine_keep e])
  | some v => exact .inr ⟨_, by rw [atomicLine_store clean e]⟩

/-- The write of a near atomic leaves in the cache what the atomic makes of the line. -/
theorem Core.copyOf_nearWrite {h : Hart} (server : isWheel h = false) {c : Core} {pa : Nat} {l : PLine}
    (held : c.copyOf (lineOf pa) = some l) (clean : l.poison = false) (op : Nat) (uns dword : Bool) (rb rd : Word) :
    (c.nearWrite h pa (if dword then 8 else 4) l (atomicLine l (pa % 64) op uns dword rb rd).2).copyOf (lineOf pa) =
      some (atomicLine l (pa % 64) op uns dword rb rd).2 := by
  unfold Core.nearWrite
  split
  case isTrue same => rw [same, held]
  case isFalse differs =>
    rcases atomicLine_cases clean (pa % 64) op uns dword rb rd with same | ⟨v, merged⟩
    · exact absurd same differs
    · rw [Core.copyOf_writeLine server held, merged, PLine.overwrite, maskMerge_lineMerge, clean, Bool.false_and]

/-! ### The instruction -/

/-- A core without an L2 runs its atomics far, so that a near one is a server core's. -/
theorem isWheel_of_near {a : Tables} {d : Dev} {h : Hart} {pa : Nat} (near : d.runsFar a h pa = false) : isWheel h = false := by
  rw [Dev.runsFar, Bool.or_eq_false_iff] at near
  obtain ⟨cached, -⟩ := near
  rw [Dev.uncached, Bool.or_eq_false_iff, Bool.not_eq_false', l2On, Bool.and_eq_true, Bool.not_eq_true'] at cached
  obtain ⟨⟨server, -⟩, -⟩ := cached
  exact server

section
variable {h : Hart} {pa : Nat} {l : PLine} {d : Dev} {op : Nat} {uns : Bool} {x : Word × PLine}

/-- The owned line is read and written, and the block is at rest again. -/
theorem Dev.atomNear_hit {d0 : Dev} (a : Admin) {e : LqEntry} {dword : Bool} {rb rd : Word}
    (own : d0.ownLine a.tab h pa 1 = (true, d)) (held : (d.core h).copyOf (lineOf pa) = some l) (clean : l.poison = false)
    (q : d.quiet = true) (made : atomicLine l (pa % 64) op uns dword rb rd = x) :
    (d0.atomNear a.tab h e pa op uns dword rb rd).finish a =
      (d.onCore h (Core.nearDone h pa e.size (((d0.core h).lineD (lineOf pa)).any fun x => x.own) ((d0.core h).has (lineOf pa) true)
        l x.2 (BitVec.ofNat 5 e.rd) (x.1 &&& word (2 ^ (8 * e.size) - 1)))).onCore h Core.forget := by
  simp only [Dev.atomNear, own, held, clean, made, Bool.not_true, Bool.false_eq_true, if_false]
  exact Dev.accessDone_finish (Dev.quiet_onCore q h _ fun c rest => Core.atRest_nearDone _ _ _ _ _ _ _ _ _ _ rest) a h

variable {s : State} {o : AOp} {n : Nat}

/-- An atomic whose line its core owns is `nearDone`. -/
theorem Dev.atomInsn_hit (r : s.ready h = true) (size : (if o.dword then 8 else 4) = n)
    (hit : s.atomHit h ((s.core h).getG o.ra) n pa l d)
    (made : atomicLine l (pa % 64) op uns o.dword ((s.core h).getG o.rb) ((s.core h).getG o.rd) = x) :
    ∃ owned had : Bool, (s.dev.atomInsn s.adm.tab h op uns o).finish s.adm =
      (d.onCore h (Core.nearDone h pa n owned had l x.2 o.rd (x.1 &&& word (2 ^ (8 * n) - 1)))).onCore h Core.forget := by
  obtain ⟨aligned, -, d1, d2, dev, checked, drained, empty, near, own, held, clean, q⟩ := hit
  have checked' : s.dev.check s.adm.tab h (s.dev.core h).level .atomic ((s.dev.core h).getG o.ra) n false = (.go [(pa, n)] dev, d1) :=
    checked
  have aligned' : ¬ ((s.dev.core h).getG o.ra).toNat % n ≠ 0 := not_not_intro aligned
  refine ⟨((d2.core h).lineD (lineOf pa)).any fun x => x.own, (d2.core h).has (lineOf pa) true, ?_⟩
  rw [Dev.atomInsn, Dev.insn_ready r]
  simp only [size, aligned', if_false, checked', drained, empty,
    List.isEmpty_nil, Bool.not_true, Bool.false_eq_true, List.headD_cons, near]
  refine (Dev.atomNear_hit s.adm own held clean q made).trans ?_
  simp only [loadEntry, windowEntry, BitVec.ofNat_toNat, BitVec.setWidth_eq]

/-- What a near atomic answers (R65, R274). -/
theorem exec_atomInsn_hit (r : s.ready h = true) (size : (if o.dword then 8 else 4) = n)
    (made : atomicLine l (pa % 64) op uns o.dword ((s.core h).getG o.rb) ((s.core h).getG o.rd) = x) {c : Instr}
    (arm : exec c s = .next (s.onDev fun a d => (d.atomInsn a.tab h op uns o).finish a))
    (hit : s.atomHit h ((s.core h).getG o.ra) n pa l d) :
    ∃ t, exec c s = .next t ∧ (o.rd ≠ 0 → (t.core h).getG o.rd = x.1 &&& word (2 ^ (8 * n) - 1)) ∧
      (∀ q, q ≠ o.rd → (t.core h).getG q = (d.core h).getG q) ∧ (t.core h).pc = (d.core h).pc + 4 ∧
      (t.core h).copyOf (lineOf pa) = some x.2 ∧ t.adm = s.adm := by
  obtain ⟨owned, had, e⟩ := Dev.atomInsn_hit r size hit made
  obtain ⟨-, -, -, d2, -, -, -, -, near, -, held, clean, -⟩ := hit
  refine ⟨_, arm.trans (State.next_withDev e), ?_, ?_, ?_, ?_, rfl⟩
  all_goals simp only [State.core_withDev, Dev.core_onCore_same]
  · exact fun ne => Core.getG_nearDone_same _ _ _ _ _ _ _ _ _ _ ne
  · exact fun q ne => Core.getG_nearDone_ne _ _ _ _ _ _ _ _ _ _ ne
  · exact Core.pc_nearDone _ _ _ _ _ _ _ _ _ _
  · refine (Core.copyOf_nearDone _ _ _ _ _ _ _ _ _ _ _).trans ?_
    subst size made
    exact Core.copyOf_nearWrite (isWheel_of_near near) held clean _ _ _ _ _

end

/-- Settles O17: each of the instructions is `atomInsn` of its operation. -/
theorem nearAtomics : Obligations.NearAtomics := by
  intro s h o pa l d r
  dsimp only
  refine ⟨?_, ?_, ?_, ?_, ?_, ?_, ?_, ?_, ?_, ?_⟩
  all_goals exact exec_atomInsn_hit r rfl rfl rfl

end Sys2Proof.Machine
end

section
/-! System registers: where SYSR and SYSW trap, what they read and what they store (R97, R108, R146, R184 to R187, R456). -/

namespace Sys2Proof.Machine

/-! ### What a write does -/

/-- What SYSW of a register does with a value where it does not trap: SYS_IVCFG goes to the selected vector, SYS_CACHECTL and
SYS_CACHEINV act on the caches, the second once the store buffer is drained and no miss is pending, and every other register is stored
(`exec_sysw_allowed`). -/
def Dev.sysWrite (a : Admin) (d : Dev) (h : Hart) (n : Nat) (v : Word) : Dev :=
  if n = 0x109 then d.onCore h fun c => (c.writeIvcfg v).nextKill
  else if n = 0x20D then ((d.writeCacheCtl a.tab h v).onCore h Core.nextKill).finish a
  else if n = 0x20E then
    let d := d.drainAll a.tab h
    if !(d.core h).sb.isEmpty || (d.core h).missesOf v then d.finish a
    else ((d.writeCacheInv a.tab h v).onCore h Core.nextKill).finish a
  else d.onCore h fun c => (c.sysStore n v).nextKill

theorem Dev.sysWrite_store {n : Nat} (plain : n ≠ 0x109 ∧ n ≠ 0x20D ∧ n ≠ 0x20E) (a : Admin) (d : Dev) (h : Hart) (v : Word) :
    d.sysWrite a h n v = d.onCore h fun c => (c.sysStore n v).nextKill := by
  obtain ⟨ivcfg, ctl, inv⟩ := plain
  rw [Dev.sysWrite, if_neg ivcfg, if_neg ctl, if_neg inv]

/-- With an empty store buffer and no pending miss of a named cache, the caches are invalidated at once (R185). -/
theorem Dev.sysWrite_cacheInv {d : Dev} {h : Hart} {v : Word} (empty : (d.core h).sb = []) (free : (d.core h).missesOf v = false)
    (a : Admin) : d.sysWrite a h 0x20E v = ((d.writeCacheInv a.tab h v).onCore h Core.nextKill).finish a := by
  simp [Dev.sysWrite, Dev.drainAll_empty a.tab empty, empty, free]

theorem Core.sysGet_sysStore_same (c : Core) (n : Nat) (v : Word) :
    (c.sysStore n v).sysGet n = (c.sysGet n &&& ~~~ sysMask n) ||| (v &&& sysMask n) := by
  unfold Core.sysStore
  dsimp only
  split_ifs
  all_goals exact Core.sysGet_sysSet_same _ _ _

theorem Core.sysGet_sysStore_ne (c : Core) {m n : Nat} (ne : m ≠ n) (v : Word) : (c.sysStore n v).sysGet m = c.sysGet m := by
  unfold Core.sysStore
  dsimp only
  split_ifs
  all_goals exact Core.sysGet_sysSet_ne _ ne _

/-! ### Where they trap -/

section
variable {s : State} {h : Hart} (r : s.ready h = true)
include r

theorem exec_sysr_unlisted {n : BitVec 12} (unlisted : sysListed h n.toNat = false) (rd : GReg) :
    exec (.sysr h rd n) s = .next (s.ended (s.dev.wordFault s.adm.tab h 0x01 (wordX 0x38 rd n))) := by
  refine State.next_withDev ((Dev.insn_ready r _).trans ?_)
  simp only [unlisted, Bool.not_false, if_true]
  rfl

theorem exec_sysw_unlisted {n : BitVec 12} (unlisted : sysListed h n.toNat = false) (rs : GReg) :
    exec (.sysw h n rs) s = .next (s.ended (s.dev.wordFault s.adm.tab h 0x01 (wordX 0x39 rs n))) := by
  refine State.next_withDev ((Dev.insn_ready r _).trans ?_)
  simp only [unlisted, Bool.not_false, if_true]
  rfl

variable {n : BitVec 12} (listed : sysListed h n.toNat = true)
include listed

theorem exec_sysr_above (above : (s.core h).level < sysLevel n.toNat) (rd : GReg) :
    exec (.sysr h rd n) s = .next (s.ended (s.dev.wordFault s.adm.tab h 0x02 (wordX 0x38 rd n))) := by
  have above' : (s.dev.core h).level < sysLevel n.toNat := above
  refine State.next_withDev ((Dev.insn_ready r _).trans ?_)
  simp only [listed, above', Bool.not_true, Bool.false_eq_true, if_false, if_true]

/-- SYSW of a register that the level may not access, or may only read, raises PV (R97, R456). -/
theorem exec_sysw_barred (barred : (s.core h).level < sysLevel n.toNat ∨ (s.core h).mayWrite n.toNat = false) (rs : GReg) :
    exec (.sysw h n rs) s = .next (s.ended (s.dev.wordFault s.adm.tab h 0x02 (wordX 0x39 rs n))) := by
  have barred' : (decide ((s.dev.core h).level < sysLevel n.toNat) || !(s.dev.core h).mayWrite n.toNat) = true := by
    simpa [State.core] using barred
  refine State.next_withDev ((Dev.insn_ready r _).trans ?_)
  simp only [listed, barred', Bool.not_true, Bool.false_eq_true, if_false, if_true]

/-! ### Where they do not trap -/

variable (reached : sysLevel n.toNat ≤ (s.core h).level)
include reached

theorem exec_sysr_reached (rd : GReg) : exec (.sysr h rd n) s =
    .next (s.withCore h fun c => (c.setG rd (s.dev.sysRead s.adm.tab h n.toNat)).next) := by
  have reached' : ¬ (s.dev.core h).level < sysLevel n.toNat := Nat.not_lt.2 reached
  refine State.next_withDev ((Dev.insn_ready r _).trans ?_)
  simp only [listed, reached', Bool.not_true, Bool.false_eq_true, if_false]

variable (allowed : (s.core h).mayWrite n.toNat = true) (rs : GReg)
include allowed

theorem exec_sysw_allowed {d : Dev} (writes : s.dev.sysWrite s.adm h n.toNat ((s.core h).getG rs) = d) :
    exec (.sysw h n rs) s = .next (s.withDev d) := by
  subst writes
  have open_ : ¬ (decide ((s.dev.core h).level < sysLevel n.toNat) || !(s.dev.core h).mayWrite n.toNat) = true := by
    simpa [State.core] using And.intro reached allowed
  refine State.next_withDev ((Dev.insn_ready r _).trans ?_)
  dsimp only
  rw [if_neg (by simp [listed]), if_neg open_]
  split
  case h_1 e => rw [e]; rfl
  case h_2 e => rw [e]; rfl
  case h_3 e => rw [e]; rfl
  case h_4 ivcfg ctl inv => exact (Dev.sysWrite_store ⟨ivcfg, ctl, inv⟩ _ _ _ _).symm

end

/-- A counter register, which S may read, is barred to S without the grant of SYS_PCCTL (R456). -/
theorem Core.mayWrite_counter {c : Core} {n : Nat} (low : 0x120 ≤ n) (high : n ≤ 0x12A) (atS : c.level = 1)
    (ungranted : bit (c.sysGet 0x210) 8 = false) : c.mayWrite n = false := by
  have below : n ≤ 0x137 := by omega
  simp [Core.mayWrite, low, below, atS, ungranted]

theorem sysListed_counter (h : Hart) {n : Nat} (low : 0x120 ≤ n) (high : n ≤ 0x12A) : sysListed h n = true := by
  simp [sysListed, low, high]

/-- Settles O23: SYSR writes what it reads, SYSW is `Dev.sysWrite` of its register, and a store changes that register's fields alone. -/
theorem systemRegisters : Obligations.SystemRegisters := by
  intro s h rd rs n r listed reached
  dsimp only
  refine ⟨exec_sysr_reached r listed reached rd, fun allowed => ?_, Core.sysGet_sysStore_same _ _ _,
    fun m ne => Core.sysGet_sysStore_ne _ ne _⟩
  have writes {d : Dev} := exec_sysw_allowed r listed reached allowed rs (d := d)
  refine ⟨fun plain => ?_, ?_, ?_, ?_⟩
  · have plain' : n.toNat ≠ 0x109 ∧ n.toNat ≠ 0x20D ∧ n.toNat ≠ 0x20E := by
      simpa [← BitVec.toNat_inj] using plain
    exact writes (Dev.sysWrite_store plain' _ _ _ _)
  · rintro rfl
    exact writes rfl
  · rintro rfl
    exact writes rfl
  · rintro rfl empty free
    exact writes (Dev.sysWrite_cacheInv empty free _)

/-- Settles O24: a number that no register has is illegal, and a register that the level may not access is privileged. -/
theorem systemRegisterFaults : Obligations.SystemRegisterFaults := by
  intro s h rd rs n r
  dsimp only
  exact ⟨fun unlisted => ⟨exec_sysr_unlisted r unlisted rd, exec_sysw_unlisted r unlisted rs⟩,
    fun listed above => ⟨exec_sysr_above r listed above rd, exec_sysw_barred r listed (.inl above) rs⟩,
    fun low high atS ungranted =>
      exec_sysw_barred r (sysListed_counter h low high) (.inr (Core.mayWrite_counter low high atS ungranted)) rs⟩

end Sys2Proof.Machine
end

section
/-! Traps: each trap is one fault of its hart, and a fault whose frame fits enters its level (R99 to R103, R117). -/

namespace Sys2Proof.Machine

/-! ### What an entry leaves -/

/-- In `t` hart `h` has entered the level of the fault `f` with the return address `epc`: its frame is on line `pa`, and the rest is as
in `d`, where the frame had room. -/
def State.trapped (s t : State) (h : Hart) (f : Flt) (pa : Nat) (d : Dev) (epc : Word) : Prop :=
  let e := (s.faultMet h f).core h
  let lvl := e.trapLevel h f.cause
  e.entered (d.core h) (t.core h) h lvl pa (word f.cause) f.tval epc ∧
    (t.core h).pc = e.sysGet (bankOf lvl + 1) &&& ~~~ (3 : Word) ∧ bit ((t.core h).sysGet (bankOf lvl)) 2 = false ∧
    (∀ g, g ≠ h → t.core g = d.core g) ∧ t.dev.mem = d.mem ∧ t.adm = s.adm ∧ t.pending = s.pending

/-- A fault whose frame fits enters its level (R103). -/
theorem State.fault_trapped {s : State} {h : Hart} {f : Flt} {pa : Nat} {d : Dev} (fits : s.trapFits h f pa d) (epc : Word) :
    s.trapped (s.ended (s.dev.fault s.adm.tab h f epc)) h f pa d epc := by
  rw [State.ended, State.fault_fits s h pa d f epc fits]
  refine ⟨?_, ?_, ?_, fun g ne => ?_, rfl, rfl, rfl⟩
  · rw [State.core_withDev, Dev.core_onCore_same]
    exact Core.afterTrap_entered ..
  · rw [State.core_withDev, Dev.core_onCore_same, Core.afterTrap_pc]
  · rw [State.core_withDev, Dev.core_onCore_same, Core.afterTrap_ie]
  · rw [State.core_withDev, Dev.core_onCore_ne _ _ ne]

/-- A command that is a fault of its hart. -/
theorem State.exists_trapped {s : State} {h : Hart} {f : Flt} {pa : Nat} {d : Dev} {i : Instr} {epc : Word}
    (faults : exec i s = .next (s.ended (s.dev.fault s.adm.tab h f epc))) (fits : s.trapFits h f pa d) :
    ∃ t, exec i s = .next t ∧ s.trapped t h f pa d epc :=
  ⟨_, faults, State.fault_trapped fits epc⟩

/-! ### The commands that fault -/

/-- The fault of a trap at retirement on a ready hart, whose fetch brought no poison: poison is reported with the address that was read,
an ownership error with class 4, and nothing else is reported (R30, R117). -/
def Dev.retiredFlt (a : Tables) (d : Dev) (h : Hart) (cause : Cause) (tval : Word) : Flt :=
  { cause := causeCode cause
    tval
    rep := match cause with
      | .pc => some (3, 1, match (d.translate a h (d.core h).level .load tval).1 with
          | .ok pa _ => pa
          | _ => 0)
      | .ow => some (4, 0, 0)
      | _ => none }

theorem Dev.retiredFlt_plain (a : Tables) (d : Dev) (h : Hart) (tval : Word) {cause : Cause}
    (plain : cause ∉ [Cause.trap, Cause.brk, Cause.pc, Cause.ow]) : d.retiredFlt a h cause tval = flt (causeCode cause) tval := by
  cases cause
  case pc => simp at plain
  case ow => simp at plain
  all_goals rfl

section
variable {s : State} {h : Hart} (r : s.ready h = true)
include r

theorem exec_trap_ready (imm : BitVec 16) : exec (.trap h imm) s =
    .next (s.ended (s.dev.fault s.adm.tab h (flt 0x0B (imm.setWidth 64)) ((s.core h).pc + 4))) :=
  State.next_withDev (Dev.insn_ready r _)

theorem exec_brk_ready : exec (.brk h) s = .next (s.ended (s.dev.fault s.adm.tab h (flt 0x0C 0) ((s.core h).pc + 4))) :=
  State.next_withDev (Dev.insn_ready r _)

theorem exec_illegalInstruction_ready {w : BitVec 32} (unlisted : legalWord w = false) : exec (.illegalInstruction h w) s =
    .next (s.ended (s.dev.fault s.adm.tab h (flt 0x01 (w.setWidth 64)) (s.core h).pc)) := by
  refine State.next_withDev ?_
  simp only [unlisted, Bool.false_eq_true, if_false]
  exact Dev.insn_ready r _

/-- A trap at retirement whose EPC is the instruction itself. -/
theorem exec_trapEntry_ready {cause : Cause} (here : cause ≠ .trap ∧ cause ≠ .brk) (tval : Word) : exec (.trapEntry h cause tval) s =
    .next (s.ended (s.dev.fault s.adm.tab h (s.dev.retiredFlt s.adm.tab h cause tval) (s.core h).pc)) := by
  obtain ⟨running, noWindow, -, noLoad, clean⟩ := (s.dev.ready_iff h).1 r
  refine State.next_withDev (congrArg (Dev.finish s.adm) ?_)
  unfold Dev.trapEntry
  rw [Dev.wake_running running]
  simp only [running, noWindow, noLoad, clean, here]
  rfl

end

/-- Settles O25: each of the commands is a fault of its hart, which `State.fault_trapped` enters. -/
theorem trapsAreTaken : Obligations.TrapsAreTaken := by
  intro s h imm w cause tval pa d r
  dsimp only
  refine ⟨State.exists_trapped (exec_trap_ready r imm), State.exists_trapped (exec_brk_ready r),
    fun unlisted => State.exists_trapped (exec_illegalInstruction_ready r unlisted), fun plain => State.exists_trapped ?_⟩
  have here : cause ≠ .trap ∧ cause ≠ .brk := ⟨by rintro rfl; simp at plain, by rintro rfl; simp at plain⟩
  rw [exec_trapEntry_ready r here, Dev.retiredFlt_plain _ _ _ _ plain]

/-- Settles O26: on a ready hart PC and OW are faults with their report, at the instruction itself. -/
theorem poisonAndOwnershipTraps : Obligations.PoisonAndOwnershipTraps := by
  intro s h tval pa at_ dev d d1 r
  dsimp only
  refine ⟨fun read fits => ?_, fun fits => ?_⟩
  · have read' : s.dev.translate s.adm.tab h (s.dev.core h).level .load tval = (.ok at_ dev, d1) := read
    have reported : s.dev.retiredFlt s.adm.tab h .pc tval = { cause := 0x0A, tval, rep := some (3, 1, at_) } := by
      simp only [Dev.retiredFlt, read', causeCode]
    have faults := exec_trapEntry_ready r (cause := .pc) (by decide) tval
    rw [reported] at faults
    obtain ⟨t, e, entered, pc, -⟩ := State.exists_trapped faults fits
    exact ⟨t, e, entered, pc⟩
  · obtain ⟨t, e, entered, pc, -⟩ := State.exists_trapped (exec_trapEntry_ready r (cause := .ow) (by decide) tval) fits
    exact ⟨t, e, entered, pc⟩

end Sys2Proof.Machine
end

section
/-! Returns from a level: TRET restores what the save frame holds (R103, R104, R115). -/

namespace Sys2Proof.Machine

theorem bankOf_add_ne_sampled (lvl : Nat) {i : Nat} (small : i < 6) : bankOf lvl + i ≠ 0x213 := by
  rcases bankOf_or lvl with e | e <;> omega

theorem bankOf_add_ne_status (lvl : Nat) {i : Nat} (pos : 0 < i) (small : i < 6) : bankOf lvl + i ≠ 0x100 ∧ bankOf lvl + i ≠ 0x200 := by
  rcases bankOf_or lvl with e | e <;> omega

theorem bits_level_lt (w : Word) : bits w 1 0 < 4 := Nat.mod_lt _ (by decide)

theorem Core.getG_congr {c e : Core} (same : c.g = e.g) (r : GReg) : c.getG r = e.getG r := by
  rw [Core.getG, same, Core.getG]

/-! ### The frame's g registers -/

/-- g1 to g4 as a save frame holds them. -/
def Core.restoreG (c : Core) (l : Line) : Core :=
  (((c.setG 1 (lineWord l 4)).setG 2 (lineWord l 5)).setG 3 (lineWord l 6)).setG 4 (lineWord l 7)

theorem Core.getG_restoreG (c : Core) (l : Line) :
    (c.restoreG l).getG 1 = lineWord l 4 ∧ (c.restoreG l).getG 2 = lineWord l 5 ∧ (c.restoreG l).getG 3 = lineWord l 6 ∧
      (c.restoreG l).getG 4 = lineWord l 7 := by
  unfold Core.restoreG
  refine ⟨?_, ?_, ?_, Core.getG_setG_same _ (by decide) _⟩
  · rw [Core.getG_setG_ne _ (by decide), Core.getG_setG_ne _ (by decide), Core.getG_setG_ne _ (by decide),
      Core.getG_setG_same _ (by decide)]
  · rw [Core.getG_setG_ne _ (by decide), Core.getG_setG_ne _ (by decide), Core.getG_setG_same _ (by decide)]
  · rw [Core.getG_setG_ne _ (by decide), Core.getG_setG_same _ (by decide)]

theorem Core.getG_restoreG_high (c : Core) (l : Line) {r : GReg} (high : 4 < r.toNat) : (c.restoreG l).getG r = c.getG r := by
  have ne : ∀ q : GReg, q.toNat ≤ 4 → r ≠ q := by
    rintro q low rfl
    omega
  unfold Core.restoreG
  rw [Core.getG_setG_ne _ (ne 4 (by decide)), Core.getG_setG_ne _ (ne 3 (by decide)), Core.getG_setG_ne _ (ne 2 (by decide)),
    Core.getG_setG_ne _ (ne 1 (by decide))]

theorem Core.atRest_restoreG (c : Core) (l : Line) : (c.restoreG l).atRest = c.atRest := by
  simp only [Core.restoreG, Core.atRest_setG]

/-! ### The core of a return -/

/-- The core after a return from `lvl` with the frame `l`, whose stack pointer is `sp`: its registers, IE and running priority come from
the frame, the stack pointer moves up, the level and the PC are the saved ones. -/
def Core.afterReturn (c : Core) (lvl : Nat) (sp : Word) (l : Line) : Core :=
  let bank := bankOf lvl
  let st := lineWord l 1
  let c := c.countInst.restoreG l
  let c := c.sysSet bank (putBit (c.sysGet bank) 2 (bit st 2))
  let c := c.sysSet (bank + 5) (word (bits st 7 4))
  let c := c.sysSet (bank + 3) (sp + 64)
  (c.setLevel (bits st 1 0)).jump (lineWord l 0 &&& ~~~ (3 : Word))

section
variable (c : Core) (lvl : Nat) (sp : Word) (l : Line)

theorem Core.atRest_afterReturn : (c.afterReturn lvl sp l).atRest = c.atRest := by
  simp only [Core.afterReturn, Core.atRest_jump, Core.atRest_setLevel, Core.atRest_sysSet, Core.atRest_restoreG, Core.atRest_countInst]

@[simp] theorem Core.afterReturn_pc : (c.afterReturn lvl sp l).pc = lineWord l 0 &&& ~~~ (3 : Word) := rfl

theorem Core.afterReturn_level : (c.afterReturn lvl sp l).level = bits (lineWord l 1) 1 0 := by
  unfold Core.level Core.afterReturn
  rw [Core.sysGet_jump (by decide)]
  exact Core.level_setLevel _ (bits_level_lt _)

theorem Core.afterReturn_ie : bit ((c.afterReturn lvl sp l).sysGet (bankOf lvl)) 2 = bit (lineWord l 1) 2 := by
  have status : bankOf lvl ≠ 0x213 := bankOf_add_ne_sampled lvl (i := 0) (by decide)
  unfold Core.afterReturn
  dsimp only
  rw [Core.sysGet_jump status, Core.ie_setLevel, Core.sysGet_sysSet_ne _ (by omega), Core.sysGet_sysSet_ne _ (by omega),
    Core.sysGet_sysSet_same, bit_putBit_ie]

theorem Core.afterReturn_pri : (c.afterReturn lvl sp l).sysGet (bankOf lvl + 5) = word (bits (lineWord l 1) 7 4) := by
  have sampled := bankOf_add_ne_sampled lvl (i := 5) (by decide)
  obtain ⟨sLevel, hLevel⟩ := bankOf_add_ne_status lvl (i := 5) (by decide) (by decide)
  unfold Core.afterReturn
  dsimp only
  rw [Core.sysGet_jump sampled, Core.sysGet_setLevel _ _ sLevel hLevel, Core.sysGet_sysSet_ne _ (by omega), Core.sysGet_sysSet_same]

theorem Core.afterReturn_sp : (c.afterReturn lvl sp l).sysGet (bankOf lvl + 3) = sp + 64 := by
  have sampled := bankOf_add_ne_sampled lvl (i := 3) (by decide)
  obtain ⟨sLevel, hLevel⟩ := bankOf_add_ne_status lvl (i := 3) (by decide) (by decide)
  unfold Core.afterReturn
  dsimp only
  rw [Core.sysGet_jump sampled, Core.sysGet_setLevel _ _ sLevel hLevel, Core.sysGet_sysSet_same]

theorem Core.getG_afterReturn (r : GReg) : (c.afterReturn lvl sp l).getG r = (c.countInst.restoreG l).getG r :=
  Core.getG_congr (Core.jump_keeps Core.g (fun _ _ _ => rfl) (fun _ _ => rfl) _ _) r

theorem Core.getG_afterReturn_high {r : GReg} (high : 4 < r.toNat) : (c.afterReturn lvl sp l).getG r = c.getG r := by
  rw [Core.getG_afterReturn, Core.getG_restoreG_high _ _ high]
  exact Core.getG_congr (Core.countInst_keeps Core.g (fun _ _ _ => rfl) (fun _ _ _ => rfl) c) r

end

/-! ### TRET -/

/-- A return whose frame is legal and at hand, with no vector to chain to. -/
theorem State.tret_fits {s : State} {h : Hart} {l : Line} {d : Dev} (fits : s.tretFits h l d) :
    s.dev.tret s.adm.tab h = d.onCore h fun c =>
      c.afterReturn (s.core h).level ((s.core h).sysGet (bankOf (s.core h).level + 3)) l := by
  obtain ⟨above, low, wheelOnly, wheelLevels, -, unchained, ps, dev, d1, vs, checked, loaded, clean, rfl⟩ := fits
  unfold Dev.tret
  unfold State.core at *
  dsimp only at *
  rw [if_neg above, checked]
  dsimp only
  rw [loaded]
  dsimp only
  rw [clean]
  refine (if_neg ?_).trans ?_
  · simp only [Bool.or_eq_true, Bool.and_eq_true, Bool.not_eq_true', decide_eq_true_eq]
    rintro ((above' | ⟨isW, server⟩) | ⟨wheel, level⟩)
    · omega
    · simp [wheelOnly isW] at server
    · rcases wheelLevels wheel with e | e <;> omega
  · rw [Option.filter_eq_none_iff.2]
    · rfl
    · intro n selected
      exact fun t => unchained n selected (of_decide_eq_true t)

/-- Settles O27: the return is `Core.afterReturn` of the frame, and ends there, since the block is at rest. -/
theorem trapReturn : Obligations.TrapReturn := by
  intro s h l d r fits
  have rest : d.quiet = true := by
    obtain ⟨-, -, -, -, rest, -⟩ := fits
    exact rest
  have returns : exec (.tret h) s = .next (s.withDev (d.onCore h fun c =>
      c.afterReturn (s.core h).level ((s.core h).sysGet (bankOf (s.core h).level + 3)) l)) := by
    refine State.next_withDev ((Dev.insn_ready r _).trans ?_)
    rw [State.tret_fits fits]
    exact Dev.finish_rest _ (Dev.quiet_onCore rest h _ fun c atRest => by rwa [Core.atRest_afterReturn])
  refine ⟨_, returns, ?_⟩
  rw [State.core_withDev, Dev.core_onCore_same]
  obtain ⟨g1, g2, g3, g4⟩ := Core.getG_restoreG (d.core h).countInst l
  exact ⟨rfl, Core.afterReturn_level .., Core.afterReturn_ie .., Core.afterReturn_pri .., Core.afterReturn_sp ..,
    (Core.getG_afterReturn ..).trans g1, (Core.getG_afterReturn ..).trans g2, (Core.getG_afterReturn ..).trans g3,
    (Core.getG_afterReturn ..).trans g4, fun r high => Core.getG_afterReturn_high _ _ _ _ high⟩

end Sys2Proof.Machine
end

section
/-! Interrupt entry: the selected vector's frame is pushed, its running priority set, its PEND cleared, and its handler entered (R103,
R108, R110). -/

namespace Sys2Proof.Machine

theorem bit_putBit_pend (w : Word) (b : Bool) : bit (putBit w 63 b) 63 = b := by
  cases b <;> simp [bit, putBit, putBits]

theorem counted_bankOf_add (lvl : Nat) {i : Nat} (small : i < 6) : counted (bankOf lvl + i) = false := by
  simp only [counted, Bool.or_eq_false_iff, Bool.and_eq_false_iff, decide_eq_false_iff_not]
  rcases bankOf_or lvl with e | e <;> omega

/-! ### The core of an entry by a vector -/

/-- The core of hart `h` after it has entered `lvl` by vector `n`, as the core `e` that had room for its frame on line `pa`: the frame
pushed, the stack pointer moved, the running priority set, PEND cleared, the level set, and the PC at the handler. -/
def Core.afterVector (c e : Core) (h : Hart) (lvl pa n : Nat) (tval : Word) (npc : Word) : Core :=
  let bank := bankOf lvl
  let x := e.pushStore (storeEntry (c.frameAt lvl) pa 64 (c.saveFrame lvl c.pc (word (2 ^ 63 + n)) tval) false false) false
  let x := x.sysSet (bank + 3) (c.frameAt lvl)
  let x := (x.sysSet (bank + 5) (word (x.prioOf n))).taken n
  (x.setLevel (levelIn h lvl)).jump npc

section
variable (c e : Core) (h : Hart) (lvl pa n : Nat) (tval npc : Word)

theorem Core.atRest_afterVector : (c.afterVector e h lvl pa n tval npc).atRest = e.atRest := by
  simp only [Core.afterVector, Core.taken, Core.atRest_jump, Core.atRest_setLevel, Core.atRest_sysSet, Core.atRest_ivSet,
    Core.atRest_pushStore]

@[simp] theorem Core.afterVector_pc : (c.afterVector e h lvl pa n tval npc).pc = npc := rfl

/-- What neither fetch, the system registers nor the vectors are part of is as the push of the frame left it. -/
theorem Core.afterVector_keeps {α : Type} (P : Core → α) (hs : ∀ c n v, P (Core.sysSet c n v) = P c)
    (hv : ∀ c n v, P (Core.ivSet c n v) = P c) (hj : ∀ (c : Core) (pc : Word), P { c.refetch pc with pc, lq := [] } = P c) :
    P (c.afterVector e h lvl pa n tval npc) = P (e.pushStore
      (storeEntry (c.frameAt lvl) pa 64 (c.saveFrame lvl c.pc (word (2 ^ 63 + n)) tval) false false) false) := by
  simp only [Core.afterVector, Core.jump_keeps P hs hj, Core.setLevel, Core.taken, hs, hv]

theorem Core.afterVector_sp : (c.afterVector e h lvl pa n tval npc).sysGet (bankOf lvl + 3) = c.frameAt lvl := by
  obtain ⟨sLevel, hLevel⟩ := bankOf_add_ne_status lvl (i := 3) (by decide) (by decide)
  unfold Core.afterVector Core.taken
  dsimp only
  rw [Core.sysGet_jump (bankOf_add_ne_sampled lvl (by decide)), Core.sysGet_setLevel _ _ sLevel hLevel, Core.sysGet_ivSet,
    Core.sysGet_sysSet_ne _ (by omega), Core.sysGet_sysSet_same]

theorem Core.afterVector_level : (c.afterVector e h lvl pa n tval npc).level = levelIn h lvl := by
  have known : levelIn h lvl < 4 := by
    unfold levelIn
    split_ifs <;> decide
  unfold Core.level Core.afterVector
  rw [Core.sysGet_jump (by decide)]
  exact Core.level_setLevel _ known

theorem Core.afterVector_pri : (c.afterVector e h lvl pa n tval npc).sysGet (bankOf lvl + 5) = word (e.prioOf n) := by
  obtain ⟨sLevel, hLevel⟩ := bankOf_add_ne_status lvl (i := 5) (by decide) (by decide)
  have prio : ∀ entry : SbEntry, (e.pushStore entry false).prioOf n = e.prioOf n :=
    fun entry => Core.pushStore_keeps (Core.prioOf · n) (fun _ _ => rfl) e entry false
  unfold Core.afterVector Core.taken
  dsimp only
  rw [Core.sysGet_jump (bankOf_add_ne_sampled lvl (by decide)), Core.sysGet_setLevel _ _ sLevel hLevel, Core.sysGet_ivSet,
    Core.sysGet_sysSet_same]
  exact congrArg word (prio _)

theorem Core.afterVector_pend : bit ((c.afterVector e h lvl pa n tval npc).ivGet n) 63 = false := by
  have iv : ∀ (x : Core) (l : Nat), ((x.setLevel l).jump npc).ivGet n = x.ivGet n := fun x l =>
    Core.jump_keeps (Core.ivGet · n) (fun _ _ _ => rfl) (fun _ _ => rfl) (x.setLevel l) npc
  unfold Core.afterVector
  dsimp only
  rw [iv, Core.taken, Core.ivGet_ivSet_same, bit_putBit_pend]

/-- Counting the entry leaves it an entry of `lvl` (R448). -/
theorem Core.afterVector_entered (ip : Word) : c.entered e ((c.afterVector e h lvl pa n tval npc).event 0x11 1 ip) h lvl pa
    (word (2 ^ 63 + n)) tval c.pc := by
  have kept : ∀ {α : Type} (P : Core → α), (∀ c n v, P (Core.sysSet c n v) = P c) → (∀ c n v, P (Core.ivSet c n v) = P c) →
      (∀ (c : Core) (pc : Word), P { c.refetch pc with pc, lq := [] } = P c) →
      P ((c.afterVector e h lvl pa n tval npc).event 0x11 1 ip) = P (e.pushStore
        (storeEntry (c.frameAt lvl) pa 64 (c.saveFrame lvl c.pc (word (2 ^ 63 + n)) tval) false false) false) :=
    fun P hs hv hj => (Core.event_keeps P hs hv _ _ _ _).trans (Core.afterVector_keeps _ _ _ _ _ _ _ _ P hs hv hj)
  refine ⟨kept Core.sb (fun _ _ _ => rfl) (fun _ _ _ => rfl) (fun _ _ => rfl), ?_, ?_, ?_, ?_, ?_⟩
  · rw [Core.sysGet_event (counted_bankOf_add lvl (by decide)), Core.afterVector_sp]
  · rw [Core.level, Core.sysGet_event (by decide)]
    exact Core.afterVector_level ..
  · exact (kept Core.g (fun _ _ _ => rfl) (fun _ _ _ => rfl) (fun _ _ => rfl)).trans (Core.pushStore_keeps Core.g (fun _ _ => rfl) _ _ _)
  · exact (kept Core.v (fun _ _ _ => rfl) (fun _ _ _ => rfl) (fun _ _ => rfl)).trans (Core.pushStore_keeps Core.v (fun _ _ => rfl) _ _ _)
  · exact (kept Core.p (fun _ _ _ => rfl) (fun _ _ _ => rfl) (fun _ _ => rfl)).trans (Core.pushStore_keeps Core.p (fun _ _ => rfl) _ _ _)

end

/-! ### The command -/

/-- A vector whose frame and handler can be had is entered (R103). -/
theorem Dev.enter_vector {a : Tables} {d0 d1 d2 d : Dev} {h : Hart} {lvl pa n : Nat} {npc : Word} {dev : Bool}
    (aligned : ((d0.core h).frameAt lvl).toNat % 64 = 0)
    (checked : d0.check a h lvl .store ((d0.core h).frameAt lvl) 64 false = (.go [(pa, 64)] dev, d1))
    (handler : d1.handlerOf a h lvl n = (.addr npc, d2)) (room : d2.sbRoom a drainFuel h 1 = (true, d)) (tval : Word) :
    d0.enter a h lvl (word (2 ^ 63 + n)) tval (d0.core h).pc (some n) =
      (.done, d.onCore h fun e => (d0.core h).afterVector e h lvl pa n tval npc) := by
  unfold Core.frameAt at aligned checked
  unfold Dev.enter
  dsimp only
  rw [if_neg (by simpa using aligned), checked]
  dsimp only
  rw [handler]
  dsimp only
  rw [room]
  rfl

/-- A vector that has been entered is counted (R448). -/
theorem Dev.takeVector_done {a : Tables} {d x : Dev} {h : Hart} {n : Nat} {epc : Word}
    (entered : d.free.2.enter a h ((d.core h).targetOf h n) (word (2 ^ 63 + n)) d.free.1 epc (some n) = (.done, x)) :
    d.takeVector a h n epc = x.onCore h fun c => c.event 0x11 1 c.pc := by
  unfold Dev.takeVector
  dsimp only
  rw [entered]

section
variable {d : Dev} {h : Hart} (r : d.ready h = true) (a : Tables)
include r

theorem Dev.interruptEntry_none (idle : d.select h (d.core h).takeState = none) : d.interruptEntry a h none = d := by
  obtain ⟨running, noWindow, -, noLoad, -⟩ := (d.ready_iff h).1 r
  unfold Dev.interruptEntry
  rw [Dev.wake_running running]
  simp [running, noWindow, noLoad, idle]

/-- On a ready hart the entry takes the selected vector at the next instruction (R110, R111). -/
theorem Dev.interruptEntry_some {n : Nat} (selected : d.select h (d.core h).takeState = some n) :
    d.interruptEntry a h none = (d.onCore h fun c => { c with run := .running }).takeVector a h n (d.core h).pc := by
  obtain ⟨running, noWindow, -, noLoad, -⟩ := (d.ready_iff h).1 r
  unfold Dev.interruptEntry
  rw [Dev.wake_running running]
  simp [running, noWindow, noLoad, selected, Dev.lateFor]

end

/-- A selected vector whose frame and handler can be had is entered, and counted. -/
theorem exec_interruptEntry_entered {s : State} {h : Hart} (r : s.ready h = true) {n pa : Nat} {npc : Word} {dev : Bool}
    {d1 d2 d : Dev} (selected : s.dev.select h (s.core h).takeState = some n)
    (aligned : ((s.core h).frameAt ((s.core h).targetOf h n)).toNat % 64 = 0) (rest : d.quiet = true)
    (checked : (s.dev.free.2.onCore h fun c => { c with run := .running }).check s.adm.tab h ((s.core h).targetOf h n) .store
      ((s.core h).frameAt ((s.core h).targetOf h n)) 64 false = (.go [(pa, 64)] dev, d1))
    (handler : d1.handlerOf s.adm.tab h ((s.core h).targetOf h n) n = (.addr npc, d2))
    (room : d2.sbRoom s.adm.tab drainFuel h 1 = (true, d)) :
    exec (.interruptEntry h none) s = .next (s.withDev ((d.onCore h fun e => (s.core h).afterVector e h
      ((s.core h).targetOf h n) pa n (Config.freeValue s.dev.fresh) npc).onCore h fun c => c.event 0x11 1 c.pc)) := by
  have begun : (s.dev.free.2.onCore h fun c => { c with run := .running }).core h = { s.core h with run := .running } :=
    Dev.core_onCore_same _ _ _
  have target : ((s.dev.onCore h fun c => { c with run := .running }).core h).targetOf h n = (s.core h).targetOf h n := by
    rw [Dev.core_onCore_same]
    rfl
  have entered := Dev.enter_vector (by rw [begun]; exact aligned) (by rw [begun]; exact checked) handler room
    (Config.freeValue s.dev.fresh)
  rw [begun] at entered
  refine State.next_withDev ((congrArg (Dev.finish s.adm) ((Dev.interruptEntry_some r _ selected).trans
    (Dev.takeVector_done (by rw [target]; exact entered)))).trans (Dev.finish_rest _ ?_))
  refine Dev.quiet_onCore (Dev.quiet_onCore rest h _ fun c atRest => ?_) h _ fun c atRest => ?_
  · rwa [Core.atRest_afterVector]
  · rwa [Core.atRest_event]

/-- Settles O30: the entry takes the selected vector, and `Core.afterVector` is the core that it leaves. -/
theorem interruptsAreTaken : Obligations.InterruptsAreTaken := by
  intro s h n pa npc dev d0 d1 d2 d r
  dsimp only
  refine ⟨fun idle => ?_, fun selected aligned rest begins checked handler room => ?_⟩
  · exact State.next_withDev (congrArg (Dev.finish s.adm) (Dev.interruptEntry_none r _ idle))
  · subst begins
    refine ⟨_, exec_interruptEntry_entered r selected aligned rest checked handler room, ?_⟩
    rw [State.core_withDev, Dev.core_onCore_same, Dev.core_onCore_same, Core.afterVector_pc]
    refine ⟨Core.afterVector_entered .., ?_, ?_, fun ne => ?_⟩
    · exact Core.event_keeps Core.pc (fun _ _ _ => rfl) (fun _ _ _ => rfl) _ _ _ _
    · rw [Core.sysGet_event (counted_bankOf_add _ (by decide)), Core.afterVector_pri]
    · rw [Core.event_preserves (Core.ivGet · n) (fun _ _ _ _ => rfl) (fun c => Core.ivGet_ivSet_ne c ne), Core.afterVector_pend]

end Sys2Proof.Machine
end

section
/-! Vectors that become pending: interrupt messages, timers and bus errors of device stores (R106 to R108, R112, R118). -/

namespace Sys2Proof.Machine

/-! ### Raising a vector -/

theorem Core.pend_raise (c : Core) (n : Nat) : bit ((c.raise n).ivGet n) 63 = true := by
  rw [Core.raise, Core.ivGet_ivSet_same, bit_putBit_pend]

theorem Core.ivGet_raise_ne (c : Core) {m n : Nat} (ne : m ≠ n) : (c.raise n).ivGet m = c.ivGet m := Core.ivGet_ivSet_ne c ne _

theorem Dev.raise_running {d : Dev} {h : Hart} (running : (d.core h).run = .running) (n : Nat) :
    d.raise h n = d.onCore h fun c => c.raise n :=
  Dev.wake_running ((congrArg Core.run (Dev.core_onCore_same _ _ _)).trans running)

/-- In `t` vector `n` of hart `h` is pending, and no other vector has changed. -/
def State.pended (s t : State) (h : Hart) (n : Nat) : Prop :=
  bit ((t.core h).ivGet n) 63 = true ∧ (∀ m, m ≠ n → (t.core h).ivGet m = (s.core h).ivGet m) ∧ ∀ g, g ≠ h → t.core g = s.core g

theorem State.pended_of_raise {s t : State} {h : Hart} {n : Nat} {c : Core} (raised : t.core h = c.raise n)
    (kept : ∀ m, c.ivGet m = (s.core h).ivGet m) (others : ∀ g, g ≠ h → t.core g = s.core g) : s.pended t h n := by
  refine ⟨?_, fun m ne => ?_, others⟩
  · rw [raised, Core.pend_raise]
  · rw [raised, Core.ivGet_raise_ne _ ne, kept]

/-! ### Interrupt messages -/

theorem hartOf_slot {h : Hart} (server : isServer h = true) : hartOf h.sock.val h.core.val = some h := by
  have below : h.core.val < 208 := by simpa [isServer, isWheel] using server
  have sock := h.sock.isLt
  simp [hartOf, below, Nat.mod_eq_of_lt sock]

/-- A message that R106 admits raises its vector. -/
theorem Dev.interrupt_admitted {t : Tables} {d : Dev} {h : Hart} {data : BitVec 32} {berth : Nat} (server : isServer h = true)
    (there : d.coreThere h = true) (low : 16 ≤ data.toNat) (high : data.toNat < 1024)
    (owned : berth = 0 ∨ t.berthOf h = berth) (master : Nat) :
    d.interrupt t h.sock.val (h.core.val * 0x1000) 4 data berth master false = d.raise h data.toNat := by
  have slot : h.core.val * 0x1000 / 0x1000 = h.core.val := Nat.mul_div_cancel _ (by decide)
  have owner : (berth ≠ 0 && t.berthOf h ≠ berth) = false := by
    rcases owned with e | e <;> simp [e]
  unfold Dev.interrupt
  simp only [slot, hartOf_slot server, there, owner]
  simp [low, high]

/-! ### Bus errors of device stores -/

theorem Dev.storeBusError_first {d : Dev} {h : Hart} (running : (d.core h).run = .running)
    (free : bit ((d.core h).sysGet 0x20A) 63 = false) (a : Tables) (va : Word) (pa : Nat) :
    d.storeBusError a h va pa =
      (d.onCore h fun c => c.sysSet 0x20A (word (2 ^ 63 + bits va 47 0))).onCore h fun c => c.raise 5 := by
  unfold Dev.storeBusError
  rw [if_neg (by simp [free]), Dev.raise_running ((congrArg Core.run (Dev.core_onCore_same _ _ _)).trans running)]

theorem Dev.storeBusError_further {d : Dev} {h : Hart} (held : bit ((d.core h).sysGet 0x20A) 63 = true) (a : Tables) (va : Word)
    (pa : Nat) : d.storeBusError a h va pa = d.coreReport a h 2 8 pa := if_pos held

/-! ### Timers -/

/-- A vector that completes a waiting core's WFI retires it (R112). -/
theorem Dev.wake_waiting {d : Dev} {h : Hart} (waiting : (d.core h).run = .waiting) (done : (d.core h).wfiDone (d.pend h) = true) :
    d.wake h = d.onCore h fun c => { c.next with run := .running } := if_pos (by simp [waiting, done])

theorem Dev.pend_sTimer (d : Dev) (h : Hart) : d.pend h 1 = true ↔
    ((d.core h).sysGet 0x106 ≠ 0 ∧ ((d.core h).sysGet 0x106).toNat ≤ d.now.toNat) ∨ bit ((d.core h).ivGet 1) 63 = true := by
  simp [Dev.pend]

theorem Dev.pend_hTimer (d : Dev) (h : Hart) : d.pend h 2 = true ↔
    ((d.core h).sysGet 0x206 ≠ 0 ∧ ((d.core h).sysGet 0x206).toNat ≤ d.now.toNat) ∨ bit ((d.core h).ivGet 2) 63 = true := by
  simp [Dev.pend]

/-! ### The commands -/

theorem exec_interruptMessage_admitted {s : State} {h : Hart} {q : Requester} {data : BitVec 32} (server : isServer h = true)
    (running : (s.core h).run = .running) (there : s.dev.coreThere h = true) (low : 16 ≤ data.toNat) (high : data.toNat < 1024)
    (owned : q.berth = 0 ∨ s.adm.tab.berthOf h = q.berth.toNat) :
    exec (.interruptMessage q h.sock (BitVec.ofNat 20 (h.core.val * 0x1000)) 4 data false) s =
      .next (s.withCore h fun c => c.raise data.toNat) := by
  have slot : (BitVec.ofNat 20 (h.core.val * 0x1000)).toNat = h.core.val * 0x1000 :=
    Nat.mod_eq_of_lt (by have := h.core.isLt; omega)
  have owned' : q.berth.toNat = 0 ∨ s.adm.tab.berthOf h = q.berth.toNat := owned.imp_left fun e => by rw [e]; rfl
  refine State.next_withDev ?_
  rw [slot, Dev.interrupt_admitted server there low high owned', Dev.raise_running running]

/-- Settles O29: an admitted message and a first bus error are one `Core.raise`, and a timer is a wait that ends. -/
theorem vectorsBecomePending : Obligations.VectorsBecomePending := by
  intro s h q data va
  dsimp only
  refine ⟨fun server running there low high owned => ?_, fun running free => ?_, fun held => ?_, fun waiting done => ?_,
    Dev.pend_sTimer _ _, Dev.pend_hTimer _ _⟩
  · exact ⟨_, exec_interruptMessage_admitted server running there low high owned,
      State.pended_of_raise (State.core_withCore_same ..) (fun _ => rfl) fun g ne => State.core_withCore_ne s ne _⟩
  · have raises : exec (.deviceStoreBusError h va) s = .next (s.withDev
        ((s.dev.onCore h fun c => c.sysSet 0x20A (word (2 ^ 63 + bits va 47 0))).onCore h fun c => c.raise 5)) :=
      State.next_withDev (Dev.storeBusError_first running free _ _ _)
    refine ⟨⟨_, raises, State.pended_of_raise (Dev.core_onCore_same ..) (fun m => ?_) fun g ne => ?_⟩, _, raises, ?_⟩
    · rw [Dev.core_onCore_same]
      rfl
    · exact (Dev.core_onCore_ne _ _ ne).trans (Dev.core_onCore_ne _ _ ne)
    · rw [State.core_withDev, Dev.core_onCore_same, Dev.core_onCore_same, Core.raise, Core.sysGet_ivSet, Core.sysGet_sysSet_same]
  · exact State.next_withDev (Dev.storeBusError_further held _ _ _)
  · exact ⟨State.next_withDev (Dev.wake_waiting waiting done), State.next_withDev (Dev.wake_waiting waiting done)⟩

end Sys2Proof.Machine
end

section
/-! The events that kill loads, and what trains and ages the predictors (R128 to R131, R152, R160). -/

namespace Sys2Proof.Machine

/-! ### What a kill leaves -/

/-- A kill keeps what neither counting, fetch nor the load queue is part of (R130). -/
theorem Core.killLoads_keeps {α : Type} (P : Core → α) (hs : ∀ c n v, P (Core.sysSet c n v) = P c)
    (hv : ∀ c n v, P (Core.ivSet c n v) = P c)
    (hj : ∀ (c : Core) (pc : Word), P { c.refetch pc with pc, lq := [] } = P c) (c : Core) : P c.killLoads = P c := by
  rw [Core.killLoads, Core.jump_keeps P hs hj, Core.event_keeps P hs hv]

/-! ### The commands that kill -/

section
variable {s : State} {h : Hart} {e : LqEntry} {r : List LqEntry} (oldest : (s.core h).lq = e :: r)
include oldest

theorem exec_memoryOrderKill_marked (marked : e.orderKill = true) :
    exec (.memoryOrderKill h) s = .next (s.withCore h Core.killLoads) := by
  have oldest' : (s.dev.core h).lq = e :: r := oldest
  exact State.next_withDev (if_pos (by simp [oldest', marked]))

theorem exec_memoryOrderKill_unmarked (unmarked : e.orderKill = false) : exec (.memoryOrderKill h) s = .next s := by
  have oldest' : (s.dev.core h).lq = e :: r := oldest
  exact State.next_withDev (if_neg (by simp [oldest', unmarked]))

theorem exec_dependenceKill_marked (marked : e.depKill = true) :
    exec (.dependenceKill h) s = .next (s.withCore h fun c =>
      ({ c with mdp := Tbl.set false c.mdp (bits e.pc 12 2) true } : Core).killLoads) := by
  have oldest' : (s.dev.core h).lq = e :: r := oldest
  refine State.next_withDev ?_
  rw [oldest']
  exact if_pos marked

theorem exec_dependenceKill_unmarked (unmarked : e.depKill = false) : exec (.dependenceKill h) s = .next s := by
  have oldest' : (s.dev.core h).lq = e :: r := oldest
  refine State.next_withDev (d := s.dev) ?_
  rw [oldest']
  exact if_neg (by simp [unmarked])

end

/-! ### Halving the useful counters (R160) -/

theorem Tbl.find_mapV {α : Type} (t : Tbl α) (f : Nat → α → α) (k : Nat) : Tbl.find (t.mapV f) k = (Tbl.find t k).map (f k) := by
  induction t with
  | nil => rfl
  | cons e r ih =>
    show (if e.1 = k then some (f e.1 e.2) else Tbl.find (Tbl.mapV r f) k) = _
    rw [ih, Tbl.find]
    split
    case isTrue same => rw [same]; rfl
    case isFalse => rfl

theorem Predictor.usefulShift_early {p : Predictor} (early : p.resolved < 262144) : p.usefulShift = p := if_pos early

theorem Predictor.usefulShift_due {p : Predictor} (due : 262144 ≤ p.resolved) :
    p.usefulShift = { p with
      tagged := p.tagged.mapV fun _ e => { e with useful := e.useful / 2 }
      resolved := p.resolved - 262144 } := if_neg (Nat.not_lt.2 due)

/-- Settles O31: each command is one change of its core, or none. -/
theorem pipelineKills : Obligations.PipelineKills := by
  intro s h e r
  dsimp only
  refine ⟨exec_memoryOrderKill_marked, exec_memoryOrderKill_unmarked, exec_dependenceKill_marked, exec_dependenceKill_unmarked,
    ⟨rfl, ?_, ?_, rfl, ?_, ?_⟩, rfl, s.withCore h fun c => { c with pred := c.pred.usefulShift }, rfl,
    fun g ne => State.core_withCore_ne s ne _, fun early => ?_, fun due => ?_⟩
  · rw [Core.killLoads, Core.jump_pc]
  · rfl
  · exact Core.killLoads_keeps Core.g (fun _ _ _ => rfl) (fun _ _ _ => rfl) (fun _ _ => rfl) _
  · exact Core.killLoads_keeps Core.sb (fun _ _ _ => rfl) (fun _ _ _ => rfl) (fun _ _ => rfl) _
  · rw [State.core_withCore_same, Predictor.usefulShift_early early]
  · rw [State.core_withCore_same, Predictor.usefulShift_due due]
    refine ⟨rfl, fun k x listed => ?_⟩
    dsimp only
    rw [Tbl.find_mapV, listed, Option.map_some]

end Sys2Proof.Machine
end

section
/-! A waiting load that is tried again, and the oldest store that is written into its line (R127, R133, R136, R178). -/

namespace Sys2Proof.Machine

/-! ### Writing a line with an empty window -/

theorem Core.touchD_lq (c : Core) (k : Nat) : (c.touchD k).lq = c.lq := rfl

section
variable {c : Core} (empty : c.lq = [])
include empty

theorem Core.dropI_lq_nil (la : Nat) : (c.dropI la).lq = [] := by
  unfold Core.dropI
  split <;> exact empty

theorem Core.leftD_lq_nil (la : Nat) : (c.leftD la).lq = [] := by
  simp [Core.leftD, empty]

theorem Core.syncD_lq_nil (la : Nat) : (c.syncD la).lq = [] := by
  unfold Core.syncD
  split
  · split
    · split <;> exact empty
    · exact empty
  · exact empty

theorem Core.dropD_lq_nil (la : Nat) : (c.dropD la).lq = [] := by
  have synced := Core.syncD_lq_nil empty la
  unfold Core.dropD
  dsimp only
  split
  · exact Core.leftD_lq_nil (c := { c.syncD la with l1d := _ }) synced la
  · split
    · exact synced
    · exact Core.leftD_lq_nil synced la

theorem Core.putD_lq_nil (e : CLine) : (c.putD e).lq = [] := by
  have owned : (if e.own then c.dropI e.la else c).lq = [] := by
    split
    · exact Core.dropI_lq_nil empty _
    · exact empty
  unfold Core.putD
  dsimp only
  generalize (if e.own then c.dropI e.la else c) = c1 at *
  split
  · rw [Core.touchD_lq]
    exact owned
  · rw [Core.touchD_lq]
    dsimp only
    split
    · exact Core.dropD_lq_nil owned _
    · exact owned

theorem Core.fillD_lq_nil (la : Nat) : (c.fillD la).lq = [] := by
  unfold Core.fillD
  split
  · split
    · refine Core.putD_lq_nil ?_ _
      exact empty
    · exact empty
  · exact empty

/-- No load waits after a write where none waited before. -/
theorem Core.writeLine_lq_nil (h : Hart) (la : Nat) (m : BitVec 64) (v : Line) : (c.writeLine h la m v).lq = [] := by
  have dropped := Core.dropI_lq_nil empty la
  unfold Core.writeLine
  dsimp only
  generalize c.dropI la = c1 at *
  have filled : (if (c1.findD la).isSome then c1 else c1.fillD la).lq = [] := by
    split
    · exact dropped
    · exact Core.fillD_lq_nil dropped la
  generalize (if (c1.findD la).isSome then c1 else c1.fillD la) = c2 at *
  split
  · split
    · split
      · split
        · split <;> exact filled
        · exact filled
      · exact filled
    · exact filled
  · split
    · split <;> exact dropped
    · exact dropped

end

/-! ### STORE_BUFFER_WRITE (R133) -/

theorem Core.run_writeLine (h : Hart) (c : Core) (la : Nat) (m : BitVec 64) (v : Line) : (c.writeLine h la m v).run = c.run :=
  Core.writeLine_keeps Core.run (fun _ _ _ _ _ _ _ => rfl) h c la m v

theorem Core.atRest_writeLine (h : Hart) (c : Core) (la : Nat) (m : BitVec 64) (v : Line) : (c.writeLine h la m v).atRest = c.atRest :=
  Core.writeLine_keeps Core.atRest (fun _ _ _ _ _ _ _ => rfl) h c la m v

theorem Dev.drainOne_nil {d : Dev} {h : Hart} (empty : (d.core h).sb = []) (a : Tables) : d.drainOne a h = (false, d) := by
  unfold Dev.drainOne
  rw [empty]

/-- The oldest store, cacheable and to a line that can be owned, is written and leaves the buffer. -/
theorem Dev.drainOne_owned {a : Tables} {d0 d : Dev} {h : Hart} {x : SbEntry} {r : List SbEntry} (oldest : (d0.core h).sb = x :: r)
    (normal : x.dev = false) (cached : d0.uncached a h x.pa = false) (owned : d0.ownLine a h x.pa = (true, d)) :
    d0.drainOne a h = (true, (d.onCore h fun c => c.writeLine h (lineOf x.pa) x.mask x.data).onCore h fun c =>
      { c with sb := c.sb.drop 1 }) := by
  unfold Dev.drainOne
  simp only [oldest, normal, cached, owned, Bool.false_eq_true, if_false, if_true]

/-- Nothing waits for the store buffer of a running hart without a window: the access ends, and no more (R135, R142). -/
theorem exec_storeBufferWrite_ends {s : State} {h : Hart} {d : Dev} (drained : (s.dev.drainOne s.adm.tab h).2 = d)
    (q : d.quiet = true) (running : (d.core h).run = .running) (noWindow : (d.core h).lq = []) :
    exec (.storeBufferWrite h) s = .next (s.withDev (d.onCore h Core.forget)) := by
  have core : (d.onCore h Core.forget).core h = (d.core h).forget := Dev.core_onCore_same _ _ _
  have window : (d.onCore h Core.forget).windowGo s.adm.tab h = d.onCore h Core.forget := by
    refine if_pos ?_
    rw [core]
    exact List.isEmpty_iff.2 noWindow
  have reset : (d.onCore h Core.forget).resetGo s.adm h = d.onCore h Core.forget := by
    have running' : ((d.core h).forget).run = .running := running
    refine if_neg ?_
    rw [core, running']
    simp
  refine State.next_withDev ?_
  rw [drained, Dev.accessDone_finish q, window, reset, Dev.finish_rest _ (Dev.quiet_forget q h)]

/-! ### LOAD_REISSUE (R178) -/

/-- A load of the window that has its address and waits for its data, marked for no kill. -/
structure LqEntry.Waits (e : LqEntry) : Prop where
  load : e.kind = .load
  parts : e.parts ≠ []
  given : e.given = []
  value : e.value = none
  ordered : e.orderKill = false
  independent : e.depKill = false

/-- The hart runs, `e` is all its window holds, and no device load or far atomic is out. -/
structure Dev.Alone (d : Dev) (h : Hart) (e : LqEntry) : Prop where
  running : (d.core h).run = .running
  only : (d.core h).lq = [e]
  noLoad : (d.core h).devLoad = none

/-- The only load of a window, once its data is at hand. -/
def LqEntry.performed (e : LqEntry) (vs : List Part) : LqEntry :=
  { e with
    value := some (joinParts e.parts vs), poison := firstPoison e.va e.parts vs
    lvl := vs.foldl (fun m v => Nat.max m v.lvl) 0, waited := e.waited || vs.any fun v => v.waited
    src := vs.map fun _ => 0 }

theorem Core.atomOut_of_no_devLoad {c : Core} (noLoad : c.devLoad = none) : c.atomOut = false := by
  simp [Core.atomOut, noLoad]

/-- The oldest load waits for no store, and nothing older can make its read wrong (R127, R128). -/
theorem Dev.tryLoad_alone {a : Tables} {d0 d : Dev} {h : Hart} {e : LqEntry} {vs : List Part} (waits : e.Waits)
    (before : d0.Alone h e) (after : d.Alone h e) (got : d0.loadParts a h e.parts = (some vs, d)) :
    d0.tryLoad a h [] e = (e.performed vs, d) := by
  have out := Core.atomOut_of_no_devLoad before.noLoad
  have out' := Core.atomOut_of_no_devLoad after.noLoad
  unfold Dev.tryLoad
  simp only [List.isEmpty_nil, List.any_nil, out, out', Dev.performLoad_hit waits.given out got, Bool.not_false, Bool.not_true,
    Bool.and_true, Bool.and_false, Bool.false_and, Bool.or_self, Bool.false_eq_true, if_false]
  rfl

/-- Only a store of the window generates an address. -/
theorem Dev.genStore_load {d : Dev} {h : Hart} {i : Nat} {e : LqEntry} (listed : (d.core h).lq[i]? = some e) (load : e.kind = .load)
    (a : Tables) : d.genStore a h i = d := by
  unfold Dev.genStore
  dsimp only
  rw [listed]
  dsimp only
  rw [load]

theorem Dev.genStores_load {d : Dev} {h : Hart} {e : LqEntry} (only : (d.core h).lq = [e]) (load : e.kind = .load) (a : Tables) :
    d.genStores a h = d := by
  have listed : (d.core h).lq[0]? = some e := by rw [only]; rfl
  have one : (d.core h).lq.length = 1 := by rw [only]; rfl
  rw [Dev.genStores, one]
  exact Dev.genStore_load listed load a

/-- A load writes a g register or a v register alone. -/
theorem Core.loadReg_keeps {α : Type} (P : Core → α) (hg : ∀ (c : Core) (g : Tbl Word), P { c with g } = P c)
    (hv : ∀ (c : Core) (v : Tbl Line), P { c with v } = P c) (c : Core) (e : LqEntry) (v : Line) : P (c.loadReg e v) = P c := by
  unfold Core.loadReg
  split
  · exact hv c _
  · exact Core.setG_keeps P hg c _ _

theorem Core.loadReg_withLq (c : Core) (l : List LqEntry) (e : LqEntry) (v : Line) :
    ({ c with lq := l } : Core).loadReg e v = { c.loadReg e v with lq := l } := by
  unfold Core.loadReg
  split
  · rfl
  · unfold Core.setG
    split <;> rfl

/-- The core once the load has retired with the data of `vs`: its destination written, its events counted, the PC moved on (R61). -/
def Core.loadRetired (e : LqEntry) (vs : List Part) (c : Core) : Core :=
  ((c.loadReg e (joinParts e.parts vs)).loadEvents (e.performed vs).lvl (e.performed vs).waited e.pc).next

/-- Retiring a load keeps what its destination, what it tallies in, the PC and fetch are not part of. -/
theorem Core.loadRetired_keeps {α : Type} (P : Core → α) (hg : ∀ (c : Core) (g : Tbl Word), P { c with g } = P c)
    (hw : ∀ (c : Core) (v : Tbl Line), P { c with v } = P c)
    (hs : ∀ (c : Core) (n : Nat) (v : Word), tallied n → P (c.sysSet n v) = P c) (hv : ∀ (c : Core) (v : Word), P (c.ivSet 3 v) = P c)
    (hm : ∀ (c : Core) (pc fp : Word) (q : List Fetched) (p : Predictor), P { c with pc, fetchPc := fp, fetchQ := q, pred := p } = P c)
    (e : LqEntry) (vs : List Part) (c : Core) : P (c.loadRetired e vs) = P c := by
  rw [Core.loadRetired, Core.next_preserves P hs hv hm, Core.loadEvents_preserves P hs hv, Core.loadReg_keeps P hg hw]

theorem Core.loadRetired_pc (e : LqEntry) (vs : List Part) (c : Core) : (c.loadRetired e vs).pc = c.pc + 4 := by
  rw [Core.loadRetired, Core.next_pc, Core.loadEvents_preserves Core.pc (fun _ _ _ _ => rfl) (fun _ _ => rfl),
    Core.loadReg_keeps Core.pc (fun _ _ => rfl) fun _ _ => rfl]

theorem Core.loadRetired_g (e : LqEntry) (vs : List Part) (c : Core) :
    (c.loadRetired e vs).g = (c.loadReg e (joinParts e.parts vs)).g := by
  rw [Core.loadRetired, Core.next_g, Core.loadEvents_preserves Core.g (fun _ _ _ _ => rfl) fun _ _ => rfl]

theorem Core.loadRetired_v (e : LqEntry) (vs : List Part) (c : Core) :
    (c.loadRetired e vs).v = (c.loadReg e (joinParts e.parts vs)).v := by
  rw [Core.loadRetired, Core.next_v, Core.loadEvents_preserves Core.v (fun _ _ _ _ => rfl) fun _ _ => rfl]

theorem Core.loadRetired_lq (e : LqEntry) (vs : List Part) (c : Core) : (c.loadRetired e vs).lq = c.lq :=
  Core.loadRetired_keeps Core.lq (fun _ _ => rfl) (fun _ _ => rfl) (fun _ _ _ _ => rfl) (fun _ _ => rfl) (fun _ _ _ _ _ => rfl) e vs c

theorem Core.atRest_loadRetired (e : LqEntry) (vs : List Part) (c : Core) : (c.loadRetired e vs).atRest = c.atRest :=
  Core.loadRetired_keeps Core.atRest (fun _ _ => rfl) (fun _ _ => rfl) (fun _ _ _ _ => rfl) (fun _ _ => rfl) (fun _ _ _ _ _ => rfl)
    e vs c

/-- A performed load that is alone in the window and neither killed nor poisoned retires and leaves the window empty (R126). -/
theorem Dev.windowGo_performed {d : Dev} {h : Hart} {e : LqEntry} {vs : List Part} (waits : e.Waits)
    (alone : d.Alone h (e.performed vs)) (clean : firstPoison e.va e.parts vs = none) (a : Tables) :
    d.windowGo a h = (d.onCore h (Core.loadRetired e vs)).onCore h fun c => { c with lq := c.lq.drop 1 } := by
  obtain ⟨running, only, noLoad⟩ := alone
  have retires : d.retireLoad a h (e.performed vs) = d.onCore h (Core.loadRetired e vs) := by
    unfold Dev.retireLoad
    rw [show (e.performed vs).poison = none from clean]
    rfl
  have core : (d.onCore h (Core.loadRetired e vs)).core h = (d.core h).loadRetired e vs := Dev.core_onCore_same _ _ _
  have window : ((d.core h).loadRetired e vs).lq = [e.performed vs] := (Core.loadRetired_lq e vs _).trans only
  have load : (e.performed vs).kind = .load := waits.load
  have goes : ((e.performed vs).value.isNone || (e.performed vs).orderKill || (e.performed vs).depKill) = false := by
    simp [LqEntry.performed, waits.ordered, waits.independent]
  have moved : ((d.core h).pc + 4 = (d.core h).pc) = False := by simp
  have empties : ((d.onCore h (Core.loadRetired e vs)).onCore h fun c => { c with lq := c.lq.drop 1 }).core h =
      { (d.core h).loadRetired e vs with lq := [] } := by
    rw [Dev.core_onCore_same, core, window]
    rfl
  unfold Dev.windowGo
  rw [only, List.isEmpty_cons, if_neg Bool.false_ne_true]
  unfold Dev.retireWindow
  simp only [only, running, Core.atomOut_of_no_devLoad noLoad, load, goes, retires, core, window, Core.loadRetired_pc, moved,
    List.isEmpty_cons, List.any_nil, Bool.or_self, decide_false, Bool.false_eq_true, if_false, ne_eq, not_true_eq_false]
  unfold Dev.retireWindow
  rw [empties]

/-- The device once the load that was alone in the window has been performed with the data of `vs` and has retired. -/
def Dev.reissued (d : Dev) (h : Hart) (e : LqEntry) (vs : List Part) : Dev :=
  ((d.onCore h fun c => { c with lq := [e.performed vs] }).onCore h (Core.loadRetired e vs)).onCore h fun c =>
    { c with lq := c.lq.drop 1 }

theorem Dev.quiet_reissued {d : Dev} (q : d.quiet = true) (h : Hart) (e : LqEntry) (vs : List Part) :
    (d.reissued h e vs).quiet = true := by
  have placed : (d.onCore h fun c => { c with lq := [e.performed vs] }).quiet = true := Dev.quiet_onCore q h _ fun c rest => rest
  have retired := Dev.quiet_onCore placed h (Core.loadRetired e vs) fun c rest => (Core.atRest_loadRetired e vs c).trans rest
  exact Dev.quiet_onCore retired h (fun c => { c with lq := c.lq.drop 1 }) fun c rest => rest

section
variable (d : Dev) (h : Hart) (e : LqEntry) (vs : List Part)

theorem Dev.core_reissued : (d.reissued h e vs).core h =
    { ({ d.core h with lq := [e.performed vs] } : Core).loadRetired e vs with lq := [] } := by
  rw [Dev.reissued, Dev.core_onCore_same, Dev.core_onCore_same, Dev.core_onCore_same, Core.loadRetired_lq]
  rfl

theorem Dev.reissued_pc : ((d.reissued h e vs).core h).pc = (d.core h).pc + 4 := by
  rw [Dev.core_reissued]
  exact Core.loadRetired_pc e vs _

theorem Dev.reissued_g : ((d.reissued h e vs).core h).g = ((d.core h).loadReg e (joinParts e.parts vs)).g := by
  rw [Dev.core_reissued]
  exact (Core.loadRetired_g e vs _).trans (by rw [Core.loadReg_withLq (d.core h)])

theorem Dev.reissued_v : ((d.reissued h e vs).core h).v = ((d.core h).loadReg e (joinParts e.parts vs)).v := by
  rw [Dev.core_reissued]
  exact (Core.loadRetired_v e vs _).trans (by rw [Core.loadReg_withLq (d.core h)])

end

/-- The only load of the window, once its data is at hand, is performed and retires (R127, R178). -/
theorem Dev.loadReissue_alone {a : Tables} {d0 d : Dev} {h : Hart} {e : LqEntry} {vs : List Part} (waits : e.Waits)
    (before : d0.Alone h e) (after : d.Alone h e) (got : d0.loadParts a h e.parts = (some vs, d))
    (clean : firstPoison e.va e.parts vs = none) : d0.loadReissue a h = (d.reissued h e vs).accessDone a h := by
  have tried : d0.tryLoad a h [] e = (e.performed vs, d) := Dev.tryLoad_alone waits before after got
  have placed : (d.onCore h fun c => { c with lq := c.lq.set 0 { e.performed vs with
      orderKill := (e.performed vs).orderKill || (c.lq[0]?.map LqEntry.orderKill).getD false } }) =
      d.onCore h fun c => { c with lq := [e.performed vs] } := by
    refine Dev.onCore_congr ?_
    simp [after.only, LqEntry.performed, waits.ordered]
  have alone : (d.onCore h fun c => { c with lq := [e.performed vs] }).Alone h (e.performed vs) := by
    constructor <;> rw [Dev.core_onCore_same]
    · exact after.running
    · exact after.noLoad
  have stores := Dev.genStores_load alone.only waits.load a
  have retired := Dev.windowGo_performed waits alone clean a
  unfold Dev.loadReissue
  simp [before.running, before.only, waits.value, waits.load, waits.parts, tried, placed, stores, retired, Dev.reissued]

/-- Settles O32: the load is performed and retires from the window; the oldest store is one write of its line. -/
theorem queuedLoadsAndStores : Obligations.QueuedLoadsAndStores := by
  intro s h e x r vs d
  dsimp only
  refine ⟨fun running only load parts given noLoad value got clean q running' noLoad' only' ordered independent => ?_,
    fun q running noWindow => ⟨fun oldest normal cached owned q' running' noWindow' => ?_, fun empty => ?_⟩⟩
  · have done := Dev.loadReissue_alone ⟨load, parts, given, value, ordered, independent⟩ ⟨running, only, noLoad⟩
      ⟨running', only', noLoad'⟩ got clean
    refine ⟨_, State.next_withDev ((congrArg (Dev.finish s.adm) done).trans
      (Dev.accessDone_finish (Dev.quiet_reissued q h e vs) _ _)), ?_⟩
    rw [State.core_withDev, Dev.core_onCore_same]
    refine ⟨?_, Dev.reissued_pc d h e vs, Dev.reissued_g d h e vs, Dev.reissued_v d h e vs⟩
    rw [Dev.core_reissued]
    rfl
  · have written := Dev.quiet_onCore q' h (fun c => c.writeLine h (lineOf x.pa) x.mask x.data) fun c rest =>
      (Core.atRest_writeLine h c _ _ _).trans rest
    have left := Dev.quiet_onCore written h (fun c => { c with sb := c.sb.drop 1 }) fun c rest => rest
    refine exec_storeBufferWrite_ends (congrArg Prod.snd (Dev.drainOne_owned oldest normal cached owned)) left ?_ ?_
    · rw [Dev.core_onCore_same, Dev.core_onCore_same]
      exact (Core.run_writeLine ..).trans running'
    · rw [Dev.core_onCore_same, Dev.core_onCore_same]
      exact Core.writeLine_lq_nil noWindow' ..
  · exact exec_storeBufferWrite_ends (congrArg Prod.snd (Dev.drainOne_nil empty _)) q running noWindow

end Sys2Proof.Machine
end

section
/-! A fetch group, the answers that a core holds back, and the sampling event (R120, R161, R260, R449). -/

namespace Sys2Proof.Machine

/-! ### FETCH_GROUP (R120, R161) -/

/-- The fetch behind a group that goes where it was led starts no other (R161). -/
theorem Dev.fetchAfter_led {h : Hart} {guess next : Word} (led : isWheel h = true ∨ guess = next) (a : Tables) (d : Dev) :
    d.fetchAfter a h guess next = d := if_pos (by simpa [or_comm] using led)

/-- What a fetch of a group gives: the instructions from `at_` on that the line and the fetch queue have room for, the predictor after
them, and the address fetched next. -/
def Core.groupOf (c : Core) (h : Hart) (pa : Nat) (l : PLine) : List Fetched × Predictor × Word :=
  fetchWords (isWheel h) (c.sysGet 0x20C) (c.fetchPc &&& ~~~ (3 : Word)) l.poison c.pred (c.fetchPc &&& ~~~ (3 : Word))
    ((List.range (Nat.min (Nat.min 8 (16 - pa % 64 / 4)) c.fetchRoom)).map fun i => lineInsn l.data (pa % 64 / 4 + i))

/-- The address that F1 goes on at: L0's target for the group, else the one behind it. -/
def Core.groupGuess (c : Core) (pa : Nat) : Word :=
  ((Tbl.find c.pred.l0 (c.fetchPc &&& ~~~ (3 : Word)).toNat).map Prod.snd).getD
    ((c.fetchPc &&& ~~~ (3 : Word)) + word (4 * Nat.min (Nat.min 8 (16 - pa % 64 / 4)) c.fetchRoom))

/-- A core that has fetched a group. -/
def Core.fetched (r : List Fetched × Predictor × Word) (c : Core) : Core :=
  { c with fetchQ := c.fetchQ ++ r.1, pred := r.2.1, fetchPc := r.2.2 }

/-- A group whose line is at hand, and which goes where its fetch was led, is fetched by its core alone. -/
theorem Dev.fetchGroup_hit {a : Tables} {d0 d1 d : Dev} {h : Hart} {pa : Nat} {l : PLine} (running : (d0.core h).run = .running)
    (room : (d0.core h).fetchRoom ≠ 0)
    (led : isWheel h = true ∨ (d0.core h).groupGuess pa = ((d0.core h).groupOf h pa l).2.2)
    (mapped : d0.translate a h (d0.core h).level .fetch ((d0.core h).fetchPc &&& ~~~ (3 : Word)) = (.ok pa false, d1))
    (found : d1.fetchLine a h ((d0.core h).fetchPc &&& ~~~ (3 : Word)).toNat pa = (some l, d)) :
    d0.fetchGroup a h = (d.onCore h (Core.fetched ((d0.core h).groupOf h pa l))).accessDone a h := by
  unfold Dev.fetchGroup
  dsimp only
  rw [if_neg (by simp [running, room]), mapped]
  dsimp only
  rw [found]
  dsimp only
  cases listed : Tbl.find (d0.core h).pred.l0 ((d0.core h).fetchPc &&& ~~~ (3 : Word)).toNat <;>
    rw [Core.groupGuess, listed] at led <;> exact congrArg (Dev.accessDone a · h) (Dev.fetchAfter_led led a _)

/-! ### DELAYED_FORWARD_ANSWER (R260) -/

theorem Dev.core_send (d : Dev) (m : Msg) (h : Hart) : (d.send m).core h = d.core h := rfl

/-- A line that a core does not own is not written before it moves on. -/
theorem Core.writeOldest_not_owned {c : Core} {la : Nat} (other : c.owns la = false) (h : Hart) : c.writeOldest h la = c := by
  unfold Core.writeOldest
  split
  · simp [other]
  · rfl

theorem Core.syncD_absent {c : Core} {la : Nat} (absent : c.lineD la = none) : c.syncD la = c := by
  unfold Core.syncD
  rw [Core.findD_none_of_lineD absent]

/-- A back-invalidation of a line that the core no longer has is acknowledged (R265). -/
theorem Dev.ownerAnswers_gone {d : Dev} {h : Hart} {m : Msg} (back : m.ty = .binv) (l2 : (d.core h).line2 (lineOf m.pa) = none)
    (l1 : (d.core h).lineD (lineOf m.pa) = none)
    (vic : ((d.core h).vic.find? fun v => v.la = lineOf m.pa && v.holds) = none) :
    d.ownerAnswers h m = ((d.onCore h fun c => c.syncD (lineOf m.pa)).onCore h fun c => c.killMiss (lineOf m.pa)).send
      (m.reply .ack (.core h.sock h.core) m.src) := by
  have synced : (d.onCore h fun c => c.syncD (lineOf m.pa)).core h = d.core h := by
    rw [Dev.core_onCore_same, Core.syncD_absent l1]
  unfold Dev.ownerAnswers
  dsimp only
  rw [synced, l2]
  dsimp only
  rw [vic]
  dsimp only
  rw [back]

/-- A core that holds nothing back, and to which no line is recent. -/
def Core.released (c : Core) : Core := { c with delayed := [], recent := [], newD := [] }

/-- The core of hart `h` released, its oldest store written where that is to `m`'s line, takes `m`. -/
theorem Dev.answerDelayed_one {d : Dev} {h : Hart} {m : Msg} (delayed : (d.core h).delayed = [m]) :
    d.answerDelayed h = ((d.onCore h Core.released).onCore h fun c => c.writeOldest h (lineOf m.pa)).coreForward h m true := by
  unfold Dev.answerDelayed
  rw [delayed]
  rfl

theorem Dev.coreForward_now {d : Dev} {h : Hart} {m : Msg} (back : m.ty = .binv) : d.coreForward h m true = d.ownerAnswers h m := by
  rw [Dev.coreForward, if_neg (by simp), if_neg (by simp [back])]

/-- The one answer that a core holds back, to a back-invalidation of a line it no longer has. -/
theorem Dev.answerDelayed_gone {d : Dev} {h : Hart} {m : Msg} (delayed : (d.core h).delayed = [m]) (back : m.ty = .binv)
    (other : (d.core h).owns (lineOf m.pa) = false) (l2 : (d.core h).line2 (lineOf m.pa) = none)
    (l1 : (d.core h).lineD (lineOf m.pa) = none)
    (vic : ((d.core h).vic.find? fun v => v.la = lineOf m.pa && v.holds) = none) :
    (d.answerDelayed h).net = d.net ++ [m.reply .ack (.core h.sock h.core) m.src] ∧ ((d.answerDelayed h).core h).delayed = [] := by
  have core : ((d.onCore h Core.released).onCore h fun c => c.writeOldest h (lineOf m.pa)).core h = (d.core h).released := by
    rw [Dev.core_onCore_same, Dev.core_onCore_same]
    exact Core.writeOldest_not_owned (c := (d.core h).released) other h
  have answered := (Dev.answerDelayed_one delayed).trans ((Dev.coreForward_now back).trans
    (Dev.ownerAnswers_gone back (by rw [core]; exact l2) (by rw [core]; exact l1) (by rw [core]; exact vic)))
  rw [answered]
  refine ⟨rfl, ?_⟩
  rw [Dev.core_send, Dev.core_onCore_same, Dev.core_onCore_same, core, Core.syncD_absent (c := (d.core h).released) l1]
  rfl

/-! ### SAMPLE_COUNT_ZERO (R449) -/

/-- A count of 48 bits, written to a register and read. -/
theorem bits_putBits_count (w : Word) {n : Nat} (fits : n < 2 ^ 48) : bits (putBits w 47 0 n) 47 0 = n := by
  have low : (putBits w 47 0 n).setWidth 48 = BitVec.ofNat 48 n := by
    have mask : (BitVec.ofNat 64 ((2 ^ 48 - 1) * 2 ^ 0)).setWidth 48 = BitVec.allOnes 48 := by decide
    unfold putBits
    rw [BitVec.setWidth_or, BitVec.setWidth_and, BitVec.setWidth_and, BitVec.setWidth_not (by decide), mask, BitVec.not_allOnes,
      BitVec.and_zero, BitVec.zero_or, BitVec.and_allOnes, Nat.pow_zero, Nat.mul_one, BitVec.setWidth_ofNat_of_le (by decide)]
  calc bits (putBits w 47 0 n) 47 0 = ((putBits w 47 0 n).setWidth 48).toNat := by simp [bits, nbits]
    _ = n := by rw [low, BitVec.toNat_ofNat, Nat.mod_eq_of_lt fits]

section
variable (c : Core) (ip : Word) (killed : Bool)

/-- The sample raises vector 3. -/
theorem Core.pend_sample : bit ((c.sample ip killed).ivGet 3) 63 = true := by
  unfold Core.sample
  dsimp only
  split <;> exact Core.pend_raise c 3

/-- It reloads the count. -/
theorem Core.count_sample : bits ((c.sample ip killed).sysGet 0x212) 47 0 = bits (c.sysGet 0x211) 47 0 := by
  have reload : bits (((c.raise 3).sysSet 0x212 (putBits ((c.raise 3).sysGet 0x212) 47 0 (bits ((c.raise 3).sysGet 0x211) 47 0))).sysGet
      0x212) 47 0 = bits (c.sysGet 0x211) 47 0 := by
    rw [Core.sysGet_sysSet_same]
    exact bits_putBits_count _ (Nat.mod_lt _ (by decide))
  unfold Core.sample
  dsimp only
  split
  · exact reload
  · rw [Core.sysGet_sysSet_ne _ (by decide)]
    exact reload

/-- The address is recorded, with KILLED, where none is held. -/
theorem Core.sampled_sample (free : bit (c.sysGet 0x213) 0 = false) :
    (c.sample ip killed).sysGet 0x213 = putBit (putBit (ip &&& ~~~ (3 : Word)) 1 killed) 0 true := by
  unfold Core.sample
  dsimp only
  rw [if_neg, Core.sysGet_sysSet_same]
  rw [Core.sysGet_sysSet_ne _ (by decide), Core.raise, Core.sysGet_ivSet, free]
  decide

/-- One that is held stays. -/
theorem Core.sampled_sample_held (held : bit (c.sysGet 0x213) 0 = true) : (c.sample ip killed).sysGet 0x213 = c.sysGet 0x213 := by
  unfold Core.sample
  dsimp only
  rw [if_pos, Core.sysGet_sysSet_ne _ (by decide), Core.raise, Core.sysGet_ivSet]
  rw [Core.sysGet_sysSet_ne _ (by decide), Core.raise, Core.sysGet_ivSet, held]

end

/-- The occurrence that brings the count of a running server core to zero, while sampling is on and not frozen. -/
theorem Dev.sampleZero_running {d : Dev} {h : Hart} (server : isServer h = true) (running : (d.core h).run = .running)
    (on : bit ((d.core h).sysGet 0x211) 63 = true) (count : bits ((d.core h).sysGet 0x211) 47 0 ≠ 0)
    (thawed : bit ((d.core h).sysGet 0x210) 0 = false) (ip : Word) (killed : Bool) :
    d.sampleZero h ip killed = d.onCore h fun c => c.sample ip killed := by
  have wheel : isWheel h = false := by simpa [isServer] using server
  unfold Dev.sampleZero
  dsimp only
  rw [if_neg (by simp [on, count, thawed, wheel])]
  refine Dev.wake_running ?_
  rw [Dev.core_onCore_same, Core.sample_keeps Core.run (fun _ _ _ => rfl) fun _ _ _ => rfl, running]

/-! ### The commands -/

/-- Settles O33: the group and the sample are one change of their core each, and the held answer is the ACK that the core owes. -/
theorem fetchAndForwards : Obligations.FetchAndForwards := by
  intro s h pa l d d1 m ip killed
  dsimp only
  refine ⟨fun running room led mapped found q => ?_, ⟨rfl, Dev.answerDelayed_gone⟩, fun server running on count thawed => ?_⟩
  · have fetched := Dev.quiet_onCore q h (Core.fetched ((s.core h).groupOf h pa l)) fun c rest => rest
    refine ⟨_, State.next_withDev ((congrArg (Dev.finish s.adm) (Dev.fetchGroup_hit running room led mapped found)).trans
      (Dev.accessDone_finish fetched _ _)), ?_⟩
    rw [State.core_withDev, Dev.core_onCore_same, Dev.core_onCore_same]
    exact ⟨rfl, rfl, rfl, rfl, rfl⟩
  · refine ⟨_, State.next_withDev (Dev.sampleZero_running server running on count thawed ip killed), ?_⟩
    rw [State.core_withDev, Dev.core_onCore_same]
    exact ⟨Core.pend_sample .., Core.count_sample .., Core.sampled_sample _ _ _, Core.sampled_sample_held _ _ _⟩

end Sys2Proof.Machine
end

section
/-! What a far atomic's answer with LEN 0, an ownership error, does at its core (R30, R276): a message reaches its core from a block at
rest, the core gives the line up, and the atomic waits no more without having retired. -/

namespace Sys2Proof.Machine

/-! ### A message to a core, from a block at rest -/

/-- Nothing waits for a line to stop being busy. -/
theorem Dev.drain_rest {d : Dev} (g : d.again = []) (a : Tables) (n : Nat) : d.drain a n = d := by
  cases n with
  | zero => rfl
  | succ n => rw [Dev.drain, g]

/-- With nothing in flight a message command delivers its message alone. -/
theorem Dev.message_rest {d : Dev} (e : d.net = []) (a : Tables) (m : Msg) : d.message a m = (d.deliver a m false).drain a 64 := by
  have same : ({ d with net := d.net.erase m } : Dev) = d := by rw [e, List.erase_nil, ← e]
  have ahead : d.aheadOf m = [] := by rw [Dev.aheadOf, e]; rfl
  rw [Dev.message, ahead]
  dsimp only [List.nil_append, List.foldl_cons, List.foldl_nil]
  rw [same]

/-- A message of its own socket to a core in service reaches it. -/
theorem Dev.deliver_core {d : Dev} {m : Msg} {h : Hart} (dst : m.dst = .core h.sock h.core) (live : d.discards m.dst = false)
    (near : m.src.sock = h.sock) (a : Tables) : d.deliver a m false = d.atCore a h m := by
  have here : m.dst.sock = m.src.sock := by rw [dst, near]; rfl
  unfold Dev.deliver
  dsimp only
  rw [if_neg (by simp [here]), if_neg (by simp [live]), dst]

/-! ### The ownership error of a far atomic -/

/-- A core whose far atomic was answered with an ownership error for `pa`. -/
def Core.atomDisowned (c : Core) (pa : Nat) : Core := { c.disown pa with devLoad := c.devLoad.filter fun e => !e.atom }

/-- The instruction has not retired. -/
theorem Core.pc_atomDisowned (c : Core) (pa : Nat) : (c.atomDisowned pa).pc = c.pc := rfl

/-- No answer of a far atomic is due where none waits. -/
theorem Core.atomDue_atomDisowned (c : Core) (pa : Nat) : (c.atomDisowned pa).atomDue = false := by
  cases e : c.devLoad <;> simp [Core.atomDue, Core.atomDisowned, Core.disown, e, Option.any_filter]

/-- Freeing all of a line's registers leaves no other register to be offered. -/
theorem Core.offers_atomDisowned {c : Core} (rest : c.offers = false) (pa : Nat) : (c.atomDisowned pa).offers = false := by
  simp only [Core.offers, Bool.or_eq_false_iff, List.any_eq_false] at rest ⊢
  obtain ⟨⟨sent, notices⟩, taken⟩ := rest
  refine ⟨⟨fun r hr => sent r (List.mem_filter.1 hr).1, notices⟩, fun r hr => ?_⟩
  have old : r ∈ c.missD ++ c.missI ∧ r.la ≠ lineOf pa := by
    simpa [Core.atomDisowned, Core.disown, Core.freeMisses, ← or_and_right] using hr
  have held : ∃ x ∈ c.missL2, x.la = r.la := by simpa using taken r old.1
  obtain ⟨x, hx, line⟩ := held
  simp only [Bool.not_eq_true', Bool.not_eq_false, List.any_eq_true, decide_eq_true_eq]
  exact ⟨x, List.mem_filter.2 ⟨hx, by simpa [line] using old.2⟩, line⟩

theorem Core.atRest_atomDisowned {c : Core} (rest : c.atRest = true) (pa : Nat) : (c.atomDisowned pa).atRest = true := by
  simp only [Core.atRest, Bool.and_eq_true, Bool.not_eq_true'] at rest ⊢
  obtain ⟨⟨delayed, -⟩, offers⟩ := rest
  exact ⟨⟨delayed, c.atomDue_atomDisowned pa⟩, Core.offers_atomDisowned offers pa⟩

theorem Dev.quiet_answered {d : Dev} (q : d.quiet = true) (m : Msg) : (d.answered m).quiet = true :=
  Dev.quiet_of_cores q rfl rfl rfl fun _ => rfl

/-- ATR with LEN 0 at its core. -/
theorem Dev.atCore_atr_disowned {m : Msg} (ty : m.ty = .atr) (error : m.len = 0) (a : Tables) (d : Dev) (h : Hart) :
    d.atCore a h m = (d.answered m).onCore h fun c => c.atomDisowned m.pa := by
  unfold Dev.atCore
  rw [ty]
  exact if_pos error

/-- The ATR command with LEN 0: the core gives the line up, and the atomic waits no more. -/
theorem exec_atr_disowned {s : State} {m : Msg} {h : Hart} (q : s.quiet = true) (ty : m.ty = .atr)
    (dst : m.dst = .core h.sock h.core) (live : s.dev.discards m.dst = false) (near : m.src.sock = h.sock) (error : m.len = 0) :
    exec (.atr m) s = .next (s.withDev ((s.dev.answered m).onCore h fun c => c.atomDisowned m.pa)) := by
  obtain ⟨net, -, again, -⟩ := s.dev.quiet_iff.1 q
  have typed : { m with ty := .atr } = m := by rw [← ty]
  have taken : s.dev.message s.adm.tab m = (s.dev.answered m).onCore h fun c => c.atomDisowned m.pa := by
    rw [Dev.message_rest net, Dev.deliver_core dst live near, Dev.atCore_atr_disowned ty error, Dev.drain_rest]
    exact again
  have quiet : ((s.dev.answered m).onCore h fun c => c.atomDisowned m.pa).quiet = true :=
    Dev.quiet_onCore (Dev.quiet_answered q m) h _ fun c rest => Core.atRest_atomDisowned rest m.pa
  refine State.next_withDev ?_
  rw [Dev.receive, typed, taken, Dev.serveAll_rest _ _ quiet, Dev.coreAnswers_rest _ quiet]

/-! ### The statement on answers at a core -/

/-- A far atomic of 8 bytes at 0x100000 that has been sent. -/
def sentAtom : LqEntry := { windowEntry .load 0 0x100000 1 false false 8 with parts := [(0x100000, 8)], atom := true }

/-- Core 0 of socket 0 running, its far atomic sent. -/
def atomState : State := State.reset.withCore ⟨0, 0⟩ fun c => { c with run := .running, devLoad := some sentAtom }

/-- The ownership error that slice 0 answers it with. -/
def atomError : Msg :=
  { ty := .atr, src := .slice 0 0, dst := .core 0 0, berth := 1, master := 0, txn := 0, age := 0, aux := false, addr := 0x100000,
    len := 0, data := 0, poison := false }

theorem atomState_quiet : atomState.quiet = true := by decide +kernel

theorem atomState_serves : atomState.dev.discards atomError.dst = false := by decide +kernel

theorem atomState_core : atomState.core ⟨0, 0⟩ = { Core.reset with run := .running, devLoad := some sentAtom } :=
  Dev.core_onCore_same _ _ _

/-- Refutes O37: its clause on ATR leaves LEN open, and an ATR with LEN 0 is an ownership error, after which the atomic of `atomState`
waits no more and its PC stands where it was, so that the instruction makes its check again (R30, assumption log 16). -/
theorem not_coreTakesAnswers : ¬ Obligations.CoreTakesAnswers := by
  unfold Obligations.CoreTakesAnswers
  intro holds
  have running : (atomState.core ⟨0, 0⟩).run = .running := by rw [atomState_core]
  have waits : (atomState.core ⟨0, 0⟩).devLoad = some sentAtom := by rw [atomState_core]
  have alone : (atomState.core ⟨0, 0⟩).lq = [] := by rw [atomState_core]; rfl
  obtain ⟨-, -, -, -, answers, -⟩ := holds atomState atomError ⟨0, 0⟩ (missOf 0 false false false 0 0 0)
    ⟨0, false, false, 0, ⟨0, false⟩⟩ sentAtom 0 atomState_quiet rfl atomState_serves rfl
  obtain ⟨atom, -⟩ := answers running waits alone
  obtain ⟨t, ends, -, retired, -⟩ := atom rfl rfl
  have error := exec_atr_disowned (h := ⟨0, 0⟩) (m := atomError) atomState_quiet rfl rfl atomState_serves rfl rfl
  have stays : (t.core ⟨0, 0⟩).pc = (atomState.core ⟨0, 0⟩).pc := by
    rw [← Host.Outcome.next.inj (error.symm.trans ends), State.core_withDev, Dev.core_onCore_same]
    exact Core.pc_atomDisowned _ _
  rw [stays, atomState_core] at retired
  exact absurd retired (by decide)

end Sys2Proof.Machine
end

section
/-! Register writes from the Wheelhouse view to the routers, the slices and the cores: each command is one write of the register space,
and its register takes the word by its own write (R224, R239, R241, R243, R252, R508). -/

namespace Sys2Proof.Machine

/-! ### Fields of a word -/

/-- A bit of a word with one field replaced. -/
theorem getLsbD_putBits (w : Word) {hi lo : Nat} (order : lo ≤ hi) (v : Nat) {i : Nat} (inside : i < 64) :
    (putBits w hi lo v).getLsbD i = if lo ≤ i ∧ i ≤ hi then v.testBit (i - lo) else w.getLsbD i := by
  have width : i - lo < hi + 1 - lo ↔ i ≤ hi ∨ i < lo := by omega
  have below : i - lo < 64 := by omega
  simp only [putBits, ofNat_mul_two_pow, BitVec.getLsbD_or, BitVec.getLsbD_and, BitVec.getLsbD_not, BitVec.getLsbD_shiftLeft,
    BitVec.getLsbD_ofNat, Nat.testBit_two_pow_sub_one, inside, below, width]
  by_cases low : i < lo
  · simp [low, Nat.not_le_of_lt low]
  · by_cases high : i ≤ hi <;> simp [low, high, Nat.le_of_not_lt low]

/-- A bit of a field. -/
theorem testBit_bits (w : Word) (hi lo k : Nat) : (bits w hi lo).testBit k = (decide (k < hi + 1 - lo) && w.getLsbD (lo + k)) := by
  rw [bits, nbits, Nat.testBit_mod_two_pow, Nat.testBit_shiftRight, BitVec.testBit_toNat]

/-- A field that was put is read as it was put. -/
theorem bits_putBits_same (w : Word) {hi lo v : Nat} (order : lo ≤ hi) (inside : hi < 64) (fits : v < 2 ^ (hi + 1 - lo)) :
    bits (putBits w hi lo v) hi lo = v := by
  apply Nat.eq_of_testBit_eq
  intro k
  rw [testBit_bits]
  by_cases field : k < hi + 1 - lo
  · rw [getLsbD_putBits w order v (by omega), if_pos (by omega), Nat.add_sub_cancel_left, decide_eq_true field, Bool.true_and]
  · have wide : 2 ^ (hi + 1 - lo) ≤ 2 ^ k := Nat.pow_le_pow_right (by decide) (by omega)
    rw [decide_eq_false field, Bool.false_and, Nat.testBit_lt_two_pow (Nat.lt_of_lt_of_le fits wide)]

/-- Another field is as it was. -/
theorem bits_putBits_apart (w : Word) {hi lo top bottom : Nat} (v : Nat) (order : lo ≤ hi) (inside : top < 64)
    (apart : hi < bottom ∨ top < lo) : bits (putBits w hi lo v) top bottom = bits w top bottom := by
  apply Nat.eq_of_testBit_eq
  intro k
  rw [testBit_bits, testBit_bits]
  by_cases field : k < top + 1 - bottom
  · rw [getLsbD_putBits w order v (by omega), if_neg (by omega)]
  · rw [decide_eq_false field, Bool.false_and, Bool.false_and]

/-! ### A write from the Wheelhouse view -/

/-- An aligned 8-byte write that answers no bus error is done. -/
theorem writeCommand_done {a : Admin} {d d' : Dev} {q : Requester} {s off : Nat} {v : Word} (reach : Requester.mayReach q = true)
    (aligned : off % 8 = 0) (stored : d.regWrite a s q off v = (false, d')) :
    d.writeCommand a q s off 3 v = (d'.answer [0]).finish a := by
  have zero : word false.toNat = 0 := rfl
  simp only [Dev.writeCommand, reach, regStoreSized_of_aligned aligned, stored, Bool.not_true, Bool.false_eq_true, if_false, zero]

theorem mayReach_of_wheel {q : Requester} (wheel : q.berth = 0) : Requester.mayReach q = true := by
  simp [Requester.mayReach, wheel]

/-- The Wheelhouse view shows every register instance that exists. -/
theorem opens_of_wheel (s : State) {q : Requester} (wheel : q.berth = 0) (sk : Sock) {r : Reg} {i : Nat} (here : regHere r i = true)
    (j : Nat) (v : Word) : s.opens q sk r i j v = true := by
  simp [State.opens, mayReach_of_wheel wheel, here, wheel]

/-- A whole write of a register is its store, once the register is known to lie at an aligned offset outside the berth tables. -/
theorem writeRegister_of_wheel {s : State} {q : Requester} (wheel : q.berth = 0) {sk : Sock} {r : Reg} {i j : Nat} {v : Word} {d : Dev}
    (here : regHere r i = true) (space : r.place.bar = false) (hi : i < r.place.c1) (hj : j < r.place.c2)
    (noTable : ¬(0x02000000 ≤ r.at i j ∧ r.at i j < 0x03000000)) (aligned : r.at i j % 8 = 0)
    (stored : s.dev.regStore s.adm sk.val q r i j (r.at i j) v = (false, d)) :
    s.dev.writeRegister s.adm q sk.val r i j v = (d.answer [0]).finish s.adm :=
  writeCommand_done (mayReach_of_wheel wheel) aligned
    ((regWrite_of_opens (opens_of_wheel s wheel sk here j v) space hi hj noTable).trans stored)

/-! ### The landing broadcast block (R252) -/

/-- The slice registers that take a write. -/
def sliceRegs : List Reg := [.ldSliceWays, .ldLockBase, .ldLockLimit, .ldLockCmd, .ldRinvBase, .ldRinvLimit, .ldRinvCmd]

/-- In the block each of them has an aligned offset that names it, and that no register instance and no error log has. -/
theorem broadcastAt_sliceRegs : ∀ r ∈ sliceRegs, broadcastAt r % 8 = 0 ∧ regAt (broadcastAt r) = none ∧
    logAt (broadcastAt r) = none ∧ broadcastReg (broadcastAt r) = some r := by
  decide +kernel

/-- A write in the block acts at every enabled pod. -/
theorem regWrite_of_block {q : Requester} (wheel : q.berth = 0) {off : Nat} (above : 0x03000000 ≤ off) (noReg : regAt off = none)
    (noLog : logAt off = none) {r : Reg} (block : broadcastReg off = some r) (a : Admin) (d : Dev) (s : Nat) (v : Word) :
    d.regWrite a s q off v = (false, d.writeSlice a.tab s q (d.podsOf s none) r off v) := by
  have noTable : ¬(0x02000000 ≤ off ∧ off < 0x03000000) := by omega
  simp [Dev.regWrite, noTable, noReg, noLog, block, wheel]

theorem writeCommand_broadcast {q : Requester} (wheel : q.berth = 0) {r : Reg} (slice : r ∈ sliceRegs) (a : Admin) (d : Dev) (s : Nat)
    (v : Word) : d.writeCommand a q s (broadcastAt r) 3 v =
      ((d.writeSlice a.tab s q (d.podsOf s none) r (broadcastAt r) v).answer [0]).finish a := by
  obtain ⟨aligned, noReg, noLog, block⟩ := broadcastAt_sliceRegs r slice
  have above : 0x03000000 ≤ broadcastAt r := Nat.le_trans (by decide) (Nat.le_add_right 0x1F000000 _)
  exact writeCommand_done (mayReach_of_wheel wheel) aligned (regWrite_of_block wheel above noReg noLog block _ _ _ _)

@[simp] theorem sk_val (s : Sock) : sk s.val = s := Fin.ext (Nat.mod_eq_of_lt s.isLt)

theorem exec_lockFill {s : State} {q : Requester} (wheel : q.berth = 0) (sk : Sock) (v : Word) :
    exec (.lockFill q sk v) s = .next (s.done (s.dev.writeLockCmd s.adm.tab sk (s.dev.podsOf sk.val none) (putBit v 63 true))) := by
  refine State.next_withDev ((writeCommand_broadcast wheel (by decide) s.adm s.dev sk.val _).trans ?_)
  rw [Dev.writeSlice, sk_val]

theorem exec_rangeInvalidation {s : State} {q : Requester} (wheel : q.berth = 0) (sk : Sock) (v : Word) :
    exec (.rangeInvalidation q sk v) s =
      .next (s.done (s.dev.writeRinvCmd s.adm.tab sk (s.dev.podsOf sk.val none) (putBit v 63 true))) := by
  refine State.next_withDev ((writeCommand_broadcast wheel (by decide) s.adm s.dev sk.val _).trans ?_)
  rw [Dev.writeSlice, sk_val]

/-- LOCK stands in bits 31 to 16 of LD_SLICE_WAYS. -/
theorem bits_lockWord (lock : BitVec 16) : bits (word (lock.toNat * 2 ^ 16)) 31 16 = lock.toNat := by
  have small : lock.toNat < 2 ^ 16 := lock.isLt
  have whole : (word (lock.toNat * 2 ^ 16)).toNat = lock.toNat * 2 ^ 16 := by
    rw [word, BitVec.toNat_ofNat, Nat.mod_eq_of_lt (by omega)]
  rw [bits, nbits, whole, Nat.shiftRight_eq_div_pow, Nat.mul_div_cancel _ (by decide), Nat.mod_eq_of_lt small]

theorem exec_wayLockWrite {s : State} {q : Requester} (wheel : q.berth = 0) (sk : Sock) (lock : BitVec 16) :
    exec (.wayLockWrite q sk lock) s = .next (s.done
      (s.dev.writeLock s.adm.tab sk.val q (s.dev.podsOf sk.val none) (broadcastAt .ldSliceWays) lock.toNat)) := by
  refine State.next_withDev ((writeCommand_broadcast wheel (by decide) s.adm s.dev sk.val _).trans ?_)
  rw [Dev.writeSlice, bits_lockWord]

/-! ### Mesh links and the home map (R224, R252) -/

/-- What LINK_RESTART stores in LD_MESH_CTL: ones in LINK_DOWN, the rest as it stands. -/
def Dev.linkRestartWord (d : Dev) (s l : Nat) (mask : BitVec 4) : Word :=
  Reg.ldMeshCtl.written false (decide (d.fld s .whBoot 0 0 63 63 = 1)) (d.reg s .ldMeshCtl l 0)
    (d.withField s .ldMeshCtl l 0 3 0 mask.toNat)

/-- LINK_DOWN loses the bits that were written as ones. -/
theorem linkDown_linkRestartWord (d : Dev) (s l : Nat) (mask : BitVec 4) :
    bits (d.linkRestartWord s l mask) 3 0 = d.fld s .ldMeshCtl l 0 3 0 &&& (15 - mask.toNat) := by
  have ones : bits (d.withField s .ldMeshCtl l 0 3 0 mask.toNat) 3 0 = mask.toNat :=
    bits_putBits_same _ (by decide) (by decide) mask.isLt
  have fits : bits (d.reg s .ldMeshCtl l 0) 3 0 &&& (15 - mask.toNat) < 2 ^ 4 :=
    Nat.and_lt_two_pow _ (by omega)
  simp only [Dev.linkRestartWord, Reg.written, Reg.fields, List.foldl_cons, List.foldl_nil, Bool.false_and, Bool.false_eq_true, if_false,
    ones]
  exact bits_putBits_same _ (by decide) (by decide) fits

theorem exec_linkRestart {s : State} {q : Requester} (wheel : q.berth = 0) (sk : Sock) (l : Fin 128) (mask : BitVec 4) :
    exec (.linkRestart q sk l mask) s = .next (s.done
      ((s.dev.setReg sk.val .ldMeshCtl l.val 0 (s.dev.linkRestartWord sk.val l.val mask)).meshGo s.adm.tab sk.val l.val)) := by
  refine State.next_withDev (writeRegister_of_wheel wheel rfl rfl l.isLt (by decide) ?_ ?_ ?_)
  · simp only [Reg.at, Reg.place]; omega
  · simp only [Reg.at, Reg.place]; omega
  · simp only [Dev.regStore, wheel, ne_eq, not_true, decide_false, Dev.linkRestartWord]

theorem exec_hmapWrite {s : State} {q : Requester} (wheel : q.berth = 0) (sk : Sock) (e : Fin 4096) (v : Word) :
    exec (.hmapWrite q sk e v) s = .next (s.done (s.dev.writeHmap s.adm.tab sk e.val v)) := by
  refine State.next_withDev (writeRegister_of_wheel wheel rfl rfl e.isLt (by decide) ?_ ?_ ?_)
  · simp only [Reg.at, Reg.place]; omega
  · simp only [Reg.at, Reg.place]; omega
  · rw [Dev.regStore, sk_val]

/-! ### Core control (R508) -/

/-- Each pod has a landing of its own (R7). -/
theorem podAt_landingOf : ∀ p < 104, podAt (landingOf p) = some p ∧ landingOf p < 128 := by decide +kernel

theorem podOf_server_lt {h : Hart} (server : isServer h = true) : podOf h < 104 := by
  simp only [isServer, isWheel, Bool.not_eq_true', decide_eq_false_iff_not] at server
  unfold podOf
  omega

/-- A server core is the one of its socket, pod and place. -/
theorem coreOf_podOf {h : Hart} (server : isServer h = true) : coreOf (sk h.sock.val) (podOf h) (h.core.val % 2) = h := by
  have pod := podOf_server_lt server
  have core : (podOf h * 2 + h.core.val % 2) % 208 = h.core.val := by
    unfold podOf at pod ⊢
    omega
  simp only [coreOf, sk_val, core]

/-- The word with one command bit that CORE_CTL_RESET or CORE_CTL_GO writes: ENTRY as it stands. -/
def Dev.coreCtlWord (d : Dev) (h : Hart) (b : Nat) : Word :=
  putBit (d.withField h.sock.val .ldCoreCtl (landingOf (podOf h)) (h.core.val % 2) 63 61 0) b true

theorem entry_coreCtlWord (d : Dev) (h : Hart) {b : Nat} (above : 51 < b) :
    bits (d.coreCtlWord h b) 51 2 = bits (d.reg h.sock.val .ldCoreCtl (landingOf (podOf h)) (h.core.val % 2)) 51 2 :=
  (bits_putBits_apart _ _ (Nat.le_refl b) (by decide) (.inr above)).trans
    (bits_putBits_apart _ _ (by decide) (by decide) (.inr (by decide)))

/-- Of RESET, HELD and GO the word has the one bit set. -/
theorem bit_coreCtlWord (d : Dev) (h : Hart) (b : Nat) {i : Nat} (low : 61 ≤ i) (high : i < 64) :
    bit (d.coreCtlWord h b) i = decide (i = b) := by
  rw [bit, Dev.coreCtlWord, Dev.withField, putBit, getLsbD_putBits _ (Nat.le_refl b) _ high, getLsbD_putBits _ (by decide) _ high,
    if_pos (⟨low, by omega⟩ : 61 ≤ i ∧ i ≤ 63), Nat.zero_testBit]
  by_cases same : i = b
  · subst same
    simp
  · rw [if_neg (by omega), decide_eq_false same]

theorem Dev.coreCtl_of_wheel {s : State} {q : Requester} (wheel : q.berth = 0) {h : Hart} (server : isServer h = true) (b : Nat) :
    s.dev.coreCtl s.adm q h b = ((s.dev.writeCoreCtl s.adm.tab h (s.dev.coreCtlWord h b)).answer [0]).finish s.adm := by
  obtain ⟨pod, landing⟩ := podAt_landingOf (podOf h) (podOf_server_lt server)
  have place : h.core.val % 2 < 2 := Nat.mod_lt _ (by decide)
  have notWheel : isWheel h = false := by simpa [isServer] using server
  rw [Dev.coreCtl, notWheel, if_neg Bool.false_ne_true]
  refine writeRegister_of_wheel wheel ?_ rfl landing place ?_ ?_ ?_
  · simp [regHere, pod]
  · simp only [Reg.at, Reg.place]; omega
  · simp only [Reg.at, Reg.place]; omega
  · simp only [Dev.regStore, pod, coreOf_podOf server, Dev.coreCtlWord]

/-! ### The statement on routers, slices and cores -/

/-- Settles O42: each of the commands is one write of the register space from the Wheelhouse view, which its register takes whole. -/
theorem sliceAndCoreRegisterCommands : Obligations.SliceAndCoreRegisterCommands := by
  intro s q sk l mask v lock e h wheel
  refine ⟨⟨_, exec_linkRestart wheel sk l mask, linkDown_linkRestartWord _ _ _ _⟩, exec_lockFill wheel sk v,
    exec_rangeInvalidation wheel sk v, exec_wayLockWrite wheel sk lock, exec_hmapWrite wheel sk e v, fun server => ?_⟩
  exact ⟨_, _, State.next_withDev (Dev.coreCtl_of_wheel wheel server 63), State.next_withDev (Dev.coreCtl_of_wheel wheel server 61),
    bit_coreCtlWord _ _ _ (by decide) (by decide), bit_coreCtlWord _ _ _ (by decide) (by decide), entry_coreCtlWord _ _ (by decide),
    bit_coreCtlWord _ _ _ (by decide) (by decide), bit_coreCtlWord _ _ _ (by decide) (by decide), entry_coreCtlWord _ _ (by decide)⟩

end Sys2Proof.Machine
end

section
/-! What a message command leaves where its answers are in flight and nothing else is to be done (R257). -/

namespace Sys2Proof.Machine

/-! ### Answers in flight -/

/-- Nothing that a message command has to end is left; messages may be in flight. -/
def Dev.served (d : Dev) : Prop := d.again = [] ∧ d.inbox = [] ∧ d.atomWaiting = []

theorem Dev.served_of_quiet {d : Dev} (q : d.quiet = true) : d.served := by
  obtain ⟨-, inbox, again, -, due, -⟩ := d.quiet_iff.1 q
  exact ⟨again, inbox, due⟩

theorem Dev.served_sendAll {d : Dev} (done : d.served) (ms : List Msg) : (d.sendAll ms).served := done

theorem Dev.serveAll_served {d : Dev} (done : d.served) (a : Admin) (n : Nat) : d.serveAll a n = d := by
  obtain ⟨-, inbox, -⟩ := done
  cases n with
  | zero => rfl
  | succ n => rw [Dev.serveAll, inbox, List.find?_nil]

theorem Dev.coreAnswers_served {d : Dev} (done : d.served) (a : Tables) : d.coreAnswers a = d := by
  obtain ⟨-, inbox, due⟩ := done
  have same : ({ d with inbox := [] } : Dev) = d := by rw [← inbox]
  simp only [Dev.coreAnswers, inbox, List.filter_nil, same, Dev.each, List.foldl_nil, due]

/-- From a block at rest a message command ends with the delivery of its message. -/
theorem Dev.receive_of_deliver {a : Admin} {d e : Dev} {ty : MsgType} {m : Msg} (q : d.quiet = true)
    (delivered : d.deliver a.tab { m with ty } false = e) (done : e.served) : d.receive a ty m = e := by
  have ⟨net, _⟩ := d.quiet_iff.1 q
  rw [Dev.receive, Dev.message_rest net, delivered, Dev.drain_rest done.1, Dev.serveAll_served done, Dev.coreAnswers_served done]

/-- A core that takes a message and answers with `out`, the block at rest but for them. -/
theorem Dev.receive_at_core {a : Admin} {d e : Dev} {ty : MsgType} {m : Msg} {h : Hart} {out : List Msg} (q : d.quiet = true)
    (dst : m.dst = .core h.sock h.core) (live : d.discards m.dst = false) (near : m.src.sock = h.sock)
    (taken : d.atCore a.tab h { m with ty } = e.sendAll out) (rest : e.quiet = true) :
    d.receive a ty m = e.sendAll out ∧ (e.sendAll out).net = out := by
  have ⟨net, _⟩ := e.quiet_iff.1 rest
  exact ⟨Dev.receive_of_deliver q ((Dev.deliver_core (m := { m with ty }) dst live near a.tab).trans taken)
    (Dev.served_sendAll (Dev.served_of_quiet rest) out), by rw [Dev.sendAll, net, List.nil_append]⟩

end Sys2Proof.Machine
end

section
/-! Forwards, back-invalidations and invalidations at a core that holds the line in L2 alone, or at a pod (R229, R260, R261, R265). -/

namespace Sys2Proof.Machine

/-! ### A line that leaves a core -/

/-- A line that L2 holds stays in its way while L1D's data goes to L2. -/
theorem Core.find2_syncD (c : Core) (la other : Nat) : (c.syncD la).find2 other = c.find2 other := by
  unfold Core.syncD
  split
  · split
    case h_1 _ at2 =>
      split
      · simp only [Core.find2, wayOf_put at2]
        rfl
      · rfl
    case h_2 => rfl
  · rfl

theorem Core.find2_dropD (c : Core) (la other : Nat) : (c.dropD la).find2 other = c.find2 other := by
  rw [← Core.find2_syncD c la]
  unfold Core.dropD
  dsimp only
  split
  · rfl
  · split <;> rfl

theorem Core.find2_dropI (c : Core) (la other : Nat) : (c.dropI la).find2 other = c.find2 other := by
  unfold Core.dropI
  split <;> rfl

/-- A dropped line's way of L2 is empty. -/
theorem Core.find_dropAll {c : Core} {la k : Nat} (way : c.find2 la = some k) : Tbl.find (c.dropAll la).l2 k = none := by
  have stays : ((c.dropD la).dropI la).find2 la = some k := by rw [Core.find2_dropI, Core.find2_dropD, way]
  unfold Core.dropAll
  dsimp only
  rw [stays]
  exact Tbl.find_erase_same _ k

theorem Core.atRest_syncD (c : Core) (la : Nat) : (c.syncD la).atRest = c.atRest :=
  Core.syncD_keeps Core.atRest (fun _ _ _ _ _ _ _ => rfl) c la

theorem Core.atRest_dropAll (c : Core) (la : Nat) : (c.dropAll la).atRest = c.atRest := by
  have out : ((c.dropD la).dropI la).atRest = c.atRest := (Core.dropI_keeps Core.atRest (fun _ _ _ _ _ _ _ => rfl) _ la).trans
    (Core.dropD_keeps Core.atRest (fun _ _ _ _ _ _ _ => rfl) c la)
  rw [← out]
  unfold Core.dropAll
  dsimp only
  split <;> rfl

/-- An invalidation that a fill remembers leaves nothing to be offered that was not. -/
theorem Core.offers_killMiss (c : Core) (la : Nat) : (c.killMiss la).offers = c.offers := by
  have line : ∀ x : Miss, (if x.la = la && x.sent then { x with killed := true } else x).la = x.la := fun x => by split <;> rfl
  have sent : ∀ x : Miss, (if x.la = la && x.sent then { x with killed := true } else x).sent = x.sent := fun x => by split <;> rfl
  simp only [Core.offers, Core.killMiss, List.any_map, Function.comp_def, line, sent]

theorem Core.atRest_killMiss (c : Core) (la : Nat) : (c.killMiss la).atRest = c.atRest := by
  unfold Core.atRest
  rw [Core.offers_killMiss]
  rfl

/-- A core without a line, its pending fill marked. -/
def Core.invalidated (c : Core) (la : Nat) : Core := (c.dropAll la).killMiss la

theorem Core.find_invalidated {c : Core} {la k : Nat} (way : c.find2 la = some k) : Tbl.find (c.invalidated la).l2 k = none :=
  Core.find_dropAll way

theorem Dev.quiet_invalidated {d : Dev} (q : d.quiet = true) (h : Hart) (la : Nat) :
    (d.onCore h fun c => c.invalidated la).quiet = true :=
  Dev.quiet_onCore q h _ fun c rest => by rw [Core.invalidated, Core.atRest_killMiss, Core.atRest_dropAll, rest]

/-! ### The owner's answers (R261, R265) -/

/-- Core `h` has the line in way `k` of L2, as `e`, and L1D does not answer for it. -/
structure Dev.InL2 (d : Dev) (h : Hart) (la k : Nat) (e : CLine) : Prop where
  l1 : (d.core h).findD la = none
  way : (d.core h).find2 la = some k
  line : (d.core h).line2 la = some e

/-- A forward names `who` as the one that wants the data, on the socket of `h`, so that no slice of another takes a copy; its payload bits
are those of assumption log 16. -/
structure WantedBy (m : Msg) (h : Hart) (who : Node) : Prop where
  named : nodeOf m.master = some who
  whole : m.data.getLsbD 1 = false
  wanted : m.data.getLsbD 2 = false
  near : remote m h = false

section
variable {d : Dev} {h : Hart} {m : Msg} {k : Nat} {e : CLine} {who : Node}

/-- The data goes to the requester alone. -/
theorem Dev.supply_requester (wants : WantedBy m h who) (ty : MsgType) (src : Node) (l : PLine) :
    d.supply m ty src l false = d.send ((m.reply ty src who).withLine l) := by
  unfold Dev.supply
  simp only [wants.named, wants.whole, wants.wanted, Bool.false_eq_true, if_false]

/-- L2's line is the newest: nothing comes from L1D. -/
theorem Dev.core_synced (held : d.InL2 h (lineOf m.pa) k e) : (d.onCore h fun c => c.syncD (lineOf m.pa)).core h = d.core h := by
  rw [Dev.core_onCore_same, Core.syncD_absent]
  rw [Core.lineD, held.l1, Option.bind_none]

theorem Dev.quiet_synced (q : d.quiet = true) (h : Hart) (la : Nat) : (d.onCore h fun c => c.syncD la).quiet = true :=
  Dev.quiet_onCore q h _ fun c rest => by rw [Core.atRest_syncD, rest]

/-- A core with `e` in way `k` of L2. -/
def Core.withL2 (c : Core) (k : Nat) (e : CLine) : Core := { c with l2 := Tbl.put c.l2 k e }

/-- A line put in its own way is what L2 holds of it. -/
theorem Dev.line2_withL2 (held : d.InL2 h (lineOf m.pa) k e) {x : CLine} (same : x.la = e.la) :
    ((d.core h).withL2 k x).line2 (lineOf m.pa) = some x := by
  have at2 : Tbl.find (d.core h).l2 k = some e := by simpa [Core.line2, held.way] using held.line
  have stays : ((d.core h).withL2 k x).find2 (lineOf m.pa) = some k := by
    rw [← held.way]
    simp only [Core.find2, Core.withL2, wayOf_put at2 same]
    rfl
  rw [Core.line2, stays, Option.bind_some, Core.withL2, Tbl.find_put_same]

/-- FWDS: the requester has the data, the slice the dirty data, and the line stays shared. -/
theorem Dev.ownerAnswers_fwds (q : d.quiet = true) (ty : m.ty = .fwds) (held : d.InL2 h (lineOf m.pa) k e) (wants : WantedBy m h who) :
    ∃ t : Dev, d.ownerAnswers h m = t.sendAll ((m.reply .dats (.core h.sock h.core) who).withLine e.line ::
        (if e.dirty then [(m.reply .wbs (.core h.sock h.core) m.src).withLine e.line] else []) ++
        [{ m.reply .fack (.core h.sock h.core) m.src with aux := e.dirty }]) ∧
      t.quiet = true ∧ (t.core h).line2 (lineOf m.pa) = some { e with own := false, dirty := false } := by
  refine ⟨(d.onCore h fun c => c.syncD (lineOf m.pa)).onCore h fun c => c.withL2 k { e with own := false, dirty := false }, ?_,
    Dev.quiet_onCore (Dev.quiet_synced q h _) h _ fun c rest => rest, ?_⟩
  · have shared {f : Core → Core} (at_ : f (d.core h) = (d.core h).withL2 k { e with own := false, dirty := false }) :
        (d.onCore h fun c => c.syncD (lineOf m.pa)).onCore h f = (d.onCore h fun c => c.syncD (lineOf m.pa)).onCore h fun c =>
          c.withL2 k { e with own := false, dirty := false } :=
      Dev.onCore_congr (by rw [Dev.core_synced held]; exact at_)
    simp only [Dev.ownerAnswers, Dev.core_synced held, held.line, ty, wants.near, Dev.supply_requester wants]
    rw [shared]
    · cases e.dirty <;> simp [Dev.send, Dev.sendAll]
    · simp only [held.l1, held.way]
      rfl
  · rw [Dev.core_onCore_same, Dev.core_synced held]
    exact Dev.line2_withL2 held rfl

/-- FWDM: the requester has the data, which FACK gives the slice as well (assumption log 16), and the core has the line no more. -/
theorem Dev.ownerAnswers_fwdm (q : d.quiet = true) (ty : m.ty = .fwdm) (held : d.InL2 h (lineOf m.pa) k e) (wants : WantedBy m h who) :
    ∃ t : Dev, d.ownerAnswers h m = t.sendAll [(m.reply .datm (.core h.sock h.core) who).withLine e.line,
        { (m.reply .fack (.core h.sock h.core) m.src).withLine e.line with aux := e.dirty }] ∧
      t.quiet = true ∧ Tbl.find (t.core h).l2 k = none := by
  refine ⟨(d.onCore h fun c => c.syncD (lineOf m.pa)).onCore h fun c => c.invalidated (lineOf m.pa), ?_,
    Dev.quiet_invalidated (Dev.quiet_synced q h _) h _, ?_⟩
  · simp only [Dev.ownerAnswers, Dev.core_synced held, held.line, ty, wants.near, Dev.supply_requester wants, Dev.send, Dev.sendAll,
      List.append_assoc, List.singleton_append]
    rfl
  · rw [Dev.core_onCore_same, Dev.core_synced held]
    exact Core.find_invalidated held.way

/-- FWDR: the requester has a copy, and the core keeps the line. -/
theorem Dev.ownerAnswers_fwdr (q : d.quiet = true) (ty : m.ty = .fwdr) (held : d.InL2 h (lineOf m.pa) k e) (wants : WantedBy m h who) :
    ∃ t : Dev, d.ownerAnswers h m = t.sendAll [(m.reply .dats (.core h.sock h.core) who).withLine e.line,
        { m.reply .fack (.core h.sock h.core) m.src with aux := e.dirty }] ∧
      t.quiet = true ∧ (t.core h).line2 (lineOf m.pa) = some e := by
  refine ⟨d.onCore h fun c => c.syncD (lineOf m.pa), ?_, Dev.quiet_synced q h _, by rw [Dev.core_synced held, held.line]⟩
  simp only [Dev.ownerAnswers, Dev.core_synced held, held.line, ty, Dev.supply_requester wants, Dev.send, Dev.sendAll,
    List.append_assoc, List.singleton_append]

/-- BINV: the slice has the dirty data or an ACK, and the core has the line no more. -/
theorem Dev.ownerAnswers_binv (q : d.quiet = true) (ty : m.ty = .binv) (held : d.InL2 h (lineOf m.pa) k e) :
    ∃ t : Dev, d.ownerAnswers h m = t.sendAll [if e.own && e.dirty then (m.reply .wbm (.core h.sock h.core) m.src).withLine e.line
        else m.reply .ack (.core h.sock h.core) m.src] ∧
      t.quiet = true ∧ Tbl.find (t.core h).l2 k = none := by
  refine ⟨(d.onCore h fun c => c.syncD (lineOf m.pa)).onCore h fun c => c.invalidated (lineOf m.pa), ?_,
    Dev.quiet_invalidated (Dev.quiet_synced q h _) h _, ?_⟩
  · simp only [Dev.ownerAnswers, Dev.core_synced held, held.line, ty]
    split <;> rfl
  · rw [Dev.core_onCore_same, Dev.core_synced held]
    exact Core.find_invalidated held.way

end

/-! ### The pod's answer to INV (R229) -/

/-- A core of the pod drops its copy, unless it is the requester and waits for ownership. -/
def Dev.invCore (d : Dev) (m : Msg) (x : Hart) : Dev :=
  if d.keepsCopy x m then d else d.onCore x fun c => c.invalidated (lineOf m.pa)

section
variable {d : Dev} (m : Msg)

theorem Dev.quiet_invCore (q : d.quiet = true) (x : Hart) : (d.invCore m x).quiet = true := by
  unfold Dev.invCore
  split
  · exact q
  · exact Dev.quiet_invalidated q x _

theorem Dev.core_invCore_ne {h x : Hart} (other : h ≠ x) : (d.invCore m x).core h = d.core h := by
  unfold Dev.invCore
  split
  · rfl
  · exact Dev.core_onCore_ne d _ other

/-- A core that is not the requester drops its copy. -/
theorem Dev.find_invCore {h : Hart} {k : Nat} (other : masterOf h ≠ m.master) (way : (d.core h).find2 (lineOf m.pa) = some k) :
    Tbl.find ((d.invCore m h).core h).l2 k = none := by
  rw [Dev.invCore, Dev.keepsCopy, decide_eq_false other, Bool.false_and, if_neg Bool.false_ne_true, Dev.core_onCore_same]
  exact Core.find_invalidated way

/-- The two cores of the pod of `h`. -/
def podCore (h : Hart) (i : Fin 2) : Hart := { sock := h.sock, core := ⟨podOf h * 2 + i.val, by unfold podOf; omega⟩ }

/-- A core is one of its pod's. -/
theorem eq_podCore (h : Hart) : h = podCore h 0 ∨ h = podCore h 1 := by
  obtain ⟨sock, core, fits⟩ := h
  simp only [podCore, podOf, Hart.mk.injEq, Fin.mk.injEq, true_and]
  omega

theorem podCore_ne (h : Hart) : podCore h 1 ≠ podCore h 0 := by simp [podCore]

/-- INV: each core of the pod takes it, and the pod sends one ACK. -/
theorem Dev.podInv_eq (h : Hart) :
    d.podInv h m = ((d.invCore m (podCore h 0)).invCore m (podCore h 1)).sendAll [m.reply .ack (.core h.sock h.core) m.src] := by
  have first : podOf h * 2 + 0 < 212 := (podCore h 0).core.isLt
  have second : podOf h * 2 + 1 < 212 := (podCore h 1).core.isLt
  unfold Dev.podInv
  simp only [show List.range 2 = [0, 1] from rfl, List.foldl_cons, List.foldl_nil, dif_pos first, dif_pos second]
  rfl

/-- After INV a core of the pod that is not the requester has the line no more. -/
theorem Dev.find_podInv {h : Hart} {k : Nat} (other : masterOf h ≠ m.master) (way : (d.core h).find2 (lineOf m.pa) = some k) :
    Tbl.find (((d.invCore m (podCore h 0)).invCore m (podCore h 1)).core h).l2 k = none := by
  rcases eq_podCore h with self | self
  · have apart : h ≠ podCore h 1 := fun e => podCore_ne h (e.symm.trans self)
    rw [Dev.core_invCore_ne m apart, ← self]
    exact Dev.find_invCore m other way
  · have apart : h ≠ podCore h 0 := fun e => podCore_ne h (self.symm.trans e)
    rw [← self]
    exact Dev.find_invCore m other (by rw [Dev.core_invCore_ne m apart, way])

end

/-! ### The commands -/

/-- A forward or back-invalidation is answered at once where no line is recent (R260). -/
theorem Dev.coreForward_owner {d : Dev} {h : Hart} {m : Msg} (old : (d.core h).recent = []) (toOwner : m.ty ≠ .inv) :
    d.coreForward h m false = d.ownerAnswers h m := by
  have due : d.tooSoon h m = false := by rw [Dev.tooSoon, if_neg toOwner, old, List.contains_nil]
  rw [Dev.coreForward, due, if_neg (by simp), if_neg toOwner]

theorem Dev.coreForward_inv {d : Dev} {h : Hart} {m : Msg} (due : d.tooSoon h m = false) (toPod : m.ty = .inv) :
    d.coreForward h m false = d.podInv h m := by
  rw [Dev.coreForward, due, if_neg (by simp), if_pos toPod]

/-- Settles O38: each answer is what `Dev.ownerAnswers` gives for a line that L2 alone holds, or `Dev.podInv` for the pod. -/
theorem coreAnswersForwards : Obligations.CoreAnswersForwards := by
  intro s m h e k who q dst live near
  dsimp only
  refine ⟨fun old l1 way line named whole wanted local_ => ?_, fun _ due => ?_⟩
  · have held : s.dev.InL2 h (lineOf m.pa) k e := ⟨l1, way, line⟩
    have wants (ty : MsgType) : WantedBy { m with ty } h who := ⟨named, whole, wanted, local_⟩
    have command {ty : MsgType} {t : Dev} {out : List Msg}
        (forward : s.dev.atCore s.adm.tab h { m with ty } = s.dev.coreForward h { m with ty } false) (toOwner : ty ≠ .inv)
        (answers : s.dev.ownerAnswers h { m with ty } = t.sendAll out) (rest : t.quiet = true) :=
      Dev.receive_at_core q dst live near (forward.trans ((Dev.coreForward_owner old toOwner).trans answers)) rest
    refine ⟨?_, ?_, ?_, ?_⟩
    · obtain ⟨t, answers, rest, kept⟩ := Dev.ownerAnswers_fwds (m := { m with ty := .fwds }) q rfl held (wants _)
      obtain ⟨ends, sent⟩ := command rfl (by decide) answers rest
      exact ⟨_, State.next_withDev ends, kept, sent⟩
    · obtain ⟨t, answers, rest, gone⟩ := Dev.ownerAnswers_fwdm (m := { m with ty := .fwdm }) q rfl held (wants _)
      obtain ⟨ends, sent⟩ := command rfl (by decide) answers rest
      exact ⟨_, State.next_withDev ends, gone, sent⟩
    · obtain ⟨t, answers, rest, kept⟩ := Dev.ownerAnswers_fwdr (m := { m with ty := .fwdr }) q rfl held (wants _)
      obtain ⟨ends, sent⟩ := command rfl (by decide) answers rest
      exact ⟨_, State.next_withDev ends, kept, sent⟩
    · obtain ⟨t, answers, rest, gone⟩ := Dev.ownerAnswers_binv (m := { m with ty := .binv }) q rfl held
      obtain ⟨ends, sent⟩ := command rfl (by decide) answers rest
      exact ⟨_, State.next_withDev ends, gone, sent⟩
  · obtain ⟨ends, sent⟩ := Dev.receive_at_core (a := s.adm) (ty := .inv) q dst live near
      ((Dev.coreForward_inv due rfl).trans (Dev.podInv_eq { m with ty := .inv } h))
      (Dev.quiet_invCore _ (Dev.quiet_invCore _ q _) _)
    exact ⟨_, State.next_withDev ends, sent, Dev.find_podInv { m with ty := .inv }⟩

end Sys2Proof.Machine
end

section
/-! Replays, reservation timeouts, and the faults of the mesh that are reported (R222, R223, R236, R238, R257). -/

namespace Sys2Proof.Machine

/-! ### What a report leaves (R374 to R381) -/

/-- A report takes a free value and writes its socket's fault logs, or does nothing. -/
theorem Dev.report_cases (d : Dev) (s : Nat) (e : FEv) : d.report s e = d ∨ ∃ (n : Nat) (f : Socket → Faults),
    d.report s e = ({ d with fresh := n } : Dev).onSock s fun k => { k with faults := f k } := by
  by_cases ignored : d.severity s e.src e.cls = 0
  · exact .inl (if_pos ignored)
  · exact .inr ⟨d.fresh + 1, _, (if_neg ignored).trans (if_neg ignored)⟩

section
variable (d : Dev) (s : Nat) (e : FEv)

/-- What no change of the fault logs changes of a socket, a report does not change. -/
theorem Dev.report_keeps {α : Type} (P : Socket → α) (hf : ∀ (k : Socket) (f : Faults), P { k with faults := f } = P k) (t : Nat) :
    P ((d.report s e).sock t) = P (d.sock t) := by
  rcases d.report_cases s e with same | ⟨n, f, reported⟩
  · rw [same]
  · rw [reported]
    exact Dev.onSock_keeps P _ s _ (fun k => hf k (f k)) t

theorem Dev.report_net : (d.report s e).net = d.net := by
  rcases d.report_cases s e with same | ⟨n, f, reported⟩
  · rw [same]
  · rw [reported]
    rfl

theorem Dev.reg_report (t : Nat) (r : Reg) (i j : Nat) : (d.report s e).reg t r i j = d.reg t r i j := by
  simp only [Dev.reg, Dev.report_keeps d s e Socket.regs (fun _ _ => rfl), Dev.report_keeps d s e Socket.bar (fun _ _ => rfl)]

theorem Dev.quiet_report {d : Dev} (q : d.quiet = true) : (d.report s e).quiet = true := by
  rcases d.report_cases s e with same | ⟨n, f, reported⟩
  · rw [same, q]
  · rw [reported]
    exact Dev.quiet_onSock (d := { d with fresh := n }) (Dev.quiet_of_cores q rfl rfl rfl fun _ => rfl) s _ fun _ => rfl

end

/-! ### Discarded messages (R223) -/

/-- A message for a pod out of service, or for a core of a fenced pod, ends in its router. -/
theorem Dev.receive_discarded {d : Dev} {m : Msg} (q : d.quiet = true) (near : m.src.sock = m.dst.sock) (out : d.discards m.dst = true)
    (a : Admin) (ty : MsgType) : d.receive a ty m = d.discard { m with ty } := by
  refine Dev.receive_of_deliver q ?_ (Dev.served_of_quiet (Dev.quiet_report _ _ q))
  unfold Dev.deliver
  dsimp only
  rw [if_neg (by simp [near]), if_pos (by simp [out])]

/-! ### Replays (R236) -/

@[simp] theorem Dev.homeSlice_onCore (d : Dev) (h : Hart) (f : Core → Core) (s : Sock) (pa : Nat) :
    (d.onCore h f).homeSlice s pa = d.homeSlice s pa := by simp only [Dev.homeSlice, Dev.homePod, Dev.reg_onCore]

/-- A core whose one miss has been sent again. -/
def Core.replayed (c : Core) (r : Miss) : Core := { c with missL2 := [{ r with retry := false, killed := false }] }

/-- A refused miss is sent again with its first AGE, and waits no more. -/
theorem Dev.replayCore_refused {d : Dev} {h : Hart} {r : Miss} (only : (d.core h).missL2 = [r]) (refused : r.retry = true)
    (sent : r.sent = true) (fresh : r.upg = false) (unheld : (d.homePod h.sock.val (r.la * 64)).2 = false) (a : Tables) :
    d.replayCore a h (some r.la) = (d.onCore h fun c => c.replayed r).send
      { coreMsg a d h r.ty (d.homeSlice h.sock (r.la * 64)) r.txn (r.la * 64) with age := r.age } := by
  have again : ({ r with sent := true, retry := false, age := r.age, killed := false, upg := false } : Miss) =
      { r with retry := false, killed := false } := by rw [← sent, ← fresh]
  have waiting : ((d.core h).missL2.filter fun x => (x.retry || !x.sent) && (some r.la = none || some r.la = some x.la)) = [r] := by
    rw [only, List.filter_cons_of_pos (by simp [refused]), List.filter_nil]
  have waits {f : Core → Core} (at_ : f (d.core h) = (d.core h).replayed r) : d.onCore h f = d.onCore h fun c => c.replayed r :=
    Dev.onCore_congr at_
  rw [Dev.replayCore, waiting]
  simp only [Dev.each, List.foldl_cons, List.foldl_nil, Dev.sendMiss, unheld, sent, fresh, Bool.false_and, Bool.false_eq_true, if_false,
    if_true, Dev.homeSlice_onCore]
  rw [again, waits]
  · rfl
  · simp [Core.replayed, only]

/-- What no agent was refused is not sent again. -/
theorem Dev.replayAsked_none {d : Dev} (idle : ∀ y ∈ d.asked, y.2 = false) (p : Msg → Bool) : d.replayAsked p = d := by
  have empty : (d.asked.filter fun x => x.2 && p x.1 && !(d.homePod x.1.src.sock x.1.pa).2) = [] :=
    List.filter_eq_nil_iff.2 fun y listed => by simp [idle y listed]
  rw [Dev.replayAsked, empty]
  rfl

/-- A refused request of an agent without miss registers is sent again. -/
theorem Dev.replayAsked_one {d : Dev} {m : Msg} (asked : d.asked = [(m, true)]) {p : Msg → Bool} (taken : p m = true)
    (unheld : (d.homePod m.src.sock m.pa).2 = false) :
    d.replayAsked p = ({ d with asked := [(m, false)] } : Dev).send { m with dst := d.homeSlice m.src.sock m.pa } := by
  have mine : (d.asked.filter fun x => x.2 && p x.1 && !(d.homePod x.1.src.sock x.1.pa).2) = [(m, true)] := by
    rw [asked, List.filter_cons_of_pos (by simp [taken, unheld]), List.filter_nil]
  rw [Dev.replayAsked, mine]
  simp [Dev.each, asked]

/-! ### Reservations (R238) -/

theorem Dev.slice_onSlice_same (d : Dev) (s p : Nat) (f : Slice → Slice) : (d.onSlice s p f).slice s p = f (d.slice s p) := by
  simp [Dev.slice, Dev.onSlice]

/-- A kept reservation that times out is dropped, and what it waited for is kept for the next oldest. -/
theorem Slice.rsv_dropReservation {x : Slice} {i : Nat} {v : Resv} (listed : x.rsv[i]? = some v) (kept : v.kept = true) :
    (x.dropReservation i).rsv = keepFor (x.rsv.eraseIdx i) v.what v.set v.ways := by
  unfold Slice.dropReservation
  rw [listed]
  dsimp only
  rw [if_pos kept]

/-! ### The faults of the mesh (R206, R222) -/

/-- A change of a socket that keeps its register tables keeps what every register reads. -/
theorem Dev.reg_onSock {d : Dev} {t : Nat} {f : Socket → Socket} (regs : ∀ k, (f k).regs = k.regs) (bar : ∀ k, (f k).bar = k.bar)
    (s : Nat) (r : Reg) (i j : Nat) : (d.onSock t f).reg s r i j = d.reg s r i j := by
  simp only [Dev.reg, Dev.onSock_keeps Socket.regs d t f regs, Dev.onSock_keeps Socket.bar d t f bar]

/-- A header error that comes in by a port with a link stops the neighbour's link on that plane, and is reported. -/
theorem Dev.headerError_linked {l port n : Nat} (link : neighbour l port = some n) (d : Dev) (s plane : Nat) :
    (d.headerError s l port plane).reg s .ldMeshCtl n 0 = putBit (d.reg s .ldMeshCtl n 0) ((port + 2) % 4) true ∧
      (d.headerError s l port plane).net = d.net ∧
      ((d.headerError s l port plane).sock s).meshDown.contains (n, (port + 2) % 4, plane) = true := by
  unfold Dev.headerError
  rw [link]
  dsimp only [Dev.reportUnit]
  refine ⟨?_, Dev.report_net .., ?_⟩
  · rw [Dev.reg_report]
    exact (Dev.reg_onSock (d := d.setReg s .ldMeshCtl n 0 _) (by intro k; rfl) (by intro k; rfl) s .ldMeshCtl n 0).trans
      (Dev.reg_setReg_same d s .ldMeshCtl n 0 _)
  · rw [Dev.report_keeps _ _ _ Socket.meshDown fun _ _ => rfl, Dev.sock_onSock_same]
    simp

/-! ### The commands -/

/-- The requests of an agent for a line. -/
def asksFor (n : Node) (la : Nat) (m : Msg) : Bool := m.src = n && lineOf m.pa = la

/-- REQUEST_REPLAY of a core whose one miss was refused, with nothing else refused. -/
theorem exec_requestReplay_core {s : State} {h : Hart} {r : Miss} {addr : PAddr} (idle : ∀ y ∈ s.dev.asked, y.2 = false)
    (only : (s.core h).missL2 = [r]) (refused : r.retry = true) (sent : r.sent = true) (fresh : r.upg = false)
    (line : r.la = lineOf addr.toNat) (unheld : (s.dev.homePod h.sock.val (r.la * 64)).2 = false) :
    exec (.requestReplay (.core h.sock h.core) addr) s = .next (s.withDev ((s.dev.onCore h fun c => c.replayed r).send
      { coreMsg s.adm.tab s.dev h r.ty (s.dev.homeSlice h.sock (r.la * 64)) r.txn (r.la * 64) with age := r.age })) := by
  have replay : exec (.requestReplay (.core h.sock h.core) addr) s = .next (s.withDev
      ((s.dev.replayCore s.adm.tab h (some (lineOf addr.toNat))).replayAsked (asksFor (.core h.sock h.core) (lineOf addr.toNat)))) := rfl
  rw [replay, ← line, Dev.replayCore_refused only refused sent fresh unheld, Dev.replayAsked_none]
  exact idle

/-- REQUEST_REPLAY of a root port whose request was refused. -/
theorem exec_requestReplay_port {s : State} {m : Msg} {addr : PAddr} {ps : Sock} {pp : Fin 32} (src : m.src = .port ps pp)
    (asked : s.dev.asked = [(m, true)]) (unheld : (s.dev.homePod ps.val m.pa).2 = false) (line : m.pa = addr.toNat) :
    exec (.requestReplay (.port ps pp) addr) s =
      .next (s.withDev (({ s.dev with asked := [(m, false)] } : Dev).send { m with dst := s.dev.homeSlice ps m.pa })) := by
  have replay : exec (.requestReplay (.port ps pp) addr) s =
      .next (s.withDev (s.dev.replayAsked (asksFor (.port ps pp) (lineOf addr.toNat)))) := rfl
  rw [replay, Dev.replayAsked_one asked (by simp [asksFor, src, line]) (by rw [src]; exact unheld), src]
  rfl

/-- Settles O40: a discarded message and a mesh fault end in a report, a replay in one message, a timeout in its slice. -/
theorem meshEvents : Obligations.MeshEvents := by
  intro s h r sk pod i v landing ty master berth addr port plane n m
  dsimp only
  refine ⟨fun q near out => ?_, fun idle only refused sent fresh line unheld => ?_, fun ps pp src asked unheld line => ?_,
    fun listed kept => ?_, fun known => ?_, fun unknown => ?_, fun link => ?_, fun edge => ?_⟩
  · have discarded := Dev.receive_discarded q near out s.adm
    exact ⟨State.next_withDev (discarded .rds), State.next_withDev (discarded .inv), State.next_withDev (discarded .dats)⟩
  · refine ⟨_, _, exec_requestReplay_core idle only refused sent fresh line unheld, rfl, rfl, rfl, rfl, rfl, ?_⟩
    rw [State.core_withDev, Dev.core_send, Dev.core_onCore_same]
    rfl
  · have replay := exec_requestReplay_port src asked unheld line
    rw [← src] at replay
    exact ⟨_, replay, rfl, rfl⟩
  · refine ⟨_, State.next_withDev rfl, ?_⟩
    exact (congrArg Slice.rsv (Dev.slice_onSlice_same s.dev sk.val pod.val _)).trans (Slice.rsv_dropReservation listed kept)
  · refine State.next_withDev (d := s.dev) ?_
    rw [if_pos (Option.isSome_iff_ne_none.2 known)]
  · refine State.next_withDev ?_
    rw [unknown]
    rfl
  · obtain ⟨stopped, net, down⟩ := Dev.headerError_linked link s.dev sk.val plane.val
    exact ⟨_, State.next_withDev rfl, stopped, net, down⟩
  · refine State.next_withDev (d := s.dev) ?_
    rw [Dev.headerError, edge]

end Sys2Proof.Machine
end

section
/-! Register writes from the Wheelhouse view to the crossing links, the crossing directories, the repair engine and the tiering engine
(R278, R280, R345 to R348, R366). -/

namespace Sys2Proof.Machine

/-! ### One-bit fields -/

/-- A field of one bit is that bit. -/
theorem bits_bit (w : Word) (i : Nat) : bits w i i = (bit w i).toNat := by
  apply Nat.eq_of_testBit_eq
  intro k
  rw [testBit_bits, bit]
  cases k with
  | zero => cases w.getLsbD i <;> simp
  | succ k =>
    have small : (w.getLsbD i).toNat < 2 ^ (k + 1) := Nat.lt_of_lt_of_le (Bool.toNat_lt _) (Nat.le_pow (by omega))
    rw [decide_eq_false (by omega), Bool.false_and, Nat.testBit_lt_two_pow small]

/-- A bit of a word with one field replaced, outside the field. -/
theorem bit_putBits_apart (w : Word) {hi lo i : Nat} (v : Nat) (order : lo ≤ hi) (inside : i < 64) (apart : hi < i ∨ i < lo) :
    bit (putBits w hi lo v) i = bit w i := by
  rw [bit, getLsbD_putBits w order v inside, if_neg (by omega), bit]

/-- A bit that was put is read as it was put. -/
theorem bit_putBits_same (w : Word) {i : Nat} (inside : i < 64) (b : Bool) : bit (putBits w i i b.toNat) i = b := by
  rw [bit, getLsbD_putBits w (Nat.le_refl i) _ inside, if_pos ⟨Nat.le_refl i, Nat.le_refl i⟩, Nat.sub_self]
  cases b <;> rfl

/-- The top bit of a word that holds it alone. -/
theorem bit_topWord (b : Bool) : bit (word (b.toNat * 2 ^ 63)) 63 = b := by
  cases b <;> rfl

/-! ### Crossing links and crossing directories (R278, R280) -/

/-- A write of XL_LINK_CTL that leaves DISABLE and asks for a retraining. -/
theorem Dev.writeLinkCtl_retrain {d : Dev} {s k : Nat} {v : Word} (kept : bits v 8 8 = bits (d.reg s .xlLinkCtl k 0) 8 8)
    (asked : bit v 12 = true) (locked : Bool) : ∃ x, d.writeLinkCtl s k locked v = (d.setReg s .xlLinkCtl k 0 x).linkRetrain s k ∧
      bit x 8 = bit (d.reg s .xlLinkCtl k 0) 8 := by
  unfold Dev.writeLinkCtl
  dsimp only
  rw [if_pos kept, if_pos asked]
  refine ⟨_, rfl, ?_⟩
  rw [bits_bit]
  exact bit_putBits_same _ (by decide) _

/-- A write of XL_LINK_CTL that changes DISABLE and asks for no retraining. -/
theorem Dev.writeLinkCtl_disable {d : Dev} {s k : Nat} {v : Word} (changed : bit v 8 ≠ bit (d.reg s .xlLinkCtl k 0) 8)
    (unasked : bit v 12 = false) (locked : Bool) :
    ∃ x, d.writeLinkCtl s k locked v = (d.setReg s .xlLinkCtl k 0 x).linkDisable s k (bit v 8) := by
  have differs : ¬bits v 8 8 = bits (d.reg s .xlLinkCtl k 0) 8 8 := by
    rw [bits_bit, bits_bit]
    exact fun same => changed (Function.LeftInverse.injective Bool.ofNat_toNat same)
  unfold Dev.writeLinkCtl
  dsimp only
  rw [if_neg differs, unasked, if_neg Bool.false_ne_true]
  exact ⟨_, rfl⟩

section
variable {s : State} {q : Requester} (wheel : q.berth = 0) (sk : Sock)
include wheel

/-- A write of XL_LINK_CTL from the Wheelhouse view. -/
theorem writeRegister_linkCtl (k : Fin 8) (v : Word) : ∃ locked, s.dev.writeRegister s.adm q sk.val .xlLinkCtl k.val 0 v =
    ((s.dev.writeLinkCtl sk.val k.val locked v).answer [0]).finish s.adm := by
  refine ⟨_, writeRegister_of_wheel wheel rfl rfl k.isLt (by decide) ?_ ?_ rfl⟩ <;> (simp only [Reg.at, Reg.place]; omega)

theorem exec_linkRetrain (k : Fin 8) : ∃ x, exec (.linkRetrain q sk k) s =
    .next (s.done ((s.dev.setReg sk.val .xlLinkCtl k.val 0 x).linkRetrain sk.val k.val)) ∧
      bit x 8 = bit (s.dev.reg sk.val .xlLinkCtl k.val 0) 8 := by
  obtain ⟨locked, written⟩ := writeRegister_linkCtl (s := s) wheel sk k (s.dev.withField sk.val .xlLinkCtl k.val 0 12 12 1)
  obtain ⟨x, stored, kept⟩ := Dev.writeLinkCtl_retrain (v := s.dev.withField sk.val .xlLinkCtl k.val 0 12 12 1)
    (bits_putBits_apart _ 1 (by decide) (by decide) (.inr (by decide))) (bit_putBits_same _ (by decide) true) locked
  rw [stored] at written
  exact ⟨x, State.next_withDev written, kept⟩

theorem exec_linkDisable (k : Fin 8) {on : Bool} (changed : on ≠ bit (s.dev.reg sk.val .xlLinkCtl k.val 0) 8)
    (idle : bit (s.dev.reg sk.val .xlLinkCtl k.val 0) 12 = false) : ∃ x, exec (.linkDisable q sk k on) s =
    .next (s.done ((s.dev.setReg sk.val .xlLinkCtl k.val 0 x).linkDisable sk.val k.val on)) := by
  have put : bit (s.dev.withField sk.val .xlLinkCtl k.val 0 8 8 on.toNat) 8 = on := bit_putBits_same _ (by decide) on
  obtain ⟨locked, written⟩ := writeRegister_linkCtl (s := s) wheel sk k (s.dev.withField sk.val .xlLinkCtl k.val 0 8 8 on.toNat)
  obtain ⟨x, stored⟩ := Dev.writeLinkCtl_disable (v := s.dev.withField sk.val .xlLinkCtl k.val 0 8 8 on.toNat) (put.symm ▸ changed)
    ((bit_putBits_apart _ _ (by decide) (by decide) (.inl (by decide))).trans idle) locked
  rw [stored, put] at written
  exact ⟨x, State.next_withDev written⟩

theorem exec_xdirClr (u : Fin 2) : exec (.xdirClr q sk u) s = .next (s.done (s.dev.xdirClear sk.val u.val)) := by
  refine State.next_withDev (writeRegister_of_wheel wheel rfl rfl u.isLt (by decide) ?_ ?_ rfl) <;>
    (simp only [Reg.at, Reg.place]; omega)

/-! ### Soft repair (R366) -/

/-- GO starts a repair when it read 0. -/
theorem exec_softRepair {v : Word} (idle : bit (s.dev.reg sk.val .whRepair 0 0) 63 = false) : exec (.softRepair q sk v) s =
    .next (s.done (((s.dev.setReg sk.val .whRepair 0 0
      (Reg.whRepair.written false false (s.dev.reg sk.val .whRepair 0 0) (putBit v 63 true))).setFld sk.val .whRepair 0 0 58 56 1).softRepair
        s.adm.tab sk)) := by
  have go : (bit (putBit v 63 true) 63 && !bit (s.dev.reg sk.val .whRepair 0 0) 63) = true := by
    rw [bit_putBit_pend, idle]
    rfl
  refine State.next_withDev (writeRegister_of_wheel wheel rfl rfl (by decide) (by decide) (by decide) (by decide) ?_)
  rw [Dev.regStore, sk_val, Dev.writeRepair, if_pos go]

/-! ### Tiering (R345 to R348) -/

theorem exec_drain (u : Fin 2) (b : BitVec 6) (on : Bool) : exec (.drain q sk u b on) s =
    .next (s.done (s.dev.writeDrain s.adm.tab sk.val u.val b.toNat on)) := by
  refine State.next_withDev (writeRegister_of_wheel wheel rfl rfl u.isLt b.isLt ?_ ?_ ?_)
  · simp only [Reg.at, Reg.place]; omega
  · simp only [Reg.at, Reg.place]; omega
  · simp only [Dev.regStore, wheel, ne_eq, not_true, if_false, bit_topWord]

/-- MODE as the command says, the other fields of TE_POLICY as they stand. -/
theorem exec_modeWrite (b : BitVec 6) (mode : BitVec 2) : exec (.modeWrite q sk b mode) s = .next (s.done
    (s.dev.writePolicy s.adm.tab sk.val b.toNat q (s.dev.withField sk.val .tePolicy b.toNat 0 61 60 mode.toNat))) := by
  refine State.next_withDev (writeRegister_of_wheel wheel rfl rfl b.isLt (by decide) ?_ ?_ ?_)
  · simp only [Reg.at, Reg.place]; omega
  · simp only [Reg.at, Reg.place]; omega
  · simp only [Dev.regStore, wheel, ne_eq, not_true, if_false]

/-- A write of TE_RUN_B with GO from the Wheelhouse view starts its run with REVERT as it was written. -/
theorem writeRegister_runGo (u : Fin 2) (r : Fin 32) {v : Word} (go : bit v 63 = true) :
    s.dev.writeRegister s.adm q sk.val .teRunB u.val r.val v =
      (((s.dev.setFld sk.val .teRunB u.val r.val 62 62 (bits v 62 62)).runGo s.adm.tab sk.val u.val r.val).answer [0]).finish s.adm := by
  refine writeRegister_of_wheel wheel rfl rfl u.isLt r.isLt ?_ ?_ ?_
  · simp only [Reg.at, Reg.place]; omega
  · simp only [Reg.at, Reg.place]; omega
  · rw [Dev.regStore, if_pos go]

end

/-- Settles O43: each of the commands is one write of the register space from the Wheelhouse view, which its register takes whole. -/
theorem linkMemoryAndTierRegisterCommands : Obligations.LinkMemoryAndTierRegisterCommands := by
  intro s q sk k u b on mode r v wheel
  exact ⟨exec_linkRetrain wheel sk k, exec_linkDisable wheel sk k, exec_xdirClr wheel sk u, exec_softRepair wheel sk,
    exec_drain wheel sk u b on, ⟨_, exec_modeWrite wheel sk b mode, bits_putBits_same _ (by decide) (by decide) mode.isLt⟩,
    State.next_withDev (writeRegister_runGo wheel sk u r (by decide)), State.next_withDev (writeRegister_runGo wheel sk u r (by decide))⟩

end Sys2Proof.Machine
end

section
/-! Reads of registers and crossing links after the writes of other places: what the commands of crossing links keep (R280 to R290). -/

namespace Sys2Proof.Machine

/-! ### Commands -/

/-- A command whose effect on the berth tables and the sockets is known. -/
theorem State.next_tabled {s : State} {f : Admin → Dev → Admin × Dev} {r : Admin × Dev} (e : f s.adm s.dev = r) :
    (.next (s.onTables f) : Answer) = .next (s.tabled r) := by
  rw [State.onTables_eq, e]

/-- A command whose effect on the sockets is known, and the traffic it starts. -/
theorem State.next_ended {s : State} {f : Admin → Dev → Dev} {d : Dev} (e : f s.adm s.dev = d) :
    (.next (s.onSockets f) : Answer) = .next (s.ended d) := by
  rw [State.onSockets_eq, e]

/-! ### Loops -/

/-- What every pass of a loop keeps, the loop keeps. -/
theorem foldl_keeps {α β γ : Type} (p : β → γ) {f : β → α → β} {l : List α} (h : ∀ x, ∀ y ∈ l, p (f x y) = p x) (x : β) :
    p (l.foldl f x) = p x := by
  induction l generalizing x with
  | nil => rfl
  | cons y r ih => rw [List.foldl_cons, ih fun x z m => h x z (List.mem_cons_of_mem _ m), h x y (List.mem_cons_self ..)]

/-- A loop whose passes all leave the state where it starts ends there. -/
theorem foldl_stays {α β : Type} {f : β → α → β} {l : List α} {x : β} (h : ∀ y ∈ l, f x y = x) : l.foldl f x = x := by
  induction l with
  | nil => rfl
  | cons y r ih => rw [List.foldl_cons, h y (List.mem_cons_self ..), ih fun z m => h z (List.mem_cons_of_mem _ m)]

/-- What both branches of a choice keep, the choice keeps. -/
theorem ite_keeps {β γ : Type} (p : β → γ) {c : Prop} [Decidable c] {x y : β} {v : γ} (yes : p x = v) (no : p y = v) :
    p (if c then x else y) = v := by
  split <;> assumption

/-! ### Registers -/

/-- Instances of different registers have different places. -/
theorem Reg.at_ne {r q : Reg} (n : r ≠ q) (space : r.place.bar = q.place.bar) {i j k l : Nat} (hi : i < r.place.c1) (hj : j < r.place.c2)
    (hk : k < q.place.c1) (hl : l < q.place.c2) : r.at i j ≠ q.at k l :=
  Reg.apart_at (Reg.all_apart r (Reg.mem_all r) q (Reg.mem_all q) n) space hi hj hk hl

section
variable (d : Dev) (s t : Nat) {r q : Reg} {i j k l : Nat}

/-- A write of a register leaves the others. -/
theorem Dev.reg_setReg_other (n : r ≠ q) (hi : i < r.place.c1) (hj : j < r.place.c2) (hk : k < q.place.c1) (hl : l < q.place.c2)
    (v : Word) : (d.setReg s q k l v).reg t r i j = d.reg t r i j := by
  refine Dev.reg_setReg_ne d v (.inr ?_)
  by_cases space : r.place.bar = q.place.bar
  · exact .inr (Reg.at_ne n space hi hj hk hl)
  · exact .inl space

theorem Dev.reg_setFld_other (n : r ≠ q) (hi : i < r.place.c1) (hj : j < r.place.c2) (hk : k < q.place.c1) (hl : l < q.place.c2)
    (top bottom v : Nat) : (d.setFld s q k l top bottom v).reg t r i j = d.reg t r i j :=
  d.reg_setReg_other s t n hi hj hk hl _

/-- A field that was put is read as it was put. -/
theorem Dev.fld_setFld_same {top bottom v : Nat} (order : bottom ≤ top) (inside : top < 64) (fits : v < 2 ^ (top + 1 - bottom)) :
    (d.setFld s r i j top bottom v).fld s r i j top bottom = v := by
  rw [Dev.fld, Dev.reg_setFld_same, bits_putBits_same _ order inside fits]

/-- The other fields of its register are as they were. -/
theorem Dev.fld_setFld_apart {hi lo top bottom : Nat} (v : Nat) (order : lo ≤ hi) (inside : top < 64) (apart : hi < bottom ∨ top < lo) :
    (d.setFld s r i j hi lo v).fld s r i j top bottom = d.fld s r i j top bottom := by
  rw [Dev.fld, Dev.reg_setFld_same, bits_putBits_apart _ _ order inside apart, Dev.fld]

end

theorem satAdd_lt (w v n : Nat) : satAdd w v n < 2 ^ w :=
  Nat.lt_of_le_of_lt (Nat.min_le_left _ _) (Nat.sub_lt (Nat.two_pow_pos w) Nat.one_pos)

/-! ### Links -/

theorem Dev.link_onLink_same (d : Dev) (s k : Nat) (f : XLink → XLink) : (d.onLink s k f).link s k = f (d.link s k) := by
  simp [Dev.link, Dev.onLink]

/-- A part of every link that `f` keeps is kept. -/
theorem Dev.onLink_keeps {α : Type} (p : XLink → α) (d : Dev) (s k : Nat) (f : XLink → XLink) (h : ∀ x, p (f x) = p x) (t l : Nat) :
    p ((d.onLink s k f).link t l) = p (d.link t l) := by
  unfold Dev.link Dev.onLink
  by_cases here : t = s
  · subst here
    rw [Dev.sock_onSock_same]
    by_cases same : l = k
    · subst same
      rw [Tbl.get_set_same, h]
    · rw [Tbl.get_set_ne _ _ _ _ same]
  · rw [Dev.sock_onSock_ne _ _ here]

theorem Dev.link_onLink_ne (d : Dev) {s k t l : Nat} (f : XLink → XLink) (n : t ≠ s ∨ l ≠ k) : (d.onLink s k f).link t l = d.link t l := by
  unfold Dev.link Dev.onLink
  by_cases here : t = s
  · subst here
    rw [Dev.sock_onSock_same, Tbl.get_set_ne _ _ _ _ (n.resolve_left fun h => h rfl)]
  · rw [Dev.sock_onSock_ne _ _ here]

@[simp] theorem Dev.reg_onLink (d : Dev) (t k : Nat) (f : XLink → XLink) (s : Nat) (r : Reg) (i j : Nat) :
    (d.onLink t k f).reg s r i j = d.reg s r i j := by
  unfold Dev.onLink
  exact Dev.reg_onSock (by intro k; rfl) (by intro k; rfl) s r i j

@[simp] theorem Dev.fld_onLink (d : Dev) (t k : Nat) (f : XLink → XLink) (s : Nat) (r : Reg) (i j hi lo : Nat) :
    (d.onLink t k f).fld s r i j hi lo = d.fld s r i j hi lo := by rw [Dev.fld, Dev.reg_onLink, Dev.fld]

/-- Links are part of their socket. -/
theorem Dev.link_onSock (d : Dev) (s : Nat) (f : Socket → Socket) (h : ∀ k, (f k).links = k.links) (t l : Nat) :
    (d.onSock s f).link t l = d.link t l := by
  rw [Dev.link, Dev.onSock_keeps Socket.links d s f h, Dev.link]

@[simp] theorem Dev.link_setReg (d : Dev) (s : Nat) (r : Reg) (i j : Nat) (v : Word) (t l : Nat) :
    (d.setReg s r i j v).link t l = d.link t l :=
  Dev.link_onSock d s _ (fun k => by cases r.place.bar <;> rfl) t l

@[simp] theorem Dev.link_setFld (d : Dev) (s : Nat) (r : Reg) (i j hi lo v t l : Nat) :
    (d.setFld s r i j hi lo v).link t l = d.link t l := by rw [Dev.setFld, Dev.link_setReg]

@[simp] theorem Dev.link_setLink (d : Dev) (s k st t l : Nat) : (d.setLink s k st).link t l = d.link t l := by
  rw [Dev.setLink, Dev.link_setFld]

@[simp] theorem Dev.link_bump (d : Dev) (s : Nat) (r : Reg) (i j hi lo n t l : Nat) :
    (d.bump s r i j hi lo n).link t l = d.link t l := by rw [Dev.bump, Dev.link_setFld]

@[simp] theorem Dev.link_onWheel (d : Dev) (s : Nat) (f : Wheel → Wheel) (t l : Nat) : (d.onWheel s f).link t l = d.link t l := by
  unfold Dev.onWheel
  exact Dev.link_onSock d s _ (by intro k; rfl) t l

/-! ### Reports (R374 to R381) -/

@[simp] theorem Dev.link_report (d : Dev) (s : Nat) (e : FEv) (t l : Nat) : (d.report s e).link t l = d.link t l := by
  rw [Dev.link, Dev.report_keeps d s e Socket.links fun _ _ => rfl, Dev.link]

@[simp] theorem Dev.reg_reportUnit (d : Dev) (s src cls sub berth access addr t : Nat) (r : Reg) (i j : Nat) :
    (d.reportUnit s src cls sub berth access addr).reg t r i j = d.reg t r i j := Dev.reg_report ..

@[simp] theorem Dev.fld_reportUnit (d : Dev) (s src cls sub berth access addr t : Nat) (r : Reg) (i j hi lo : Nat) :
    (d.reportUnit s src cls sub berth access addr).fld t r i j hi lo = d.fld t r i j hi lo := by rw [Dev.fld, Dev.reg_reportUnit, Dev.fld]

@[simp] theorem Dev.link_reportUnit (d : Dev) (s src cls sub berth access addr t l : Nat) :
    (d.reportUnit s src cls sub berth access addr).link t l = d.link t l := Dev.link_report ..

/-! ### Counted events (R446 to R448) -/

/-- What the counters of a link do not hold, counting its events keeps. -/
theorem Dev.linkEvent_keeps {α : Type} (p : Dev → α) {k : Nat}
    (h : ∀ (d : Dev) (s i n : Nat), i < 4 → p (d.bump s .pcUncCntLink k i 47 0 n) = p d) (d : Dev) (s ev b n : Nat) :
    p (d.linkEvent s k ev b n) = p d := by
  unfold Dev.linkEvent Dev.uncore
  exact foldl_keeps p (fun d i below => ite_keeps p (h _ _ _ _ (List.mem_range.1 below)) rfl) d

@[simp] theorem Dev.link_linkEvent (d : Dev) (s k ev b n t l : Nat) : (d.linkEvent s k ev b n).link t l = d.link t l :=
  Dev.linkEvent_keeps (fun d : Dev => d.link t l) (fun _ _ _ _ _ => Dev.link_bump ..) d s ev b n

/-- Counting events leaves every other register. -/
theorem Dev.reg_linkEvent (d : Dev) (s : Nat) {k : Nat} (hk : k < 8) (ev b n t : Nat) {r : Reg} (other : r ≠ .pcUncCntLink) {i j : Nat}
    (hi : i < r.place.c1) (hj : j < r.place.c2) : (d.linkEvent s k ev b n).reg t r i j = d.reg t r i j :=
  Dev.linkEvent_keeps (fun d : Dev => d.reg t r i j)
    (fun d s _ _ hm => d.reg_setFld_other s t other hi hj hk hm 47 0 _) d s ev b n

/-! ### Link states -/

theorem Dev.linkState_setLink (d : Dev) (s k : Nat) {st : Nat} (h : st < 8) : (d.setLink s k st).linkState s k = st :=
  d.fld_setFld_same s (by decide) (by decide) h

@[simp] theorem Dev.linkState_onLink (d : Dev) (s k t l : Nat) (f : XLink → XLink) : (d.onLink s k f).linkState t l = d.linkState t l :=
  d.fld_onLink ..

@[simp] theorem Dev.linkState_reportUnit (d : Dev) (s src cls sub berth access addr t l : Nat) :
    (d.reportUnit s src cls sub berth access addr).linkState t l = d.linkState t l := d.fld_reportUnit ..

end Sys2Proof.Machine
end

section
/-! Training of a crossing link: detection, equalization, identification, and the failures of an attempt (R280 to R282). -/

namespace Sys2Proof.Machine

/-! ### LINK_DETECT (R280) -/

/-- The one lane that is missing. -/
theorem missing_one {lanes : BitVec 17} {l : Nat} (below : l < 17) (rest : ∀ i < 17, lanes.getLsbD i = decide (i ≠ l)) :
    ((List.range 17).filter fun i => !lanes.getLsbD i) = [l] := by
  have one : ∀ l < 17, ((List.range 17).filter fun i => decide (i = l)) = [l] := by decide
  rw [← one l below]
  refine List.filter_congr fun i m => ?_
  rw [rest i (List.mem_range.1 m), decide_not, Bool.not_not]

theorem Dev.linkDetect_all {d : Dev} {s k : Nat} (at_ : d.linkState s k = 1) :
    d.linkDetect s k (BitVec.allOnes 17) = d.setLink s k 2 := by
  have none_missing : ((List.range 17).filter fun l => !(BitVec.allOnes 17).getLsbD l) = [] := by decide
  rw [Dev.linkDetect, if_neg (by simp [at_]), none_missing]

/-- A missing data lane counts as failed, and lane 16 carries it. -/
theorem Dev.linkDetect_one {d : Dev} {s k l : Nat} {lanes : BitVec 17} (at_ : d.linkState s k = 1) (data : l < 16)
    (rest : ∀ i < 17, lanes.getLsbD i = decide (i ≠ l)) : (d.linkDetect s k lanes).linkState s k = 2 ∧
      bit ((d.linkDetect s k lanes).reg s .xlLinkStat k 0) l = true ∧ (d.linkDetect s k lanes).fld s .xlLinkStat k 0 20 16 = l := by
  have failed (e : Dev) : bit ((e.setReg s .xlLinkStat k 0 (putBit (e.reg s .xlLinkStat k 0) l true)).reg s .xlLinkStat k 0) l = true := by
    rw [Dev.reg_setReg_same]
    exact bit_putBits_same _ (by omega) true
  rw [Dev.linkDetect, if_neg (by simp [at_]), missing_one (by omega) rest]
  dsimp only
  rw [if_neg (by omega)]
  refine ⟨?_, ?_, Dev.fld_setFld_same _ s (by decide) (by decide) (by omega)⟩
  · rw [Dev.linkState, Dev.fld_setFld_apart _ _ _ (by decide) (by decide) (.inl (by decide)), Dev.fld, Dev.reg_setReg_same,
      putBit, bits_putBits_apart _ _ (Nat.le_refl l) (by decide) (.inl (by omega))]
    exact d.linkState_setLink s k (by decide)
  · rw [Dev.reg_setFld_same, bit_putBits_apart _ _ (by decide) (by omega) (.inr data)]
    exact failed _

/-! ### LINK_EQUALIZE (R280) -/

/-- The lanes that a link uses: those of its width but the spared one, and lane 16 where it carries one. -/
def lanesUsed (stat : Word) : List Nat :=
  ((lanesOf (bits stat 31 30)).filter (· ≠ bits stat 20 16)) ++ (if bits stat 20 16 = 0x1F then [] else [16])

theorem lanesUsed_lt {stat : Word} {l : Nat} (used : l ∈ lanesUsed stat) : l < 17 := by
  have data : ∀ w, l ∈ lanesOf w → l < 17 := by
    intro w m
    unfold lanesOf at m
    split at m
    · exact Nat.lt_trans (List.mem_range.1 m) (by decide)
    · split at m
      · obtain ⟨i, below, rfl⟩ := List.mem_map.1 m
        have := List.mem_range.1 below
        omega
      · exact Nat.lt_trans (List.mem_range.1 m) (by decide)
  rcases List.mem_append.1 used with m | m
  · exact data _ (List.mem_filter.1 m).1
  · split at m
    · cases m
    · exact (List.mem_singleton.1 m).symm ▸ (by decide)

section
variable {d : Dev} {s k : Nat} {lanes : BitVec 17}

/-- During a supply dip a RETRAIN does not equalize. -/
theorem Dev.linkEqualize_dip (at_ : d.linkState s k = 5) (dip : d.dipping s = true) : d.linkEqualize s k lanes = d := by
  rw [Dev.linkEqualize, if_pos (by simp [at_, dip])]

theorem Dev.linkEqualize_reached (trains : d.linkState s k = 2 ∨ d.linkState s k = 5 ∧ d.dipping s = false)
    (reached : ∀ i < 17, lanes.getLsbD i = true) : d.linkEqualize s k lanes =
      if d.linkState s k = 2 then d.setLink s k 3 else d.onLink s k fun x => { x with equalized := true } := by
  have all : ((lanesUsed (d.reg s .xlLinkStat k 0)).all fun l => lanes.getLsbD l) = true :=
    List.all_eq_true.2 fun l m => reached l (lanesUsed_lt m)
  have goes : ¬(decide (d.linkState s k ≠ 2) && (decide (d.linkState s k ≠ 5) || d.dipping s)) = true := by
    rcases trains with at_ | ⟨at_, dip⟩
    · simp [at_]
    · simp [at_, dip]
  rw [Dev.linkEqualize, if_neg goes]
  exact if_pos all

/-- One used lane that does not reach its target keeps the link where it is. -/
theorem Dev.linkEqualize_missed {l : Nat} (used : l ∈ lanesOf (bits (d.reg s .xlLinkStat k 0) 31 30))
    (own : l ≠ bits (d.reg s .xlLinkStat k 0) 20 16) (missed : lanes.getLsbD l = false) : d.linkEqualize s k lanes = d := by
  have some_missed : ¬((lanesUsed (d.reg s .xlLinkStat k 0)).all fun l => lanes.getLsbD l) = true := fun all => by
    have reached := List.all_eq_true.1 all l (List.mem_append_left _ (List.mem_filter.2 ⟨used, by simpa using own⟩))
    rw [missed] at reached
    cases reached
  unfold Dev.linkEqualize
  dsimp only
  split
  · rfl
  · exact if_neg some_missed

end

/-! ### IDENTIFY (R281, R288) -/

section
variable {d : Dev} {s k peer link : Nat}
  (ready : d.linkState s k = 3 ∨ (d.linkState s k = 5 ∧ (d.link s k).equalized = true ∧ d.dipping s = false))
include ready

theorem Dev.linkIdentify_goes :
    ¬(decide (d.linkState s k ≠ 3) && (decide (d.linkState s k ≠ 5) || !(d.link s k).equalized || d.dipping s)) = true := by
  rcases ready with at_ | ⟨at_, equalized, dip⟩
  · simp [at_]
  · simp [at_, equalized, dip]

/-- IDs that differ in one bit and link numbers that agree make the link ACTIVE. -/
theorem Dev.linkIdentify_right (right : (∃ i < 4, peer = across (d.sockId s) i) ∧ link = k) (small : peer < 16) :
    (d.linkIdentify s k peer link).linkState s k = 4 ∧ (d.linkIdentify s k peer link).fld s .xlLinkStat k 0 47 44 = peer ∧
      ((d.linkIdentify s k peer link).link s k).credits = fullCredits ∧ ((d.linkIdentify s k peer link).link s k).fails = 0 := by
  obtain ⟨⟨i, below, one_bit⟩, same⟩ := right
  have agrees : (((List.range 4).any fun i => peer = across (d.sockId s) i) && decide (link = k)) = true := by
    rw [decide_eq_true same, Bool.and_true]
    exact List.any_eq_true.2 ⟨i, List.mem_range.2 below, decide_eq_true one_bit⟩
  rw [Dev.linkIdentify, if_neg (Dev.linkIdentify_goes ready), if_pos agrees]
  refine ⟨?_, ?_, ?_, ?_⟩
  · rw [Dev.linkState_onLink, Dev.linkState, Dev.fld_setFld_apart _ _ _ (by decide) (by decide) (.inr (by decide))]
    exact d.linkState_setLink s k (by decide)
  · rw [Dev.fld_onLink, Dev.fld_setFld_same _ s (by decide) (by decide) small]
  · rw [Dev.link_onLink_same]
  · rw [Dev.link_onLink_same]

/-- Any other partner is a wiring error. -/
theorem Dev.linkIdentify_wrong (wrong : ¬((∃ i < 4, peer = across (d.sockId s) i) ∧ link = k)) :
    d.linkIdentify s k peer link = (d.setLink s k 6).notice s (0xE00 + k) := by
  have differs : ¬(((List.range 4).any fun i => peer = across (d.sockId s) i) && decide (link = k)) = true := fun agrees => by
    obtain ⟨near, same⟩ := Bool.and_eq_true _ _ ▸ agrees
    obtain ⟨i, below, one_bit⟩ := List.any_eq_true.1 near
    exact wrong ⟨⟨i, List.mem_range.1 below, of_decide_eq_true one_bit⟩, of_decide_eq_true same⟩
  rw [Dev.linkIdentify, if_neg (Dev.linkIdentify_goes ready), if_neg differs]

end

/-! ### A link that goes DOWN (R280, R282) -/

/-- Flits sent on over another link change no register. -/
theorem Dev.linkDown_reg (d : Dev) (s k t : Nat) (r : Reg) (i j : Nat) :
    (d.linkDown s k).reg t r i j = (d.setLink s k 6).reg t r i j := by
  unfold Dev.linkDown
  dsimp only
  split
  · rfl
  · rw [foldl_keeps fun d : Dev => d.reg t r i j]
    · exact Dev.reg_onLink ..
    · exact fun _ _ _ => Dev.reg_onLink ..

theorem Dev.linkState_linkDown (d : Dev) (s k : Nat) : (d.linkDown s k).linkState s k = 6 := by
  rw [Dev.linkState, Dev.fld, Dev.linkDown_reg]
  exact d.linkState_setLink s k (by decide)

/-- The flits that move change the replay buffers and the numbers to send alone. -/
theorem Dev.linkDown_fails (d : Dev) (s k t l : Nat) : ((d.linkDown s k).link t l).fails = (d.link t l).fails := by
  unfold Dev.linkDown
  dsimp only
  split
  · rw [Dev.link_setLink]
  · rw [foldl_keeps fun d : Dev => (d.link t l).fails]
    · rw [Dev.onLink_keeps XLink.fails _ _ _ _ (by intro x; rfl), Dev.link_setLink]
    · exact fun _ _ _ => Dev.onLink_keeps XLink.fails _ _ _ _ (by intro x; rfl) _ _

/-! ### TRAINING_TIMEOUT (R282) -/

section
variable {d : Dev} {s k : Nat}

/-- A timeout counts in DETECT, EQUALIZE and IDENTIFY, and in RETRAIN outside a dip. -/
theorem Dev.trainingTimeout_goes (trains : 1 ≤ d.linkState s k ∧ d.linkState s k ≤ 3 ∨ d.linkState s k = 5 ∧ d.dipping s = false) :
    ¬(decide (d.linkState s k = 0) || decide (d.linkState s k = 4) || decide (d.linkState s k = 6) ||
      (decide (d.linkState s k = 5) && d.dipping s)) = true := by
  rcases trains with ⟨low, high⟩ | ⟨at_, dip⟩
  · have := (by omega : d.linkState s k ≠ 0 ∧ d.linkState s k ≠ 4 ∧ d.linkState s k ≠ 6 ∧ d.linkState s k ≠ 5)
    simp [this]
  · simp [at_, dip]

/-- The first two failures of an attempt start it again. -/
theorem Dev.trainingTimeout_again (trains : 1 ≤ d.linkState s k ∧ d.linkState s k ≤ 3 ∨ d.linkState s k = 5 ∧ d.dipping s = false)
    (few : (d.link s k).fails < 2) :
    (d.trainingTimeout s k).linkState s k = (if d.linkState s k = 5 then 5 else 1) ∧
      ((d.trainingTimeout s k).link s k).fails = (d.link s k).fails + 1 ∧ ((d.trainingTimeout s k).link s k).equalized = false := by
  have small : (if d.linkState s k = 5 then 5 else 1) < 8 := by split <;> decide
  rw [Dev.trainingTimeout, if_neg (Dev.trainingTimeout_goes trains)]
  dsimp only
  rw [if_pos (by omega)]
  refine ⟨Dev.linkState_setLink _ s k small, ?_, ?_⟩
  · rw [Dev.link_setLink, Dev.link_onLink_same]
  · rw [Dev.link_setLink, Dev.link_onLink_same]

/-- The third takes the link DOWN. -/
theorem Dev.trainingTimeout_third (trains : 1 ≤ d.linkState s k ∧ d.linkState s k ≤ 3 ∨ d.linkState s k = 5 ∧ d.dipping s = false)
    (many : 2 ≤ (d.link s k).fails) :
    (d.trainingTimeout s k).linkState s k = 6 ∧ ((d.trainingTimeout s k).link s k).fails = 0 := by
  rw [Dev.trainingTimeout, if_neg (Dev.trainingTimeout_goes trains)]
  dsimp only
  rw [if_neg (by omega), Dev.linkFailed]
  refine ⟨?_, ?_⟩
  · rw [Dev.linkState_reportUnit, Dev.linkState_linkDown]
  · rw [Dev.link_reportUnit, Dev.linkDown_fails, Dev.link_onLink_same]

theorem Dev.trainingTimeout_dip (at_ : d.linkState s k = 5) (dip : d.dipping s = true) : d.trainingTimeout s k = d := by
  rw [Dev.trainingTimeout, if_pos (by simp [at_, dip])]

end

end Sys2Proof.Machine
end

section
/-! Flits and NAKs of a crossing link: what is accepted, what is asked for again, and what is sent again (R283 to R288). -/

namespace Sys2Proof.Machine

/-! ### RETRAIN (R280) -/

section
variable {d : Dev} {s k : Nat}

theorem Dev.linkRetrain_active (at_ : d.linkState s k = 4) (dip : d.dipping s = false) : (d.linkRetrain s k).linkState s k = 5 := by
  rw [Dev.linkRetrain, if_neg (not_not.2 at_), dip, if_neg Bool.false_ne_true]
  exact Dev.linkState_setLink _ s k (by decide)

/-- A link that is not ACTIVE does not retrain. -/
theorem Dev.linkRetrain_other (n : d.linkState s k ≠ 4) : d.linkRetrain s k = d := if_pos n

end

/-- A retraining ends the equalization and leaves the rest of the links. -/
theorem Dev.linkRetrain_keeps {α : Type} (p : XLink → α) (h : ∀ x : XLink, p { x with equalized := false } = p x) (d : Dev) (s k t l : Nat) :
    p ((d.linkRetrain s k).link t l) = p (d.link t l) := by
  unfold Dev.linkRetrain
  split
  · rfl
  · split
    · rw [Dev.link_onWheel]
    · rw [Dev.link_setLink, Dev.onLink_keeps p _ _ _ _ h]

theorem Dev.reg_linkRetrain (d : Dev) (s : Nat) {k : Nat} (hk : k < 8) (t : Nat) {r : Reg} (other : r ≠ .xlLinkStat) {i j : Nat}
    (hi : i < r.place.c1) (hj : j < r.place.c2) : (d.linkRetrain s k).reg t r i j = d.reg t r i j := by
  unfold Dev.linkRetrain
  split
  · rfl
  · split
    · exact Dev.reg_onWheel ..
    · rw [Dev.setLink, Dev.reg_setFld_other _ s t other hi hj hk (by decide), Dev.reg_onLink]

/-! ### NAK (R287) -/

/-- The NAKs in a row with one acknowledgement, this one among them. -/
def XLink.naksWith (x : XLink) (ack : Nat) : Nat := if x.naks ≠ 0 && x.nakAck = ack then x.naks + 1 else 1

/-- The flits that go out again are counted and reported. -/
def Dev.countResent (d : Dev) (s k : Nat) (fs : List Flit) : Dev :=
  if fs.isEmpty then d
  else ((fs.foldl (fun (d : Dev) f => d.linkEvent s k 0x62 (flitBerth f) 1) d).bump s .xlLinkCnt k 0 63 32 fs.length).reportUnit
    s (0xE00 + k) 0 0xFF 0 14 0

/-- A link that has dropped what a NAK acknowledges and counted the NAK and the flits to send again. -/
def Dev.rewound (d : Dev) (s k ack : Nat) : Dev :=
  ((d.onLink s k fun x => x.acked ack).onLink s k fun x => { x with naks := (d.link s k).naksWith ack, nakAck := ack }).countResent s k
    ((d.link s k).acked ack).replay

theorem Dev.nakd_eq (d : Dev) (s k ack : Nat) : d.nakd s k ack = if (d.link s k).naksWith ack < 8 then d.rewound s k ack
    else ((d.rewound s k ack).onLink s k fun x => { x with naks := 0 }).linkRetrain s k := by
  unfold Dev.nakd
  dsimp only
  rw [Dev.link_onLink_same]
  rfl

@[simp] theorem Dev.link_countResent (d : Dev) (s k : Nat) (fs : List Flit) (t l : Nat) : (d.countResent s k fs).link t l = d.link t l := by
  unfold Dev.countResent
  split
  · rfl
  · rw [Dev.link_reportUnit, Dev.link_bump]
    exact foldl_keeps (fun d : Dev => d.link t l) (fun _ _ _ => Dev.link_linkEvent ..) d

theorem Dev.reg_countResent (d : Dev) (s : Nat) {k : Nat} (hk : k < 8) (fs : List Flit) (t : Nat) {r : Reg} (event : r ≠ .pcUncCntLink)
    (count : r ≠ .xlLinkCnt) {i j : Nat} (hi : i < r.place.c1) (hj : j < r.place.c2) :
    (d.countResent s k fs).reg t r i j = d.reg t r i j := by
  unfold Dev.countResent
  split
  · rfl
  · rw [Dev.reg_reportUnit, Dev.bump, Dev.reg_setFld_other _ s t count hi hj hk (by decide)]
    exact foldl_keeps (fun d : Dev => d.reg t r i j) (fun _ _ _ => Dev.reg_linkEvent _ s hk _ _ _ t event hi hj) d

/-- The count of flits sent again saturates. -/
theorem Dev.resent_countResent (d : Dev) (s : Nat) {k : Nat} (hk : k < 8) {fs : List Flit} (some_left : fs ≠ []) :
    (d.countResent s k fs).fld s .xlLinkCnt k 0 63 32 = satAdd 32 (d.fld s .xlLinkCnt k 0 63 32) fs.length := by
  have events : (fs.foldl (fun (d : Dev) f => d.linkEvent s k 0x62 (flitBerth f) 1) d).fld s .xlLinkCnt k 0 63 32 =
      d.fld s .xlLinkCnt k 0 63 32 :=
    foldl_keeps (fun d : Dev => d.fld s .xlLinkCnt k 0 63 32)
      (fun _ _ _ => congrArg (bits · 63 32) (Dev.reg_linkEvent _ s hk _ _ _ s (by decide) hk (by decide))) d
  unfold Dev.countResent
  rw [if_neg (by simpa using some_left), Dev.fld_reportUnit, Dev.bump, events,
    Dev.fld_setFld_same _ s (by decide) (by decide) (satAdd_lt 32 _ _)]

section
variable (d : Dev) (s : Nat) {k : Nat} (hk : k < 8) (ack : Nat)

theorem Dev.replay_nakd : ((d.nakd s k ack).link s k).replay = ((d.link s k).acked ack).replay := by
  have rewound : ((d.rewound s k ack).link s k).replay = ((d.link s k).acked ack).replay := by
    rw [Dev.rewound, Dev.link_countResent, Dev.link_onLink_same, Dev.link_onLink_same]
  rw [Dev.nakd_eq]
  split
  · exact rewound
  · rw [Dev.linkRetrain_keeps XLink.replay (by intro x; rfl), Dev.link_onLink_same, rewound]

include hk

theorem Dev.reg_rewound (t : Nat) {r : Reg} (event : r ≠ .pcUncCntLink) (count : r ≠ .xlLinkCnt) {i j : Nat} (hi : i < r.place.c1)
    (hj : j < r.place.c2) : (d.rewound s k ack).reg t r i j = d.reg t r i j := by
  rw [Dev.rewound, Dev.reg_countResent _ s hk _ t event count hi hj, Dev.reg_onLink, Dev.reg_onLink]

theorem Dev.linkState_rewound : (d.rewound s k ack).linkState s k = d.linkState s k := by
  rw [Dev.linkState, Dev.fld, Dev.reg_rewound d s hk ack s (by decide) (by decide) hk (by decide)]
  rfl

theorem Dev.resent_nakd (some_left : ((d.link s k).acked ack).replay ≠ []) : (d.nakd s k ack).fld s .xlLinkCnt k 0 63 32 =
    satAdd 32 (d.fld s .xlLinkCnt k 0 63 32) ((d.link s k).acked ack).replay.length := by
  have rewound : (d.rewound s k ack).fld s .xlLinkCnt k 0 63 32 =
      satAdd 32 (d.fld s .xlLinkCnt k 0 63 32) ((d.link s k).acked ack).replay.length := by
    rw [Dev.rewound, Dev.resent_countResent _ s hk some_left, Dev.fld_onLink, Dev.fld_onLink]
  rw [Dev.nakd_eq]
  split
  · exact rewound
  · rw [Dev.fld, Dev.reg_linkRetrain _ s hk s (by decide) hk (by decide), Dev.reg_onLink]
    exact rewound

/-- The eighth NAK in a row takes an ACTIVE link to RETRAIN. -/
theorem Dev.nakd_eighth (seven : (d.link s k).naks = 7) (same : (d.link s k).nakAck = ack) (at_ : d.linkState s k = 4)
    (dip : d.dipping s = false) : (d.nakd s k ack).linkState s k = 5 := by
  have eight : (d.link s k).naksWith ack = 8 := by simp [XLink.naksWith, seven, same]
  rw [Dev.nakd_eq, eight, if_neg (by decide)]
  refine Dev.linkRetrain_active ?_ ?_
  · rw [Dev.linkState_onLink, Dev.linkState_rewound d s hk, at_]
  · rw [Dev.dipping, Dev.fld_onLink, Dev.fld, Dev.reg_rewound d s hk ack s (by decide) (by decide) (by decide) (by decide)]
    exact dip

/-- The first NAK, and any NAK on a link that is not ACTIVE, leaves the link in its state. -/
theorem Dev.nakd_state (first : (d.link s k).naks = 0 ∨ d.linkState s k ≠ 4) : (d.nakd s k ack).linkState s k = d.linkState s k := by
  have rewound := Dev.linkState_rewound d s hk ack
  rw [Dev.nakd_eq]
  rcases first with zero | n
  · rw [if_pos (by simp [XLink.naksWith, zero]), rewound]
  · split
    · exact rewound
    · rw [Dev.linkRetrain_other (by rwa [Dev.linkState_onLink, rewound]), Dev.linkState_onLink, rewound]

end

/-! ### What messages leave of a link's receiver -/

/-- The number of the last good flit, and whether a NAK is due. -/
def XLink.receiver (x : XLink) : Nat × Bool := (x.good, x.nakDue)

section
variable (d : Dev) (s k t l : Nat)

theorem Dev.receiver_sendFlit (plane cls : Nat) (slots : List (BitVec 128 × Nat)) :
    ((d.sendFlit s k plane cls slots).2.link t l).receiver = (d.link t l).receiver := by
  have back (x : XLink) : x.creditBack.receiver = x.receiver := by
    unfold XLink.creditBack
    split <;> rfl
  unfold Dev.sendFlit
  dsimp only
  split
  · rfl
  · rw [Dev.onLink_keeps XLink.receiver _ _ _ _ (by intro x; exact back x), Dev.link_linkEvent]

/-- A message that has come over a link goes into the mesh, on over another link, or waits. -/
theorem Dev.receiver_arrive (slots : List (BitVec 128 × Nat)) :
    ((d.arrive s k slots).link t l).receiver = (d.link t l).receiver := by
  have owed (n : Nat) : ((d.onLink s k fun x => x.owe n).link t l).receiver = (d.link t l).receiver :=
    Dev.onLink_keeps XLink.receiver d s k _ (by intro x; rfl) t l
  unfold Dev.arrive
  split
  · rfl
  · dsimp only
    split
    · rw [Dev.onLink_keeps XLink.receiver _ _ _ _ (by intro x; exact ite_keeps XLink.receiver rfl rfl)]
      split
      · rfl
      · exact Dev.receiver_sendFlit ..
    · split
      · exact owed _
      · rw [Dev.link_report]
        exact owed _

theorem Dev.receiver_slot (v : BitVec 128) (mark : Nat) : ((d.slot s k v mark).link t l).receiver = (d.link t l).receiver := by
  unfold Dev.slot
  refine ite_keeps (fun d : Dev => (d.link t l).receiver) rfl (ite_keeps (fun d : Dev => (d.link t l).receiver) ?_ ?_)
  · rw [Dev.receiver_arrive, Dev.onLink_keeps XLink.receiver _ _ _ _ (by intro x; rfl), Dev.link_linkEvent]
  · exact Dev.onLink_keeps XLink.receiver d _ _ _ (by intro x; rfl) _ _

end

/-! ### FLIT (R286, R287) -/

/-- Nothing waits in the receive buffers of a socket's links: nothing goes on. -/
theorem Dev.rxGo_empty {d : Dev} {s : Nat} (empty : ∀ i < 8, (d.link s i).rx = []) : d.rxGo s = d := by
  refine foldl_stays fun k below => ?_
  rw [empty k (List.mem_range.1 below)]

/-- A link that has taken the acknowledgement and the credits of a flit. -/
def Dev.headerRead (d : Dev) (s k : Nat) (f : Flit) : Dev :=
  let d := d.onLink s k fun x => { x.acked (bits f.hdr 53 44) with naks := 0 }
  if bits f.hdr 40 39 = 3 then d
  else d.onLink s k fun x =>
    let key := bits f.hdr 40 39 * 2 + bits f.hdr 38 38
    { x with credits := Tbl.set 0 x.credits key (Tbl.get 0 x.credits key + bits f.hdr 37 32) }

/-- A link takes the messages of a flit whose number is the next, and asks for any other flit again. -/
def Dev.takeFlit (d : Dev) (s k : Nat) (f : Flit) : Dev :=
  if bits f.hdr 63 54 = ((d.link s k).good + 1) % 1024 then
    (List.range 15).foldl (fun (d : Dev) i => d.slot s k (f.slots.extractLsb' (128 * i) 128) (bits f.hdr (2 * i + 1) (2 * i)))
      (d.onLink s k fun x => { x with good := bits f.hdr 63 54, nakDue := false })
  else d.onLink s k fun x => { x with nakDue := true }

/-- What acknowledgements and credits do not change of a link, the header of a flit does not change. -/
theorem Dev.headerRead_keeps {α : Type} (p : XLink → α) (acked : ∀ (x : XLink) a, p { x.acked a with naks := 0 } = p x)
    (credited : ∀ (x : XLink) c, p { x with credits := c } = p x) (d : Dev) (s k : Nat) (f : Flit) (t l : Nat) :
    p ((d.headerRead s k f).link t l) = p (d.link t l) := by
  have first := Dev.onLink_keeps p d s k _ (fun x => acked x (bits f.hdr 53 44)) t l
  refine ite_keeps (fun d : Dev => p (d.link t l)) first ?_
  rw [Dev.onLink_keeps p _ s k _ (fun x => credited x _), first]

theorem Dev.headerRead_net (d : Dev) (s k : Nat) (f : Flit) : (d.headerRead s k f).net = d.net :=
  ite_keeps Dev.net rfl rfl

theorem Dev.good_headerRead {d : Dev} {s k : Nat} {f : Flit} : ((d.headerRead s k f).link s k).good = (d.link s k).good :=
  Dev.headerRead_keeps XLink.good (by intro x a; rfl) (by intro x c; rfl) d s k f s k

section
variable {d : Dev} {s k : Nat} {f : Flit} (at_ : d.linkState s k = 4)
include at_

theorem Dev.flit_badCrc (bad : f.crc ≠ word (crc64Of (flitBody f))) : d.flit s k f =
    (d.bump s .xlLinkCnt k 0 31 0 1).onLink s k fun x => { x with nakDue := true } := by
  rw [Dev.flit, if_neg (not_not.2 at_), if_pos bad]

/-- A good flit that brings no NAK is taken where nothing waits to go on. -/
theorem Dev.flit_good (good : f.crc = word (crc64Of (flitBody f))) (payload : bits f.hdr 42 41 = 0)
    (empty : ∀ i < 8, (d.link s i).rx = []) (ack : bit f.hdr 43 = false) : d.flit s k f = (d.headerRead s k f).takeFlit s k f := by
  have rest : (d.headerRead s k f).rxGo s = d.headerRead s k f :=
    Dev.rxGo_empty fun i below =>
      (Dev.headerRead_keeps XLink.rx (by intro x a; rfl) (by intro x c; rfl) d s k f s i).trans (empty i below)
  have read : d.flit s k f = ((d.headerRead s k f).rxGo s).takeFlit s k f := by
    rw [Dev.flit, if_neg (not_not.2 at_), if_neg (not_not.2 good), ack, payload]
    rfl
  rw [read, rest]

/-- The next flit in order is the last good one from then on. -/
theorem Dev.flit_next (good : f.crc = word (crc64Of (flitBody f))) (payload : bits f.hdr 42 41 = 0)
    (empty : ∀ i < 8, (d.link s i).rx = []) (ack : bit f.hdr 43 = false) (next : bits f.hdr 63 54 = ((d.link s k).good + 1) % 1024) :
    ((d.flit s k f).link s k).good = bits f.hdr 63 54 ∧ ((d.flit s k f).link s k).nakDue = false := by
  have received : ((d.flit s k f).link s k).receiver = (bits f.hdr 63 54, false) := by
    rw [Dev.flit_good at_ good payload empty ack, Dev.takeFlit, Dev.good_headerRead, if_pos next,
      foldl_keeps (fun d : Dev => (d.link s k).receiver) fun _ _ _ => Dev.receiver_slot .., Dev.link_onLink_same]
    rfl
  exact Prod.mk.injEq .. ▸ received

/-- Any other flit is asked for again, and its messages are not taken. -/
theorem Dev.flit_other (good : f.crc = word (crc64Of (flitBody f))) (payload : bits f.hdr 42 41 = 0)
    (empty : ∀ i < 8, (d.link s i).rx = []) (ack : bit f.hdr 43 = false) (other : bits f.hdr 63 54 ≠ ((d.link s k).good + 1) % 1024) :
    ((d.flit s k f).link s k).good = (d.link s k).good ∧ ((d.flit s k f).link s k).nakDue = true ∧ (d.flit s k f).net = d.net := by
  rw [Dev.flit_good at_ good payload empty ack, Dev.takeFlit, Dev.good_headerRead, if_neg other, Dev.link_onLink_same]
  exact ⟨Dev.good_headerRead, rfl, Dev.headerRead_net d s k f⟩

end

end Sys2Proof.Machine
end

section
/-! Lane checks of a crossing link, and the statement on the events of crossing links (R280 to R290). -/

namespace Sys2Proof.Machine

/-! ### Failed lanes (R290) -/

/-- Data lanes that fail are marked in XL_LINK_STAT and reported. -/
def Dev.failLanes (d : Dev) (s k : Nat) (ls : List Nat) : Dev :=
  ls.foldl (fun d l =>
    (d.setReg s .xlLinkStat k 0 (putBit (d.reg s .xlLinkStat k 0) l true)).reportUnit s (0xE00 + k) 0 l 0 14 0) d

section
variable (d : Dev) (s k : Nat) (ls : List Nat)

theorem Dev.link_failLanes (t l : Nat) : (d.failLanes s k ls).link t l = d.link t l :=
  foldl_keeps (fun d : Dev => d.link t l) (fun d _ _ => by rw [Dev.link_reportUnit, Dev.link_setReg]) d

variable {ls} (data : ∀ l ∈ ls, l < 16)
include data

/-- The bits of the failed lanes are set, and the others are as they were. -/
theorem Dev.bit_failLanes {i : Nat} (inside : i < 64) :
    bit ((d.failLanes s k ls).reg s .xlLinkStat k 0) i = (ls.contains i || bit (d.reg s .xlLinkStat k 0) i) := by
  unfold Dev.failLanes
  induction ls generalizing d with
  | nil => rfl
  | cons l r ih =>
    rw [List.foldl_cons, ih _ fun x m => data x (List.mem_cons_of_mem _ m), Dev.reg_reportUnit, Dev.reg_setReg_same, List.contains_cons]
    by_cases same : i = l
    · subst same
      rw [putBit, bit_putBits_same _ inside]
      simp
    · rw [putBit, bit_putBits_apart _ _ (Nat.le_refl l) inside (by omega), beq_eq_false_iff_ne.2 same, Bool.false_or]

/-- The other fields of XL_LINK_STAT stay. -/
theorem Dev.stat_failLanes {top bottom : Nat} (inside : top < 64) (above : 16 ≤ bottom) :
    (d.failLanes s k ls).fld s .xlLinkStat k 0 top bottom = d.fld s .xlLinkStat k 0 top bottom :=
  foldl_keeps (fun d : Dev => d.fld s .xlLinkStat k 0 top bottom) (fun d l m => by
    have := data l m
    rw [Dev.fld_reportUnit, Dev.fld, Dev.reg_setReg_same, putBit,
      bits_putBits_apart _ _ (Nat.le_refl l) inside (.inl (by omega)), Dev.fld]) d

end

/-! ### Widths -/

/-- A width whose lanes failed but for one, and the lane that the spare carries. -/
def laneFit (failed : List Nat) (spareBad : Bool) (width : Nat) : Option (Nat × Nat) :=
  match (lanesOf width).filter failed.contains with
  | [] => some (width, 0x1F)
  | [l] => if spareBad then none else some (width, l)
  | _ => none

theorem laneMap_eq (failed : List Nat) (spareBad : Bool) :
    laneMap failed spareBad = (laneFit failed spareBad 0 <|> laneFit failed spareBad 1 <|> laneFit failed spareBad 2) := rfl

/-- Two failed lanes of a width leave no lane to carry the second. -/
theorem laneFit_none {failed : List Nat} {spareBad : Bool} {width a b : Nat} (two : a ≠ b) (ha : a ∈ lanesOf width) (hb : b ∈ lanesOf width)
    (fa : a ∈ failed) (fb : b ∈ failed) : laneFit failed spareBad width = none := by
  have ma : a ∈ (lanesOf width).filter failed.contains := List.mem_filter.2 ⟨ha, by simpa using fa⟩
  have mb : b ∈ (lanesOf width).filter failed.contains := List.mem_filter.2 ⟨hb, by simpa using fb⟩
  unfold laneFit
  match (lanesOf width).filter failed.contains, ma, mb with
  | [x], ma, mb => exact absurd ((List.mem_singleton.1 ma).trans (List.mem_singleton.1 mb).symm) two
  | _ :: _ :: _, _, _ => rfl

/-- Two failed lanes in each half leave no width. -/
theorem laneMap_none {failed : List Nat} (spareBad : Bool) (two : ∀ l ∈ [0, 1, 8, 9], l ∈ failed) : laneMap failed spareBad = none := by
  have low (width : Nat) (h0 : 0 ∈ lanesOf width) (h1 : 1 ∈ lanesOf width) : laneFit failed spareBad width = none :=
    laneFit_none (by decide) h0 h1 (two 0 (by decide)) (two 1 (by decide))
  have high : laneFit failed spareBad 2 = none :=
    laneFit_none (a := 8) (b := 9) (by decide) (by decide) (by decide) (two 8 (by decide)) (two 9 (by decide))
  rw [laneMap_eq, low 0 (by decide) (by decide), low 1 (by decide) (by decide), high]
  rfl

/-- One failed lane is carried by the spare at the full width. -/
theorem laneMap_one : ∀ l < 16, laneMap [l] false = some (0, l) := by decide

/-! ### LANE_CHECK (R290) -/

/-- The data lanes that a check finds failed for the first time. -/
def freshLanes (stat : Word) (failed : BitVec 17) : List Nat := (List.range 16).filter fun l => failed.getLsbD l && !bit stat l

theorem freshLanes_lt {stat : Word} {failed : BitVec 17} : ∀ l ∈ freshLanes stat failed, l < 16 :=
  fun _ m => List.mem_range.1 (List.mem_filter.1 m).1

/-- Where no data lane has failed before, each that fails is new. -/
theorem bit_of_noneFailed {stat : Word} (clean : bits stat 15 0 = 0) {l : Nat} (data : l < 16) : bit stat l = false := by
  have zero := testBit_bits stat 15 0 l
  rw [clean, Nat.zero_testBit, decide_eq_true (by omega), Bool.true_and, Nat.zero_add] at zero
  exact zero.symm

theorem mem_freshLanes {stat : Word} (clean : bits stat 15 0 = 0) {failed : BitVec 17} {l : Nat} (data : l < 16)
    (fails : failed.getLsbD l = true) : l ∈ freshLanes stat failed :=
  List.mem_filter.2 ⟨List.mem_range.2 data, by rw [fails, bit_of_noneFailed clean data]; rfl⟩

/-- One data lane fails. -/
theorem freshLanes_one {stat : Word} (clean : bits stat 15 0 = 0) {failed : BitVec 17} {l : Nat} (data : l < 16)
    (one : ∀ i < 17, failed.getLsbD i = decide (i = l)) : freshLanes stat failed = [l] := by
  have single : ∀ l < 16, ((List.range 16).filter fun i => decide (i = l)) = [l] := by decide
  rw [← single l data]
  refine List.filter_congr fun i m => ?_
  have below := List.mem_range.1 m
  rw [one i (by omega), bit_of_noneFailed clean below]
  simp

/-- Lane 16 is found failed for the first time. -/
def Dev.spareFails (d : Dev) (s k : Nat) (failed : BitVec 17) : Bool := failed.getLsbD 16 && !(d.link s k).spareBad

/-- A link whose failed lanes are marked and reported. -/
def Dev.laneMarked (d : Dev) (s k : Nat) (failed : BitVec 17) : Dev :=
  let e := d.failLanes s k (freshLanes (d.reg s .xlLinkStat k 0) failed)
  if d.spareFails s k failed then (e.onLink s k fun x => { x with spareBad := true }).reportUnit s (0xE00 + k) 0 16 0 14 0 else e

/-- A link that ran at a width goes on at the width that its failed lanes leave, or goes DOWN. -/
def Dev.remapLanes (d : Dev) (s k was : Nat) : Dev :=
  let all := (List.range 16).filter fun l => bit (d.reg s .xlLinkStat k 0) l
  match laneMap all (d.link s k).spareBad with
  | none => d.linkDown s k
  | some (width, lane) =>
    let keep := if was = 0 then width else if width = 0 then was else width
    let lane := if keep = width then lane else ((lanesOf keep).filter all.contains).headD 0x1F
    let d := (d.setFld s .xlLinkStat k 0 31 30 keep).setFld s .xlLinkStat k 0 20 16 lane
    if keep = was then d else d.linkRetrain s k

section
variable {d : Dev} {s k : Nat} {failed : BitVec 17} (at_ : d.linkState s k = 4)

include at_ in
theorem Dev.laneCheck_eq : d.laneCheck s k failed =
    if (freshLanes (d.reg s .xlLinkStat k 0) failed).isEmpty && !d.spareFails s k failed then d.laneMarked s k failed
    else (d.laneMarked s k failed).remapLanes s k (bits (d.reg s .xlLinkStat k 0) 31 30) := by
  rw [Dev.laneCheck, if_neg (not_not.2 at_)]
  rfl

include at_ in
/-- A check that finds no lane failed changes nothing. -/
theorem Dev.laneCheck_none : d.laneCheck s k 0 = d := by
  have fresh : freshLanes (d.reg s .xlLinkStat k 0) 0 = [] := List.filter_eq_nil_iff.2 fun l _ => by simp
  have spare : d.spareFails s k 0 = false := by simp [Dev.spareFails]
  rw [Dev.laneCheck_eq at_, Dev.laneMarked, fresh, spare]
  rfl

/-- The marks of the lanes that fail for the first time, and the other fields of XL_LINK_STAT. -/
theorem Dev.bit_laneMarked {l : Nat} (inside : l < 64) : bit ((d.laneMarked s k failed).reg s .xlLinkStat k 0) l =
    ((freshLanes (d.reg s .xlLinkStat k 0) failed).contains l || bit (d.reg s .xlLinkStat k 0) l) := by
  have marked := Dev.bit_failLanes d s k (freshLanes_lt (stat := d.reg s .xlLinkStat k 0) (failed := failed)) inside
  refine ite_keeps (fun d : Dev => bit (d.reg s .xlLinkStat k 0) l) ?_ marked
  rw [Dev.reg_reportUnit, Dev.reg_onLink, marked]

theorem Dev.linkState_laneMarked : (d.laneMarked s k failed).linkState s k = d.linkState s k := by
  have marked := Dev.stat_failLanes d s k (freshLanes_lt (stat := d.reg s .xlLinkStat k 0) (failed := failed)) (top := 34) (bottom := 32)
    (by decide) (by decide)
  refine ite_keeps (fun d : Dev => d.linkState s k) ?_ marked
  rw [Dev.linkState_reportUnit, Dev.linkState_onLink]
  exact marked

section
variable (clean : bits (d.reg s .xlLinkStat k 0) 15 0 = 0)
include at_ clean

/-- One data lane that fails at the full width moves to the spare. -/
theorem Dev.laneCheck_one (full : bits (d.reg s .xlLinkStat k 0) 31 30 = 0) (spare : (d.link s k).spareBad = false) {l : Nat} (data : l < 16)
    (one : ∀ i < 17, failed.getLsbD i = decide (i = l)) :
    (d.laneCheck s k failed).linkState s k = 4 ∧ (d.laneCheck s k failed).fld s .xlLinkStat k 0 20 16 = l ∧
      (d.laneCheck s k failed).fld s .xlLinkStat k 0 31 30 = 0 ∧ bit ((d.laneCheck s k failed).reg s .xlLinkStat k 0) l = true := by
  have fresh := freshLanes_one clean data one
  have noSpare : d.spareFails s k failed = false := by
    rw [Dev.spareFails, one 16 (by decide), decide_eq_false (by omega), Bool.false_and]
  have marks : ((List.range 16).filter fun i => bit ((d.laneMarked s k failed).reg s .xlLinkStat k 0) i) = [l] := by
    rw [← fresh]
    refine List.filter_congr fun i m => ?_
    have below := List.mem_range.1 m
    rw [Dev.bit_laneMarked (by omega), fresh, bit_of_noneFailed clean below, one i (by omega)]
    simp
  have kept : ((d.laneMarked s k failed).link s k).spareBad = false := by
    rw [Dev.laneMarked, noSpare, if_neg Bool.false_ne_true, Dev.link_failLanes, spare]
  have checked : d.laneCheck s k failed =
      ((d.laneMarked s k failed).setFld s .xlLinkStat k 0 31 30 0).setFld s .xlLinkStat k 0 20 16 l := by
    rw [Dev.laneCheck_eq at_, fresh, full, Dev.remapLanes, marks, kept, laneMap_one l data]
    rfl
  have wide := Dev.fld_setFld_same (d.laneMarked s k failed) s (r := .xlLinkStat) (i := k) (j := 0) (top := 31) (bottom := 30) (v := 0)
    (by decide) (by decide) (by decide)
  rw [checked]
  refine ⟨?_, Dev.fld_setFld_same _ s (by decide) (by decide) (by omega), ?_, ?_⟩
  · rw [Dev.linkState, Dev.fld_setFld_apart _ _ _ (by decide) (by decide) (.inl (by decide)),
      Dev.fld_setFld_apart _ _ _ (by decide) (by decide) (.inl (by decide))]
    exact Dev.linkState_laneMarked.trans at_
  · rw [Dev.fld_setFld_apart _ _ _ (by decide) (by decide) (.inl (by decide)), wide]
  · rw [Dev.reg_setFld_same, bit_putBits_apart _ _ (by decide) (by omega) (.inr data), Dev.reg_setFld_same,
      bit_putBits_apart _ _ (by decide) (by omega) (.inr (by omega)), Dev.bit_laneMarked (by omega), fresh]
    simp

/-- Two lanes that fail in each half take the link DOWN. -/
theorem Dev.laneCheck_down (two : ∀ l ∈ [0, 1, 8, 9], failed.getLsbD l = true) : (d.laneCheck s k failed).linkState s k = 6 := by
  have fresh (l : Nat) (m : l ∈ [0, 1, 8, 9]) : l ∈ freshLanes (d.reg s .xlLinkStat k 0) failed :=
    mem_freshLanes clean ((by decide : ∀ l ∈ [0, 1, 8, 9], l < 16) l m) (two l m)
  have some_fresh : ¬((freshLanes (d.reg s .xlLinkStat k 0) failed).isEmpty && !d.spareFails s k failed) = true := by
    have := List.ne_nil_of_mem (fresh 0 (by decide))
    simp [this]
  have marks (l : Nat) (m : l ∈ [0, 1, 8, 9]) :
      l ∈ (List.range 16).filter fun i => bit ((d.laneMarked s k failed).reg s .xlLinkStat k 0) i := by
    have data := (by decide : ∀ l ∈ [0, 1, 8, 9], l < 16) l m
    refine List.mem_filter.2 ⟨List.mem_range.2 data, ?_⟩
    rw [Dev.bit_laneMarked (by omega), List.contains_iff_mem.2 (fresh l m), Bool.true_or]
  rw [Dev.laneCheck_eq at_, if_neg some_fresh, Dev.remapLanes, laneMap_none _ marks]
  exact Dev.linkState_linkDown _ s k

end
end

/-! ### The statement on crossing links -/

/-- Settles O49: each event of a link is what its state, the lanes, the partner or the flit bring it to. -/
theorem linkEvents : Obligations.LinkEvents := by
  intro s sk k lanes peer pl ack l f
  dsimp only
  refine ⟨fun at_ => ⟨fun all => ?_, fun rest => ?_⟩, fun reached => ⟨fun at_ => ?_, fun at_ dip => ?_, fun at_ dip => ?_⟩,
    fun _ used own missed => ?_, fun ready => ⟨fun right => ?_, fun wrong => ?_⟩, fun low high => ?_, fun at_ dip => ?_,
    fun at_ dip few => ?_, fun at_ => ⟨fun bad => ?_, fun good payload empty noNak => ?_⟩, ?_,
    fun at_ => ⟨?_, fun clean full spare one => ?_, fun clean h0 h1 h8 h9 => ?_⟩⟩
  · rw [all]
    exact State.next_withDev (Dev.linkDetect_all at_)
  · exact ⟨_, State.next_withDev rfl, Dev.linkDetect_one at_ l.isLt rest⟩
  · exact State.next_withDev ((Dev.linkEqualize_reached (.inl at_) reached).trans (if_pos at_))
  · exact State.next_withDev ((Dev.linkEqualize_reached (.inr ⟨at_, dip⟩) reached).trans (if_neg (by omega)))
  · exact State.next_withDev (d := s.dev) (Dev.linkEqualize_dip at_ dip)
  · exact State.next_withDev (d := s.dev) (Dev.linkEqualize_missed used own missed)
  · exact ⟨_, State.next_withDev rfl, Dev.linkIdentify_right ready right peer.isLt⟩
  · exact State.next_withDev (Dev.linkIdentify_wrong ready wrong)
  · refine ⟨_, State.next_withDev rfl, fun few => ?_, Dev.trainingTimeout_third (.inl ⟨low, high⟩)⟩
    obtain ⟨state, fails, -⟩ := Dev.trainingTimeout_again (.inl ⟨low, high⟩) few
    exact ⟨state.trans (if_neg (by omega)), fails⟩
  · exact State.next_withDev (d := s.dev) (Dev.trainingTimeout_dip at_ dip)
  · obtain ⟨state, again⟩ := Dev.trainingTimeout_again (.inr ⟨at_, dip⟩) few
    exact ⟨_, State.next_withDev rfl, state.trans (if_pos at_), again⟩
  · exact State.next_ended (Dev.flit_badCrc at_ bad)
  · exact ⟨_, State.next_ended rfl, Dev.flit_next at_ good payload empty noNak, Dev.flit_other at_ good payload empty noNak⟩
  · exact ⟨_, State.next_withDev rfl, Dev.replay_nakd s.dev sk.val ack.toNat, Dev.resent_nakd s.dev sk.val k.isLt ack.toNat,
      Dev.nakd_eighth s.dev sk.val k.isLt ack.toNat, Dev.nakd_state s.dev sk.val k.isLt ack.toNat⟩
  · exact State.next_withDev (d := s.dev) (Dev.laneCheck_none at_)
  · exact ⟨_, State.next_withDev rfl, Dev.laneCheck_one at_ clean full spare l.isLt one⟩
  · exact ⟨_, State.next_withDev rfl, Dev.laneCheck_down at_ clean (by simp [h0, h1, h8, h9])⟩

end Sys2Proof.Machine
end

section
/-! The route switch, heartbeats, the time base and the stop message: what each leaves of the sockets it reaches (R292 to R294, R300, R302,
R384). -/

namespace Sys2Proof.Machine

/-! ### Loops over sockets -/

/-- What one pass of a loop brings about and the others keep holds at the end. -/
theorem foldl_reaches {α β : Type} {p : β → Prop} {f : β → α → β} {l : List α} {y : α} (listed : y ∈ l) (set : ∀ x, p (f x y))
    (keep : ∀ x, ∀ z ∈ l, p x → p (f x z)) (x : β) : p (l.foldl f x) := by
  have kept (r : List α) (within : ∀ z ∈ r, z ∈ l) (x : β) (holds : p x) : p (r.foldl f x) := by
    induction r generalizing x with
    | nil => exact holds
    | cons z r ih =>
      exact ih (fun w m => within w (List.mem_cons_of_mem _ m)) _ (keep x z (within z (List.mem_cons_self ..)) holds)
  obtain ⟨before, after, rfl⟩ := List.append_of_mem listed
  rw [List.foldl_append, List.foldl_cons]
  exact kept after (fun z m => List.mem_append_right _ (List.mem_cons_of_mem _ m)) _ (set _)

theorem Dev.wheel_onWheel_ne (d : Dev) {s t : Nat} (f : Wheel → Wheel) (n : t ≠ s) : (d.onWheel s f).wheel t = d.wheel t :=
  congrArg Socket.wheel (d.sock_onSock_ne _ n)

@[simp] theorem Dev.wheel_onLink (d : Dev) (s k : Nat) (f : XLink → XLink) (t : Nat) : (d.onLink s k f).wheel t = d.wheel t := by
  unfold Dev.onLink
  exact Dev.onSock_keeps Socket.wheel d s _ (by intro k; rfl) t

/-! ### Route tables (R292, R293) -/

/-- A socket has one table. -/
theorem Dev.routeTables_inj {d : Dev} {ps : List Nat} {x y : Nat × Tbl Word} (hx : x ∈ d.routeTables ps) (hy : y ∈ d.routeTables ps)
    (same : x.1 = y.1) : x.2 = y.2 := by
  obtain ⟨a, -, rfl⟩ := List.mem_map.1 hx
  obtain ⟨b, -, rfl⟩ := List.mem_map.1 hy
  cases (same : a = b)
  rfl

/-- An installed table is read in XL_ROUTE. -/
theorem Dev.reg_installRoutes (d : Dev) (s : Nat) (tbl : Tbl Word) {t : Nat} (below : t < 16) :
    (d.installRoutes s tbl).reg s .xlRoute t 0 = Tbl.get 0 tbl t := by
  refine foldl_reaches (p := fun d : Dev => d.reg s .xlRoute t 0 = Tbl.get 0 tbl t) (List.mem_range.2 below)
    (fun d => Dev.reg_setReg_same ..) (fun d u _ holds => ?_) d
  by_cases same : u = t
  · subst same
    exact Dev.reg_setReg_same ..
  · refine (Dev.reg_setReg_ne d _ (.inr (.inr ?_))).trans holds
    simp only [Reg.at, Reg.place]
    omega

@[simp] theorem Dev.link_installRoutes (d : Dev) (s : Nat) (tbl : Tbl Word) (t l : Nat) : (d.installRoutes s tbl).link t l = d.link t l :=
  foldl_keeps (fun d : Dev => d.link t l) (fun _ _ _ => Dev.link_setReg ..) d

/-! ### ROUTE_SWITCH (R294) -/

theorem Dev.routeSwitch_none {d : Dev} (none_manages : ∀ m < 16, d.isManager m = false) (at_ : Word) : d.routeSwitch at_ = d := by
  have unfound : sockets.find? (fun m => d.isManager m && d.awake m) = none :=
    List.find?_eq_none.2 fun m listed => by simp [none_manages m (List.mem_range.1 listed)]
  rw [Dev.routeSwitch, unfound]

section
variable {d : Dev} {m : Nat} (found : sockets.find? (fun m => d.isManager m && d.awake m) = some m) (at_ : Word)
include found

/-- Every present socket has its table and the switch time. -/
theorem Dev.routes_routeSwitch {p : Nat} {tbl : Tbl Word} (listed : (p, tbl) ∈ d.routeTables (d.members m)) :
    ((d.routeSwitch at_).wheel p).routes = some (if at_.toNat < d.now.toNat + 20000 then d.now + 20000 else at_, tbl) := by
  rw [Dev.routeSwitch, found]
  refine foldl_reaches (p := fun e : Dev => (e.wheel p).routes =
    some (if at_.toNat < d.now.toNat + 20000 then d.now + 20000 else at_, tbl)) listed (fun e => ?_) (fun e x mx holds => ?_) d
  · rw [Dev.wheel_onWheel_same]
  · by_cases same : x.1 = p
    · subst same
      rw [Dev.wheel_onWheel_same, Dev.routeTables_inj mx listed rfl]
    · rw [Dev.wheel_onWheel_ne _ _ (Ne.symm same), holds]

/-- Nothing is installed yet. -/
theorem Dev.reg_routeSwitch (t : Nat) (r : Reg) (i j : Nat) : (d.routeSwitch at_).reg t r i j = d.reg t r i j := by
  rw [Dev.routeSwitch, found]
  exact foldl_keeps (fun d : Dev => d.reg t r i j) (fun _ _ _ => Dev.reg_onWheel ..) d

end

/-! ### SWITCH_TIME (R294) -/

/-- The links of a socket hold their sends, or send again. -/
def Dev.holdLinks (d : Dev) (s : Nat) (v : Bool) : Dev := d.each (List.range 8) fun d k => d.onLink s k fun x => { x with hold := v }

section
variable (d : Dev) (s : Nat) (v : Bool)

theorem Dev.hold_holdLinks {k : Nat} (below : k < 8) : ((d.holdLinks s v).link s k).hold = v := by
  refine foldl_reaches (p := fun d : Dev => (d.link s k).hold = v) (List.mem_range.2 below) (fun d => ?_) (fun d l _ holds => ?_) d
  · rw [Dev.link_onLink_same]
  · by_cases same : k = l
    · subst same
      rw [Dev.link_onLink_same]
    · rw [Dev.link_onLink_ne d _ (.inr same), holds]

/-- What does not hold sends stays. -/
theorem Dev.holdLinks_keeps {α : Type} (p : XLink → α) (h : ∀ x : XLink, p { x with hold := v } = p x) (t l : Nat) :
    p ((d.holdLinks s v).link t l) = p (d.link t l) :=
  foldl_keeps (fun d : Dev => p (d.link t l)) (fun d k _ => Dev.onLink_keeps p d s k _ h t l) d

@[simp] theorem Dev.wheel_holdLinks (t : Nat) : (d.holdLinks s v).wheel t = d.wheel t :=
  foldl_keeps (fun d : Dev => d.wheel t) (fun _ _ _ => Dev.wheel_onLink ..) d

@[simp] theorem Dev.reg_holdLinks (t : Nat) (r : Reg) (i j : Nat) : (d.holdLinks s v).reg t r i j = d.reg t r i j :=
  foldl_keeps (fun d : Dev => d.reg t r i j) (fun _ _ _ => Dev.reg_onLink ..) d

end

section
variable {d : Dev} {s : Nat} {time : Word} {tbl : Tbl Word} (due : (d.wheel s).routes = some (time, tbl))
include due

/-- With nothing unacknowledged and nothing waiting, the table is installed and the links send again. -/
theorem Dev.switchTime_idle (idle : ∀ k < 8, (d.link s k).replay = [] ∧ (d.link s k).rx = []) : d.switchTime s =
    ((d.installRoutes s tbl).onWheel s fun w => { w with routes := none }).holdLinks s false := by
  have sent : ¬((List.range 8).any fun k => !d.stranded s k && !(d.link s k).replay.isEmpty) = true := fun some_left => by
    obtain ⟨k, below, left⟩ := List.any_eq_true.1 some_left
    rw [(idle k (List.mem_range.1 below)).1] at left
    simp at left
  have switched (e : Dev) (part : ∀ k < 8, (e.link s k).replay = [] ∧ (e.link s k).rx = []) :
      (e.each ((List.range 8).filter fun k => e.stranded s k && !(e.link s k).replay.isEmpty) fun d k => d.resendStranded s k).rxGo s = e := by
    have none_left : ((List.range 8).filter fun k => e.stranded s k && !(e.link s k).replay.isEmpty) = [] :=
      List.filter_eq_nil_iff.2 fun k below => by simp [(part k (List.mem_range.1 below)).1]
    rw [none_left]
    exact Dev.rxGo_empty fun k below => (part k below).2
  have part (k : Nat) (below : k < 8) :
      ((((d.installRoutes s tbl).onWheel s fun w => { w with routes := none }).holdLinks s false).link s k).replay = [] ∧
      ((((d.installRoutes s tbl).onWheel s fun w => { w with routes := none }).holdLinks s false).link s k).rx = [] := by
    rw [Dev.holdLinks_keeps _ s false XLink.replay (by intro x; rfl), Dev.holdLinks_keeps _ s false XLink.rx (by intro x; rfl),
      Dev.link_onWheel, Dev.link_installRoutes]
    exact idle k below
  rw [Dev.switchTime, due]
  dsimp only
  rw [if_neg sent]
  exact switched _ part

/-- While a link that is up has an unacknowledged flit, the socket only holds its sends. -/
theorem Dev.switchTime_busy {k : Nat} (below : k < 8) (left : (d.link s k).replay ≠ []) (up : d.stranded s k = false) :
    d.switchTime s = d.holdLinks s true := by
  have some_left : ((List.range 8).any fun k => !d.stranded s k && !(d.link s k).replay.isEmpty) = true :=
    List.any_eq_true.2 ⟨k, List.mem_range.2 below, by simpa [up] using left⟩
  rw [Dev.switchTime, due]
  exact if_pos some_left

end

/-! ### HEARTBEAT (R300) -/

/-- A heartbeat is heard by the awake sockets that its sender sees present. -/
def Dev.beat (d : Dev) (s : Nat) : Dev :=
  d.each ((d.members s).filter fun t => t ≠ s && d.awake t) fun d t => d.onWheel t fun w =>
    { w with heard := Tbl.put w.heard s d.now
             unreached := w.unreached && d.fld t .whSystem 0 0 47 44 ≠ s }

theorem Dev.reg_beat (d : Dev) (s t : Nat) (r : Reg) (i j : Nat) : (d.beat s).reg t r i j = d.reg t r i j :=
  foldl_keeps (fun d : Dev => d.reg t r i j) (fun _ _ _ => Dev.reg_onWheel ..) d

/-- Only a former manager is demoted by its heartbeat. -/
theorem Dev.heartbeat_worker {d : Dev} {s : Nat} (present : d.present s s = true) (awake : d.awake s = true)
    (worker : d.isManager s = false) : d.heartbeat s = d.beat s := by
  have still : (d.beat s).isManager s = false := by
    have regs := d.reg_beat s s .whSystem 0 0
    simp only [Dev.isManager, Dev.present, Dev.presentMask, Dev.fld, regs] at worker ⊢
    exact worker
  have goes : ¬(!d.present s s || !d.awake s) = true := by simp [present, awake]
  rw [Dev.heartbeat, if_neg goes]
  change (match _ with | some m => if (d.beat s).isManager s then (d.beat s).demote s m else d.beat s | none => d.beat s) = _
  rw [still]
  split <;> rfl

theorem Dev.heard_beat {d : Dev} {s t : Nat} (member : t ∈ d.members s) (other : t ≠ s) (awake : d.awake t = true) :
    Tbl.find ((d.beat s).wheel t).heard s = some d.now := by
  have listed : t ∈ (d.members s).filter fun t => t ≠ s && d.awake t := List.mem_filter.2 ⟨member, by simp [other, awake]⟩
  have now : (d.beat s).now = d.now := by
    refine foldl_keeps Dev.now (fun _ _ _ => ?_) d
    rfl
  rw [← now]
  refine foldl_reaches (p := fun d : Dev => Tbl.find (d.wheel t).heard s = some d.now) listed (fun d => ?_) (fun d u _ holds => ?_) d
  · rw [Dev.wheel_onWheel_same]
    exact Tbl.find_put_same ..
  · by_cases same : t = u
    · subst same
      rw [Dev.wheel_onWheel_same]
      exact Tbl.find_put_same ..
    · rw [Dev.wheel_onWheel_ne d _ same]
      exact holds

/-! ### TIME_SYNC (R302) -/

theorem Dev.timeSync_parent {d : Dev} {s m p : Nat} (manager : d.managerOf s = some m) (other : s ≠ m)
    (locked : d.fld s .xlTime 0 0 63 63 = 1) (awake : d.awake s = true) (parent : d.timeParent s m = some p) (offset : BitVec 8) :
    d.timeSync s offset = (d.setFld s .xlTime 0 0 51 48 p).setFld s .xlTime 0 0 7 0 offset.toNat := by
  have goes : ¬(decide (s = m) || decide (d.fld s .xlTime 0 0 63 63 = 0) || !d.awake s) = true := by simp [other, locked, awake]
  rw [Dev.timeSync, manager]
  dsimp only
  rw [if_neg goes, parent]

/-! ### STOP_MESSAGE (R384) -/

/-- A change of a table's entries that keeps the keys changes the entry that is read, where one is listed. -/
theorem Tbl.get_map_keys {α : Type} {d : α} {f : Nat × α → Nat × α} (keys : ∀ e, (f e).1 = e.1) {t : Tbl α} {k : Nat}
    (listed : Tbl.get d t k ≠ d) : Tbl.get d (t.map f) k = (f (k, Tbl.get d t k)).2 := by
  induction t with
  | nil => exact absurd rfl listed
  | cons e r ih =>
    have first (x : Nat × α) (l : Tbl α) : Tbl.get d (x :: l) k = if x.1 = k then x.2 else Tbl.get d l k := rfl
    rw [first] at listed
    rw [List.map_cons, first, first, keys]
    by_cases same : e.1 = k
    · rw [if_pos same, if_pos same, ← same]
    · rw [if_neg same] at listed
      rw [if_neg same, if_neg same, ih listed]

/-- A server core that runs stops with its socket. -/
theorem Dev.run_stopCores {d : Dev} {s : Nat} {h : Hart} (here : h.sock.val = s) (server : isServer h = true)
    (runs : (d.core h).run = .running) : ((d.stopCores s fun _ => true).core h).run = .stopped := by
  subst here
  have below : h.core.val < 208 := by simpa [isServer, isWheel] using server
  have listed : d.core h ≠ Core.reset := fun reset => by
    rw [reset] at runs
    cases runs
  have stopped : (d.stopCores h.sock.val fun _ => true).core h = (d.core h).stop := by
    unfold Dev.stopCores Dev.core
    rw [Dev.sock_onSock_same]
    dsimp only
    rw [Tbl.get_map_keys (fun e => by split <;> rfl) listed, if_pos (by simp [below])]
  rw [stopped]
  simp [Core.stop, runs, RunState.stop]

/-- A Fatal-system stop takes a socket that is on to HOLD and stops its server cores. -/
theorem Dev.fatalStop_on {d : Dev} {s : Nat} (low : 2 ≤ d.mode s) (high : d.mode s ≤ 5) :
    (d.fatalStop s 2).mode s = modeHold ∧ 2 ≤ ((d.fatalStop s 2).wheel s).fatal ∧ ∀ h : Hart, h.sock.val = s → isServer h = true →
      (d.core h).run = .running → ((d.fatalStop s 2).core h).run = .stopped := by
  have held : d.hold s = (d.setFld s .pwMode 0 0 2 0 modeHold).stopCores s fun _ => true := if_pos (by simp [low, high])
  refine ⟨?_, ?_, fun h here server runs => ?_⟩
  · have mode : (d.hold s).mode s = modeHold := by
      rw [held, Dev.stopCores, Dev.mode_onSock _ _ _ (by intro k; rfl)]
      exact d.fld_setFld_same s (by decide) (by decide) (by decide)
    rw [Dev.fatalStop, Dev.tellPort, Dev.mode_onWheel, Dev.mode_onWheel, mode]
  · rw [Dev.fatalStop, Dev.wheel_tellPort, Dev.wheel_onWheel_same]
    exact Nat.le_max_right _ _
  · rw [Dev.fatalStop, Dev.core_tellPort, Dev.core_onWheel, held]
    exact Dev.run_stopCores here server (by rwa [Dev.core_setFld])

end Sys2Proof.Machine
end

section
/-! Crossing time-outs, joins, leaves, losses and releases, and the statement on routes, time and membership (R295 to R302, R490, R491). -/

namespace Sys2Proof.Machine

/-! ### CROSSING_TIMEOUT (R299) -/

/-- A core's transaction that is still out ends as for an absent socket. -/
theorem Dev.crossingTimeout_core {d : Dev} {s : Sock} {c : Fin 212} {txn : BitVec 12} {y : Msg}
    (out : d.net.find? (fun y => y.src = .core s c && y.txn = txn && y.dst.sock ≠ s) = some y) (a : Tables) :
    d.crossingTimeout a (.core s c) txn = ((({ d with net := d.net.erase y } : Dev).absentHome y).drain a 64) := by
  have out' : d.net.find? (fun m => m.src = .core s c && m.txn = txn && m.dst.sock ≠ (Node.core s c).sock) = some y := out
  rw [Dev.crossingTimeout, out']
  nofun

/-- A write of an agent without caches draws WBACK. -/
theorem Dev.absentHome_write (d : Dev) {y : Msg} (write : y.ty = .nwr ∨ y.ty = .pwr) :
    (d.absentHome y).net = d.net ++ [y.reply .wback (hubFor y) y.src] := by
  unfold Dev.absentHome
  rcases write with ty | ty
  · rw [ty]
    exact congrArg (· ++ _) (Dev.report_net ..)
  · rw [ty]
    exact congrArg (· ++ _) (Dev.report_net ..)

/-! ### JOIN (R295) -/

section
variable {a : Admin} {d : Dev} {s via : Nat} {ok : Bool}

/-- A socket in LOAD that is in no system and has a member near it may ask. -/
def Dev.asksToJoin (d : Dev) (s via : Nat) : Prop :=
  d.mode s = 2 ∧ d.present s s = false ∧ (d.wheel s).board.role ≠ 3 ∧ via ∈ d.nearMembers s

theorem Dev.asksToJoin_goes (asks : d.asksToJoin s via) :
    ¬(decide (d.mode s ≠ 2) || d.present s s || decide ((d.wheel s).board.role = 3) || !(d.nearMembers s).contains via) = true := by
  obtain ⟨load, alone, role, near⟩ := asks
  simpa [load, alone, near] using role

variable (asks : d.asksToJoin s via)
include asks

theorem join_noManager (none_manages : d.managerOf via = none) : join a d s via ok = (a, d.setReg s .xlJoin 0 0 6) := by
  rw [join, if_neg (Dev.asksToJoin_goes asks), none_manages]
  rfl

variable {m : Nat} (manager : (d.managerOf via).filter (fun m => d.isManager m && d.awake m && d.present via m) = some m)
include manager

theorem join_waits (busy : a.order.isSome = true) : join a d s via ok =
    (a, (d.setReg s .xlJoin 0 0 1).onWheel s fun w => { w with joinDue := some (via, ok) }) := by
  rw [join, if_neg (Dev.asksToJoin_goes asks), manager]
  exact if_pos busy

theorem join_refused (idle : a.order = none) {st : Nat} (verified : st ≠ 5) (refused : joinRefused d m s ok = some st) :
    join a d s via ok = (a, (d.setReg s .xlJoin 0 0 (word st)).onWheel s fun w => { w with joinDue := none }) := by
  rw [join, if_neg (Dev.asksToJoin_goes asks), manager]
  dsimp only
  rw [idle, if_neg (by simp), refused]
  dsimp only
  rw [if_neg verified]

theorem join_admitted (idle : a.order = none) (accepted : joinRefused d m s ok = none)
    (near : (((d.onWheel s fun w => { w with joinDue := none }).checkWiring m s).nearMembers s) ≠ []) :
    join a d s via ok = admitMember a ((d.onWheel s fun w => { w with joinDue := none }).checkWiring m s) m s := by
  rw [join, if_neg (Dev.asksToJoin_goes asks), manager]
  dsimp only
  rw [idle, if_neg (by simp), accepted]
  exact if_neg (by simpa using near)

end

/-! ### LEAVE (R297) -/

theorem leaveSystem_adm {d : Dev} {s : Nat} (present : d.present s s = true) (a : Admin) :
    (leaveSystem a d s false).1 = { a with tab := a.tab.loseSocket s, mirror := a.mirror.loseSocket s } := by
  have goes : ¬(!d.present s s) = true := by simp [present]
  rw [leaveSystem, if_neg goes]
  rfl

/-- Showing an operation leaves the members as they are. -/
theorem Dev.present_svcShow (d : Dev) (s op arg st t u : Nat) : (d.svcShow s op arg st).present t u = d.present t u := by
  have regs : (d.svcShow s op arg st).reg t .whSystem 0 0 = d.reg t .whSystem 0 0 := by
    unfold Dev.svcShow
    rw [Dev.reg_setFld_other _ s t (by decide) (by decide) (by decide) (by decide) (by decide),
      Dev.reg_setFld_other _ s t (by decide) (by decide) (by decide) (by decide) (by decide),
      Dev.reg_setFld_other _ s t (by decide) (by decide) (by decide) (by decide) (by decide)]
  rw [Dev.present, Dev.presentMask, Dev.fld, regs]
  rfl

/-- WH_SVC shows the operation and its status at its end. -/
theorem Dev.fld_svcEnd (d : Dev) (s arg : Nat) {op st : Nat} (ops : op < 16) (codes : st < 8) :
    (d.svcEnd s op arg st).fld s .whSvc 0 0 63 60 = op ∧ (d.svcEnd s op arg st).fld s .whSvc 0 0 58 56 = st := by
  have shown : (d.svcShow s op arg st).fld s .whSvc 0 0 63 60 = op ∧ (d.svcShow s op arg st).fld s .whSvc 0 0 58 56 = st := by
    unfold Dev.svcShow
    refine ⟨?_, ?_⟩
    · rw [Dev.fld_setFld_apart _ _ _ (by decide) (by decide) (.inl (by decide)),
        Dev.fld_setFld_apart _ _ _ (by decide) (by decide) (.inl (by decide)), Dev.fld_setFld_same _ s (by decide) (by decide) ops]
    · rw [Dev.fld_setFld_apart _ _ _ (by decide) (by decide) (.inl (by decide)), Dev.fld_setFld_same _ s (by decide) (by decide) codes]
  have told (e : Dev) (w : Word) (hi lo : Nat) : (e.tellPort s w).fld s .whSvc 0 0 hi lo = e.fld s .whSvc 0 0 hi lo :=
    congrArg (bits · hi lo) (Dev.reg_tellPort ..)
  unfold Dev.svcEnd
  dsimp only
  split
  · rw [told, told]
    exact shown
  · exact shown

theorem leaveRequest_done {a : Admin} {d : Dev} {s : Nat} (present : d.present s s = true) (free : d.svcFree s 9 0 = true)
    (idle : a.order = none) : leaveRequest a d s =
      ((leaveSystem a (d.svcShow s 9 0 svcRunning) s false).1,
        ((leaveSystem a (d.svcShow s 9 0 svcRunning) s false).2.svcEnd s 9 0 svcDone).answer [word svcDone]) := by
  have goes : ¬(!d.svcFree s 9 0 || a.order.isSome) = true := by simp [free, idle]
  rw [leaveRequest, svcTables, if_neg goes]
  dsimp only
  rw [if_pos ((Dev.present_svcShow ..).trans present)]

/-! ### SOCKET_SILENT (R298, R300, R301) -/

/-- Breadth-first search keeps what it has seen. -/
theorem subset_bfs (edges : List (Nat × Nat)) (fuel k : Nat) (seen : List (Nat × Nat)) : seen ⊆ bfs edges fuel k seen := by
  induction fuel generalizing k seen with
  | zero => exact List.Subset.refl _
  | succ n ih => exact List.Subset.trans (List.subset_append_left ..) (ih ..)

theorem Dev.self_mem_reach (d : Dev) (ps : List Nat) (s : Nat) : s ∈ d.reach ps s :=
  List.mem_map.2 ⟨(s, 0), subset_bfs _ _ _ _ (List.mem_singleton.2 rfl), rfl⟩

/-- Sockets run on unreached, each that is not unreached yet with a report through its management port. -/
def Dev.runUnreached (d : Dev) (ts : List Nat) : Dev :=
  d.each (ts.filter fun t => !(d.wheel t).unreached) fun d t => (d.tellPort t 2).onWheel t fun w => { w with unreached := true }

theorem Dev.reg_runUnreached (d : Dev) (ts : List Nat) (t : Nat) (r : Reg) (i j : Nat) : (d.runUnreached ts).reg t r i j = d.reg t r i j :=
  foldl_keeps (fun d : Dev => d.reg t r i j) (fun _ _ _ => (Dev.reg_onWheel ..).trans (Dev.reg_tellPort ..)) d

theorem Dev.unreached_runUnreached (d : Dev) {ts : List Nat} {s : Nat} (listed : s ∈ ts) :
    ((d.runUnreached ts).wheel s).unreached = true := by
  have reported (e : Dev) (t : Nat) (before : (e.wheel s).unreached = true ∨ t = s) :
      (((e.tellPort t 2).onWheel t fun w => { w with unreached := true }).wheel s).unreached = true := by
    by_cases same : s = t
    · subst same
      rw [Dev.wheel_onWheel_same]
    · rw [Dev.wheel_onWheel_ne _ _ same, Dev.tellPort, Dev.wheel_onWheel_ne _ _ same]
      exact before.resolve_right (Ne.symm same)
  by_cases already : (d.wheel s).unreached = true
  · refine List.foldlRecOn (motive := fun e : Dev => (e.wheel s).unreached = true) _ _ already fun e holds t _ => ?_
    exact reported e t (.inl holds)
  · exact foldl_reaches (p := fun e : Dev => (e.wheel s).unreached = true) (List.mem_filter.2 ⟨listed, by simpa using already⟩)
      (fun e => reported e s (.inr rfl)) (fun e t _ holds => reported e t (.inl holds)) d

section
variable {a : Admin} {d : Dev} {s silent : Nat} (other : s ≠ silent) (present : d.present s s = true) (awake : d.awake s = true)
include other present awake

theorem socketSilent_goes : ¬(decide (s = silent) || !d.present s s || !d.awake s) = true := by simp [other, present, awake]

/-- The manager loses a present socket that is silent. -/
theorem socketSilent_lost (manages : d.fld s .whSystem 0 0 47 44 = s) (member : d.present s silent = true) :
    socketSilent a d s silent = loseMember a d s silent := by
  rw [socketSilent, if_neg (socketSilent_goes other present awake), manages]
  dsimp only
  rw [if_neg (Ne.symm other), if_pos (by simp [member])]

/-- With no standby manager the sockets that are left run on unreached. -/
theorem socketSilent_unreached (manager : d.fld s .whSystem 0 0 47 44 = silent)
    (no_heir : ∀ t < 16, (d.fld t .whSystem 0 0 31 16).testBit t = false) : socketSilent a d s silent =
      (a, d.runUnreached (d.reach ((d.members s).filter fun t => t ≠ silent && d.awake t) s)) := by
  have heirs : ((d.members s).filter fun t =>
      t ≠ silent && (d.fld t .whSystem 0 0 31 16).testBit t && d.awake t && quorum a d t silent) = [] := by
    refine List.filter_eq_nil_iff.2 fun t member => ?_
    have below : t < 16 := List.mem_range.1 (List.mem_filter.1 member).1
    simp [no_heir t below]
  rw [socketSilent, if_neg (socketSilent_goes other present awake), manager]
  dsimp only
  rw [if_pos rfl, heirs]
  rfl

end

/-! ### BERTH_RELEASE (R491) -/

/-- A berth that is built, whose sockets are ready, runs. -/
theorem berthRelease_building {a : Admin} {d : Dev} {b m : Nat} {r : MBoot}
    (found : sockets.find? (fun m => d.isManager m && d.awake m) = some m) (named : manBoot (d.wheel m).kept b = some r)
    (building : a.tab.stateOf b = .building) (unwaited : (d.wheel m).joinWaiting = false)
    (ready : ∀ t < 16, b ∈ a.tab.podBerths t → d.present t t = true ∧ (d.mode t = 2 ∨ d.runs t = true)) :
    (berthRelease a d b).1 = { a with tab := a.tab.setState b .run } := by
  have all_ready : ((sockets.filter fun s => (a.tab.podBerths s).contains b).all fun s => d.present s s && (d.mode s = 2 || d.runs s)) = true := by
    refine List.all_eq_true.2 fun t listed => ?_
    obtain ⟨below, holds⟩ := List.mem_filter.1 listed
    obtain ⟨member, mode⟩ := ready t (List.mem_range.1 below) (List.contains_iff_mem.1 holds)
    simpa [member] using mode
  rw [berthRelease, found]
  dsimp only
  rw [named]
  dsimp only
  rw [building, all_ready, unwaited]
  rfl

/-! ### The statement on routes, time and membership -/

/-- Settles O50: each command finds what its rule asks for and does what the rule says. -/
theorem routesTimeAndMembership : Obligations.RoutesTimeAndMembership := by
  intro s sk lost at_ offset from_ via ok b txn m
  dsimp only
  refine ⟨fun unmanaged => ?_, fun found => ?_, fun time tbl due => ?_, fun present awake worker => ?_,
    fun p manager other locked awake parent small => ?_, fun cut => ?_, fun near low high => ?_, fun c y out => ?_, fun y write => ?_, ?_,
    fun load alone role near => ⟨fun unmanaged => ?_, fun manager present manages awake => ?_⟩, fun present free idle => ?_,
    fun other present awake => ⟨fun manages member => ?_, fun manager no_heir => ?_⟩,
    fun r0 found named building unwaited ready => ?_⟩
  · exact State.next_withDev (d := s.dev) (Dev.routeSwitch_none unmanaged at_)
  · exact ⟨_, State.next_withDev rfl, fun p tbl listed => Dev.routes_routeSwitch found at_ listed, Dev.reg_routeSwitch found at_⟩
  · refine ⟨_, State.next_withDev rfl, fun idle => ?_, fun k below left up => ?_⟩
    · rw [Dev.switchTime_idle due idle]
      refine ⟨fun t below => ?_, ?_, fun k below => Dev.hold_holdLinks _ _ _ below⟩
      · rw [Dev.reg_holdLinks, Dev.reg_onWheel, Dev.reg_installRoutes _ _ _ below]
      · rw [Dev.wheel_holdLinks, Dev.wheel_onWheel_same]
    · rw [Dev.switchTime_busy due below left up]
      refine ⟨fun j below => Dev.hold_holdLinks _ _ _ below, ?_, fun t _ => Dev.reg_holdLinks ..⟩
      rw [Dev.wheel_holdLinks, due]
  · refine ⟨_, State.next_withDev (Dev.heartbeat_worker present awake worker), fun t member other up => ?_, Dev.reg_beat s.dev sk.val⟩
    exact Dev.heard_beat member other up
  · refine ⟨_, State.next_withDev (Dev.timeSync_parent manager other locked awake parent offset), ?_, ?_, ?_⟩
    · rw [Dev.fld_setFld_apart _ _ _ (by decide) (by decide) (.inl (by decide)), Dev.fld_setFld_same _ _ (by decide) (by decide) small]
    · exact Dev.fld_setFld_same _ _ (by decide) (by decide) offset.isLt
    · rw [Dev.fld_setFld_apart _ _ _ (by decide) (by decide) (.inl (by decide)),
        Dev.fld_setFld_apart _ _ _ (by decide) (by decide) (.inl (by decide)), locked]
  · exact State.next_withDev (d := s.dev) (if_pos (List.isEmpty_iff.2 cut))
  · obtain ⟨held, fatal, stopped⟩ := Dev.fatalStop_on low high
    exact ⟨_, State.next_withDev (if_neg (mt List.isEmpty_iff.1 near)), held, fatal, fun h here => stopped h (congrArg Fin.val here)⟩
  · exact State.next_ended (Dev.crossingTimeout_core out s.adm.tab)
  · exact Dev.absentHome_write s.dev write
  · refine ⟨_, State.next_withDev rfl, ?_, fun p r i j => Dev.reg_onWheel ..⟩
    rw [Dev.joinWaitOver, Dev.wheel_onWheel_same]
  · exact State.next_tabled (join_noManager ⟨load, alone, role, near⟩ unmanaged)
  · have relayed : (s.dev.managerOf via.val).filter (fun m => s.dev.isManager m && s.dev.awake m && s.dev.present via.val m) = some m := by
      rw [manager, Option.filter_some, if_pos (by simp [manages, awake, present])]
    refine ⟨fun busy => State.next_tabled (join_waits ⟨load, alone, role, near⟩ relayed busy),
      fun idle st verified refused => State.next_tabled (join_refused ⟨load, alone, role, near⟩ relayed idle verified refused),
      fun idle accepted x checked kept => State.next_tabled ?_⟩
    subst checked
    exact join_admitted ⟨load, alone, role, near⟩ relayed idle accepted kept
  · have tables := leaveSystem_adm ((Dev.present_svcShow s.dev sk.val 9 0 svcRunning sk.val sk.val).trans present) s.adm
    obtain ⟨op, status⟩ := Dev.fld_svcEnd (leaveSystem s.adm (s.dev.svcShow sk.val 9 0 svcRunning) sk.val false).2 sk.val 0
      (op := 9) (st := svcDone) (by decide) (by decide)
    exact ⟨_, State.next_tabled (leaveRequest_done present free idle), tables, (Dev.fld_answer ..).trans op,
      (Dev.fld_answer ..).trans status, Dev.out_answer ..⟩
  · have differ : sk.val ≠ lost.val := fun same => other (Fin.ext same)
    exact ⟨_, State.next_tabled (socketSilent_lost differ present awake manages member), rfl⟩
  · have differ : sk.val ≠ lost.val := fun same => other (Fin.ext same)
    refine ⟨_, State.next_tabled (socketSilent_unreached differ present awake manager no_heir), ?_, fun p r i j => ?_⟩
    · exact Dev.unreached_runUnreached _ (Dev.self_mem_reach ..)
    · exact Dev.reg_runUnreached ..
  · refine ⟨(berthRelease s.adm s.dev b.toNat).2, State.next_tabled ?_⟩
    rw [← berthRelease_building found named building unwaited ready]

end Sys2Proof.Machine
end

section
/-! The parts of a socket that memory and tiering use, its hubs, channels and root ports, and registers and memory, after the writes of
other parts (R312 to R350). -/

namespace Sys2Proof.Machine

/-! ### Loops -/

/-- A loop that visits one place once, and elsewhere keeps it, leaves there what that visit leaves. -/
theorem foldl_visits {α β γ : Type} (q : β → γ) {f : β → α → β} {l : List α} {y : α} (listed : y ∈ l) (once : l.Nodup)
    (keep : ∀ x, ∀ z ∈ l, z ≠ y → q (f x z) = q x) (x : β) : ∃ x', q x' = q x ∧ q (l.foldl f x) = q (f x' y) := by
  obtain ⟨before, after, rfl⟩ := List.append_of_mem listed
  obtain ⟨_, ⟨out, _⟩, apart⟩ := List.nodup_append.1 once |>.imp_right (·.imp_left List.nodup_cons.1)
  rw [List.foldl_append, List.foldl_cons]
  refine ⟨_, foldl_keeps q (fun x z m => keep x z (List.mem_append_left _ m) (apart z m y (List.mem_cons_self ..))) x,
    foldl_keeps q (fun x z m => keep x z (by simp [m]) fun same => out (same ▸ m)) _⟩

/-! ### Registers -/

section
variable (d : Dev) (s t : Nat) {r q : Reg} {i j k l : Nat}

/-- A write of a register leaves the fields of the others. -/
theorem Dev.fld_setFld_other (n : r ≠ q) (hi : i < r.place.c1) (hj : j < r.place.c2) (hk : k < q.place.c1) (hl : l < q.place.c2)
    (high low v top bottom : Nat) : (d.setFld s q k l high low v).fld t r i j top bottom = d.fld t r i j top bottom := by
  rw [Dev.fld, d.reg_setFld_other s t n hi hj hk hl, Dev.fld]

/-- A count that was added to. -/
theorem Dev.fld_bump_same {top bottom : Nat} (order : bottom ≤ top) (inside : top < 64) (n : Nat) :
    (d.bump s r i j top bottom n).fld s r i j top bottom = satAdd (top + 1 - bottom) (d.fld s r i j top bottom) n :=
  d.fld_setFld_same s order inside (satAdd_lt ..)

end

/-- What no register holds, a write of a register keeps. -/
theorem Dev.setReg_keeps {α : Type} (P : Socket → α) (regs : ∀ (k : Socket) x, P { k with regs := x } = P k)
    (bar : ∀ (k : Socket) x, P { k with bar := x } = P k) (d : Dev) (s : Nat) (r : Reg) (i j : Nat) (v : Word) (t : Nat) :
    P ((d.setReg s r i j v).sock t) = P (d.sock t) :=
  Dev.onSock_keeps P d s _ (fun k => ite_keeps P (bar k _) (regs k _)) t

/-! ### Reports (R374 to R381) -/

/-- A report changes the count of free values and the sockets alone. -/
theorem Dev.report_outside {α : Type} (P : Dev → α) (h : ∀ (d : Dev) n x, P { d with fresh := n, socks := x } = P d) (d : Dev) (s : Nat)
    (e : FEv) : P (d.report s e) = P d := by
  rcases d.report_cases s e with same | ⟨n, f, reported⟩
  · rw [same]
  · rw [reported]
    exact h d n _

section
variable (d : Dev) (s src cls sub berth access addr : Nat)

@[simp] theorem Dev.reportUnit_mem : (d.reportUnit s src cls sub berth access addr).mem = d.mem := Dev.report_mem ..

@[simp] theorem Dev.reportUnit_meta : (d.reportUnit s src cls sub berth access addr).meta_ = d.meta_ :=
  Dev.report_outside Dev.meta_ (fun _ _ _ => rfl) ..

@[simp] theorem Dev.rawLine_reportUnit (loc : Nat) : (d.reportUnit s src cls sub berth access addr).rawLine loc = d.rawLine loc :=
  Dev.report_outside (fun d : Dev => d.rawLine loc) (fun _ _ _ => rfl) ..

end

/-! ### Channels -/

@[simp] theorem Dev.chan_onChan_same (d : Dev) (s c : Nat) (f : Chan → Chan) : (d.onChan s c f).chan s c = f (d.chan s c) := by
  simp [Dev.chan, Dev.onChan]

@[simp] theorem Dev.reg_onChan (d : Dev) (s c : Nat) (f : Chan → Chan) (t : Nat) (r : Reg) (i j : Nat) :
    (d.onChan s c f).reg t r i j = d.reg t r i j := by
  unfold Dev.onChan
  exact Dev.reg_onSock (by intro k; rfl) (by intro k; rfl) t r i j

@[simp] theorem Dev.fld_onChan (d : Dev) (s c : Nat) (f : Chan → Chan) (t : Nat) (r : Reg) (i j hi lo : Nat) :
    (d.onChan s c f).fld t r i j hi lo = d.fld t r i j hi lo := by rw [Dev.fld, Dev.reg_onChan, Dev.fld]

@[simp] theorem Dev.chan_reportUnit (d : Dev) (s src cls sub berth access addr t c : Nat) :
    (d.reportUnit s src cls sub berth access addr).chan t c = d.chan t c := by
  rw [Dev.chan, Dev.reportUnit, Dev.report_keeps d s _ Socket.chans fun _ _ => rfl, Dev.chan]

@[simp] theorem Dev.chan_setFld (d : Dev) (s : Nat) (r : Reg) (i j hi lo v t c : Nat) :
    (d.setFld s r i j hi lo v).chan t c = d.chan t c := by
  rw [Dev.chan, Dev.setFld, Dev.setReg_keeps Socket.chans (fun _ _ => rfl) (fun _ _ => rfl), Dev.chan]

/-! ### Root ports -/

@[simp] theorem Dev.port_onPort_same (d : Dev) (s p : Nat) (f : Port → Port) : (d.onPort s p f).port s p = f (d.port s p) := by
  simp [Dev.port, Dev.onPort]

@[simp] theorem Dev.reg_onPort (d : Dev) (s p : Nat) (f : Port → Port) (t : Nat) (r : Reg) (i j : Nat) :
    (d.onPort s p f).reg t r i j = d.reg t r i j := by
  unfold Dev.onPort
  exact Dev.reg_onSock (by intro k; rfl) (by intro k; rfl) t r i j

@[simp] theorem Dev.port_onChan (d : Dev) (s c : Nat) (f : Chan → Chan) (t p : Nat) : (d.onChan s c f).port t p = d.port t p := by
  unfold Dev.onChan Dev.port
  rw [Dev.onSock_keeps Socket.ports d s _ (by intro k; rfl)]

@[simp] theorem Dev.port_reportUnit (d : Dev) (s src cls sub berth access addr t p : Nat) :
    (d.reportUnit s src cls sub berth access addr).port t p = d.port t p := by
  rw [Dev.port, Dev.reportUnit, Dev.report_keeps d s _ Socket.ports fun _ _ => rfl, Dev.port]

@[simp] theorem Dev.port_setReg (d : Dev) (s : Nat) (r : Reg) (i j : Nat) (v : Word) (t p : Nat) :
    (d.setReg s r i j v).port t p = d.port t p := by
  rw [Dev.port, Dev.setReg_keeps Socket.ports (fun _ _ => rfl) (fun _ _ => rfl), Dev.port]

/-! ### Hubs -/

@[simp] theorem Dev.hub_onHub_same (d : Dev) (s u : Nat) (f : Hub → Hub) : (d.onHub s u f).hub s u = f (d.hub s u) := by
  simp [Dev.hub, Dev.onHub]

theorem Dev.hub_onHub_ne (d : Dev) {s u t w : Nat} (f : Hub → Hub) (n : t ≠ s ∨ w ≠ u) : (d.onHub s u f).hub t w = d.hub t w := by
  unfold Dev.hub Dev.onHub
  by_cases here : t = s
  · subst here
    rw [Dev.sock_onSock_same, Tbl.get_set_ne _ _ _ _ (n.resolve_left fun h => h rfl)]
  · rw [Dev.sock_onSock_ne _ _ here]

/-- A part of every hub that `f` keeps is kept. -/
theorem Dev.onHub_keeps {α : Type} (p : Hub → α) (d : Dev) (s u : Nat) (f : Hub → Hub) (h : ∀ x, p (f x) = p x) (t w : Nat) :
    p ((d.onHub s u f).hub t w) = p (d.hub t w) := by
  by_cases here : t = s ∧ w = u
  · obtain ⟨rfl, rfl⟩ := here
    rw [Dev.hub_onHub_same, h]
  · rw [Dev.hub_onHub_ne d f (not_and_or.1 here)]

@[simp] theorem Dev.reg_onHub (d : Dev) (s u : Nat) (f : Hub → Hub) (t : Nat) (r : Reg) (i j : Nat) :
    (d.onHub s u f).reg t r i j = d.reg t r i j := by
  unfold Dev.onHub
  exact Dev.reg_onSock (by intro k; rfl) (by intro k; rfl) t r i j

@[simp] theorem Dev.fld_onHub (d : Dev) (s u : Nat) (f : Hub → Hub) (t : Nat) (r : Reg) (i j hi lo : Nat) :
    (d.onHub s u f).fld t r i j hi lo = d.fld t r i j hi lo := by rw [Dev.fld, Dev.reg_onHub, Dev.fld]

@[simp] theorem Dev.onHub_meta (d : Dev) (s u : Nat) (f : Hub → Hub) : (d.onHub s u f).meta_ = d.meta_ := rfl
@[simp] theorem Dev.onHub_again (d : Dev) (s u : Nat) (f : Hub → Hub) : (d.onHub s u f).again = d.again := rfl

@[simp] theorem Dev.hub_reportUnit (d : Dev) (s src cls sub berth access addr t u : Nat) :
    (d.reportUnit s src cls sub berth access addr).hub t u = d.hub t u := by
  rw [Dev.hub, Dev.reportUnit, Dev.report_keeps d s _ Socket.hubs fun _ _ => rfl, Dev.hub]

@[simp] theorem Dev.hub_setFld (d : Dev) (s : Nat) (r : Reg) (i j hi lo v t u : Nat) :
    (d.setFld s r i j hi lo v).hub t u = d.hub t u := by
  rw [Dev.hub, Dev.setFld, Dev.setReg_keeps Socket.hubs (fun _ _ => rfl) (fun _ _ => rfl), Dev.hub]

end Sys2Proof.Machine
end

section
/-! Memory channels and expanders: retraining, soft repair, scrubbing, retries, time-outs, and expanders that come and go (R319 to R326,
R354 to R360, R371). -/

namespace Sys2Proof.Machine

/-! ### Places of a channel's registers -/

/-- The status register of far or near channels. -/
def chanStat (far : Bool) : Reg := if far then .fmChStat else .nmChStat

/-- The retraining register of far or near channels. -/
def chanRetrain (far : Bool) : Reg := if far then .fmRetrain else .nmRetrain

/-- The scrubber's register of far or near channels. -/
def chanScrub (far : Bool) : Reg := if far then .fmScrub else .nmScrub

/-- The scrubber's counts of far or near channels. -/
def chanScrubCnt (far : Bool) : Reg := if far then .fmScrubCnt else .nmScrubCnt

/-- The index of a channel among the far or the near ones. -/
def chanIdx (far : Bool) (ch : Nat) : Nat := if far then ch % 12 else ch % 16

/-- Every array of far or near channels has a place for a channel. -/
theorem chanIdx_lt {far : Bool} {n : Nat} (ch : Nat) (size : n = if far then 12 else 16) : chanIdx far ch < n := by
  subst size
  cases far
  · exact Nat.mod_lt _ (by decide)
  · exact Nat.mod_lt _ (by decide)

theorem chanIdx_stat (far : Bool) (ch : Nat) : chanIdx far ch < (chanStat far).place.c1 := chanIdx_lt ch (by cases far <;> rfl)

theorem chanIdx_retrain (far : Bool) (ch : Nat) : chanIdx far ch < (chanRetrain far).place.c1 := chanIdx_lt ch (by cases far <;> rfl)

theorem chanIdx_scrub (far : Bool) (ch : Nat) : chanIdx far ch < (chanScrub far).place.c1 := chanIdx_lt ch (by cases far <;> rfl)

theorem chanIdx_scrubCnt (far : Bool) (ch : Nat) : chanIdx far ch < (chanScrubCnt far).place.c1 := chanIdx_lt ch (by cases far <;> rfl)

/-! ### Retraining (R323 to R326) -/

theorem Dev.blackoutHeld_free {d : Dev} {s : Nat} {far : Bool} {ch : Nat} (empty : (d.hub s (chanHub far ch)).slots = [])
    (supplied : d.dipping s = false) (open_ : bit (d.reg s .fmGlobal 0 0) 8 = false) : d.blackoutHeld s far ch = false := by
  simp [Dev.blackoutHeld, empty, supplied, open_]

theorem Dev.retrain_unready {d : Dev} {s : Nat} {far : Bool} {ch : Nat} (unready : d.chanState s far ch ≠ 2) (ok : Bool) (ns : Nat) :
    d.retrain s far ch ok ns = d := by
  simp [Dev.retrain, unready]

theorem Dev.retrain_free {d : Dev} {s : Nat} {far : Bool} {ch : Nat} (enabled : bit (d.retrainReg s far ch) 63 = true)
    (ready : d.chanState s far ch = 2) (free : d.blackoutHeld s far ch = false) (ok : Bool) (ns : Nat) :
    d.retrain s far ch ok ns = d.blackout s far ch ok ns := by
  simp [Dev.retrain, enabled, ready, free]

/-- The longest blackout of a channel, kept. -/
def Dev.keepLongest (d : Dev) (s : Nat) (far : Bool) (ch ns : Nat) : Dev :=
  if d.fld s (chanStat far) (chanIdx far ch) 0 15 0 < ns then d.setFld s (chanStat far) (chanIdx far ch) 0 15 0 ns else d

/-- A failed retraining, reported and counted. -/
def Dev.retrainFailed (d : Dev) (s : Nat) (far : Bool) (ch : Nat) : Dev :=
  (d.reportUnit s (chanSrc far ch) 0 0xFF 0 0 0).setFld s (chanRetrain far) (chanIdx far ch) 0 1 0
    (Nat.min 3 (d.fld s (chanRetrain far) (chanIdx far ch) 0 1 0 + 1))

theorem Dev.blackout_ok (d : Dev) (s : Nat) (far : Bool) (ch ns : Nat) : d.blackout s far ch true ns =
    ((d.keepLongest s far ch ns).bump s (chanStat far) (chanIdx far ch) 0 31 16 1).setFld s (chanRetrain far) (chanIdx far ch) 0 1 0 0 := rfl

/-- The third failure in a row is reported once more. -/
theorem Dev.blackout_failed (d : Dev) (s : Nat) (far : Bool) (ch ns : Nat) : d.blackout s far ch false ns =
    if (d.keepLongest s far ch ns).fld s (chanRetrain far) (chanIdx far ch) 0 1 0 = 2 then
      ((d.keepLongest s far ch ns).retrainFailed s far ch).reportUnit s (chanSrc far ch) 6 0xFF 0 0 0
    else (d.keepLongest s far ch ns).retrainFailed s far ch := rfl

section
variable (d : Dev) (s : Nat) (far : Bool) (ch : Nat)

theorem Dev.longest_keepLongest {ns : Nat} (fits : ns < 2 ^ 16) : (d.keepLongest s far ch ns).fld s (chanStat far) (chanIdx far ch) 0 15 0 =
    Nat.max (d.fld s (chanStat far) (chanIdx far ch) 0 15 0) ns := by
  unfold Dev.keepLongest
  split
  case isTrue longer =>
    exact (d.fld_setFld_same s (by decide) (by decide) fits).trans (Nat.max_eq_right (Nat.le_of_lt longer)).symm
  case isFalse shorter => exact (Nat.max_eq_left (Nat.le_of_not_lt shorter)).symm

theorem Dev.count_keepLongest (ns : Nat) : (d.keepLongest s far ch ns).fld s (chanStat far) (chanIdx far ch) 0 31 16 =
    d.fld s (chanStat far) (chanIdx far ch) 0 31 16 :=
  ite_keeps (fun x : Dev => x.fld s (chanStat far) (chanIdx far ch) 0 31 16)
    (d.fld_setFld_apart s _ (by decide) (by decide) (.inl (by decide))) rfl

theorem chanStat_ne_chanRetrain : chanStat far ≠ chanRetrain far := by cases far <;> decide

/-- A write of a channel's retraining register leaves its status. -/
theorem Dev.stat_setRetrain (v top bottom : Nat) : (d.setFld s (chanRetrain far) (chanIdx far ch) 0 1 0 v).fld s (chanStat far)
    (chanIdx far ch) 0 top bottom = d.fld s (chanStat far) (chanIdx far ch) 0 top bottom :=
  d.fld_setFld_other s s (chanStat_ne_chanRetrain far) (chanIdx_stat far ch) (by cases far <;> decide) (chanIdx_retrain far ch)
    (by cases far <;> decide) 1 0 v top bottom

theorem Dev.failures_keepLongest (ns : Nat) : (d.keepLongest s far ch ns).fld s (chanRetrain far) (chanIdx far ch) 0 1 0 =
    d.fld s (chanRetrain far) (chanIdx far ch) 0 1 0 :=
  ite_keeps (fun x : Dev => x.fld s (chanRetrain far) (chanIdx far ch) 0 1 0)
    (d.fld_setFld_other s s (chanStat_ne_chanRetrain far).symm (chanIdx_retrain far ch) (by cases far <;> decide) (chanIdx_stat far ch)
      (by cases far <;> decide) 15 0 ns 1 0) rfl

theorem Dev.stat_retrainFailed (top bottom : Nat) : (d.retrainFailed s far ch).fld s (chanStat far) (chanIdx far ch) 0 top bottom =
    d.fld s (chanStat far) (chanIdx far ch) 0 top bottom := by
  rw [Dev.retrainFailed, Dev.stat_setRetrain, Dev.fld_reportUnit]

theorem Dev.failures_retrainFailed : (d.retrainFailed s far ch).fld s (chanRetrain far) (chanIdx far ch) 0 1 0 =
    Nat.min 3 (d.fld s (chanRetrain far) (chanIdx far ch) 0 1 0 + 1) :=
  Dev.fld_setFld_same _ s (by decide) (by decide) (Nat.lt_of_le_of_lt (Nat.min_le_left ..) (by decide))

/-- What a failed retraining leaves of a field. -/
theorem Dev.fld_blackout_failed (ns : Nat) (r : Reg) (i hi lo : Nat) : (d.blackout s far ch false ns).fld s r i 0 hi lo =
    ((d.keepLongest s far ch ns).retrainFailed s far ch).fld s r i 0 hi lo := by
  rw [Dev.blackout_failed]
  exact ite_keeps (fun x : Dev => x.fld s r i 0 hi lo) (Dev.fld_reportUnit ..) rfl

/-- A blackout keeps the longest one. -/
theorem Dev.longest_blackout (ok : Bool) {ns : Nat} (fits : ns < 2 ^ 16) : (d.blackout s far ch ok ns).fld s (chanStat far)
    (chanIdx far ch) 0 15 0 = Nat.max (d.fld s (chanStat far) (chanIdx far ch) 0 15 0) ns := by
  cases ok
  · rw [Dev.fld_blackout_failed, Dev.stat_retrainFailed, d.longest_keepLongest s far ch fits]
  · rw [Dev.blackout_ok, Dev.stat_setRetrain, Dev.bump, Dev.fld_setFld_apart _ _ _ (by decide) (by decide) (.inr (by decide)),
      d.longest_keepLongest s far ch fits]

/-- A retraining that reaches its targets is counted. -/
theorem Dev.count_blackout (ok : Bool) (ns : Nat) : (d.blackout s far ch ok ns).fld s (chanStat far) (chanIdx far ch) 0 31 16 =
    if ok then satAdd 16 (d.fld s (chanStat far) (chanIdx far ch) 0 31 16) 1 else d.fld s (chanStat far) (chanIdx far ch) 0 31 16 := by
  cases ok
  · rw [Dev.fld_blackout_failed, Dev.stat_retrainFailed, Dev.count_keepLongest]
    rfl
  · rw [Dev.blackout_ok, Dev.stat_setRetrain, Dev.fld_bump_same _ _ (by decide) (by decide), Dev.count_keepLongest]
    rfl

/-- A retraining clears the failures or is one more. -/
theorem Dev.failures_blackout (ok : Bool) (ns : Nat) : (d.blackout s far ch ok ns).fld s (chanRetrain far) (chanIdx far ch) 0 1 0 =
    if ok then 0 else Nat.min 3 (d.fld s (chanRetrain far) (chanIdx far ch) 0 1 0 + 1) := by
  cases ok
  · rw [Dev.fld_blackout_failed, Dev.failures_retrainFailed, Dev.failures_keepLongest]
    rfl
  · exact Dev.fld_setFld_same _ s (by decide) (by decide) (by decide)

end

/-! ### Expanders (R319 to R321) -/

section
variable (d : Dev) (s : Nat)

theorem Dev.due_cxlTimeout (p : Nat) : ((d.cxlTimeout s p).port s (cxlRoot p)).due = (d.port s (cxlRoot p)).due + 1 :=
  ite_keeps (fun x : Dev => (x.port s (cxlRoot p)).due) (by simp) (by simp)

theorem Dev.timeouts_cxlTimeout (p : Nat) :
    ((d.cxlTimeout s p).chan s (32 + p)).cxlTimeouts = (d.chan s (32 + p)).cxlTimeouts + 1 :=
  ite_keeps (fun x : Dev => (x.chan s (32 + p)).cxlTimeouts) (by simp) (by simp)

/-- The register of a port's expanders, with `n` expanders and `cap` GiB mapped. -/
def cxlMapped (w : Word) (n cap : Nat) : Word := putBits (putBits (putBits w 44 32 cap) 51 48 n) 63 60 2

/-- Mapping a port's expanders writes that register, and an excess is noted. -/
theorem Dev.mapCxl_keeps {α : Type} (P : Dev → α) (noted : ∀ (d : Dev) src, P (d.notice s src) = P d) (p : Nat) : P (d.mapCxl s p) =
    P (d.setReg s .fmCxl (p / 2) (p % 2) (cxlMapped (d.reg s .fmCxl (p / 2) (p % 2)) (Nat.min 8 (d.port s (cxlRoot p)).expanders.length)
      (Nat.min 4096 (((d.port s (cxlRoot p)).expanders.take 8).foldl (· + ·) 0)))) :=
  ite_keeps P (noted _ _) rfl

end

section
variable (w : Word) {n cap : Nat}

theorem bits_cxlMapped_state : bits (cxlMapped w n cap) 63 60 = 2 :=
  bits_putBits_same _ (by decide) (by decide) (by decide)

theorem bits_cxlMapped_count (few : n ≤ 8) : bits (cxlMapped w n cap) 51 48 = n := by
  rw [cxlMapped, bits_putBits_apart _ _ (by decide) (by decide) (.inr (by decide)),
    bits_putBits_same _ (by decide) (by decide) (Nat.lt_of_le_of_lt few (by decide))]

theorem bits_cxlMapped_size (small : cap ≤ 4096) : bits (cxlMapped w n cap) 44 32 = cap := by
  rw [cxlMapped, bits_putBits_apart _ _ (by decide) (by decide) (.inr (by decide)),
    bits_putBits_apart _ _ (by decide) (by decide) (.inr (by decide)),
    bits_putBits_same _ (by decide) (by decide) (Nat.lt_of_le_of_lt small (by decide))]

end

section
variable {d : Dev} {s p : Nat} (up : d.fld s .fmCxl (p / 2) (p % 2) 63 60 < 3) (there : (d.port s (cxlRoot p)).lost = false)
  (cxl : d.fld s .pxPortCfg (cxlRoot p) 0 62 62 = 1) (gibs : Nat)
include up there cxl

theorem Dev.cxlAdd_maps : d.cxlAdd s p gibs =
    (d.onPort s (cxlRoot p) fun x => { x with expanders := x.expanders ++ [gibs], present := true }).mapCxl s p := by
  have running : d.fld s .fmCxl (p / 2) (p % 2) 63 60 ≠ 3 ∧ d.fld s .fmCxl (p / 2) (p % 2) 63 60 ≠ 4 := by omega
  simp [Dev.cxlAdd, running, there, cxl]

theorem Dev.expanders_cxlAdd : ((d.cxlAdd s p gibs).port s (cxlRoot p)).expanders = (d.port s (cxlRoot p)).expanders ++ [gibs] := by
  rw [d.cxlAdd_maps up there cxl, Dev.mapCxl_keeps _ _ (fun x : Dev => (x.port s (cxlRoot p)).expanders) (by simp [Dev.notice])]
  simp

/-- The register of a port's expanders when one has been added. -/
theorem Dev.reg_cxlAdd : (d.cxlAdd s p gibs).reg s .fmCxl (p / 2) (p % 2) =
    cxlMapped (d.reg s .fmCxl (p / 2) (p % 2)) (Nat.min 8 ((d.port s (cxlRoot p)).expanders.length + 1))
      (Nat.min 4096 ((((d.port s (cxlRoot p)).expanders ++ [gibs]).take 8).foldl (· + ·) 0)) := by
  rw [d.cxlAdd_maps up there cxl, Dev.mapCxl_keeps _ _ (fun x : Dev => x.reg s .fmCxl (p / 2) (p % 2)) (by simp [Dev.notice])]
  simp

end

/-- A port whose expanders are gone, before its berths are told. -/
def Dev.cxlGone (d : Dev) (s p : Nat) : Dev :=
  (d.onPort s (cxlRoot p) fun x => { x with lost := true, present := false, due := 0 }).setFld s .fmCxl (p / 2) (p % 2) 63 60 0

/-- The berths that own memory there are told, which changes no more. -/
theorem Dev.cxlLost_keeps {α : Type} (P : Dev → α) (told : ∀ (d : Dev) s src cls sub b access addr,
    P (d.reportUnit s src cls sub b access addr) = P d) (a : Tables) (d : Dev) (s p : Nat) : P (d.cxlLost a s p) = P (d.cxlGone s p) :=
  foldl_keeps P (fun x _ _ => told x ..) _

section
variable (a : Tables) (d : Dev) (s p : Nat)

theorem Dev.port_cxlLost : (d.cxlLost a s p).port s (cxlRoot p) = { d.port s (cxlRoot p) with lost := true, present := false, due := 0 } := by
  rw [Dev.cxlLost_keeps (fun x : Dev => x.port s (cxlRoot p)) (by simp), Dev.cxlGone, Dev.setFld, Dev.port_setReg, Dev.port_onPort_same]

theorem Dev.state_cxlLost : (d.cxlLost a s p).fld s .fmCxl (p / 2) (p % 2) 63 60 = 0 := by
  rw [Dev.cxlLost_keeps (fun x : Dev => x.fld s .fmCxl (p / 2) (p % 2) 63 60) (by simp), Dev.cxlGone]
  exact Dev.fld_setFld_same _ s (by decide) (by decide) (by decide)

end

/-! ### Errors of a far device (R354, R371) -/

section
variable (d : Dev) (s : Nat) (l : FarLoc) (n : Nat)

@[simp] theorem Dev.rowError_mem : (d.rowError s l n).mem = d.mem := rfl
@[simp] theorem Dev.rowError_meta : (d.rowError s l n).meta_ = d.meta_ := rfl

/-- An error of a device changes its channel and that channel's FM_RAS, and may be reported. -/
theorem Dev.deviceError_keeps {α : Type} (P : Dev → α) (chan : ∀ (d : Dev) c f, P (d.onChan s c f) = P d)
    (ras : ∀ (d : Dev) v, P (d.setReg s .fmRas l.ch 0 v) = P d)
    (told : ∀ (d : Dev) src cls sub b access addr, P (d.reportUnit s src cls sub b access addr) = P d) :
    P (d.deviceError s l n) = P d := by
  unfold Dev.deviceError
  dsimp only
  refine ite_keeps P (chan ..) ?_
  split
  · rw [told, ras, chan, chan]
  · exact ite_keeps P (chan ..) ((told ..).trans (chan ..))

@[simp] theorem Dev.deviceError_mem : (d.deviceError s l n).mem = d.mem :=
  Dev.deviceError_keeps d s l n Dev.mem (by intros; rfl) (by intros; rfl) (by simp)

@[simp] theorem Dev.deviceError_meta : (d.deviceError s l n).meta_ = d.meta_ :=
  Dev.deviceError_keeps d s l n Dev.meta_ (by intros; rfl) (by intros; rfl) (by simp)

/-- FM_RAS lies in no scrubber's counts, whatever the channel. -/
theorem Dev.scrubCnt_deviceError (far : Bool) (t i hi lo : Nat) :
    (d.deviceError s l n).fld t (chanScrubCnt far) i 0 hi lo = d.fld t (chanScrubCnt far) i 0 hi lo := by
  have apart : (chanScrubCnt far).at i 0 ≠ Reg.fmRas.at l.ch 0 := by
    cases far
    · simp only [chanScrubCnt, Reg.at, Reg.place, Bool.false_eq_true, if_false]
      omega
    · simp only [chanScrubCnt, Reg.at, Reg.place, if_true]
      omega
  refine Dev.deviceError_keeps d s l n (fun x : Dev => x.fld t (chanScrubCnt far) i 0 hi lo) (by simp) (fun x v => ?_) (by simp)
  rw [Dev.fld, Dev.reg_setReg_ne _ _ (.inr (.inr apart)), Dev.fld]

end

/-! ### Scrubbing (R359, R360) -/

/-- What a scrub read that does not skip its line makes of what it finds. -/
def Dev.scrubFinds (a : Tables) (d : Dev) (s : Nat) (far : Bool) (ch : Nat) (r : ReadResult) (pa : Option Nat) : Dev :=
  match r with
  | .clean => d
  | .correctable dv =>
    let d := (d.bump s (chanScrubCnt far) (chanIdx far ch) 0 31 0 1).reportAt a s (chanSrc far ch) 0 0xFF 12 (pa.getD 0)
    match pa.bind d.farAt with
    | some (_, l) => (d.deviceError s l dv.val).rowError s l 1
    | none => d
  | .uncorrectable =>
    let d := (d.bump s (chanScrubCnt far) (chanIdx far ch) 0 63 32 1).reportAt a s (chanSrc far ch) 2 0xFF 12 (pa.getD 0)
    match pa.bind d.farAt with
    | some (_, l) => if ((d.chan s l.ch).marked.any fun m => m.1 = l.rank) then d else d.rowError s l 15
    | none => d

/-- The scrubber goes on from line `n`; at the end of the channel it starts again and the error counts age. -/
def Dev.scrubOn (d : Dev) (s : Nat) (far : Bool) (ch n lines : Nat) : Dev :=
  if n + 1 < lines then d.onChan s (chanKey far ch) fun c => { c with scrub := n + 1 }
  else
    let d := d.bump s (chanScrub far) (chanIdx far ch) 0 47 32 1
    d.onChan s (chanKey far ch) fun c =>
      { c with
        scrub := 0
        devErr := (c.devErr.map fun e => (e.1, e.2 / 2)).filter fun e => e.2 ≠ 0
        rowErr := c.rowErr.filter fun e => d.fld s .fmRas (chanIdx far ch) 0 35 32 ≤ e.2 }

/-- A scrub read of a ready channel looks at a line and goes on. -/
theorem Dev.scrub_goes {d : Dev} {s : Nat} {far : Bool} {ch : Nat} (on : d.fld s (chanScrub far) (chanIdx far ch) 0 63 63 = 1)
    (some_lines : d.chanLines s far ch ≠ 0) (ready : d.chanState s far ch = 2) (a : Tables) (r : ReadResult) : d.scrub a s far ch r =
      (if d.scrubSkips s far ch (d.chanLine s far ch (d.chan s (chanKey far ch)).scrub) then d
        else d.scrubFinds a s far ch r (d.chanLine s far ch (d.chan s (chanKey far ch)).scrub)).scrubOn s far ch
          (d.chan s (chanKey far ch)).scrub (d.chanLines s far ch) := by
  have goes : ¬(decide (d.fld s (chanScrub far) (chanIdx far ch) 0 63 63 = 0) || decide (d.chanLines s far ch = 0) ||
      decide (d.chanState s far ch ≠ 2)) = true := by simp [on, some_lines, ready]
  exact if_neg goes

section
variable (d : Dev) (s : Nat) (far : Bool) (ch n lines : Nat)

theorem Dev.scrub_scrubOn : ((d.scrubOn s far ch n lines).chan s (chanKey far ch)).scrub = if n + 1 < lines then n + 1 else 0 := by
  unfold Dev.scrubOn
  split
  · rw [Dev.chan_onChan_same]
  · rw [Dev.chan_onChan_same]

theorem Dev.scrubOn_mem : (d.scrubOn s far ch n lines).mem = d.mem := ite_keeps Dev.mem rfl rfl

theorem Dev.scrubCnt_scrubOn (hi lo : Nat) : (d.scrubOn s far ch n lines).fld s (chanScrubCnt far) (chanIdx far ch) 0 hi lo =
    d.fld s (chanScrubCnt far) (chanIdx far ch) 0 hi lo := by
  have other : chanScrubCnt far ≠ chanScrub far := by cases far <;> decide
  refine ite_keeps (fun x : Dev => x.fld s (chanScrubCnt far) (chanIdx far ch) 0 hi lo) (Dev.fld_onChan ..) ?_
  rw [Dev.fld_onChan, Dev.bump, d.fld_setFld_other s s other (chanIdx_scrubCnt far ch) (by cases far <;> decide) (chanIdx_scrub far ch)
    (by cases far <;> decide)]

variable (a : Tables) (r : ReadResult) (pa : Option Nat)

theorem Dev.scrubFinds_mem : (d.scrubFinds a s far ch r pa).mem = d.mem := by
  cases r with
  | clean => rfl
  | correctable dv =>
    unfold Dev.scrubFinds
    dsimp only
    split
    · simp [Dev.reportAt, Dev.bump, Dev.setFld]
    · simp [Dev.reportAt, Dev.bump, Dev.setFld]
  | uncorrectable =>
    unfold Dev.scrubFinds
    dsimp only
    split
    · exact ite_keeps Dev.mem (Dev.reportAt_mem ..) (Dev.reportAt_mem ..)
    · exact Dev.reportAt_mem ..

theorem Dev.corrected_scrubFinds (dv : Fin 10) : (d.scrubFinds a s far ch (.correctable dv) pa).fld s (chanScrubCnt far) (chanIdx far ch) 0
    31 0 = satAdd 32 (d.fld s (chanScrubCnt far) (chanIdx far ch) 0 31 0) 1 := by
  unfold Dev.scrubFinds
  dsimp only
  split
  · rw [Dev.rowError, Dev.fld_onChan, Dev.scrubCnt_deviceError, Dev.reportAt, Dev.fld_reportUnit,
      d.fld_bump_same s (by decide) (by decide)]
  · rw [Dev.reportAt, Dev.fld_reportUnit, d.fld_bump_same s (by decide) (by decide)]

theorem Dev.uncorrected_scrubFinds : (d.scrubFinds a s far ch .uncorrectable pa).fld s (chanScrubCnt far) (chanIdx far ch) 0 63 32 =
    satAdd 32 (d.fld s (chanScrubCnt far) (chanIdx far ch) 0 63 32) 1 := by
  have counted : ((d.bump s (chanScrubCnt far) (chanIdx far ch) 0 63 32 1).reportAt a s (chanSrc far ch) 2 0xFF 12 (pa.getD 0)).fld s
      (chanScrubCnt far) (chanIdx far ch) 0 63 32 = satAdd 32 (d.fld s (chanScrubCnt far) (chanIdx far ch) 0 63 32) 1 := by
    rw [Dev.reportAt, Dev.fld_reportUnit, d.fld_bump_same s (by decide) (by decide)]
  unfold Dev.scrubFinds
  dsimp only
  split
  · exact ite_keeps (fun x : Dev => x.fld s (chanScrubCnt far) (chanIdx far ch) 0 63 32) counted ((Dev.fld_onChan ..).trans counted)
  · exact counted

end

end Sys2Proof.Machine
end

section
/-! Reads and writes of memory that fail, and soft repair (R355, R357, R371, R372). -/

namespace Sys2Proof.Machine

/-! ### Poisoned lines -/

/-- The poison mark is bit 2 of a line's metadata, above its summary. -/
theorem poisonMark : ∀ (p : Bool) (summary : Fin 4), (BitVec.ofNat 3 (p.toNat * 4 + summary.val)).getLsbD 2 = p := by decide

/-- The mark of a line that was put is read as it was put. -/
theorem Dev.poison_putRaw (d : Dev) (loc : Nat) (m : MLine) : ((d.putRaw loc m).rawLine loc).line.poison = m.line.poison := by
  have small : (if isCxl loc then 0 else m.summary % 4) < 4 := by
    split
    · decide
    · exact Nat.mod_lt _ (by decide)
  exact (congrArg (fun x : BitVec 3 => x.getLsbD 2) (Tbl.get_set_same ..)).trans (poisonMark m.line.poison ⟨_, small⟩)

theorem Dev.poison_poisonLine (d : Dev) (pa : Nat) : ((d.poisonLine pa).rawLine pa).line.poison = true := d.poison_putRaw pa _

/-! ### GDDR6_CRC_RETRY (R355) -/

section
variable (a : Tables) (d : Dev) (s ch : Nat) (w : Bool) (pa retries : Nat)

/-- The channel's count of retries, with this command's. -/
def Dev.retriesCounted : Dev := d.bump s .nmChStat (ch % 16) 0 63 32 (Nat.min 4 (retries + 1))

/-- A retry that succeeds, or that fails for a read, is counted and may be reported. -/
theorem Dev.gddr6_keeps {α : Type} (P : Dev → α) (told : ∀ (d : Dev) src cls sub b access addr,
    P (d.reportUnit s src cls sub b access addr) = P d) (mild : retries < 4 ∨ w = false) :
    P (d.gddr6 a s ch w pa retries) = P (d.retriesCounted s ch retries) := by
  unfold Dev.gddr6
  dsimp only
  split
  · exact told ..
  case isFalse fourth =>
    rw [mild.resolve_left fourth]
    rfl

/-- Every outcome of a retry is counted; it may mark the line and be reported. -/
theorem Dev.gddr6_counts {α : Type} (P : Dev → α) (told : ∀ (d : Dev) src cls sub b access addr,
    P (d.reportUnit s src cls sub b access addr) = P d) (marked : ∀ (d : Dev) pa, P (d.poisonLine pa) = P d) :
    P (d.gddr6 a s ch w pa retries) = P (d.retriesCounted s ch retries) :=
  ite_keeps P (told ..) (ite_keeps P rfl (ite_keeps P ((told ..).trans (marked ..)) (told ..)))

theorem Dev.count_gddr6 : (d.gddr6 a s ch w pa retries).fld s .nmChStat (ch % 16) 0 63 32 =
    satAdd 32 (d.fld s .nmChStat (ch % 16) 0 63 32) (Nat.min 4 (retries + 1)) :=
  (d.gddr6_counts a s ch w pa retries (fun x : Dev => x.fld s .nmChStat (ch % 16) 0 63 32) (by simp) (by intros; rfl)).trans
    (d.fld_bump_same s (by decide) (by decide) _)

end

/-! ### UNCORRECTABLE_REREAD (R357) -/

section
variable (a : Tables) (d : Dev) (s : Nat) (far : Bool) (ch pa : Nat)

theorem Dev.poison_reread : ((d.reread a s far ch pa .uncorrectable).rawLine (lineBase pa)).line.poison = true := by
  have marked : (((d.poisonLine (lineBase pa)).reportAt a s (chanSrc far ch) 2 0xFF 1 pa).rawLine (lineBase pa)).line.poison = true := by
    rw [Dev.reportAt, Dev.rawLine_reportUnit, Dev.poison_poisonLine]
  unfold Dev.reread
  dsimp only
  split
  · exact ite_keeps (fun x : Dev => (x.rawLine (lineBase pa)).line.poison) marked marked
  · exact marked

/-- A second read that succeeds stores nothing. -/
theorem Dev.reread_stores {second : ReadResult} (succeeds : second ≠ .uncorrectable) :
    (d.reread a s far ch pa second).mem = d.mem ∧ (d.reread a s far ch pa second).meta_ = d.meta_ := by
  cases second with
  | uncorrectable => exact absurd rfl succeeds
  | clean => exact ⟨Dev.reportAt_mem .., Dev.reportUnit_meta ..⟩
  | correctable dv =>
    unfold Dev.reread
    dsimp only
    split
    · simp [Dev.reportAt]
    · simp [Dev.reportAt]

end

/-! ### SOFT_PPR (R371, R372) -/

/-- A row that has been repaired: the repair of its bank group, its count cleared, and one more repair of the channel. -/
def Dev.rowRepaired (d : Dev) (s ch : Nat) (l : FarLoc) : Dev :=
  (d.onChan s ch fun c =>
      { c with sppr := Tbl.put c.sppr (l.rank * 8 + l.bg) (rowKey l), rowErr := Tbl.set 0 c.rowErr (rowKey l) 0 }).bump s .fmRas ch 0 7 0 1

theorem Dev.softPpr_free {d : Dev} {s ch : Nat} {l : FarLoc} (free : d.blackoutHeld s true ch = false)
    (first : Tbl.find (d.chan s ch).sppr (l.rank * 8 + l.bg) = none)
    (many : Nat.max 1 (d.fld s .fmRas ch 0 35 32) ≤ Tbl.get 0 (d.chan s ch).rowErr (rowKey l)) :
    d.softPpr s ch l = d.rowRepaired s ch l := by
  simp [Dev.softPpr, Dev.rowRepaired, free, first, Nat.not_lt.2 many]

theorem Dev.chan_rowRepaired (d : Dev) (s ch : Nat) (l : FarLoc) : (d.rowRepaired s ch l).chan s ch =
    { d.chan s ch with
      sppr := Tbl.put (d.chan s ch).sppr (l.rank * 8 + l.bg) (rowKey l)
      rowErr := Tbl.set 0 (d.chan s ch).rowErr (rowKey l) 0 } := by
  rw [Dev.rowRepaired, Dev.bump, Dev.chan_setFld, Dev.chan_onChan_same]

theorem Dev.repairs_rowRepaired (d : Dev) (s ch : Nat) (l : FarLoc) :
    (d.rowRepaired s ch l).fld s .fmRas ch 0 7 0 = satAdd 8 (d.fld s .fmRas ch 0 7 0) 1 := by
  rw [Dev.rowRepaired, Dev.fld_bump_same _ _ (by decide) (by decide), Dev.fld_onChan]

end Sys2Proof.Machine
end

section
/-! The tiering engine: the remap table, copies from their start to their end, and epochs (R335, R340 to R344). -/

namespace Sys2Proof.Machine

/-! ### The remap table (R332, R335) -/

section
variable (d : Dev) (s u f : Nat) (e : REnt)

/-- Writing an entry writes memory and the hub's remap cache alone. -/
theorem Dev.setEntry_keeps {α : Type} (P : Dev → α) (mem : ∀ (d : Dev) m, P { d with mem := m } = P d)
    (remap : ∀ (d : Dev) (x : Hub → Tbl (BitVec 32)), P (d.onHub s u fun h => { h with remap := x h }) = P d) :
    P (d.setEntry s u f e) = P d :=
  (foldl_keeps P (fun x _ _ => mem x _) _).trans (remap d _)

/-- A part of the hubs that is not the remap cache. -/
theorem Dev.hub_setEntry {α : Type} (p : Hub → α) (h : ∀ (x : Hub) r, p { x with remap := r } = p x) (t w : Nat) :
    p ((d.setEntry s u f e).hub t w) = p (d.hub t w) :=
  d.setEntry_keeps s u f e (fun x : Dev => p (x.hub t w)) (fun _ _ => rfl) fun x _ => x.onHub_keeps p s u _ (fun y => h y _) t w

theorem Dev.fld_setEntry (t : Nat) (r : Reg) (i j hi lo : Nat) : (d.setEntry s u f e).fld t r i j hi lo = d.fld t r i j hi lo :=
  d.setEntry_keeps s u f e (fun x : Dev => x.fld t r i j hi lo) (fun _ _ => rfl) fun _ _ => Dev.fld_onHub ..

theorem Dev.setEntry_meta : (d.setEntry s u f e).meta_ = d.meta_ :=
  d.setEntry_keeps s u f e Dev.meta_ (fun _ _ => rfl) fun _ _ => rfl

theorem Dev.setEntry_again : (d.setEntry s u f e).again = d.again :=
  d.setEntry_keeps s u f e Dev.again (fun _ _ => rfl) fun _ _ => rfl

theorem Dev.fillSet_mem (set : Nat) : (d.fillSet s u set).mem = d.mem := ite_keeps Dev.mem rfl rfl

/-- A set that is not lost is in the remap cache once it has been filled. -/
theorem Dev.cached_fillSet {d : Dev} {s u set : Nat} (kept : d.setLost s u set = false) :
    Tbl.get false ((d.fillSet s u set).hub s u).cached set = true := by
  unfold Dev.fillSet
  rw [kept, Bool.or_false]
  split
  case isTrue there => exact there
  case isFalse => rw [Dev.hub_onHub_same, Tbl.get_set_same]

end

/-! ### Hubs and their status (R342) -/

@[simp] theorem Dev.hub_showHub (d : Dev) (s u t w : Nat) : (d.showHub s u).hub t w = d.hub t w := by
  rw [Dev.showHub, Dev.hub_setFld, Dev.hub_setFld]

/-- TE_HUB_STAT's count of abandoned copies is no part of what is shown. -/
theorem Dev.abandoned_showHub (d : Dev) (s u : Nat) : (d.showHub s u).fld s .teHubStat u 0 47 24 = d.fld s .teHubStat u 0 47 24 := by
  rw [Dev.showHub, Dev.fld_setFld_apart _ _ _ (by decide) (by decide) (.inr (by decide)),
    Dev.fld_setFld_apart _ _ _ (by decide) (by decide) (.inr (by decide))]

/-! ### COPY_START (R340 to R342) -/

theorem Dev.copyStart_idle {d : Dev} {s u : Nat} (idle : (d.hub s u).queue = []) (a : Tables) : d.copyStart a s u = d := by
  simp only [Dev.copyStart, idle]

/-- The lines that a copy reads, as its slot's buffer holds them. -/
def copyBuffer (pages : List (Nat × List MLine)) : List (Nat × PLine × BitVec 2) :=
  pages.flatMap fun p => (List.range 64).filterMap fun j =>
    p.2[j]? |>.map fun m => (p.1 / 64 + j, m.line, BitVec.ofNat 2 m.summary)

/-- The pages that a copy reads. -/
def Dev.copyPages (d : Dev) (s : Nat) (ms : List (Nat × Nat)) : List (Nat × List MLine) :=
  ms.map fun m => (m.2, d.readPage (d.redirect s m.2))

/-- The pages whose reads failed are reported (R344). -/
def Dev.reportPages (a : Tables) (d : Dev) (s u : Nat) (pages : List (Nat × List MLine)) : Dev :=
  pages.foldl (fun d p => if pageLost p.2 then d.reportAt a s (0x204 + u) 2 0xFF 13 (d.redirect s p.1) else d) d

theorem Dev.hub_reportPages (a : Tables) (d : Dev) (s u : Nat) (pages : List (Nat × List MLine)) (t w : Nat) :
    (d.reportPages a s u pages).hub t w = d.hub t w :=
  foldl_keeps (fun x : Dev => x.hub t w) (fun _ _ _ => ite_keeps (fun x : Dev => x.hub t w) (Dev.hub_reportUnit ..) rfl) d

/-- A copy takes its slot and its berth's budget, and leaves the queue. -/
def Hub.taken (h : Hub) (i : Nat) (c : TCopy) (rest : List TCopy) : Hub :=
  { h with queue := rest, slots := Tbl.put h.slots i c, done := Tbl.set 0 h.done c.berth (Tbl.get 0 h.done c.berth + 1) }

/-- A frame whose copy goes on. -/
def Dev.frameBusy (d : Dev) (s u f : Nat) : Dev := d.setEntry s u f { d.entry s u f with busy := true }

/-- A candidate that may start, at the head of the queue of a hub with a free slot, for a tiered page, as the copy it becomes. -/
theorem Dev.copyStart_starts {a : Tables} {d : Dev} {s u i : Nat} {c : TCopy} {rest : List TCopy} {t : Tier}
    (first : (d.hub s u).queue = c :: rest) (slot : ((List.range 8).find? fun i => (Tbl.find (d.hub s u).slots i).isNone) = some i)
    (tier : d.tierAt a c.page = some t) (supplied : d.dipping s = false) (undue : d.blackoutDue s u = false)
    (free : ((d.copyLocs s (d.copyMoves t c).1).any fun x => d.blockedLoc s x) = false)
    (calm : d.pagesBusy a s (d.copyLocs s (d.copyMoves t c).1) = false)
    (budget : Tbl.get 0 (d.hub s u).done c.berth < d.fld s .tePolicy c.berth 0 11 0) : d.copyStart a s u =
      (((d.reportPages a s u (d.copyPages s (d.copyMoves t c).1)).frameBusy s u c.frame).onHub s u fun h => h.taken i
        { c with read := true, locs := d.copyLocs s (d.copyMoves t c).1, buf := copyBuffer (d.copyPages s (d.copyMoves t c).1) }
        rest).showHub s u := by
  unfold Dev.copyStart
  simp only [first, slot, tier, supplied, undue, free, calm, Bool.or_false, Bool.false_eq_true, if_false, Nat.not_le.2 budget]
  rfl

/-- The hub of a copy that starts: its budget was what it is before the reports. -/
theorem Dev.hub_started (a : Tables) (d : Dev) (s u f i : Nat) (pages : List (Nat × List MLine)) (c : TCopy) (rest : List TCopy) :
    ∃ h : Hub, (((((d.reportPages a s u pages).frameBusy s u f).onHub s u fun h => h.taken i c rest).showHub s u).hub s u) =
      h.taken i c rest ∧ h.done = (d.hub s u).done :=
  ⟨_, (Dev.hub_showHub ..).trans (Dev.hub_onHub_same ..),
    (Dev.hub_setEntry _ s u f _ Hub.done (fun _ _ => rfl) s u).trans (congrArg Hub.done (Dev.hub_reportPages ..))⟩

/-! ### The end of a copy (R342, R343) -/

/-- The requests that both hubs of a socket hold for blocked pages go on. -/
def Dev.release (d : Dev) (s : Nat) : Dev := (d.unblock s 0).unblock s 1

section
variable (d : Dev) (s : Nat)

/-- A hub's waiting requests are the only part of it that is released. -/
theorem Dev.hub_unblock {α : Type} (p : Hub → α) (h : ∀ (x : Hub) ms, p { x with blocked := ms } = p x) (u t w : Nat) :
    p ((d.unblock s u).hub t w) = p (d.hub t w) :=
  d.onHub_keeps p s u (fun x => { x with blocked := [] }) (by intro x; exact h x _) t w

theorem Dev.fld_unblock (u t : Nat) (r : Reg) (i j hi lo : Nat) : (d.unblock s u).fld t r i j hi lo = d.fld t r i j hi lo :=
  d.fld_onHub s u (fun x => { x with blocked := [] }) t r i j hi lo

theorem Dev.slots_release (t w : Nat) : ((d.release s).hub t w).slots = (d.hub t w).slots := by
  rw [Dev.release, Dev.hub_unblock _ s Hub.slots (by intros; rfl), Dev.hub_unblock _ s Hub.slots (by intros; rfl)]

theorem Dev.again_release : (d.release s).again = d.again ++ (d.hub s 0).blocked ++ (d.hub s 1).blocked := by
  have second : (d.unblock s 0).hub s 1 = d.hub s 1 :=
    d.hub_onHub_ne (u := 0) (fun x => { x with blocked := [] }) (.inr (by decide))
  show d.again ++ (d.hub s 0).blocked ++ ((d.unblock s 0).hub s 1).blocked = _
  rw [second]

end

theorem Dev.copyWrite_idle {d : Dev} {s u i : Nat} (idle : Tbl.find (d.hub s u).slots i = none) (a : Tables) : d.copyWrite a s u i = d := by
  unfold Dev.copyWrite
  rw [idle]

theorem Dev.copyAbandon_idle {d : Dev} {s u i : Nat} (idle : Tbl.find (d.hub s u).slots i = none) : d.copyAbandon s u i = d := by
  unfold Dev.copyAbandon
  rw [idle]

/-- What a copy in its write phase stores: its pages, its frame's entry and the heat that moves with them. -/
def Dev.copyStores (a : Tables) (d : Dev) (s u : Nat) (c : TCopy) : Dev :=
  match d.tierAt a c.page with
  | none => d.setEntry s u c.frame { d.entry s u c.frame with busy := false }
  | some t =>
    let (ms, e') := d.copyMoves t c
    let d := ms.foldl (fun (d : Dev) (m : Nat × Nat) => d.writePage (d.redirect s m.1) (c.page64 m.2)) d
    d.moveHeat t c e'

/-- A copy's slot is free, and what waited for its pages goes on. -/
def Dev.copyEnded (d : Dev) (s u i : Nat) : Dev :=
  ((d.onHub s u fun h => { h with slots := Tbl.erase h.slots i }).release s).showHub s u

theorem Dev.copyWrite_ends {d : Dev} {s u i : Nat} {c : TCopy} (held : Tbl.find (d.hub s u).slots i = some c) (a : Tables) :
    d.copyWrite a s u i = (d.copyStores a s u c).copyEnded s u i := by
  unfold Dev.copyWrite
  rw [held]
  rfl

theorem Dev.slot_copyEnded (d : Dev) (s u i : Nat) : Tbl.find ((d.copyEnded s u i).hub s u).slots i = none := by
  rw [Dev.copyEnded, Dev.hub_showHub, Dev.slots_release, Dev.hub_onHub_same, Tbl.find_erase_same]

theorem Dev.again_copyEnded (d : Dev) (s u i : Nat) :
    (d.copyEnded s u i).again = d.again ++ (d.hub s 0).blocked ++ (d.hub s 1).blocked := by
  have blocked (w : Nat) : ((d.onHub s u fun h => { h with slots := Tbl.erase h.slots i }).hub s w).blocked = (d.hub s w).blocked :=
    d.onHub_keeps Hub.blocked s u _ (by intro x; rfl) s w
  refine (Dev.again_release _ s).trans ?_
  rw [blocked, blocked]
  rfl

section
variable {α : Type} (P : Dev → α) (stored : ∀ (d : Dev) m e, P { d with mem := m, meta_ := e } = P d)

include stored in
theorem Dev.writePage_keeps (d : Dev) (loc : Nat) (ls : List MLine) : P (d.writePage loc ls) = P d := by
  refine foldl_keeps P (fun x i _ => ?_) d
  dsimp only
  split
  · exact stored x ..
  · rfl

variable (cached : ∀ (d : Dev) s u (f : Hub → Hub), (∀ h, (f h).blocked = h.blocked) → P (d.onHub s u f) = P d)
include stored cached

theorem Dev.moveHeat_keeps (d : Dev) (t : Tier) (c : TCopy) (e : REnt) : P (d.moveHeat t c e) = P d := by
  have entry (d : Dev) (s u f : Nat) (e : REnt) : P (d.setEntry s u f e) = P d :=
    d.setEntry_keeps s u f e P (fun d m => stored d m d.meta_) (fun d x => cached d s u _ (by intro h; rfl))
  have dropped (h : Hub) (pa : Nat) : (h.dropHeat pa).blocked = h.blocked := by
    unfold Hub.dropHeat
    split
    · rfl
    · rfl
  unfold Dev.moveHeat
  dsimp only
  rw [entry, cached]
  intro h
  split
  · exact dropped ..
  · exact dropped ..

/-- What a copy stores lies in memory, its marks and the hubs' remap and heat caches: nothing that waits is among it. -/
theorem Dev.copyStores_keeps (a : Tables) (d : Dev) (s u : Nat) (c : TCopy) : P (d.copyStores a s u c) = P d := by
  unfold Dev.copyStores
  split
  · exact d.setEntry_keeps s u _ _ P (fun d m => stored d m d.meta_) (fun d x => cached d s u _ (by intro h; rfl))
  · exact (Dev.moveHeat_keeps P stored cached ..).trans (foldl_keeps P (fun x _ _ => Dev.writePage_keeps P stored x ..) d)

end

section
variable {d : Dev} {s u i : Nat} {c : TCopy} (held : Tbl.find (d.hub s u).slots i = some c) (a : Tables)
include held

theorem Dev.slot_copyWrite : Tbl.find ((d.copyWrite a s u i).hub s u).slots i = none := by
  rw [Dev.copyWrite_ends held, Dev.slot_copyEnded]

theorem Dev.again_copyWrite : (d.copyWrite a s u i).again = d.again ++ (d.hub s 0).blocked ++ (d.hub s 1).blocked := by
  have again : (d.copyStores a s u c).again = d.again := Dev.copyStores_keeps Dev.again (by intros; rfl) (by intros; rfl) ..
  have blocked (w : Nat) : ((d.copyStores a s u c).hub s w).blocked = (d.hub s w).blocked :=
    Dev.copyStores_keeps (fun x : Dev => (x.hub s w).blocked) (by intros; rfl) (fun x t v f h => x.onHub_keeps Hub.blocked t v f h s w) ..
  rw [Dev.copyWrite_ends held, Dev.again_copyEnded, again, blocked, blocked]

end

/-! ### COPY_ABANDON (R343) -/

/-- A frame without a copy. -/
def Dev.frameIdle (d : Dev) (s u f : Nat) : Dev := d.setEntry s u f { d.entry s u f with busy := false }

/-- The slot of a copy is free, and its berth's budget is its own again. -/
def Hub.givenUp (h : Hub) (i : Nat) (c : TCopy) : Hub :=
  { h with slots := Tbl.erase h.slots i, done := Tbl.set 0 h.done c.berth (Tbl.get 0 h.done c.berth - 1) }

/-- A copy that is given up, before what waited for its pages goes on. -/
def Dev.copyGivenUp (d : Dev) (s u i : Nat) (c : TCopy) : Dev := (d.frameIdle s u c.frame).onHub s u fun h => h.givenUp i c

theorem Dev.copyAbandon_gives {d : Dev} {s u i : Nat} {c : TCopy} (held : Tbl.find (d.hub s u).slots i = some c) :
    d.copyAbandon s u i = (((d.copyGivenUp s u i c).release s).bump s .teHubStat u 0 47 24 1).showHub s u := by
  unfold Dev.copyAbandon
  rw [held]
  rfl

section
variable (d : Dev) (s u i : Nat) (c : TCopy)

theorem Dev.slot_copyGivenUp : Tbl.find ((d.copyGivenUp s u i c).hub s u).slots i = none := by
  rw [Dev.copyGivenUp, Dev.hub_onHub_same, Hub.givenUp, Tbl.find_erase_same]

theorem Dev.blocked_copyGivenUp (w : Nat) : ((d.copyGivenUp s u i c).hub s w).blocked = (d.hub s w).blocked :=
  (Dev.onHub_keeps Hub.blocked (d.frameIdle s u c.frame) s u (fun h => h.givenUp i c) (by intro x; rfl) s w).trans
    (d.hub_setEntry s u c.frame _ Hub.blocked (by intros; rfl) s w)

theorem Dev.copyGivenUp_again : (d.copyGivenUp s u i c).again = d.again := by
  rw [Dev.copyGivenUp, Dev.onHub_again, Dev.frameIdle, Dev.setEntry_again]

theorem Dev.copyGivenUp_meta : (d.copyGivenUp s u i c).meta_ = d.meta_ := by
  rw [Dev.copyGivenUp, Dev.onHub_meta, Dev.frameIdle, Dev.setEntry_meta]

theorem Dev.fld_copyGivenUp (t : Nat) (r : Reg) (j k hi lo : Nat) : (d.copyGivenUp s u i c).fld t r j k hi lo = d.fld t r j k hi lo := by
  rw [Dev.copyGivenUp, Dev.fld_onHub, Dev.frameIdle, Dev.fld_setEntry]

end

section
variable {d : Dev} {s u i : Nat} {c : TCopy} (held : Tbl.find (d.hub s u).slots i = some c)
include held

theorem Dev.slot_copyAbandon : Tbl.find ((d.copyAbandon s u i).hub s u).slots i = none := by
  rw [Dev.copyAbandon_gives held, Dev.hub_showHub, Dev.bump, Dev.hub_setFld, Dev.slots_release, Dev.slot_copyGivenUp]

theorem Dev.again_copyAbandon : (d.copyAbandon s u i).again = d.again ++ (d.hub s 0).blocked ++ (d.hub s 1).blocked := by
  rw [Dev.copyAbandon_gives held]
  refine (Dev.again_release _ s).trans ?_
  rw [Dev.copyGivenUp_again, Dev.blocked_copyGivenUp, Dev.blocked_copyGivenUp]

theorem Dev.copyAbandon_meta : (d.copyAbandon s u i).meta_ = d.meta_ := by
  rw [Dev.copyAbandon_gives held]
  exact d.copyGivenUp_meta s u i c

theorem Dev.abandoned_copyAbandon :
    (d.copyAbandon s u i).fld s .teHubStat u 0 47 24 = satAdd 24 (d.fld s .teHubStat u 0 47 24) 1 := by
  rw [Dev.copyAbandon_gives held, Dev.abandoned_showHub, Dev.fld_bump_same _ _ (by decide) (by decide), Dev.release, Dev.fld_unblock,
    Dev.fld_unblock, Dev.fld_copyGivenUp]

end

/-! ### Epochs (R341) -/

theorem nextThresh_lt {t tMin : Nat} (small : t < 256) (least : tMin < 256) (budget done refused : Nat) :
    nextThresh t tMin budget done refused < 256 := by
  unfold nextThresh
  split
  · exact Nat.lt_of_le_of_lt (Nat.min_le_left ..) (by decide)
  · split
    · exact Nat.max_lt.2 ⟨least, by omega⟩
    · exact small

/-- The end of an epoch for one berth at one hub. -/
def Dev.berthEpochEnd (d : Dev) (s hub b : Nat) : Dev :=
  let h := d.hub s hub
  let done := Tbl.get 0 h.done b
  let refused := Tbl.get 0 h.refused b
  let t := nextThresh (d.fld s .teState hub b 55 48) (d.fld s .tePolicy b 0 39 32) (d.fld s .tePolicy b 0 11 0) done refused
  let d := (d.setFld s .teState hub b 55 48 t).setFld s .teState hub b 35 24 (satAdd 12 refused 0)
  (d.setFld s .teState hub b 11 0 (satAdd 12 done 0)).onHub s hub fun h =>
    { h with done := Tbl.set 0 h.done b 0, refused := Tbl.set 0 h.refused b 0 }

theorem Dev.tieringEpochEnd_eq (d : Dev) (s : Nat) :
    d.tieringEpochEnd s = (List.range 128).foldl (fun d i => d.berthEpochEnd s (i / 64) (i % 64)) d := rfl

/-- What the end of an epoch reads and writes of a berth at a hub: TE_STATE, TE_POLICY, and the copies made and refused. -/
def Dev.epochOf (d : Dev) (s u b : Nat) : Word × Word × Nat × Nat :=
  (d.reg s .teState u b, d.reg s .tePolicy b 0, Tbl.get 0 (d.hub s u).done b, Tbl.get 0 (d.hub s u).refused b)

section
variable (d : Dev) (s : Nat) {u b : Nat}

/-- A berth's end of an epoch leaves TE_POLICY, the other berths and the other hub. -/
theorem Dev.epochOf_other (berth : b < 64) {w c : Nat} (hub' : w < 2) (berth' : c < 64) (other : u ≠ w ∨ b ≠ c) :
    (d.berthEpochEnd s w c).epochOf s u b = d.epochOf s u b := by
  have apart : Reg.teState.at u b ≠ Reg.teState.at w c := by
    simp only [Reg.at, Reg.place]
    omega
  have state : (d.berthEpochEnd s w c).reg s .teState u b = d.reg s .teState u b := by
    simp only [Dev.berthEpochEnd, Dev.reg_onHub, Dev.reg_setFld_ne _ _ _ _ (.inr (.inr apart))]
  have policy : (d.berthEpochEnd s w c).reg s .tePolicy b 0 = d.reg s .tePolicy b 0 := by
    simp only [Dev.berthEpochEnd, Dev.reg_onHub,
      Dev.reg_setFld_other _ s s (show Reg.tePolicy ≠ .teState by decide) berth Nat.zero_lt_one hub' berth']
  have counts : Tbl.get 0 ((d.berthEpochEnd s w c).hub s u).done b = Tbl.get 0 (d.hub s u).done b ∧
      Tbl.get 0 ((d.berthEpochEnd s w c).hub s u).refused b = Tbl.get 0 (d.hub s u).refused b := by
    by_cases here : u = w
    · subst here
      have n : b ≠ c := other.resolve_left fun h => h rfl
      simp only [Dev.berthEpochEnd, Dev.hub_onHub_same, Dev.hub_setFld, Tbl.get_set_ne _ _ _ _ n, and_self]
    · simp only [Dev.berthEpochEnd, Dev.hub_onHub_ne _ _ (.inr here), Dev.hub_setFld, and_self]
  simp only [Dev.epochOf, state, policy, counts]

/-- The threshold moves as the epoch's counts say. -/
theorem Dev.threshold_berthEpochEnd : (d.berthEpochEnd s u b).fld s .teState u b 55 48 =
    nextThresh (d.fld s .teState u b 55 48) (d.fld s .tePolicy b 0 39 32) (d.fld s .tePolicy b 0 11 0) (Tbl.get 0 (d.hub s u).done b)
      (Tbl.get 0 (d.hub s u).refused b) := by
  have small (r : Reg) (i j hi lo : Nat) : d.fld s r i j hi lo < 2 ^ (hi + 1 - lo) := Nat.mod_lt _ (Nat.two_pow_pos _)
  rw [Dev.berthEpochEnd, Dev.fld_onHub, Dev.fld_setFld_apart _ _ _ (by decide) (by decide) (.inl (by decide)),
    Dev.fld_setFld_apart _ _ _ (by decide) (by decide) (.inl (by decide)),
    Dev.fld_setFld_same _ _ (by decide) (by decide) (nextThresh_lt (small ..) (small ..) ..)]

theorem Dev.counts_berthEpochEnd : Tbl.get 0 ((d.berthEpochEnd s u b).hub s u).done b = 0 ∧
    Tbl.get 0 ((d.berthEpochEnd s u b).hub s u).refused b = 0 := by
  simp only [Dev.berthEpochEnd, Dev.hub_onHub_same, Tbl.get_set_same, and_self]

/-- The end of an epoch is the end of it for each berth at each hub. -/
theorem Dev.epochOf_tieringEpochEnd (hub : u < 2) (berth : b < 64) : ∃ x : Dev, x.epochOf s u b = d.epochOf s u b ∧
    (d.tieringEpochEnd s).epochOf s u b = (x.berthEpochEnd s u b).epochOf s u b := by
  have at_ : (u * 64 + b) / 64 = u ∧ (u * 64 + b) % 64 = b := by omega
  obtain ⟨x, before, after⟩ := foldl_visits (fun x : Dev => x.epochOf s u b) (f := fun d i => d.berthEpochEnd s (i / 64) (i % 64))
    (l := List.range 128) (y := u * 64 + b) (List.mem_range.2 (by omega)) List.nodup_range
    (fun x z m n => x.epochOf_other s berth (by have := List.mem_range.1 m; omega) (Nat.mod_lt _ (by decide)) (by omega)) d
  rw [at_.1, at_.2] at after
  exact ⟨x, before, d.tieringEpochEnd_eq s ▸ after⟩

/-- Every berth's threshold moves on both hubs, and its counts start again. -/
theorem Dev.tieringEpochEnd_berth (hub : u < 2) (berth : b < 64) :
    (d.tieringEpochEnd s).fld s .teState u b 55 48 = nextThresh (d.fld s .teState u b 55 48) (d.fld s .tePolicy b 0 39 32)
      (d.fld s .tePolicy b 0 11 0) (Tbl.get 0 (d.hub s u).done b) (Tbl.get 0 (d.hub s u).refused b) ∧
    Tbl.get 0 ((d.tieringEpochEnd s).hub s u).done b = 0 ∧ Tbl.get 0 ((d.tieringEpochEnd s).hub s u).refused b = 0 := by
  obtain ⟨x, before, after⟩ := d.epochOf_tieringEpochEnd s hub berth
  simp only [Dev.epochOf, Prod.mk.injEq] at before after
  obtain ⟨state, policy, done, refused⟩ := before
  obtain ⟨state', -, done', refused'⟩ := after
  have moved := x.threshold_berthEpochEnd s (u := u) (b := b)
  simp only [Dev.fld] at moved ⊢
  rw [state', done', refused', moved, state, policy, done, refused]
  exact ⟨rfl, x.counts_berthEpochEnd s⟩

end

end Sys2Proof.Machine
end

section
/-! The statement on memory and tiering (R319 to R326, R341 to R343, R355 to R359, R371). -/

namespace Sys2Proof.Machine

/-- Settles O51: each command is one function of its socket, which does what its rule says. -/
theorem memoryAndTieringEvents : Obligations.MemoryAndTieringEvents := by
  intro s sk far ch ok ns port gibs r w la retries fc rank sub bg bank row u slot set
  dsimp only
  have near : ch.val % 16 = ch.val := Nat.mod_eq_of_lt ch.isLt
  have few : fc.val % 12 = fc.val := Nat.mod_eq_of_lt fc.isLt
  refine ⟨fun unready => ?_, fun enabled ready empty supplied open_ => ?_, ?_, fun up there cxl => ?_, ?_, fun on lines ready => ?_, ?_, ?_,
    fun empty supplied open_ first many => ?_, fun idle => ?_,
    fun c rest k t first slot tier supplied undue free calm budget => ?_, fun idle => ⟨?_, ?_⟩, fun held => ⟨?_, ?_⟩, ?_,
    fun below on kept => ?_⟩
  · exact State.next_withDev (d := s.dev) (Dev.retrain_unready unready ok _)
  · exact ⟨_, State.next_withDev (Dev.retrain_free enabled ready (Dev.blackoutHeld_free empty supplied open_) ok _),
      Dev.longest_blackout _ _ far ch.val ok ns.isLt, Dev.count_blackout _ _ far ch.val ok _, Dev.failures_blackout _ _ far ch.val ok _⟩
  · exact ⟨_, State.next_withDev rfl, Dev.due_cxlTimeout .., Dev.timeouts_cxlTimeout ..⟩
  · have reg := Dev.reg_cxlAdd up there cxl gibs
    refine ⟨_, State.next_withDev rfl, Dev.expanders_cxlAdd up there cxl gibs, ?_, ?_, ?_⟩
    · rw [Dev.fld, reg, bits_cxlMapped_state]
    · rw [Dev.fld, reg, bits_cxlMapped_count _ (Nat.min_le_left ..)]
    · rw [Dev.fld, reg, bits_cxlMapped_size _ (Nat.min_le_left ..)]
  · refine ⟨_, State.next_withDev rfl, ?_, ?_, Dev.state_cxlLost ..⟩
    · rw [Dev.port_cxlLost]
    · rw [Dev.port_cxlLost]
  · refine ⟨_, State.next_withDev (Dev.scrub_goes on lines ready _ r), Dev.scrub_scrubOn .., ?_,
      fun looks => ⟨fun lost => ?_, fun found dirty => ?_⟩⟩
    · rw [Dev.scrubOn_mem]
      exact ite_keeps Dev.mem rfl (Dev.scrubFinds_mem ..)
    · rw [looks, lost]
      exact (Dev.scrubCnt_scrubOn ..).trans (Dev.uncorrected_scrubFinds ..)
    · obtain ⟨dv, rfl⟩ : ∃ dv, r = .correctable dv := by
        cases r with
        | clean => exact absurd rfl dirty
        | correctable dv => exact ⟨dv, rfl⟩
        | uncorrectable => exact absurd rfl found
      rw [looks]
      exact (Dev.scrubCnt_scrubOn ..).trans (Dev.corrected_scrubFinds ..)
  · have count := Dev.count_gddr6 s.adm.tab s.dev sk.val ch.val w la.toNat retries.val
    rw [near] at count
    exact ⟨_, State.next_withDev rfl, count, fun mild => ⟨Dev.gddr6_keeps _ _ _ _ _ _ _ Dev.mem (by simp) mild,
      Dev.gddr6_keeps _ _ _ _ _ _ _ Dev.meta_ (by simp) mild⟩⟩
  · exact ⟨_, State.next_withDev rfl, fun failed => failed ▸ Dev.poison_reread .., fun succeeds => Dev.reread_stores _ _ _ _ _ _ succeeds⟩
  · have home : chanHub true fc.val = fc.val / 6 := congrArg (· / 6) few
    have free := Dev.blackoutHeld_free (far := true) (ch := fc.val) (home ▸ empty) supplied open_
    refine ⟨_, State.next_withDev (Dev.softPpr_free free first many), ?_, ?_, Dev.repairs_rowRepaired .., rfl⟩
    · rw [Dev.chan_rowRepaired, Tbl.find_put_same]
    · rw [Dev.chan_rowRepaired, Tbl.get_set_same]
  · exact State.next_withDev (d := s.dev) (Dev.copyStart_idle idle _)
  · obtain ⟨h, hub, done⟩ := Dev.hub_started s.adm.tab s.dev sk.val u.val c.frame k
      (s.dev.copyPages sk.val (s.dev.copyMoves t c).1) _ rest
    refine ⟨_, State.next_withDev (Dev.copyStart_starts first slot tier supplied undue free calm budget), ?_, ?_, ?_⟩
    · rw [hub, Hub.taken]
    · rw [hub]
      exact ⟨_, Tbl.find_put_same .., rfl, rfl, rfl⟩
    · rw [hub, Hub.taken, done, Tbl.get_set_same]
  · exact State.next_ended (Dev.copyWrite_idle idle _)
  · exact State.next_ended (Dev.copyAbandon_idle idle)
  · obtain ⟨c, found⟩ := Option.ne_none_iff_exists'.1 held
    exact ⟨_, State.next_ended rfl, Dev.slot_copyWrite found _, Dev.again_copyWrite found _⟩
  · obtain ⟨c, found⟩ := Option.ne_none_iff_exists'.1 held
    exact ⟨_, State.next_ended rfl, Dev.slot_copyAbandon found, Dev.again_copyAbandon found, Dev.copyAbandon_meta found,
      Dev.abandoned_copyAbandon found⟩
  · exact ⟨_, State.next_withDev rfl, fun b berth => Dev.tieringEpochEnd_berth _ _ u.isLt berth⟩
  · exact ⟨_, State.next_withDev (if_pos (by simp [below, on])), Dev.cached_fillSet kept, Dev.fillSet_mem ..⟩

end Sys2Proof.Machine
end

section
/-! Every command answers a next state and leaves the queue, from whose front a step takes it. -/

namespace Sys2Proof.Machine

/-- Settles O1: with a command at the front, a step is that command on the rest. -/
theorem stepTakesFront : Obligations.StepTakesFront := fun _ _ _ => rfl

/-- An administration command changes the berth tables and the sockets. -/
theorem exec_of_administration {c : Instr} (admin : c.isAdministration = true) (s : State) :
    ∃ f : Admin → Dev → Admin × Dev, exec c s = .next (s.onTables f) := by
  cases c
  case coldReset | warmReset | berthReset | whr | standbyBootTimeout | submit | removalAck | drainTimeout | join | leave |
      socketSilent | berthRelease | activate | sparePodSubstitution | dipEnd | railResetThreshold | power | faultMessage =>
    exact ⟨_, rfl⟩
  all_goals cases admin

/-- Settles O2: a command acts on the sockets, or on the sockets and the berth tables; neither way touches the queue. -/
theorem execKeepsQueue : Obligations.ExecKeepsQueue := by
  intro c s
  cases admin : c.isAdministration with
  | false =>
    obtain ⟨f, changed⟩ := exec_of_not_administration admin s
    exact ⟨_, changed, s.onDev_pending f⟩
  | true =>
    obtain ⟨f, changed⟩ := exec_of_administration admin s
    exact ⟨_, changed, s.onTables_pending f⟩

end Sys2Proof.Machine
end

section
/-! Register writes to the fault collector (R375, R381 to R383, R543). -/

namespace Sys2Proof.Machine

/-- Words that agree on the bits of a field have the same field. -/
theorem bits_congr {v w : Word} {hi lo : Nat} (agree : ∀ i, lo ≤ i → i ≤ hi → bit v i = bit w i) : bits v hi lo = bits w hi lo := by
  apply Nat.eq_of_testBit_eq
  intro k
  rw [testBit_bits, testBit_bits]
  by_cases field : k < hi + 1 - lo
  · have same := agree (lo + k) (by omega) (by omega)
    rw [bit, bit] at same
    rw [same]
  · rw [decide_eq_false field, Bool.false_and, Bool.false_and]

/-- A bit of a word whose field takes the field of another. -/
theorem bit_putBits_bits (v w : Word) {hi lo i : Nat} (order : lo ≤ hi) (inside : i < 64) :
    bit (putBits v hi lo (bits w hi lo)) i = if lo ≤ i ∧ i ≤ hi then bit w i else bit v i := by
  rw [bit, getLsbD_putBits v order _ inside, testBit_bits]
  split
  next field => rw [decide_eq_true (by omega), Bool.true_and, Nat.add_sub_cancel' field.1, bit]
  next => rfl

/-! ### Forced errors (R381) -/

/-- What a write of FC_SRC_SEV stores: FORCE stays as it is. -/
def Dev.sevWord (d : Dev) (s src : Nat) (v : Word) : Word :=
  putBit (Reg.fcSrcSev.written false false (d.reg s .fcSrcSev src 0) v) 63 (bit (d.reg s .fcSrcSev src 0) 63)

/-- FORCE_CLASS and FORCE_SUB are stored as they are written. -/
theorem bits_sevWord (d : Dev) (s src : Nat) (v : Word) : bits (d.sevWord s src v) 59 48 = bits v 59 48 := by
  refine bits_congr fun i low high => ?_
  have below : ¬(0 ≤ i ∧ i ≤ 47) := by omega
  simp only [Dev.sevWord, putBit, Reg.written, Reg.fields, List.foldl_cons, List.foldl_nil, Bool.false_and, Bool.false_eq_true, if_false]
  rw [bit_putBits_apart _ _ (Nat.le_refl 63) (by omega) (.inr (by omega)), bit_putBits_bits _ v (by decide) (by omega), if_neg below,
    bit_putBits_bits _ v (by decide) (by omega), bit_putBits_bits _ v (by decide) (by omega)]
  by_cases sub : i ≤ 55
  · rw [if_pos ⟨low, sub⟩]
  · rw [if_neg (by omega), if_pos (by omega)]

/-- STATE stands in bits 63 and 62 of FC_FENCE_A. -/
theorem bits_fenceWord (st : BitVec 2) : bits (word (st.toNat * 2 ^ 62)) 63 62 = st.toNat := by
  have small : st.toNat < 2 ^ 2 := st.isLt
  have whole : (word (st.toNat * 2 ^ 62)).toNat = st.toNat * 2 ^ 62 := by
    rw [word, BitVec.toNat_ofNat, Nat.mod_eq_of_lt (by omega)]
  rw [bits, nbits, whole, Nat.shiftRight_eq_div_pow, Nat.mul_div_cancel _ (by decide), Nat.mod_eq_of_lt small]

section
variable {s : State} {q : Requester} (wheel : q.berth = 0) (sk : Sock)
include wheel

theorem exec_force (src : BitVec 12) (v : Word) (known : sourceExists src.toNat = true)
    (idle : bit (s.dev.reg sk.val .fcSrcSev src.toNat 0) 63 = false) : exec (.force q sk src v) s = .next (s.done
      ((s.dev.setReg sk.val .fcSrcSev src.toNat 0 (s.dev.sevWord sk.val src.toNat (putBit v 63 true))).force s.adm.tab sk.val
        src.toNat)) := by
  have forced : (bit (putBit v 63 true) 63 && !bit (s.dev.reg sk.val .fcSrcSev src.toNat 0) 63 && sourceExists src.toNat) = true := by
    rw [bit_putBit_pend, idle, known]
    rfl
  refine State.next_withDev (writeRegister_of_wheel wheel rfl rfl src.isLt (by decide) ?_ ?_ ?_)
  · simp only [Reg.at, Reg.place]; omega
  · simp only [Reg.at, Reg.place]; omega
  · rw [Dev.regStore, Dev.writeSev, if_pos forced, Dev.sevWord]

/-! ### The queue and the first record (R382, R383) -/

theorem exec_pop : exec (.pop q sk) s = .next (s.done (s.dev.popFault sk.val)) :=
  State.next_withDev (writeRegister_of_wheel wheel rfl rfl (by decide) (by decide) (by decide) (by decide) rfl)

theorem exec_firstRearm : exec (.firstRearm q sk) s = .next (s.done (s.dev.setReg sk.val .fcFirstCtl 0 0 0)) :=
  State.next_withDev (writeRegister_of_wheel wheel rfl rfl (by decide) (by decide) (by decide) (by decide) rfl)

/-! ### The logs of the sources (R375) -/

theorem exec_errLogRearm (src : BitVec 12) :
    exec (.errLogRearm q sk src) s = .next (s.withDev ((s.dev.logRearm sk.val src.toNat).answer [0])) := by
  refine State.next_withDev ?_
  rw [if_neg (by rw [mayReach_of_wheel wheel]; decide), if_neg (not_not.2 wheel)]

/-! ### The fence table (R543) -/

theorem exec_fenceStateWrite (n : Fin 512) (st : BitVec 2) : exec (.fenceStateWrite q sk n st) s = .next (s.done
    (if isHepin sk.val q.master.toNat then s.dev.writeFence s.adm.tab sk.val n.val st.toNat else s.dev)) := by
  refine State.next_withDev (writeRegister_of_wheel wheel rfl rfl n.isLt (by decide) ?_ ?_ ?_)
  · simp only [Reg.at, Reg.place]; omega
  · simp only [Reg.at, Reg.place]; omega
  · rw [Dev.regStore, bits_fenceWord]

end

/-- A rearm clears VALID, LOST and COUNT of a log and keeps the rest. -/
theorem Dev.logWord_logRearm (d : Dev) (s src : Nat) :
    ((d.logRearm s src).sock s).faults.logWord src 0 =
      putBits (putBits ((d.sock s).faults.logWord src 0) 63 62 0) 55 40 0 ∧
    ((d.logRearm s src).sock s).faults.logWord src 1 = (d.sock s).faults.logWord src 1 := by
  simp only [Dev.logRearm, Dev.sock_onSock_same, Faults.logWord, Faults.setLog]
  exact ⟨Tbl.get_set_same .., Tbl.get_set_ne _ _ _ _ (by omega)⟩

/-- A log belongs to the Wheelhouse view: a berth's rearm is dropped with a Note. -/
theorem exec_errLogRearm_of_berth {s : State} {q : Requester} (berth : q.berth ≠ 0) (high : q.high = true) (sk : Sock) (src : BitVec 12) :
    exec (.errLogRearm q sk src) s = .next (s.withDev ((s.dev.regNote sk.val q 0).answer [0])) := by
  refine State.next_withDev ?_
  rw [if_neg (by simp [Requester.mayReach, high]), if_pos berth]

/-- Settles O44: each of the commands is one write of the register space from the Wheelhouse view; the logs lie there alone. -/
theorem faultRegisterCommands : Obligations.FaultRegisterCommands := by
  intro s q sk src v n st
  refine ⟨fun wheel => ⟨fun known idle => ⟨_, exec_force wheel sk src v known idle, ?_⟩, exec_pop wheel sk, exec_firstRearm wheel sk,
    ⟨_, exec_errLogRearm wheel sk src, ?_⟩, exec_fenceStateWrite wheel sk n st⟩,
    fun berth high => exec_errLogRearm_of_berth berth high sk src⟩
  · rw [bits_sevWord]
    exact bits_putBits_apart _ _ (Nat.le_refl 63) (by decide) (.inr (by decide))
  · obtain ⟨first, second⟩ := s.dev.logWord_logRearm sk.val src.toNat
    rw [State.withDev_dev, Dev.sock_answer, Dev.answer_net, first, second]
    refine ⟨?_, bits_putBits_same _ (by decide) (by decide) (by decide), ?_, rfl, rfl⟩
    · rw [bits_putBits_apart _ 0 (by decide) (by decide) (.inl (by decide)), bits_putBits_same _ (by decide) (by decide) (by decide)]
    · rw [bits_putBits_apart _ 0 (by decide) (by decide) (.inr (by decide)),
        bits_putBits_apart _ 0 (by decide) (by decide) (.inr (by decide))]

end Sys2Proof.Machine
end

section
/-! Register writes to slips, doorbells and bollards (R432 to R436, R441, R442), from any view that shows the register. -/

namespace Sys2Proof.Machine

/-! ### A write that a view shows -/

theorem mayReach_of_opens {s : State} {q : Requester} {sk : Sock} {r : Reg} {i j : Nat} {v : Word} (opens : s.opens q sk r i j v = true) :
    Requester.mayReach q = true := by
  simp only [State.opens, Bool.and_eq_true] at opens
  exact opens.1.1

/-- The registers of slips, doorbells and bollards that a write reaches. -/
def slipRegs : List Reg := [.mbData, .mbCtl, .mbDone, .mbCfg, .dbPend, .bl, .blRel, .blCfg]

/-- Each of them lies in the register space, outside the berth tables, at aligned offsets. -/
theorem place_of_slipRegs {r : Reg} (m : r ∈ slipRegs) {i j : Nat} (hi : i < r.place.c1) (hj : j < r.place.c2) :
    r.place.bar = false ∧ ¬(0x02000000 ≤ r.at i j ∧ r.at i j < 0x03000000) ∧ r.at i j % 8 = 0 := by
  simp only [slipRegs, List.mem_cons, List.not_mem_nil, or_false] at m
  rcases m with rfl | rfl | rfl | rfl | rfl | rfl | rfl | rfl <;>
    simp only [Reg.at, Reg.place] at hi hj ⊢ <;> exact ⟨trivial, by omega, by omega⟩

/-- A write that the view shows is its register's store: done, or answered with a bus error. -/
theorem writeRegister_of_opens {s : State} {q : Requester} {sk : Sock} {r : Reg} (slip : r ∈ slipRegs) {i j : Nat} (hi : i < r.place.c1)
    (hj : j < r.place.c2) {v : Word} (opens : s.opens q sk r i j v = true) {error : Bool} {d : Dev}
    (stored : s.dev.regStore s.adm sk.val q r i j (r.at i j) v = (error, d)) :
    s.dev.writeRegister s.adm q sk.val r i j v = (d.answer [word error.toNat]).finish s.adm := by
  obtain ⟨space, noTable, aligned⟩ := place_of_slipRegs slip hi hj
  have written := (regWrite_of_opens opens space hi hj noTable).trans stored
  simp only [Dev.writeRegister, Dev.writeCommand, mayReach_of_opens opens, regStoreSized_of_aligned aligned, written, Bool.not_true,
    Bool.false_eq_true, if_false]

section
variable {s : State} {q : Requester} {sk : Sock}

/-! ### Admission to a slip (R434, R435) -/

theorem Dev.slipEntry_free {d : Dev} {s n : Nat} {q : Requester} (running : d.runs s = true)
    (sender : d.isSender s n q.master.toNat = true) (free : d.slipFull s n = false) (off : Nat) : d.slipEntry s n q off = (.yes, d) := by
  simp [Dev.slipEntry, running, sender, free]

theorem Dev.slipEntry_full {d : Dev} {s n : Nat} {q : Requester} (running : d.runs s = true)
    (sender : d.isSender s n q.master.toNat = true) (full : d.slipFull s n = true) (off : Nat) :
    d.slipEntry s n q off = (.dropped, (d.bump s .mbDrop n 0 31 0 1).setFld s .mbStat n 0 3 3 1) := by
  simp [Dev.slipEntry, running, sender, full]

theorem Dev.slipEntry_stranger {d : Dev} {s n : Nat} {q : Requester} (running : d.runs s = true)
    (stranger : d.isSender s n q.master.toNat = false) (off : Nat) : d.slipEntry s n q off = (.dropped, d.slipNote s q off) := by
  simp [Dev.slipEntry, running, stranger]

theorem Dev.slipEntry_outside_run {d : Dev} {s n : Nat} {q : Requester} (stopped : d.runs s = false) (full : d.slipFull s n = true)
    (off : Nat) : d.slipEntry s n q off = (.busError, d.slipNote s q off) := by
  simp [Dev.slipEntry, stopped, full]

/-! ### Writing a slip (R433 to R435) -/

/-- A write of a slip's data follows its admission. -/
theorem exec_mbDataWrite {n : BitVec 8} {i : Fin 16} {v : Word} (opens : s.opens q sk .mbData n.toNat i.val v = true) {error : Bool}
    {d : Dev} (written : s.dev.writeMbData sk.val n.toNat i.val q v = (error, d)) :
    exec (.mbDataWrite q sk n i v) s = .next (s.ended (d.answer [word error.toNat])) :=
  State.next_withDev (writeRegister_of_opens (by decide) n.isLt i.isLt opens written)

/-- GO and LEN of the word that POST writes. -/
theorem bits_postWord (len : BitVec 5) : bit (word (2 ^ 63 + len.toNat)) 63 = true ∧ bits (word (2 ^ 63 + len.toNat)) 4 0 = len.toNat := by
  have small : len.toNat < 2 ^ 5 := len.isLt
  have whole : (word (2 ^ 63 + len.toNat)).toNat = 2 ^ 63 + len.toNat := by
    rw [word, BitVec.toNat_ofNat, Nat.mod_eq_of_lt (by omega)]
  refine ⟨?_, ?_⟩
  · rw [bit, ← BitVec.testBit_toNat, whole, Nat.testBit_two_pow_add_eq, Nat.testBit_lt_two_pow (by omega)]
    rfl
  · rw [bits, nbits, whole, Nat.shiftRight_zero]
    omega

theorem exec_post {n : BitVec 8} {len : BitVec 5} (opens : s.opens q sk .mbCtl n.toNat 0 (word (2 ^ 63 + len.toNat)) = true)
    (running : s.dev.runs sk.val = true) (sender : s.dev.isSender sk.val n.toNat q.master.toNat = true)
    (free : s.dev.slipFull sk.val n.toNat = false) :
    exec (.post q sk n len) s = .next (s.done (s.dev.postSlip sk.val n.toNat len.toNat)) := by
  refine State.next_withDev (writeRegister_of_opens (error := false) (by decide) n.isLt (by decide) opens ?_)
  obtain ⟨go, length⟩ := bits_postWord len
  rw [Dev.regStore, Dev.writeMbCtl, Dev.slipEntry_free running sender free]
  simp only [go, length, if_true]

theorem exec_mbDone {n : BitVec 8} (opens : s.opens q sk .mbDone n.toNat 0 1 = true) : exec (.mbDone q sk n) s = .next (s.done
    (if s.dev.isReceiver sk.val n.toNat q.master.toNat then s.dev.slipDone sk.val n.toNat
      else s.dev.slipNote sk.val q (Reg.mbDone.at n.toNat 0))) := by
  refine State.next_withDev (writeRegister_of_opens (error := false) (by decide) n.isLt (by decide) opens ?_)
  have one : bit 1 0 = true := by decide
  rw [Dev.regStore, Dev.writeMbDone, if_pos one]
  cases s.dev.isReceiver sk.val n.toNat q.master.toNat <;> rfl

end

/-! ### What a post leaves (R433) -/

/-- The doublewords from LEN on are zero, the others as they were. -/
theorem Dev.reg_clearFrom (d : Dev) (s n len : Nat) {x : Nat} (hx : x < 16) :
    (((List.range 16).filter (len ≤ ·)).foldl (fun d i => d.setReg s .mbData n i 0) d).reg s .mbData n x =
      if x < len then d.reg s .mbData n x else 0 := by
  have apart {y : Nat} (ne : y ≠ x) (d : Dev) : (d.setReg s .mbData n y 0).reg s .mbData n x = d.reg s .mbData n x := by
    refine Dev.reg_setReg_ne d 0 (.inr (.inr ?_))
    simp only [Reg.at, Reg.place]
    omega
  split
  next kept =>
    refine foldl_keeps (fun d : Dev => d.reg s .mbData n x) (fun d y m => apart (fun same => ?_) d) d
    have := of_decide_eq_true (List.mem_filter.1 m).2
    omega
  next cleared =>
    refine foldl_reaches (p := fun d : Dev => d.reg s .mbData n x = 0) (y := x) (List.mem_filter.2 ⟨List.mem_range.2 hx, ?_⟩)
      (fun d => d.reg_setReg_same ..) (fun d y _ zero => ?_) d
    · exact decide_eq_true (by omega)
    · by_cases same : y = x
      · rw [same, Dev.reg_setReg_same]
      · rw [apart same, zero]

/-- Clearing the unused doublewords leaves the other registers. -/
theorem Dev.reg_clearFrom_other (d : Dev) (s n len : Nat) (hn : n < 256) {r : Reg} (other : r ≠ .mbData) {i j : Nat}
    (hi : i < r.place.c1) (hj : j < r.place.c2) :
    (((List.range 16).filter (len ≤ ·)).foldl (fun d i => d.setReg s .mbData n i 0) d).reg s r i j = d.reg s r i j :=
  foldl_keeps (fun d : Dev => d.reg s r i j)
    (fun d _ m => d.reg_setReg_other s s other hi hj hn (List.mem_range.1 (List.mem_filter.1 m).1) 0) d

/-- The slip as a post of 8 to 16 doublewords leaves it, before the doorbell rings. -/
def Dev.filled (d : Dev) (s n len : Nat) : Dev :=
  ((((List.range 16).filter (len ≤ ·)).foldl (fun d i => d.setReg s .mbData n i 0) (d.setFld s .mbCtl n 0 4 0 len)).setFld s .mbCtl n 0
    63 63 1).setFld s .mbStat n 0 1 1 0

theorem Dev.slipReceiver_lt (d : Dev) (s n : Nat) : d.slipReceiver s n < 256 := Nat.mod_lt _ (by decide)

section
variable (d : Dev) (s : Nat) {n len : Nat} (hn : n < 256)

theorem Dev.postSlip_filled (fits : 8 ≤ len ∧ len ≤ 16) : d.postSlip s n len =
    (d.filled s n len).ring s ((d.filled s n len).slipReceiver s n) ((d.filled s n len).fld s .mbCfg n 0 44 40) := by
  rw [Dev.postSlip, if_neg (by simp only [Bool.or_eq_true, decide_eq_true_eq]; omega), Dev.filled]

include hn

/-- A post leaves the registers that are not its slip's data, control and status. -/
theorem Dev.reg_filled_other {r : Reg} (data : r ≠ .mbData) (ctl : r ≠ .mbCtl) (stat : r ≠ .mbStat) {i j : Nat} (hi : i < r.place.c1)
    (hj : j < r.place.c2) : (d.filled s n len).reg s r i j = d.reg s r i j := by
  rw [Dev.filled, Dev.reg_setFld_other _ s s stat hi hj hn (by decide), Dev.reg_setFld_other _ s s ctl hi hj hn (by decide),
    Dev.reg_clearFrom_other _ s n len hn data hi hj, Dev.reg_setFld_other _ s s ctl hi hj hn (by decide)]

theorem Dev.reg_filled_ctl :
    (d.filled s n len).reg s .mbCtl n 0 = putBits (putBits (d.reg s .mbCtl n 0) 4 0 len) 63 63 1 := by
  rw [Dev.filled, Dev.reg_setFld_other _ s s (by decide) hn (by decide) hn (by decide), Dev.reg_setFld_same,
    Dev.reg_clearFrom_other _ s n len hn (by decide) hn (by decide), Dev.reg_setFld_same]

theorem Dev.reg_filled_data {x : Nat} (hx : x < 16) :
    (d.filled s n len).reg s .mbData n x = if x < len then d.reg s .mbData n x else 0 := by
  rw [Dev.filled, Dev.reg_setFld_other _ s s (by decide) hn hx hn (by decide), Dev.reg_setFld_other _ s s (by decide) hn hx hn (by decide),
    Dev.reg_clearFrom _ s n len hx, Dev.reg_setFld_other _ s s (by decide) hn hx hn (by decide)]

omit hn in
/-- The doorbell leaves the other registers. -/
theorem Dev.reg_ring_other {x b : Nat} (hx : x < 256) {r : Reg} (other : r ≠ .dbPend) {i j : Nat} (hi : i < r.place.c1)
    (hj : j < r.place.c2) : (d.ring s x b).reg s r i j = d.reg s r i j :=
  d.reg_setReg_other s s other hi hj hx (by decide) _

/-- A post sets GO and LEN, rings the receiver's doorbell, and clears the doublewords from LEN on. -/
theorem Dev.postSlip_effect (fits : 8 ≤ len ∧ len ≤ 16) :
    (d.postSlip s n len).fld s .mbCtl n 0 63 63 = 1 ∧ (d.postSlip s n len).fld s .mbCtl n 0 4 0 = len ∧
    bit ((d.postSlip s n len).reg s .dbPend (d.slipReceiver s n) 0) (d.fld s .mbCfg n 0 44 40) = true ∧
    ∀ x < 16, (d.postSlip s n len).reg s .mbData n x = if x < len then d.reg s .mbData n x else 0 := by
  have cfg : (d.filled s n len).reg s .mbCfg n 0 = d.reg s .mbCfg n 0 :=
    d.reg_filled_other s hn (by decide) (by decide) (by decide) hn (by decide)
  have receiver : (d.filled s n len).slipReceiver s n = d.slipReceiver s n := by rw [Dev.slipReceiver, Dev.fld, cfg]; rfl
  have bell : (d.filled s n len).fld s .mbCfg n 0 44 40 = d.fld s .mbCfg n 0 44 40 := by rw [Dev.fld, cfg]; rfl
  have small : d.fld s .mbCfg n 0 44 40 < 32 := Nat.mod_lt _ (by decide)
  have ctl : (d.postSlip s n len).reg s .mbCtl n 0 = putBits (putBits (d.reg s .mbCtl n 0) 4 0 len) 63 63 1 := by
    rw [d.postSlip_filled s fits, Dev.reg_ring_other _ s (Dev.slipReceiver_lt ..) (by decide) hn (by decide), d.reg_filled_ctl s hn]
  refine ⟨?_, ?_, ?_, fun x hx => ?_⟩
  · rw [Dev.fld, ctl, bits_putBits_same _ (by decide) (by decide) (by decide)]
  · rw [Dev.fld, ctl, bits_putBits_apart _ 1 (by decide) (by decide) (.inr (by decide)),
      bits_putBits_same _ (by decide) (by decide) (by omega)]
  · rw [d.postSlip_filled s fits, receiver, bell, Dev.ring, Dev.reg_setReg_same]
    exact bit_putBits_same _ (by omega) true
  · rw [d.postSlip_filled s fits, Dev.reg_ring_other _ s (Dev.slipReceiver_lt ..) (by decide) hn hx, d.reg_filled_data s hn hx]

end

/-- Settles O46: a write of a slip follows its admission; a post fills the slip and rings; DONE is the receiver's. -/
theorem slipsCarryMessages : Obligations.SlipsCarryMessages := by
  intro s q sk n i v len
  refine ⟨fun opens running => ⟨fun sender free => exec_mbDataWrite (error := false) opens ?_,
    fun sender full => exec_mbDataWrite (error := false) opens ?_, fun stranger => exec_mbDataWrite (error := false) opens ?_⟩,
    fun opens stopped full => exec_mbDataWrite (error := true) opens ?_,
    fun opens running sender free => exec_post opens running sender free,
    fun low high => s.dev.postSlip_effect sk.val n.isLt ⟨low, high⟩, fun opens => ⟨fun receiver => ?_, fun stranger => ?_⟩⟩
  · rw [Dev.writeMbData, Dev.slipEntry_free running sender free]
  · rw [Dev.writeMbData, Dev.slipEntry_full running sender full]
  · rw [Dev.writeMbData, Dev.slipEntry_stranger running stranger]
  · rw [Dev.writeMbData, Dev.slipEntry_outside_run stopped full]
  · rw [exec_mbDone opens, if_pos receiver]
  · rw [exec_mbDone opens, if_neg (by rw [stranger]; exact Bool.false_ne_true)]

end Sys2Proof.Machine
end

section
/-! Slip configuration, doorbells and bollards (R432, R436, R441, R442). -/

namespace Sys2Proof.Machine

section
variable {s : State} {q : Requester} {sk : Sock}

/-! ### Slip configuration (R432) -/

theorem exec_mbCfgWrite {n : BitVec 8} {v : Word} (opens : s.opens q sk .mbCfg n.toNat 0 v = true) :
    exec (.mbCfgWrite q sk n v) s = .next (s.done (s.dev.writeMbCfg s.adm.tab sk.val n.toNat q v)) :=
  State.next_withDev (writeRegister_of_opens (error := false) (by decide) n.isLt (by decide) opens rfl)

theorem Dev.writeMbCfg_full {d : Dev} {s n : Nat} (full : d.slipFull s n = true) (t : Tables) (q : Requester) (v : Word) :
    d.writeMbCfg t s n q v = d.slipNote s q (Reg.mbCfg.at n 0) := by
  rw [Dev.writeMbCfg, full]
  rfl

/-- What a write of a slip's configuration stores: the doorbell bit and both ends. -/
def cfgWord (old v : Word) : Word := putBits (putBits (putBits old 44 40 (bits v 44 40)) 31 16 (bits v 31 16)) 7 0 (bits v 7 0)

/-- The sender's socket and core in the field of both. -/
theorem bits_sender (v : Word) : bits v 31 16 / 4096 = bits v 31 28 ∧ bits v 31 16 % 4096 = bits v 27 16 := by
  simp only [bits, nbits, Nat.shiftRight_eq_div_pow]
  omega

/-- From the Wheelhouse view a core-to-core slip that is free takes any two cores of its socket. -/
theorem Dev.writeMbCfg_cores {d : Dev} {s n : Nat} {q : Requester} {v : Word} (free : d.slipFull s n = false)
    (kind : d.fld s .mbCfg n 0 63 62 = 2) (wheel : q.berth = 0) (here : bits v 31 28 = s) (sender : bits v 27 16 < 208)
    (receiver : bits v 7 0 < 208) (t : Tables) :
    d.writeMbCfg t s n q v = d.setReg s .mbCfg n 0 (cfgWord (d.reg s .mbCfg n 0) v) := by
  obtain ⟨socket, core⟩ := bits_sender v
  have kind : bits (d.reg s .mbCfg n 0) 63 62 = 2 := kind
  simp [Dev.writeMbCfg, cfgWord, free, kind, wheel, socket, core, here, sender, receiver]

/-- The ends and the doorbell bit are stored as they are written; KIND and BERTH stay. -/
theorem bits_cfgWord (old v : Word) : bits (cfgWord old v) 31 16 = bits v 31 16 ∧ bits (cfgWord old v) 7 0 = bits v 7 0 ∧
    bits (cfgWord old v) 44 40 = bits v 44 40 ∧ bits (cfgWord old v) 63 45 = bits old 63 45 := by
  have sender : bits v 31 16 < 2 ^ 16 := Nat.mod_lt _ (by decide)
  have receiver : bits v 7 0 < 2 ^ 8 := Nat.mod_lt _ (by decide)
  have bell : bits v 44 40 < 2 ^ 5 := Nat.mod_lt _ (by decide)
  refine ⟨?_, bits_putBits_same _ (by decide) (by decide) receiver, ?_, ?_⟩ <;>
    rw [cfgWord, bits_putBits_apart _ _ (by decide) (by decide) (.inl (by decide))]
  · exact bits_putBits_same _ (by decide) (by decide) sender
  · rw [bits_putBits_apart _ _ (by decide) (by decide) (.inl (by decide))]
    exact bits_putBits_same _ (by decide) (by decide) bell
  · rw [bits_putBits_apart _ _ (by decide) (by decide) (.inl (by decide)),
      bits_putBits_apart _ _ (by decide) (by decide) (.inl (by decide))]

/-! ### Doorbells (R436) -/

/-- What DB_PEND_CLEAR stores: the bits written as ones clear. -/
def pendCleared (old : Word) (mask : BitVec 32) : Word := putBits old 31 0 (bits old 31 0 &&& (2 ^ 32 - 1 - mask.toNat))

theorem exec_dbPendClear {r : Fin 256} {mask : BitVec 32} (opens : s.opens q sk .dbPend r.val 0 (mask.setWidth 64) = true) :
    exec (.dbPendClear q sk r mask) s = .next (s.done
      ((s.dev.setReg sk.val .dbPend r.val 0 (pendCleared (s.dev.reg sk.val .dbPend r.val 0) mask)).ringWake sk.val r.val)) := by
  have small : mask.toNat < 2 ^ 32 := mask.isLt
  have ones : bits (mask.setWidth 64) 31 0 = mask.toNat := by
    rw [bits, nbits, BitVec.toNat_setWidth, Nat.shiftRight_zero]
    omega
  have stored (bv locked : Bool) (old : Word) : Reg.dbPend.written bv locked old (mask.setWidth 64) = pendCleared old mask := by
    simp only [Reg.written, Reg.fields, List.foldl_cons, List.foldl_nil, Bool.not_true, Bool.and_false, Bool.false_eq_true, if_false,
      ones, pendCleared]
  refine State.next_withDev (writeRegister_of_opens (error := false) (by decide) r.isLt (by decide) opens ?_)
  simp only [Dev.regStore, stored]

/-! ### Bollards (R441, R442) -/

/-- A requester of the Wheelhouse, or of the bollard's berth, reads it. -/
theorem exec_bollardRead (reach : Requester.mayReach q = true) {b : Fin 64}
    (seen : q.berth = 0 ∨ s.dev.fld sk.val .blCfg b.val 0 5 0 = q.berth.toNat) :
    exec (.bollardRead q sk b) s = .next (s.ended
      ((s.dev.readBollard sk.val b.val q).2.answer [0, (s.dev.readBollard sk.val b.val q).1])) := by
  refine State.next_withDev ?_
  obtain ⟨space, -, aligned⟩ := place_of_slipRegs (r := .bl) (by decide) b.isLt (j := 0) (by decide)
  have whole : Reg.bl.at b.val 0 / 8 * 8 = Reg.bl.at b.val 0 := by omega
  have shown : (decide (q.berth ≠ 0) && !regSeen s.adm.tab s.dev sk.val q.berth.toNat .bl b.val 0) = false := by
    rcases seen with wheel | owner
    · simp [wheel]
    · by_cases wheel : q.berth = 0
      · simp [wheel]
      · have some_ : q.berth.toNat ≠ 0 := fun zero => wheel (BitVec.eq_of_toNat_eq zero)
        simp [regSeen, regBerth, owner, some_]
  have read : s.dev.regRead s.adm sk.val q (Reg.bl.at b.val 0) = s.dev.readBollard sk.val b.val q := by
    simp only [Dev.regRead, whole, regAt_at (r := .bl) space b.isLt (j := 0) (by decide) rfl, shown, Bool.false_eq_true, if_false]
  simp only [Dev.readRegister, reach, read, Bool.not_true, Bool.false_eq_true, if_false]

/-- A read answers the value before it, and takes a free bollard. -/
theorem Dev.readBollard_eq (d : Dev) (s b : Nat) (q : Requester) : d.readBollard s b q = (d.reg s .bl b 0,
    if bit (d.reg s .bl b 0) 16 then d else d.setReg s .bl b 0 (word (2 ^ 16 + q.master.toNat))) := by
  unfold Dev.readBollard
  dsimp only
  by_cases held : bit (d.reg s .bl b 0) 16
  · rw [if_pos held, if_pos held]
  · rw [if_neg held, if_neg held]

theorem exec_bollardRelease {b : Fin 64} {v : Word} (opens : s.opens q sk .blRel b.val 0 v = true) :
    exec (.bollardRelease q sk b v) s = .next (s.done (s.dev.writeBlRel sk.val b.val q v)) :=
  State.next_withDev (writeRegister_of_opens (error := false) (by decide) b.isLt (by decide) opens rfl)

theorem Dev.writeBlRel_holder {d : Dev} {s b : Nat} {v : Word} (holder : bits v 15 0 = bits (d.reg s .bl b 0) 15 0) (q : Requester) :
    d.writeBlRel s b q v = d.setReg s .bl b 0 0 := by
  rw [Dev.writeBlRel, if_pos holder, Dev.freeBollard]

/-- Any other value is reported, and changes no register. -/
theorem Dev.reg_writeBlRel_other {d : Dev} {s b : Nat} {v : Word} (other : bits v 15 0 ≠ bits (d.reg s .bl b 0) 15 0) (q : Requester)
    (t : Nat) (r : Reg) (i j : Nat) : (d.writeBlRel s b q v).reg t r i j = d.reg t r i j := by
  rw [Dev.writeBlRel, if_neg other, Dev.reg_report]

/-- FORCE stores the configuration and frees the bollard. -/
theorem exec_bollardForce {b : Fin 64} (opens : s.opens q sk .blCfg b.val 0 (s.dev.withField sk.val .blCfg b.val 0 63 63 1) = true) :
    exec (.bollardForce q sk b) s = .next (s.done ((s.dev.setReg sk.val .blCfg b.val 0 (Reg.blCfg.written (decide (q.berth ≠ 0))
      (decide (s.dev.fld sk.val .whBoot 0 0 63 63 = 1)) (s.dev.reg sk.val .blCfg b.val 0)
      (s.dev.withField sk.val .blCfg b.val 0 63 63 1))).freeBollard sk.val b.val)) := by
  have force : bit (s.dev.withField sk.val .blCfg b.val 0 63 63 1) 63 = true := bit_putBits_same _ (by decide) true
  refine State.next_withDev (writeRegister_of_opens (error := false) (by decide) b.isLt (by decide) opens ?_)
  simp only [Dev.regStore, force, if_true]

end

/-- Settles O47: each command is one access to its register, of a requester whose view shows it. -/
theorem doorbellsAndBollards : Obligations.DoorbellsAndBollards := by
  intro s q sk n r mask b v
  refine ⟨fun opens full => ?_, fun opens free kind wheel here sender receiver =>
      ⟨cfgWord (s.dev.reg sk.val .mbCfg n.toNat 0) v, ?_, bits_cfgWord _ v⟩,
    fun opens => ⟨_, exec_dbPendClear opens, ?_⟩, fun reach seen => ?_,
    fun opens => ⟨fun holder => ?_, fun other => ⟨_, exec_bollardRelease opens, Dev.reg_writeBlRel_other other q sk.val .bl⟩⟩,
    fun opens => ⟨_, exec_bollardForce opens, Dev.reg_setReg_same ..⟩⟩
  · rw [exec_mbCfgWrite opens, Dev.writeMbCfg_full full]
  · rw [exec_mbCfgWrite opens, Dev.writeMbCfg_cores free kind wheel here sender receiver]
  · exact bits_putBits_same _ (by decide) (by decide) (Nat.and_lt_two_pow _ (by omega))
  · rw [exec_bollardRead reach seen, Dev.readBollard_eq]
  · rw [exec_bollardRelease opens, Dev.writeBlRel_holder holder]

end Sys2Proof.Machine
end

section
/-! Register writes to the uncore counters, the operating mode, the power domains and attestation (R455, R470, R474, R496). -/

namespace Sys2Proof.Machine

/-! ### Uncore counters (R455) -/

/-- The configuration and count registers of an uncore unit are two registers that have its instance. -/
theorem place_of_uncUnit {u : Nat} {cfg cnt : Reg} {k : Nat} (unit : uncUnit u = some (cfg, cnt, k)) :
    cfg ≠ cnt ∧ k < cfg.place.c1 ∧ k < cnt.place.c1 ∧ 4 ≤ cfg.place.c2 ∧ 4 ≤ cnt.place.c2 := by
  unfold uncUnit at unit
  split_ifs at unit with slice far near link engine <;> cases unit <;> simp only [Reg.place] <;>
    exact ⟨by decide, by omega, by omega, by decide, by decide⟩

/-- A write of BERTH stores it, clears EN and the count, and leaves EVENT. -/
theorem Dev.uncBerth_effect (d : Dev) (s : Nat) {cfg cnt : Reg} (two : cfg ≠ cnt) {k i b : Nat} (cfgAt : k < cfg.place.c1)
    (cntAt : k < cnt.place.c1) (cfgIn : i < cfg.place.c2) (cntIn : i < cnt.place.c2) (fits : b < 64) :
    (d.uncBerth s cfg cnt k i b).fld s cfg k i 53 48 = b ∧ (d.uncBerth s cfg cnt k i b).fld s cfg k i 63 63 = 0 ∧
    (d.uncBerth s cfg cnt k i b).reg s cnt k i = 0 ∧
    (d.uncBerth s cfg cnt k i b).fld s cfg k i 7 0 = d.fld s cfg k i 7 0 := by
  have config : (d.uncBerth s cfg cnt k i b).reg s cfg k i = putBits (putBits (d.reg s cfg k i) 53 48 b) 63 63 0 := by
    rw [Dev.uncBerth, Dev.reg_setReg_other _ s s two cfgAt cfgIn cntAt cntIn, Dev.reg_setReg_same]
    rfl
  refine ⟨?_, ?_, Dev.reg_setReg_same .., ?_⟩ <;> rw [Dev.fld, config]
  · rw [bits_putBits_apart _ 0 (by decide) (by decide) (.inr (by decide))]
    exact bits_putBits_same _ (by decide) (by decide) fits
  · exact bits_putBits_same _ (by decide) (by decide) (by decide)
  · rw [bits_putBits_apart _ 0 (by decide) (by decide) (.inr (by decide)),
      bits_putBits_apart _ b (by decide) (by decide) (.inr (by decide)), Dev.fld]

section
variable {s : State} {q : Requester} (wheel : q.berth = 0) (sk : Sock)
include wheel

theorem exec_uncBerthWrite {u : Fin 256} {cfg cnt : Reg} {k : Nat} (unit : uncUnit u.val = some (cfg, cnt, k)) (i : Fin 4) (b : BitVec 6) :
    exec (.uncBerthWrite q sk u i b) s =
      .next (s.withDev ((s.dev.uncBerth sk.val cfg cnt k i.val b.toNat).answer [0])) := by
  refine State.next_withDev ?_
  simp only [unit, mayReach_of_wheel wheel, wheel, Bool.not_true, Bool.false_eq_true, if_false, ne_eq, not_true]

/-! ### MAINTAIN (R474) -/

/-- A write of PW_MODE.REQ is a request for that mode. -/
theorem writeRegister_modeReq (v : Word) : s.dev.writeRegister s.adm q sk.val .pwMode 0 0 v =
    ((s.dev.writeModeReq s.adm.tab sk (bits v 10 8)).answer [0]).finish s.adm := by
  refine writeRegister_of_wheel wheel rfl rfl (by decide) (by decide) (by decide) (by decide) ?_
  rw [Dev.regStore, sk_val]

theorem exec_enterMaintain : exec (.enterMaintain q sk) s = .next (s.done (s.dev.enterMaintain s.adm.tab sk)) := by
  have asked : bits (word (5 * 2 ^ 8)) 10 8 = modeMaintain := by decide
  refine State.next_withDev ((writeRegister_modeReq wheel sk _).trans ?_)
  rw [asked, Dev.writeModeReq, if_pos rfl]

theorem exec_leaveMaintain : exec (.leaveMaintain q sk) s = .next (s.done
    (if s.dev.mode sk.val = modeMaintain then s.dev.leaveMaintain sk else s.dev.badMode sk.val)) := by
  have asked : bits (word (3 * 2 ^ 8)) 10 8 = modeRun := by decide
  have other : ¬modeRun = modeMaintain := by decide
  refine State.next_withDev ((writeRegister_modeReq wheel sk _).trans ?_)
  rw [asked, Dev.writeModeReq, if_neg other, decide_eq_true rfl, Bool.true_and]
  simp only [decide_eq_true_eq]

/-! ### Power domains (R470) -/

theorem exec_domainSet (set : BitVec 28) :
    exec (.domainSet q sk set) s = .next (s.done (s.dev.domainSet s.adm.tab sk.val set.toNat)) := by
  have small : set.toNat < 2 ^ 28 := set.isLt
  have asked : bits (set.setWidth 64) 27 0 = set.toNat := by
    rw [bits, nbits, BitVec.toNat_setWidth, Nat.shiftRight_zero]
    omega
  refine State.next_withDev (writeRegister_of_wheel wheel rfl rfl (by decide) (by decide) (by decide) (by decide) ?_)
  rw [Dev.regStore, asked]

/-! ### Attestation (R496) -/

omit wheel in
/-- The request as GO leaves it before it is served: its address stored, GO set, STATUS running. -/
def Dev.attestAsked (d : Dev) (s b : Nat) (v : Word) : Dev :=
  ((d.setFld s .whAttestCmd b 0 51 8 (bits v 51 8)).setFld s .whAttestCmd b 0 63 63 1).setFld s .whAttestCmd b 0 61 60 1

theorem exec_attestation (b : BitVec 6) {v : Word} (idle : bit (s.dev.reg sk.val .whAttestCmd b.toNat 0) 63 = false) :
    exec (.attestation q sk b v) s =
      .next (s.done ((s.dev.attestAsked sk.val b.toNat (putBit v 63 true)).attest s.adm sk.val b.toNat)) := by
  refine State.next_withDev (writeRegister_of_wheel wheel rfl rfl b.isLt (by decide) ?_ ?_ ?_)
  · simp only [Reg.at, Reg.place]; omega
  · simp only [Reg.at, Reg.place]; omega
  · rw [Dev.regStore, Dev.writeAttest, idle, if_neg Bool.false_ne_true, bit_putBit_pend, if_pos rfl, Dev.attestAsked]

end

theorem Dev.fld_attestAsked (d : Dev) (s b : Nat) (v : Word) :
    (d.attestAsked s b v).fld s .whAttestCmd b 0 63 63 = 1 ∧
    (d.attestAsked s b v).fld s .whAttestCmd b 0 51 8 = bits v 51 8 := by
  have address : bits v 51 8 < 2 ^ 44 := Nat.mod_lt _ (by decide)
  unfold Dev.attestAsked
  refine ⟨?_, ?_⟩ <;> rw [Dev.fld_setFld_apart _ _ _ (by decide) (by decide) (by decide)]
  · exact Dev.fld_setFld_same _ _ (by decide) (by decide) (by decide)
  · rw [Dev.fld_setFld_apart _ _ _ (by decide) (by decide) (by decide)]
    exact Dev.fld_setFld_same _ _ (by decide) (by decide) address

/-- Settles O48: each of the commands is one write from the Wheelhouse view, which its register takes whole. -/
theorem counterAndPowerRegisterCommands : Obligations.CounterAndPowerRegisterCommands := by
  intro s q sk u i b set v cfg cnt k wheel
  refine ⟨fun unit => ⟨_, exec_uncBerthWrite wheel sk unit i b, ?_⟩, exec_enterMaintain wheel sk, fun maintain => ?_, fun other => ?_,
    exec_domainSet wheel sk set, fun idle => ⟨_, exec_attestation wheel sk b idle, ?_⟩⟩
  · obtain ⟨two, cfgAt, cntAt, cfgIn, cntIn⟩ := place_of_uncUnit unit
    obtain ⟨berth, off, zero, event⟩ := s.dev.uncBerth_effect sk.val two cfgAt cntAt (Nat.lt_of_lt_of_le i.isLt cfgIn)
      (Nat.lt_of_lt_of_le i.isLt cntIn) b.isLt
    exact ⟨berth, off, zero, event, rfl⟩
  · rw [exec_leaveMaintain wheel, if_pos maintain]
  · rw [exec_leaveMaintain wheel, if_neg other]
  · obtain ⟨go, address⟩ := s.dev.fld_attestAsked sk.val b.toNat (putBit v 63 true)
    exact ⟨go, address.trans (bits_putBits_apart _ _ (by decide) (by decide) (.inr (by decide)))⟩

end Sys2Proof.Machine
end

section
/-! A queue's control register written with a one in a reserved bit: from a berth's view the write is noted (R3, R402, R406). -/

namespace Sys2Proof.Machine

/-- The reset state with function 1 of engine 0 of socket 0 in berth 1. -/
def ownedFnState : State :=
  { State.reset with adm := { State.reset.adm with tab := { State.reset.adm.tab with vfs := Tbl.put State.reset.adm.tab.vfs 1 1 } } }

/-- A core of berth 1 at level H. -/
def berthCore : Requester := { master := 0, berth := 1, high := true }

theorem ownedFnState_opens : ownedFnState.barOpens berthCore 0 0 1 = true := by decide +kernel

/-- Bit 0 of FE_QC_CTL is reserved: a one in it takes a free value for the report's detail bits (assumption log 5). -/
theorem fresh_queueEnable_reserved : (match exec (.queueEnable berthCore 0 0 1 0 1) ownedFnState with
    | .next x => x.dev.fresh
    | _ => 0) = 1 := by
  decide +kernel

/-- A write of the register alone takes none. -/
theorem fresh_writeQc_reserved : (ownedFnState.done (ownedFnState.dev.writeQc 0 0 1 0 1)).dev.fresh = 0 := by decide +kernel

/-- Refutes O45: its clause on FE_QC_CTL leaves the value open, and from a berth's view a value with a reserved bit set is stored and logged
with a Note (R3), so that the state is not the one of the write alone. -/
theorem not_ferryAndPortRegisterCommands : ¬ Obligations.FerryAndPortRegisterCommands := by
  unfold Obligations.FerryAndPortRegisterCommands
  intro holds
  obtain ⟨writes, -⟩ := holds ownedFnState berthCore 0 0 1 0 0 1 0 0 0 0 0
  obtain ⟨-, stored⟩ := writes ownedFnState_opens
  have noted := fresh_queueEnable_reserved
  rw [stored] at noted
  exact absurd (noted.symm.trans fresh_writeQc_reserved) (by decide)

end Sys2Proof.Machine
end

section
/-! The functions of the ferry engines after writes of other parts of a socket, and registers after writes of a function (R394 to R404). -/

namespace Sys2Proof.Machine

@[simp] theorem Dev.fn_onFn_same (d : Dev) (s k : Nat) (f : Fn → Fn) : (d.onFn s k f).fn s k = f (d.fn s k) := by
  simp [Dev.fn, Dev.onFn]

@[simp] theorem Dev.reg_onFn (d : Dev) (s k : Nat) (f : Fn → Fn) (t : Nat) (r : Reg) (i j : Nat) :
    (d.onFn s k f).reg t r i j = d.reg t r i j := by
  unfold Dev.onFn
  exact Dev.reg_onSock (by intro k; rfl) (by intro k; rfl) t r i j

@[simp] theorem Dev.fld_onFn (d : Dev) (s k : Nat) (f : Fn → Fn) (t : Nat) (r : Reg) (i j hi lo : Nat) :
    (d.onFn s k f).fld t r i j hi lo = d.fld t r i j hi lo := by rw [Dev.fld, Dev.reg_onFn, Dev.fld]

@[simp] theorem Dev.fn_setReg (d : Dev) (s : Nat) (r : Reg) (i j : Nat) (v : Word) (t k : Nat) :
    (d.setReg s r i j v).fn t k = d.fn t k := by
  rw [Dev.fn, Dev.setReg_keeps Socket.fns (fun _ _ => rfl) (fun _ _ => rfl), Dev.fn]

@[simp] theorem Dev.fn_setFld (d : Dev) (s : Nat) (r : Reg) (i j hi lo v t k : Nat) :
    (d.setFld s r i j hi lo v).fn t k = d.fn t k := Dev.fn_setReg ..

@[simp] theorem Dev.fn_setQState (d : Dev) (s k i st status t l : Nat) : (d.setQState s k i st status).fn t l = d.fn t l := by
  rw [Dev.setQState, Dev.fn_setFld, Dev.fn_setFld]

@[simp] theorem Dev.fn_qShow (d : Dev) (s k i t l : Nat) : (d.qShow s k i).fn t l = d.fn t l :=
  ite_keeps (fun d : Dev => d.fn t l) (Dev.fn_setFld ..) rfl

@[simp] theorem Dev.fn_showSlots (a : Tables) (d : Dev) (s e t l : Nat) : (d.showSlots a s e).fn t l = d.fn t l := Dev.fn_setFld ..

/-- Counting an uncore event keeps what its count register does not hold. -/
theorem Dev.uncore_keeps {α : Type} (p : Dev → α) {cnt : Reg} {u : Nat}
    (h : ∀ (d : Dev) (s i n : Nat), i < 4 → p (d.bump s cnt u i 47 0 n) = p d) (d : Dev) (s : Nat) (cfg : Reg) (ev b n : Nat) :
    p (d.uncore s cfg cnt u ev b n) = p d := by
  unfold Dev.uncore
  exact foldl_keeps p (fun d i below => ite_keeps p (h _ _ _ _ (List.mem_range.1 below)) rfl) d

@[simp] theorem Dev.fn_uncore (d : Dev) (s : Nat) (cfg cnt : Reg) (u ev b n t k : Nat) :
    (d.uncore s cfg cnt u ev b n).fn t k = d.fn t k :=
  Dev.uncore_keeps (fun d : Dev => d.fn t k) (fun _ _ _ _ _ => Dev.fn_setFld ..) d s cfg ev b n

/-- HEAD keeps to the writes of the other fields of its queue's status, and of the other registers. -/
theorem Dev.qHead_setQState (d : Dev) (s k i st status : Nat) : (d.setQState s k i st status).qHead s k i = d.qHead s k i := by
  rw [Dev.qHead, Dev.setQState, Dev.fld_setFld_apart _ _ _ (by decide) (by decide) (by decide),
    Dev.fld_setFld_apart _ _ _ (by decide) (by decide) (by decide), Dev.qHead]

theorem Dev.qHead_qShow (d : Dev) (s k i : Nat) : (d.qShow s k i).qHead s k i = d.qHead s k i :=
  ite_keeps (fun d : Dev => d.qHead s k i) (Dev.fld_setFld_apart _ _ _ (by decide) (by decide) (by decide)) rfl

theorem Dev.qHead_showSlots (a : Tables) (d : Dev) (s e : Nat) {k i : Nat} (hk : k < 1024) (hi : i < 4096) (he : e < 4) :
    (d.showSlots a s e).qHead s k i = d.qHead s k i := d.fld_setFld_other s s (by decide) hk hi he (by decide) ..

theorem Dev.qHead_uncoreEng (d : Dev) (s e ev b n : Nat) {k i : Nat} (hk : k < 1024) (hi : i < 4096) (he : e < 4) :
    (d.uncore s .pcUncCfgEng .pcUncCntEng e ev b n).qHead s k i = d.qHead s k i := by
  refine Dev.uncore_keeps (fun d : Dev => d.qHead s k i) (fun d t j n hj => ?_) d s _ ev b n
  exact d.fld_setFld_other t s (by decide) hk hi he hj ..

theorem fnKey_lt (e : Fin 4) (f : Fin 256) : fnKey e.val f.val < 1024 := by
  unfold fnKey
  omega

end Sys2Proof.Machine
end

section
/-! Descriptors: what an operation within one line leaves, which commands run a descriptor, and how it completes (R395 to R402). -/

namespace Sys2Proof.Machine

/-! ### Pieces of one line (R398) -/

/-- A cursor with bytes left in its segment stands where it is. -/
theorem Dev.curNext_left (a : Tables) (d : Dev) (s e f : Nat) {c : Cur} (left : 0 < c.left) : d.curNext a s e f c = (.inr c, d) := by
  rw [Dev.curNext, if_pos left]

/-- Bytes of one segment and one line are gathered by one read. -/
theorem Dev.gather_line {a : Tables} {d d1 : Dev} {s e f n : Nat} {c : Cur} {bs : List Byte} (some_ : 0 < n) (left : n ≤ c.left)
    (line : c.addr % 64 + n ≤ 64) (read : d.ferryRead a s e f c.addr n = (.bytes bs, d1)) (fuel : Nat) :
    d.gather a (fuel + 2) s e f c n [] = (.inr (bs, c.skip n), d1) := by
  have piece : Nat.min n (Nat.min c.left (64 - c.addr % 64)) = n := Nat.min_eq_left (Nat.le_min.2 ⟨left, by omega⟩)
  rw [Dev.gather, if_neg (by omega), Dev.curNext_left a d s e f (by omega)]
  simp only [piece, read, Nat.sub_self, List.nil_append]
  rw [Dev.gather, if_pos rfl]

/-- A data operation that has done all its bytes ends. -/
theorem Dev.ferryRun_done {a : Tables} {d : Dev} {s e f : Nat} {o : FOp} {len pat : Nat} {p : FProg} (all : len ≤ p.pos) (fuel : Nat) :
    d.ferryRun a fuel s e f o len pat p = (some (1, p), d) := by
  rw [Dev.ferryRun.eq_def, if_pos all]

/-- A flat stretch of bytes. -/
def Cur.flat (addr len : Nat) : Cur := { addr, left := len, entry := 0, n := 0 }

/-- The progress of an operation on flat stretches before its first byte. -/
def FProg.start (src dst len crc : Nat) : FProg :=
  { pos := 0, crc, diff := none, src := Cur.flat src len, dst := Cur.flat dst len }

@[simp] theorem Cur.flat_addr (addr len : Nat) : (Cur.flat addr len).addr = addr := rfl
@[simp] theorem Cur.flat_left (addr len : Nat) : (Cur.flat addr len).left = len := rfl
@[simp] theorem FProg.start_pos (src dst len crc : Nat) : (FProg.start src dst len crc).pos = 0 := rfl
@[simp] theorem FProg.start_crc (src dst len crc : Nat) : (FProg.start src dst len crc).crc = crc := rfl
@[simp] theorem FProg.start_diff (src dst len crc : Nat) : (FProg.start src dst len crc).diff = none := rfl
@[simp] theorem FProg.start_src (src dst len crc : Nat) : (FProg.start src dst len crc).src = Cur.flat src len := rfl
@[simp] theorem FProg.start_dst (src dst len crc : Nat) : (FProg.start src dst len crc).dst = Cur.flat dst len := rfl

theorem FProg.start_unfinished {src dst len crc : Nat} (some_ : 0 < len) : ¬len ≤ (FProg.start src dst len crc).pos := Nat.not_le.2 some_

section
variable {a : Tables} {d d1 d2 : Dev} {s e f len src dst pat : Nat} {bs : List Byte} (some_ : 0 < len)
include some_

/-- FILL within one line writes the pattern. -/
theorem Dev.ferryRun_fill (line : dst % 64 + len ≤ 64)
    (written : d.ferryWrite a s e f dst (patternBytes pat 0 len) = (some 0, d2)) (crc fuel : Nat) : ∃ p : FProg, p.pos = len ∧
    d.ferryRun a (fuel + 1) s e f { src := false, dst := true, cmp := false, pattern := true, poly := none } len pat
      (FProg.start src dst len crc) = (some (1, p), d2) := by
  have room : Nat.min len (64 - dst % 64) = len := Nat.min_eq_left (by omega)
  have all : Nat.min len len = len := Nat.min_self len
  refine ⟨{ FProg.start src dst len crc with pos := len, dst := (Cur.flat dst len).skip len }, rfl, ?_⟩
  rw [Dev.ferryRun, if_neg (FProg.start_unfinished some_)]
  simp only [FProg.start_pos, FProg.start_crc, FProg.start_diff, FProg.start_src, FProg.start_dst, Bool.true_or, if_true, Dev.curNext_left a d s e f (c := Cur.flat dst len) some_, Cur.flat_addr, Cur.flat_left, room,
    all, Nat.sub_zero, Bool.false_eq_true, if_false, written, Bool.false_and, Nat.zero_add]
  exact Dev.ferryRun_done (Nat.le_refl len) fuel

/-- COPY within one line writes what was read. -/
theorem Dev.ferryRun_copy (line : dst % 64 + len ≤ 64) (srcLine : src % 64 + len ≤ 64)
    (read : d.ferryRead a s e f src len = (.bytes bs, d1)) (written : d1.ferryWrite a s e f dst bs = (some 0, d2)) (crc fuel : Nat) :
    ∃ p : FProg, p.pos = len ∧
    d.ferryRun a (fuel + 1) s e f { src := true, dst := true, cmp := false, pattern := false, poly := none } len pat
      (FProg.start src dst len crc) = (some (1, p), d2) := by
  have room : Nat.min len (64 - dst % 64) = len := Nat.min_eq_left (by omega)
  have all : Nat.min len len = len := Nat.min_self len
  have gathered := Dev.gather_line (c := Cur.flat src len) some_ (Nat.le_refl len) srcLine read 78
  refine ⟨{ FProg.start src dst len crc with pos := len, src := (Cur.flat src len).skip len, dst := (Cur.flat dst len).skip len }, rfl, ?_⟩
  rw [Dev.ferryRun, if_neg (FProg.start_unfinished some_)]
  simp only [FProg.start_pos, FProg.start_crc, FProg.start_diff, FProg.start_src, FProg.start_dst, Bool.true_or, if_true, Dev.curNext_left a d s e f (c := Cur.flat dst len) some_, Cur.flat_addr, Cur.flat_left, room,
    all, Nat.sub_zero, gathered, written, Bool.false_and, Bool.false_eq_true, if_false, Nat.zero_add]
  exact Dev.ferryRun_done (Nat.le_refl len) fuel

/-- CRC32C within one line runs the CRC over what was read. -/
theorem Dev.ferryRun_crc (srcLine : src % 64 + len ≤ 64) (read : d.ferryRead a s e f src len = (.bytes bs, d1)) (crc fuel : Nat) :
    ∃ p : FProg, p.pos = len ∧ p.crc = crcRun polyC crc bs ∧
    d.ferryRun a (fuel + 1) s e f { src := true, dst := false, cmp := false, pattern := false, poly := some polyC } len pat
      (FProg.start src dst len crc) = (some (1, p), d1) := by
  have all : Nat.min len 64 = len := Nat.min_eq_left (by omega)
  have gathered := Dev.gather_line (c := Cur.flat src len) some_ (Nat.le_refl len) srcLine read 78
  refine ⟨{ FProg.start src dst len crc with pos := len, crc := crcRun polyC crc bs, src := (Cur.flat src len).skip len }, rfl, rfl, ?_⟩
  rw [Dev.ferryRun, if_neg (FProg.start_unfinished some_)]
  simp only [FProg.start_pos, FProg.start_crc, FProg.start_diff, FProg.start_src, FProg.start_dst, Bool.false_or, Bool.false_and, Bool.false_eq_true, if_false, if_true, Cur.flat_addr, Cur.flat_left, all, Nat.sub_zero, gathered,
    Nat.zero_add]
  exact Dev.ferryRun_done (Nat.le_refl len) fuel

/-- COMPARE within one line finds the first offset at which the two stretches differ. -/
theorem Dev.ferryRun_compare (line : dst % 64 + len ≤ 64) (srcLine : src % 64 + len ≤ 64) {other : List Byte}
    (read : d.ferryRead a s e f src len = (.bytes bs, d1)) (readOther : d1.ferryRead a s e f dst len = (.bytes other, d2))
    (crc fuel : Nat) : ∃ p : FProg, p.pos = len ∧ p.diff = ((List.range len).find? fun i => bs.getD i 0 ≠ other.getD i 0) ∧
    d.ferryRun a (fuel + 1) s e f { src := true, dst := false, cmp := true, pattern := false, poly := none } len pat
      (FProg.start src dst len crc) = (some (1, p), d2) := by
  have room : Nat.min len (64 - dst % 64) = len := Nat.min_eq_left (by omega)
  have all : Nat.min len len = len := Nat.min_self len
  have gathered := Dev.gather_line (c := Cur.flat src len) some_ (Nat.le_refl len) srcLine read 78
  have gatheredOther := Dev.gather_line (c := Cur.flat dst len) some_ (Nat.le_refl len) line readOther 78
  refine ⟨{ FProg.start src dst len crc with
    pos := len, diff := (List.range len).find? fun i => bs.getD i 0 ≠ other.getD i 0
    src := (Cur.flat src len).skip len, dst := (Cur.flat dst len).skip len }, rfl, rfl, ?_⟩
  rw [Dev.ferryRun, if_neg (FProg.start_unfinished some_)]
  simp only [FProg.start_pos, FProg.start_crc, FProg.start_diff, FProg.start_src, FProg.start_dst, Bool.false_or, Bool.not_false, Bool.and_self, if_true,
    Dev.curNext_left a d s e f (c := Cur.flat dst len) some_, Cur.flat_addr, Cur.flat_left, room, all, Nat.sub_zero, gathered, gatheredOther,
    Bool.false_eq_true, if_false, Nat.zero_add, Option.map_id']
  exact Dev.ferryRun_done (Nat.le_refl len) fuel

end

/-! ### Descriptors (R395 to R397) -/

/-- A descriptor with a good format that moves data has bytes to move. -/
theorem Desc.len_pos {x : Desc} (format : x.badFormat = false) (moves : x.op ≠ 0) : 0 < x.len := by
  simp only [Desc.badFormat, Bool.or_eq_false_iff] at format
  obtain ⟨⟨⟨⟨⟨⟨-, length⟩, -⟩, -⟩, -⟩, -⟩, -⟩ := format
  simpa [moves, Nat.pos_iff_ne_zero] using length

/-- The CRC that an operation starts from. -/
def FOp.crcStart (o : FOp) (arg : Nat) : Nat :=
  match o.poly with
  | some q => if q = polyC then arg % 2 ^ 32 else arg
  | none => 0

/-- The result of an operation that has done all its bytes. -/
def FOp.result (o : FOp) (p : FProg) : Word :=
  if o.poly.isSome then word p.crc
  else if o.cmp then (match p.diff with
    | some i => word i
    | none => BitVec.allOnes 64)
  else 0

section
variable {a : Tables} {d d2 : Dev} {s e f : Nat} {x : Desc}

theorem Dev.execDesc_badOp (unknown : knownOp x.op = false) : d.execDesc a s e f x = (x.end_ 2 0 0, d) := by
  simp [Dev.execDesc, unknown]

theorem Dev.execDesc_badFormat (known : knownOp x.op = true) (format : x.badFormat = true) :
    d.execDesc a s e f x = (x.end_ 3 0 0, d) := by
  simp [Dev.execDesc, known, format]

theorem Dev.execDesc_nop (nop : x.op = 0) (format : x.badFormat = false) : d.execDesc a s e f x = (x.end_ 1 0 0, d) := by
  have known : knownOp 0 = true := by decide
  simp [Dev.execDesc, nop, known, format]

/-- A data operation on flat stretches that runs to its end. -/
theorem Dev.execDesc_flat {o : FOp} {p : FProg} (known : knownOp x.op = true) (moves : x.op ≠ 0) (kind : fopOf x.op = some o)
    (format : x.badFormat = false) (flatSrc : x.flags.testBit 1 = false) (flatDst : x.flags.testBit 2 = false)
    (ran : d.ferryRun a (x.len + 1) s e f o x.len (x.field 0x18 8)
      (FProg.start (x.field 8 8) (x.field 0x10 8) x.len (o.crcStart (x.field 0x18 8))) = (some (1, p), d2)) :
    d.execDesc a s e f x = (x.end_ 1 (if o.src then p.pos else 0) (o.result p), d2) := by
  simp only [FProg.start, Cur.flat, FOp.crcStart] at ran
  simp only [Dev.execDesc, known, format, moves, kind, flatSrc, flatDst, Bool.not_true, Bool.false_eq_true, if_false]
  cases poly : o.poly <;> simp only [poly] at ran ⊢ <;> rw [ran] <;> simp [FOp.result, poly] <;> rfl

end

/-! ### The commands (R402) -/

/-- A slot in use keeps its descriptor: nothing is fetched. -/
theorem Dev.fetchDesc_running {d : Dev} {s e f i : Nat} {x : Desc} (running : Tbl.find (d.fn s (fnKey e f)).run i = some x)
    (a : Tables) : d.fetchDesc a s e f i = d := by
  simp [Dev.fetchDesc, running]

/-- The command of a descriptor's OP runs it. -/
theorem Dev.runOp_running {d : Dev} {s e f i : Nat} {x : Desc} (running : Tbl.find (d.fn s (fnKey e f)).run i = some x)
    (unended : x.ended = none) (master : d.bme s e f = true) (a : Tables) : d.runOp a s e f i x.op =
      (d.execDesc a s e f x).2.onFn s (fnKey e f) fun y => { y with run := Tbl.put y.run i (d.execDesc a s e f x).1 } := by
  simp [Dev.runOp, Dev.fetchDesc_running running, running, unended, master]

/-- The slot of a queue freed, its HEAD at the next descriptor. -/
def Dev.slotFreed (d : Dev) (s k i : Nat) : Dev :=
  let d := d.onFn s k fun y => { y with run := Tbl.erase y.run i }
  d.setFld s .feQcStat k i 15 0 ((d.qHead s k i + 1) % 65536)

theorem Dev.slot_slotFreed (d : Dev) (s k i : Nat) : Tbl.find ((d.slotFreed s k i).fn s k).run i = none := by
  rw [Dev.slotFreed, Dev.fn_setFld, Dev.fn_onFn_same, Tbl.find_erase_same]

theorem Dev.qHead_slotFreed (d : Dev) (s k i : Nat) : (d.slotFreed s k i).qHead s k i = (d.qHead s k i + 1) % 65536 := by
  refine (Dev.fld_setFld_same _ _ (by decide) (by decide) (show _ % 65536 < 2 ^ 16 from Nat.mod_lt _ (by decide))).trans ?_
  rw [Dev.qHead, Dev.fld_onFn, Dev.qHead]

section
variable {d d2 : Dev} {s i : Nat} {e : Fin 4} {f : Fin 256} {x : Desc} {a : Tables}
  (running : Tbl.find (d.fn s (fnKey e.val f.val)).run i = some x) (ended : x.ended ≠ none) (master : d.bme s e.val f.val = true)
include running ended master

/-- A completion whose record waits keeps the slot. -/
theorem Dev.complete_waits (record : d.writeRecord a s e.val f.val i x = (false, d2)) : d.complete a s e.val f.val i =
    d2.onFn s (fnKey e.val f.val) fun y => { y with run := Tbl.put y.run i x } := by
  have finished : x.ended.isNone = false := by simpa [Option.isSome_iff_ne_none] using ended
  simp [Dev.complete, Dev.fetchDesc_running running, running, finished, master, record]

/-- What neither the state of the queue, nor the slots shown, nor the engine's counts hold is as the freed slot leaves it. -/
theorem Dev.complete_keeps {α : Type} (p : Dev → α) (record : d.writeRecord a s e.val f.val i x = (true, d2))
    (state : ∀ d : Dev, p (d.setQState s (fnKey e.val f.val) i 0 0) = p d) (work : ∀ d : Dev, p (d.qShow s (fnKey e.val f.val) i) = p d)
    (count : ∀ (d : Dev) (ev b : Nat), p (d.uncore s .pcUncCfgEng .pcUncCntEng e.val ev b 1) = p d)
    (slots : ∀ d : Dev, p (d.showSlots a s e.val) = p d) :
    p (d.complete a s e.val f.val i) = p (d2.slotFreed s (fnKey e.val f.val) i) := by
  have finished : x.ended.isNone = false := by simpa [Option.isSome_iff_ne_none] using ended
  simp only [Dev.complete, Dev.fetchDesc_running running, running, finished, master, record, Bool.false_and, Bool.not_true,
    Bool.or_self, Bool.false_eq_true, if_false]
  have queue (d : Dev) (c : Prop) [Decidable c] :
      p (if c then d.setQState s (fnKey e.val f.val) i 0 0 else d.qShow s (fnKey e.val f.val) i) = p d := ite_keeps p (state d) (work d)
  exact (slots _).trans (ite_keeps p ((count _ _ _).trans ((count _ _ _).trans (queue _ _))) ((count _ _ _).trans (queue _ _)))

/-- A completion whose record is written frees the slot and moves HEAD. -/
theorem Dev.complete_written (hi : i < 4096) (record : d.writeRecord a s e.val f.val i x = (true, d2)) :
    Tbl.find ((d.complete a s e.val f.val i).fn s (fnKey e.val f.val)).run i = none ∧
    (d.complete a s e.val f.val i).qHead s (fnKey e.val f.val) i = (d2.qHead s (fnKey e.val f.val) i + 1) % 65536 := by
  constructor
  · have slot := Dev.complete_keeps running ended master (fun d : Dev => Tbl.find (d.fn s (fnKey e.val f.val)).run i) record
      (fun d => by rw [Dev.fn_setQState]) (fun d => by rw [Dev.fn_qShow]) (fun d _ _ => by rw [Dev.fn_uncore])
      (fun d => by rw [Dev.fn_showSlots])
    exact slot.trans (d2.slot_slotFreed ..)
  · have head := Dev.complete_keeps running ended master (fun d : Dev => d.qHead s (fnKey e.val f.val) i) record
      (fun d => d.qHead_setQState ..) (fun d => d.qHead_qShow ..) (fun d ev b => d.qHead_uncoreEng s _ ev b 1 (fnKey_lt e f) hi e.isLt)
      (fun d => d.qHead_showSlots a s _ (fnKey_lt e f) hi e.isLt)
    exact head.trans (d2.qHead_slotFreed ..)

end

/-- Settles O52: a command of its OP runs the descriptor in its slot; within one line each data operation is one piece. -/
theorem descriptorsRunAndComplete : Obligations.DescriptorsRunAndComplete := by
  intro s sk e f i x
  refine ⟨fun running master => ⟨fun unended => ?_, fun ended d2 => ⟨fun record => ⟨_, State.next_ended rfl, ?_⟩,
    fun record => ⟨_, State.next_ended rfl, Dev.complete_written running ended master i.isLt record⟩⟩⟩, Dev.execDesc_badOp,
    Dev.execDesc_badFormat, Dev.execDesc_nop, fun format flatSrc flatDst line => ⟨fun fill d2 written => ?_,
    fun srcLine bs d1 read => ⟨fun copy d2 written => ?_, fun crc => ?_, fun compare other d2 readOther => ?_⟩⟩⟩
  · have ran (op : Nat) (is : x.op = op) := is ▸ Dev.runOp_running running unended master s.adm.tab
    exact ⟨fun is => State.next_ended (ran 0 is), fun is => State.next_ended (ran 1 is), fun is => State.next_ended (ran 2 is),
      fun is => State.next_ended (ran 3 is), fun is => State.next_ended (ran 4 is), fun is => State.next_ended (ran 8 is),
      fun is => State.next_ended (ran 9 is), fun is => State.next_ended (ran 10 is), fun is => State.next_ended (ran 11 is),
      fun is => State.next_ended (ran 16 is), fun is => State.next_ended (ran 17 is), fun is => State.next_ended (ran 18 is),
      fun is => State.next_ended (ran 19 is)⟩
  · rw [Dev.complete_waits running ended master record, Dev.fn_onFn_same, Tbl.find_put_same]
  · have some_ := Desc.len_pos format (by rw [fill]; decide)
    obtain ⟨p, all, ran⟩ := Dev.ferryRun_fill some_ line written 0 x.len
    exact Dev.execDesc_flat (by rw [fill]; decide) (by rw [fill]; decide) (by rw [fill]; rfl) format flatSrc flatDst ran
  · have some_ := Desc.len_pos format (by rw [copy]; decide)
    obtain ⟨p, all, ran⟩ := Dev.ferryRun_copy some_ line srcLine read written 0 x.len
    rw [Dev.execDesc_flat (by rw [copy]; decide) (by rw [copy]; decide) (by rw [copy]; rfl) format flatSrc flatDst ran, all]
    rfl
  · have some_ := Desc.len_pos format (by rw [crc]; decide)
    obtain ⟨p, all, sum, ran⟩ := Dev.ferryRun_crc some_ srcLine read (x.field 0x18 8 % 2 ^ 32) x.len
    rw [Dev.execDesc_flat (by rw [crc]; decide) (by rw [crc]; decide) (by rw [crc]; rfl) format flatSrc flatDst ran, all, FOp.result, sum]
    rfl
  · have some_ := Desc.len_pos format (by rw [compare]; decide)
    obtain ⟨p, all, first, ran⟩ := Dev.ferryRun_compare some_ line srcLine read readOther 0 x.len
    rw [Dev.execDesc_flat (by rw [compare]; decide) (by rw [compare]; decide) (by rw [compare]; rfl) format flatSrc flatDst ran, all,
      FOp.result, first]
    cases (List.range x.len).find? fun i => bs.getD i 0 ≠ other.getD i 0 <;> rfl

end Sys2Proof.Machine
end

section
/-! Time-outs, quarantined tags, function-level resets and MSI-X messages of the ferry engines (R412 to R418). -/

namespace Sys2Proof.Machine

/-! ### Reports and configuration words -/

@[simp] theorem Dev.fn_notice (d : Dev) (s src t k : Nat) : (d.notice s src).fn t k = d.fn t k := by
  rw [Dev.notice, Dev.fn, Dev.reportUnit, Dev.report_keeps d s _ Socket.fns fun _ _ => rfl, Dev.fn]

@[simp] theorem Dev.port_notice (d : Dev) (s src t p : Nat) : (d.notice s src).port t p = d.port t p := Dev.port_reportUnit ..

@[simp] theorem Dev.reg_notice (d : Dev) (s src t : Nat) (r : Reg) (i j : Nat) : (d.notice s src).reg t r i j = d.reg t r i j :=
  Dev.reg_reportUnit ..

@[simp] theorem Dev.fn_showTags (d : Dev) (s k t l : Nat) : (d.showTags s k).fn t l = d.fn t l := Dev.fn_setFld ..

@[simp] theorem Dev.fnCfg_setFnCfg_same (d : Dev) (s e f w : Nat) (v : BitVec 32) : (d.setFnCfg s e f w v).fnCfg s e f w = v := by
  simp [Dev.fnCfg, Dev.setFnCfg]

/-- A configuration word is no other part of its function. -/
theorem Dev.fn_setFnCfg (d : Dev) (s e f w : Nat) (v : BitVec 32) :
    (d.setFnCfg s e f w v).fn s (fnKey e f) =
      { d.fn s (fnKey e f) with cfg := Tbl.set (fnCfgReset s e f w) (d.fn s (fnKey e f)).cfg w v } := Dev.fn_onFn_same ..

@[simp] theorem Dev.port_send (d : Dev) (m : Msg) (s p : Nat) : (d.send m).port s p = d.port s p := rfl
@[simp] theorem Dev.fn_send (d : Dev) (m : Msg) (s k : Nat) : (d.send m).fn s k = d.fn s k := rfl
@[simp] theorem Dev.reg_send (d : Dev) (m : Msg) (s : Nat) (r : Reg) (i j : Nat) : (d.send m).reg s r i j = d.reg s r i j := rfl

@[simp] theorem Dev.port_sendAll (d : Dev) (ms : List Msg) (s p : Nat) : (d.sendAll ms).port s p = d.port s p := rfl
@[simp] theorem Dev.reg_sendAll (d : Dev) (ms : List Msg) (s : Nat) (r : Reg) (i j : Nat) : (d.sendAll ms).reg s r i j = d.reg s r i j := rfl

theorem Dev.loads_setPortCfg (d : Dev) (s p w : Nat) (v : BitVec 32) : ((d.setPortCfg s p w v).port s p).loads = (d.port s p).loads := by
  rw [Dev.setPortCfg, Dev.port_onPort_same]

/-! ### CPL_TIMEOUT of a function (R414) -/

/-- The descriptor ends with CPL_TIMEOUT, AER shows the time-out, and the tag is quarantined. -/
theorem Dev.ferryTimeout_effect {d : Dev} {s e f i : Nat} {z : Desc}
    (first : ((d.fn s (fnKey e f)).run.find? fun q => q.2.ended.isNone) = some (i, z)) (tag : Nat) :
    Tbl.find ((d.ferryTimeout s e f tag).fn s (fnKey e f)).run i = some (z.end_ 7 0 0) ∧
    ((d.ferryTimeout s e f tag).fn s (fnKey e f)).tags = (d.fn s (fnKey e f)).tags ++ [(tag, true)] ∧
    ((d.ferryTimeout s e f tag).fnCfg s e f wAer).getLsbD 14 = true := by
  unfold Dev.ferryTimeout
  dsimp only
  rw [first]
  refine ⟨?_, ?_, ?_⟩
  · rw [Dev.fn_showTags, Dev.fn_notice, Dev.fn_setFnCfg, Dev.fn_onFn_same]
    exact Tbl.find_put_same ..
  · rw [Dev.fn_showTags, Dev.fn_notice, Dev.fn_setFnCfg, Dev.fn_onFn_same]
    rfl
  · rw [Dev.fnCfg, Dev.fn_showTags, Dev.fn_notice, ← Dev.fnCfg, Dev.fnCfg_setFnCfg_same, BitVec.getLsbD_or]
    exact Bool.or_true _

/-! ### CPL_TIMEOUT of a core's load (R414, R426) -/

/-- The poisoned answer that a load behind a root port draws. -/
def timedOutAnswer (s p : Nat) (n : Node) (txn : Nat) : Msg :=
  { ty := .drsp, src := portNode s p, dst := n, berth := 0, master := n.master, txn := BitVec.ofNat 12 txn, age := 0, aux := false,
    addr := 0, len := 0, data := 0, poison := true }

theorem Dev.loadTimeout_effect {d : Dev} {n : Node} {txn p : Nat}
    (port : ((List.range 32).find? fun p => (d.port n.sock.val p).loads.contains (n, txn)) = some p) :
    (d.loadTimeout n txn).net = d.net ++ [timedOutAnswer n.sock.val p n txn] ∧
    ((d.loadTimeout n txn).port n.sock.val p).loads = (d.port n.sock.val p).loads.erase (n, txn) := by
  unfold Dev.loadTimeout
  dsimp only
  rw [port]
  refine ⟨Dev.report_net .., ?_⟩
  rw [Dev.port_notice, Dev.loads_setPortCfg, Dev.port_send, Dev.port_onPort_same]

/-! ### Tags and function-level resets (R414, R417, R418) -/

theorem Dev.tags_tagFree (d : Dev) (s e f tag : Nat) : ((d.tagFree s e f tag).fn s (fnKey e f)).tags =
    (d.fn s (fnKey e f)).tags.filter fun t => !(t.1 = tag && t.2) := by
  rw [Dev.tagFree, Dev.fn_showTags, Dev.fn_onFn_same]

@[simp] theorem Dev.fn_engineDone (d : Dev) (s e t k : Nat) : (d.engineDone s e).fn t k = d.fn t k :=
  ite_keeps (fun d : Dev => d.fn t k) (Dev.fn_setFld ..) rfl

/-- A function that has been reset holds its quarantined tags and its issued writes, and nothing else. -/
theorem Dev.fn_fnReset (d : Dev) (s e f : Nat) : ∃ tags writes,
    (d.fnReset s e f).fn s (fnKey e f) = { Fn.reset with tags, writes } :=
  ⟨_, _, by rw [Dev.fnReset, Dev.fn_showTags, Dev.fn_setFld, Dev.fn_onFn_same]⟩

theorem Dev.fn_flrReadEnd {d : Dev} {s e f : Nat} (flr : (d.fn s (fnKey e f)).flr = true) (a : Tables) : ∃ tags writes,
    (d.flrReadEnd a s e f).fn s (fnKey e f) = { Fn.reset with tags, writes } := by
  unfold Dev.flrReadEnd
  dsimp only
  rw [flr, Bool.not_true, if_neg Bool.false_ne_true, Dev.fn_engineDone, Dev.fn_showSlots]
  exact Dev.fn_fnReset ..

/-! ### MSI-X (R412) -/

/-- A vector that is due and open goes out as an interrupt message, and its PBA bit clears. -/
theorem Dev.msixSend_open {d : Dev} {s e f v : Nat} (due : Tbl.get false (d.fn s (fnKey e f)).pba v = true)
    (opened : d.msixOpen s e f v = true) (released : (d.fn s (fnKey e f)).writes = [])
    (low : 0x000FE00000000000 ≤ ((d.fn s (fnKey e f)).msixWord v 0).toNat)
    (high : ((d.fn s (fnKey e f)).msixWord v 0).toNat < 0x000FE00001000000) (aligned : ((d.fn s (fnKey e f)).msixWord v 0).toNat % 4 = 0)
    (t : Tables) : d.msixSend t s e f v =
      (d.onFn s (fnKey e f) fun x => { x with pba := Tbl.set false x.pba v false }).send
        (interruptMsg (fnNode s e f) (t.berthOfFn s e f) (fnMaster s e f) ((d.fn s (fnKey e f)).msixWord v 0).toNat
          (((d.fn s (fnKey e f)).msixWord v 1).setWidth 32)) := by
  simp [Dev.msixSend, due, opened, released, low, high, aligned]

end Sys2Proof.Machine
end

section
/-! Device requests at a root port, and devices that leave and come (R421 to R427). -/

namespace Sys2Proof.Machine

/-! ### Ingress (R424, R425) -/

/-- The port of a request is up, in a berth, and its berth runs. -/
def Dev.serves (d : Dev) (t : Tables) (r : DmaReq) : Prop :=
  t.berthOfPort r.sock.val r.port.val ≠ 0 ∧ d.portUp r.sock.val r.port.val = true ∧
    d.berthRuns t r.sock.val (t.berthOfPort r.sock.val r.port.val) = true

/-- The access of `n` bytes touches the lower 4 GiB's device addresses, which no request may (R422). -/
def touchesLow (r : DmaReq) (n : Nat) : Prop := r.addr.toNat < 0x100000000 ∧ 0xC0000000 < r.addr.toNat + n

section
variable {d : Dev} {t : Tables} {r : DmaReq} {n access : Nat} {write : Bool}

theorem Dev.ingress_down (down : ¬d.serves t r) : d.ingress t r n access write = (.notTaken, d) := by
  have waits : (decide (t.berthOfPort r.sock.val r.port.val = 0) || !d.portUp r.sock.val r.port.val ||
      !d.berthRuns t r.sock.val (t.berthOfPort r.sock.val r.port.val)) = true := by
    by_contra serving
    simp only [Bool.not_eq_true, Bool.or_eq_false_iff, decide_eq_false_iff_not, Bool.not_eq_false'] at serving
    obtain ⟨⟨berth, up⟩, runs⟩ := serving
    exact down ⟨berth, up, runs⟩
  simp only [Dev.ingress, waits, if_true]

section
variable (up : d.serves t r)
include up

theorem Dev.ingress_refused (refused : r.pasid = true ∨ r.translated = true) :
    d.ingress t r n access write = (.unsupported, d) := by
  obtain ⟨berth, port, runs⟩ := up
  rcases refused with pasid | translated
  · simp [Dev.ingress, berth, port, runs, pasid]
  · simp [Dev.ingress, berth, port, runs, translated]

variable (pasid : r.pasid = false) (translated : r.translated = false) (high : ¬touchesLow r n)
include pasid translated high

/-- A request that no check refuses goes where its address leads. -/
theorem Dev.ingress_mem (owned : t.covers (t.berthOfPort r.sock.val r.port.val) r.addr.toNat (r.addr.toNat + n) = true)
    {u h o : Nat} (region : regionOf r.addr.toNat = .far u h o) : d.ingress t r n access write = (.mem, d) := by
  obtain ⟨berth, port, runs⟩ := up
  have top : (decide (r.addr.toNat < 0x100000000) && decide (0xC0000000 < r.addr.toNat + n)) = false := by
    simpa [touchesLow] using high
  simp [Dev.ingress, berth, port, runs, pasid, translated, top, region, owned]

theorem Dev.ingress_irq {u o : Nat} (region : regionOf r.addr.toNat = .intWin u o) :
    d.ingress t r n access true = (.irq, d) := by
  obtain ⟨berth, port, runs⟩ := up
  have top : (decide (r.addr.toNat < 0x100000000) && decide (0xC0000000 < r.addr.toNat + n)) = false := by
    simpa [touchesLow] using high
  simp [Dev.ingress, berth, port, runs, pasid, translated, top, region]

theorem Dev.ingress_peer (owned : t.covers (t.berthOfPort r.sock.val r.port.val) r.addr.toNat (r.addr.toNat + n) = true)
    {off q bus : Nat} (region : regionOf r.addr.toNat = .mmio r.sock.val off) (window : portWindow r.sock.val off = some (q, bus))
    (side : q / 16 = r.port.val / 16) (there : d.fld r.sock.val .pxPortStat q 0 63 60 ≠ 4) :
    d.ingress t r n access write = (.peer q, d) := by
  obtain ⟨berth, port, runs⟩ := up
  have top : (decide (r.addr.toNat < 0x100000000) && decide (0xC0000000 < r.addr.toNat + n)) = false := by
    simpa [touchesLow] using high
  simp [Dev.ingress, berth, port, runs, pasid, translated, top, region, owned, window, side, there]

end

end

/-! ### Requests (R421, R424, R425) -/

section
variable {a : Tables} {d d1 : Dev} {r : DmaReq}

/-- A stretch within one line is one piece. -/
theorem linePieces_line {addr n : Nat} (some_ : 0 < n) (line : addr % 64 + n ≤ 64) : linePieces (n + 1) addr n 0 = [(0, addr, n)] := by
  have piece : Nat.min n (64 - addr % 64) = n := Nat.min_eq_left (by omega)
  have more : n ≠ 0 := by omega
  rw [linePieces, if_neg more]
  simp only [piece, Nat.sub_self]
  rw [linePieces.eq_def]
  cases n <;> rfl

theorem Dev.dmaRead_mem (meets : d.ingress a r r.len 10 false = (.mem, d)) {ws : List Word}
    (read : d.dmaLines a r (linePieces (r.len + 1) r.addr.toNat r.len 0) = (some ws, d1)) :
    d.dmaRead a r = d1.answer (plSuccess :: ws) := by
  simp only [Dev.dmaRead, meets, read]

/-- A write within one line goes on as one line. -/
theorem Dev.dmaWrite_line {bs : List Byte} {bad : Bool} (meets : d.ingress a r bs.length 11 true = (.mem, d)) (some_ : 0 < bs.length)
    (line : r.addr.toNat % 64 + bs.length ≤ 64)
    (written : d.uncachedWrite a (portNode r.sock.val r.port.val) (a.berthOfPort r.sock.val r.port.val)
      (portMaster r.sock.val r.port.val) 0 r.addr.toNat bs.length (lineOfBytes bs) bad r.relaxed = (true, d1)) :
    d.dmaWrite a r bs bad = d1.answer [plSuccess] := by
  simp only [Dev.dmaWrite, meets, linePieces_line some_ line, List.foldl_cons, List.foldl_nil, if_true, List.drop_zero, List.take_length,
    written]

/-- The far atomic that a device request becomes. -/
def DmaReq.atomic (r : DmaReq) (a : Tables) (d : Dev) (op size : Nat) (x y : BitVec 128) : Msg :=
  { ty := .atm, src := portNode r.sock.val r.port.val, dst := d.homeSlice r.sock r.addr.toNat
    berth := BitVec.ofNat 6 (a.berthOfPort r.sock.val r.port.val), master := BitVec.ofNat 16 (portMaster r.sock.val r.port.val)
    txn := 0, age := BitVec.ofNat 20 d.now.toNat, aux := false, addr := BitVec.ofNat 52 r.addr.toNat
    len := BitVec.ofNat 7 (4 * 2 ^ size)
    data := atmData (if op = 0 then 0 else if op = 1 then 6 else 7) false (4 * 2 ^ size = 8) 0
      ((if op = 2 then y else x).setWidth 64) (x.setWidth 64)
    poison := false }

/-- An atomic of 4 or 8 bytes answers the old value that its home slice returns. -/
theorem Dev.atomicRequest_mem {op size : Nat} {x y : BitVec 128} {z : Msg} (meets : d.ingress a r (4 * 2 ^ size) 6 true = (.mem, d))
    (small : 4 * 2 ^ size ≤ 8) (aligned : r.addr.toNat % (4 * 2 ^ size) = 0)
    (unanswered : (d.inbox.any fun q => q.dst = portNode r.sock.val r.port.val && q.ty = .atr && lineOf q.pa = lineOf r.addr.toNat) = false)
    (answered : (d.ask a 8 none (DmaReq.atomic r a d op size x y)).2.take (portNode r.sock.val r.port.val) (lineOf r.addr.toNat)
      (· = .atr) = (some z, d1)) (clean : z.poison = false) :
    d.atomicRequest a r op size x y = d1.answer [plSuccess, 0, word (nbits z.data.toNat (8 * (4 * 2 ^ size) - 1) 0)] := by
  have fits : (decide (8 < 4 * 2 ^ size) || decide (r.addr.toNat % (4 * 2 ^ size) ≠ 0)) = false := by
    simp only [Bool.or_eq_false_iff, decide_eq_false_iff_not]
    exact ⟨Nat.not_lt.2 small, not_not.2 aligned⟩
  simp only [DmaReq.atomic] at answered
  simp only [Dev.atomicRequest, meets, fits, unanswered, answered, clean, Bool.false_eq_true, if_false]
  rfl

/-- Larger atomics are unsupported. -/
theorem Dev.atomicRequest_large {op size : Nat} {x y : BitVec 128} (meets : d.ingress a r (4 * 2 ^ size) 6 true = (.mem, d))
    (large : 8 < 4 * 2 ^ size) : d.atomicRequest a r op size x y = d.answer [plUnsupported] := by
  simp only [Dev.atomicRequest, meets, large, decide_true, Bool.true_or, if_true]

end

/-- A port that is down takes no request. -/
theorem requests_down {s : State} {r : DmaReq} (down : ¬s.dev.serves s.adm.tab r) (bs : List Byte) (bad : Bool) (op size : Fin 3)
    (x y : BitVec 128) : exec (.dmaRead r) s = .next (s.ended (s.dev.answer [plWaits])) ∧
      exec (.dmaWrite r bs bad) s = .next (s.ended (s.dev.answer [plWaits])) ∧
      exec (.peerRequest r bad bs) s = .next (s.ended (s.dev.answer [plWaits])) ∧
      exec (.atomicopRequest r op size x y) s = .next (s.ended (s.dev.answer [plWaits])) := by
  have met (n access : Nat) (write : Bool) : s.dev.ingress s.adm.tab r n access write = (.notTaken, s.dev) := Dev.ingress_down down
  exact ⟨State.next_ended (by simp only [Dev.dmaRead, met]), State.next_ended (by simp only [Dev.dmaWrite, met]),
    State.next_ended (by simp only [Dev.peerRequest, met]), State.next_ended (by simp only [Dev.atomicRequest, met])⟩

/-! ### Interrupts of a port, removal and insertion (R421, R423, R427) -/

section
variable (d : Dev) (s p : Nat)

/-- A port's interrupt is a message or a report. -/
theorem Dev.portMsi_keeps {α : Type} (P : Dev → α) (sent : ∀ (d : Dev) m, P (d.send m) = P d)
    (told : ∀ (d : Dev) src, P (d.notice s src) = P d) (t : Tables) : P (d.portMsi t s p) = P d := by
  unfold Dev.portMsi
  exact ite_keeps P rfl (ite_keeps P (sent ..) (told ..))

@[simp] theorem Dev.port_portMsi (t : Tables) (u q : Nat) : (d.portMsi t s p).port u q = d.port u q :=
  d.portMsi_keeps s p (fun d : Dev => d.port u q) (fun _ _ => rfl) (fun _ _ => Dev.port_notice ..) t

@[simp] theorem Dev.reg_portMsi (t : Tables) (u : Nat) (r : Reg) (i j : Nat) : (d.portMsi t s p).reg u r i j = d.reg u r i j :=
  d.portMsi_keeps s p (fun d : Dev => d.reg u r i j) (fun _ _ => rfl) (fun _ _ => Dev.reg_notice ..) t

@[simp] theorem Dev.port_portLoadsEnd : (d.portLoadsEnd s p).port s p = { d.port s p with loads := [] } := by
  rw [Dev.portLoadsEnd, Dev.port_sendAll, Dev.port_onPort_same]

@[simp] theorem Dev.reg_portLoadsEnd (t : Nat) (r : Reg) (i j : Nat) : (d.portLoadsEnd s p).reg t r i j = d.reg t r i j := by
  rw [Dev.portLoadsEnd, Dev.reg_sendAll, Dev.reg_onPort]

/-- A CXL port's root port is its own. -/
theorem cxlRoot_of_cxlOf {p i : Nat} (cxl : cxlOf p = some i) : cxlRoot i = p ∧ i < 4 := by
  have found := List.find?_some cxl
  have listed := List.mem_of_find?_eq_some cxl
  exact ⟨of_decide_eq_true found, List.mem_range.1 listed⟩

/-- The port and its status once the loads have ended, before its expanders go. -/
def Dev.removed (dpc : Bool) : Dev :=
  if dpc then (d.portLoadsEnd s p).setFld s .pxPortStat p 0 63 60 3
  else ((d.portLoadsEnd s p).setReg s .pxPortStat p 0 (word (2 ^ 60))).onPort s p fun x => { x with present := false, hotplug := true }

theorem Dev.loads_removed (dpc : Bool) : ((d.removed s p dpc).port s p).loads = [] := by
  cases dpc
  · simp only [Dev.removed, Bool.false_eq_true, if_false, Dev.port_onPort_same, Dev.port_setReg, Dev.port_portLoadsEnd]
  · simp only [Dev.removed, if_true, Dev.setFld, Dev.port_setReg, Dev.port_portLoadsEnd]

theorem Dev.present_removed : ((d.removed s p false).port s p).present = false := by
  simp only [Dev.removed, Bool.false_eq_true, if_false, Dev.port_onPort_same]

theorem Dev.state_removed (dpc : Bool) : (d.removed s p dpc).fld s .pxPortStat p 0 63 60 = if dpc then 3 else 1 := by
  cases dpc
  · simp only [Dev.removed, Bool.false_eq_true, if_false, Dev.fld, Dev.reg_onPort, Dev.reg_setReg_same]
    decide
  · exact Dev.fld_setFld_same _ _ (by decide) (by decide) (by decide)

end

/-- What neither its lost expanders, nor an interrupt, nor a report holds is as the removed port leaves it. -/
theorem Dev.surprise_keeps {α : Type} (P : Dev → α) {d : Dev} {s p : Nat} (used : d.fld s .pxPortCfg p 0 63 63 = 1)
    (active : d.fld s .pxPortStat p 0 63 60 = 2) (sent : ∀ (d : Dev) m, P (d.send m) = P d)
    (told : ∀ (d : Dev) s src cls sub b access addr, P (d.reportUnit s src cls sub b access addr) = P d)
    (a : Tables) {dpc : Bool} (gone : ∀ i, cxlOf p = some i → P ((d.removed s p dpc).cxlGone s i) = P (d.removed s p dpc)) :
    P (d.surprise a s p dpc) = P (d.removed s p dpc) := by
  have going : (decide (d.fld s .pxPortCfg p 0 63 63 = 0) || decide (d.fld s .pxPortStat p 0 63 60 ≠ 2)) = false := by
    simp [used, active]
  unfold Dev.surprise
  rw [going, if_neg Bool.false_ne_true]
  refine (Dev.portMsi_keeps _ _ _ P sent (fun d src => told ..) a).trans ?_
  cases cxl : cxlOf p with
  | none => rfl
  | some i => exact ite_keeps P ((Dev.cxlLost_keeps P told a _ s i).trans (gone i cxl)) rfl

section
variable {d : Dev} {s : Nat} {p : Nat} (hp : p < 32) (used : d.fld s .pxPortCfg p 0 63 63 = 1)
  (active : d.fld s .pxPortStat p 0 63 60 = 2) (a : Tables)
include used active

theorem Dev.loads_surprise (dpc : Bool) : ((d.surprise a s p dpc).port s p).loads = [] := by
  refine (Dev.surprise_keeps (fun d : Dev => (d.port s p).loads) used active (fun _ _ => rfl) (fun d _ _ _ _ _ _ _ => by simp) a
    fun i cxl => ?_).trans (d.loads_removed s p dpc)
  rw [Dev.cxlGone, (cxlRoot_of_cxlOf cxl).1, Dev.setFld, Dev.port_setReg, Dev.port_onPort_same]

theorem Dev.present_surprise : ((d.surprise a s p false).port s p).present = false := by
  refine (Dev.surprise_keeps (fun d : Dev => (d.port s p).present) used active (fun _ _ => rfl) (fun d _ _ _ _ _ _ _ => by simp) a
    fun i cxl => ?_).trans (d.present_removed s p)
  rw [Dev.cxlGone, (cxlRoot_of_cxlOf cxl).1, Dev.setFld, Dev.port_setReg, Dev.port_onPort_same, d.present_removed s p]

include hp

theorem Dev.state_surprise (dpc : Bool) : (d.surprise a s p dpc).fld s .pxPortStat p 0 63 60 = if dpc then 3 else 1 := by
  refine (Dev.surprise_keeps (fun d : Dev => d.fld s .pxPortStat p 0 63 60) used active (fun _ _ => rfl)
    (fun d _ _ _ _ _ _ _ => Dev.fld_reportUnit ..) a fun i cxl => ?_).trans (d.state_removed s p dpc)
  obtain ⟨-, small⟩ := cxlRoot_of_cxlOf cxl
  rw [Dev.cxlGone, Dev.fld_setFld_other _ s s (by decide) hp (by decide) (show i / 2 < 2 by omega) (show i % 2 < 2 by omega), Dev.fld,
    Dev.reg_onPort, Dev.fld]

end

/-- The widest width of those that a device and a port have. -/
def portWidth (width lanes : Nat) : Nat := ([16, 8, 4, 2, 1].find? fun k => k ≤ width && k ≤ lanes).getD 1

theorem portWidth_le (width lanes : Nat) : portWidth width lanes ≤ 16 := by
  unfold portWidth
  cases found : [16, 8, 4, 2, 1].find? fun k => decide (k ≤ width) && decide (k ≤ lanes) with
  | none => decide
  | some k =>
    have listed := List.mem_of_find?_eq_some found
    simp only [List.mem_cons, List.not_mem_nil, or_false] at listed
    rw [Option.getD_some]
    omega

/-- PX_PORT_STAT of a trained link: ACTIVE, its rate, FLIT mode and width. -/
def trainedWord (speed flit width : Nat) : Word := word (2 * 2 ^ 60 + speed * 2 ^ 48 + flit * 2 ^ 44 + width * 2 ^ 32)

theorem bits_trainedWord {speed flit width : Nat} (rate : speed ≤ 6) (mode : flit < 2) (lanes : width ≤ 16) :
    bits (trainedWord speed flit width) 63 60 = 2 ∧ bits (trainedWord speed flit width) 51 48 = speed ∧
    bits (trainedWord speed flit width) 36 32 = width ∧ bits (trainedWord speed flit width) 44 44 = flit := by
  have whole : (trainedWord speed flit width).toNat = 2 * 2 ^ 60 + speed * 2 ^ 48 + flit * 2 ^ 44 + width * 2 ^ 32 := by
    rw [trainedWord, word, BitVec.toNat_ofNat, Nat.mod_eq_of_lt (by omega)]
  simp only [bits, nbits, whole, Nat.shiftRight_eq_div_pow]
  omega

/-- A device that answers trains, and its presence interrupt goes out: of its registers the port's status alone changes. -/
theorem Dev.hotPlug_trains {d : Dev} {s p lanes speed width : Nat} (ends : d.portLanes s p = some lanes)
    (used : d.fld s .pxPortCfg p 0 63 63 = 1) (training : d.fld s .pxPortStat p 0 63 60 = 1) (low : 1 ≤ speed) (high : speed ≤ 6)
    (some_ : width ≠ 0) (a : Tables) : ∃ flit < 2, (speed = 6 → flit = 1) ∧
      ((d.hotPlug a s p speed width).port s p).present = true ∧
      (d.hotPlug a s p speed width).reg s .pxPortStat p 0 = trainedWord speed flit (portWidth width lanes) := by
  have going : (decide (d.fld s .pxPortCfg p 0 63 63 = 0) || decide (d.fld s .pxPortStat p 0 63 60 ≠ 1) || decide (speed = 0) ||
      decide (6 < speed) || decide (width = 0)) = false := by
    have rate : speed ≠ 0 ∧ ¬6 < speed := by omega
    simp [used, training, some_, rate]
  unfold Dev.hotPlug
  rw [ends]
  dsimp only
  rw [going, if_neg Bool.false_ne_true]
  by_cases top : speed = 6
  · rw [if_pos top]
    exact ⟨1, by decide, fun _ => rfl, by rw [Dev.port_portMsi, Dev.port_onPort_same],
      by rw [Dev.reg_portMsi, Dev.reg_onPort, Dev.reg_setReg_same]; rfl⟩
  · rw [if_neg top]
    exact ⟨bits d.free.1 0 0, Nat.mod_lt _ (by decide), fun is => absurd is top, by rw [Dev.port_portMsi, Dev.port_onPort_same],
      by rw [Dev.reg_portMsi, Dev.reg_onPort, Dev.reg_setReg_same]; rfl⟩

/-! ### The statement on the host bus -/

/-- Settles O53: each event by its function of the model; a device request by where its checks and its address lead. -/
theorem hostBusEvents : Obligations.HostBusEvents := by
  intro s sk e f txn tag vec c r bs bad op size x y p dpc speed width
  refine ⟨fun i z first => ⟨_, State.next_ended rfl, Dev.ferryTimeout_effect first _⟩, fun q port => ?_,
    ⟨_, State.next_withDev rfl, Dev.tags_tagFree ..⟩, fun flr => ⟨_, State.next_withDev rfl, ?_⟩,
    fun due opened released low high aligned => ⟨_, State.next_ended (Dev.msixSend_open due opened released low high aligned _), ?_, rfl⟩,
    fun down => ?_, fun up refused => ?_, fun up free owned => ?_, fun up pasid translated high region => ?_,
    fun up pasid translated owned off q bus high region window side there => ?_, fun used active => ⟨_, State.next_ended rfl,
      Dev.loads_surprise used active _ _, Dev.state_surprise p.isLt used active _ _, ?_⟩,
    fun lanes ends used training low high some_ => ⟨_, State.next_ended rfl, ?_⟩⟩
  · obtain ⟨net, loads⟩ := Dev.loadTimeout_effect (n := .core sk c) port
    exact ⟨_, _, State.next_ended rfl, net, rfl, rfl, BitVec.ofNat_toNat .., rfl, loads⟩
  · obtain ⟨tags, writes, reset⟩ := Dev.fn_flrReadEnd flr s.adm.tab
    rw [reset]
    exact ⟨rfl, rfl, rfl⟩
  · rw [Dev.fn_send, Dev.fn_onFn_same, Tbl.get_set_same]
  · exact requests_down down ..
  · have met (n access : Nat) (write : Bool) : s.dev.ingress s.adm.tab r n access write = (.unsupported, s.dev) :=
      Dev.ingress_refused up refused
    exact ⟨State.next_ended (by simp only [Dev.dmaRead, met]), State.next_ended (by simp only [Dev.dmaWrite, met])⟩
  · obtain ⟨pasid, translated, high, u, h, o, region⟩ := free
    have met (access : Nat) (write : Bool) : s.dev.ingress s.adm.tab r r.len access write = (.mem, s.dev) :=
      Dev.ingress_mem up pasid translated high owned region
    refine ⟨fun ws d1 read => State.next_ended (Dev.dmaRead_mem (met ..) read), fun length some_ line d1 written => ?_,
      fun length large => ?_, fun length small aligned => ?_⟩
    · exact State.next_ended (Dev.dmaWrite_line (length ▸ met ..) some_ line written)
    · subst large
      have bytes : r.len = 4 * 2 ^ (2 : Fin 3).val := length
      exact State.next_ended (Dev.atomicRequest_large (bytes ▸ met ..) (by decide))
    · have few : 4 * 2 ^ size.val ≤ 8 := by
        have two : size.val < 2 := by omega
        calc 4 * 2 ^ size.val ≤ 4 * 2 ^ 1 := Nat.mul_le_mul_left 4 (Nat.pow_le_pow_right (by decide) (by omega))
          _ ≤ 8 := by decide
      refine ⟨DmaReq.atomic r s.adm.tab s.dev op.val size.val x y, rfl, rfl, BitVec.toNat_ofNat .., rfl,
        fun z d1 unanswered answered clean => State.next_ended ?_⟩
      rw [length] at aligned ⊢
      exact Dev.atomicRequest_mem (length ▸ met ..) few aligned unanswered answered clean
  · obtain ⟨u, o, region⟩ := region
    refine State.next_ended ?_
    simp only [Dev.dmaWrite, Dev.ingress_irq (d := s.dev) up pasid translated high region]
  · have met : s.dev.ingress s.adm.tab r r.len (if bad then 11 else 10) bad = (.peer q, s.dev) :=
      Dev.ingress_peer up pasid translated high owned region window side there
    exact State.next_ended (by simp only [Dev.peerRequest, met])
  · rintro rfl
    exact Dev.present_surprise used active _
  · obtain ⟨flit, mode, top, present, stat⟩ := Dev.hotPlug_trains ends used training low high
      (fun zero => some_ (BitVec.eq_of_toNat_eq zero)) s.adm.tab
    obtain ⟨state, rate, lanes_, flit_⟩ := bits_trainedWord high mode (portWidth_le width.toNat lanes)
    simp only [Dev.fld, stat]
    exact ⟨present, state, rate, lanes_, fun is => flit_.trans (top (congrArg BitVec.toNat is))⟩

end Sys2Proof.Machine
end

section
/-! WH_SVC and the operations that it shows: firmware, microcode, pods, channels, expanders and re-admission (R500 to R512). -/

namespace Sys2Proof.Machine

/-! ### What showing an operation leaves as it is (R500) -/

section
variable (d : Dev) (s op arg st : Nat)

/-- A part of the sockets that no register of WH_SVC is. -/
theorem Dev.svcShow_keeps {α : Type} (P : Dev → α) (kept : ∀ (x : Dev) hi lo v, P (x.setFld s .whSvc 0 0 hi lo v) = P x) :
    P (d.svcShow s op arg st) = P d :=
  (kept _ _ _ _).trans ((kept _ _ _ _).trans (kept _ _ _ _))

@[simp] theorem Dev.wheel_svcShow (t : Nat) : (d.svcShow s op arg st).wheel t = d.wheel t :=
  d.svcShow_keeps s op arg st (Dev.wheel · t) fun _ _ _ _ => Dev.setFld_wheel ..

@[simp] theorem Dev.chan_svcShow (t c : Nat) : (d.svcShow s op arg st).chan t c = d.chan t c :=
  d.svcShow_keeps s op arg st (Dev.chan · t c) fun _ _ _ _ => Dev.chan_setFld ..

theorem Dev.reg_svcShow {r : Reg} (other : r ≠ .whSvc) {i j : Nat} (hi : i < r.place.c1) (hj : j < r.place.c2) (t : Nat) :
    (d.svcShow s op arg st).reg t r i j = d.reg t r i j :=
  d.svcShow_keeps s op arg st (Dev.reg · t r i j) fun x _ _ _ => x.reg_setFld_other s t other hi hj (by decide) (by decide) ..

theorem Dev.fld_svcShow {r : Reg} (other : r ≠ .whSvc) {i j : Nat} (hi : i < r.place.c1) (hj : j < r.place.c2) (t top bottom : Nat) :
    (d.svcShow s op arg st).fld t r i j top bottom = d.fld t r i j top bottom :=
  congrArg (bits · top bottom) (d.reg_svcShow s op arg st other hi hj t)

theorem Dev.members_svcShow (m : Nat) : (d.svcShow s op arg st).members m = d.members m := by
  simp only [Dev.members, Dev.present_svcShow]

end

section
variable (d : Dev) (s arg st : Nat)

/-- The end of an operation is told through the management port alone. -/
theorem Dev.wheel_svcEnd (op t : Nat) : ((d.svcEnd s op arg st).wheel t).kept = (d.wheel t).kept ∧
    ((d.svcEnd s op arg st).wheel t).staged = (d.wheel t).staged := by
  unfold Dev.svcEnd
  dsimp only
  split
  · by_cases here : t = s
    · subst here
      simp [Dev.tellPort]
    · rw [Dev.tellPort, Dev.wheel_onWheel_ne _ _ here, Dev.wheel_svcShow]
      exact ⟨rfl, rfl⟩
  · rw [Dev.wheel_svcShow]
    exact ⟨rfl, rfl⟩

end

@[simp] theorem Dev.wheel_answer (d : Dev) (ws : List Word) (t : Nat) : (d.answer ws).wheel t = d.wheel t := rfl

/-! ### When an operation may start -/

section
variable {d : Dev} {s op arg st : Nat} (free : d.fld s .whSvc 0 0 58 56 ≠ 1)
include free

theorem Dev.svcFree_of_ended (op arg : Nat) : d.svcFree s op arg = true := by
  simp [Dev.svcFree, svcRunning, free]

/-- An operation that meets no other runs, and WH_SVC shows the status that it ends with. -/
theorem Dev.svc_runs {f : Dev → Nat × Dev} {e : Dev} (run : f (d.svcShow s op arg 1) = (st, e)) :
    d.svc s op arg f = (e.svcEnd s op arg st).answer [word st] := by
  have goes : ¬(!d.svcFree s op arg) = true := by simp [Dev.svcFree_of_ended free]
  rw [Dev.svc, if_neg goes, svcRunning, run]

/-- The same of an operation that changes the berth tables. -/
theorem svcTables_runs {a b : Admin} (idle : a.order = none) {f : Admin → Dev → Nat × Admin × Dev} {e : Dev}
    (run : f a (d.svcShow s op arg 1) = (st, b, e)) : svcTables a d s op arg f = (b, (e.svcEnd s op arg st).answer [word st]) := by
  have goes : ¬(!d.svcFree s op arg || a.order.isSome) = true := by simp [Dev.svcFree_of_ended free, idle]
  rw [svcTables, if_neg goes, svcRunning, run]

end

/-- The status that WH_SVC shows once an operation has answered. -/
theorem Dev.stat_answered (e : Dev) (s arg : Nat) {op st : Nat} (ops : op < 16) (codes : st < 8) (ws : List Word) :
    ((e.svcEnd s op arg st).answer ws).fld s .whSvc 0 0 58 56 = st := by
  rw [Dev.fld_answer, (e.fld_svcEnd s arg ops codes).2]

/-! ### FIRMWARE_UPDATE (R501) -/

/-- A copy in flash is written beside the running and the staged manifest. -/
theorem Dev.writeCopies_keeps {α : Type} (P : Wheel → α) (copies : ∀ (w : Wheel) copy image, P (w.writeCopy copy image) = P w) (d : Dev)
    (l : List Nat) (copy : Nat) (image : List Byte) (t : Nat) :
    P ((d.each l fun x u => x.onWheel u fun w => w.writeCopy copy image).wheel t) = P (d.wheel t) :=
  foldl_keeps (fun x : Dev => P (x.wheel t)) (fun x u _ => by
    by_cases here : t = u
    · subst here
      rw [Dev.wheel_onWheel_same, copies]
    · rw [Dev.wheel_onWheel_ne _ _ here]) d

section
variable {a : Admin} {d : Dev} {s : Nat} {image : List Byte}

/-- The sockets when the manager has written the copy that is not running. -/
def Dev.copied (d : Dev) (s : Nat) (image : List Byte) : Dev :=
  let x := d.svcShow s 1 0 1
  x.each (s :: x.standbys s) fun y t => y.onWheel t fun w => w.writeCopy (1 - x.fld s .whBoot 0 0 44 44) image

theorem Dev.fuses_copied (d : Dev) (s : Nat) (image : List Byte) : ((d.copied s image).wheel s).fuses = (d.wheel s).fuses :=
  (Dev.writeCopies_keeps Wheel.fuses (fun _ _ _ => rfl) ..).trans (by rw [Dev.wheel_svcShow])

theorem Dev.staged_copied (d : Dev) (s : Nat) (image : List Byte) : ((d.copied s image).wheel s).staged = (d.wheel s).staged :=
  (Dev.writeCopies_keeps Wheel.staged (fun _ _ _ => rfl) ..).trans (by rw [Dev.wheel_svcShow])

/-- The status of a firmware update, and the sockets after it. -/
def Dev.staging (a : Admin) (d : Dev) (s : Nat) (image : List Byte) : Nat × Dev :=
  let m := image.take (Nat.min copySize image.length)
  if manStatus (d.wheel s).fuses m ≠ bootOk then (svcVerify, d)
  else if !compatible a d s m then (svcMismatch, d)
  else (svcDone, d.onWheel s fun w => { w with staged := m })

theorem Dev.firmwareUpdate_ends (manager : d.isManager s = true) (awake : d.awake s = true) (free : d.fld s .whSvc 0 0 58 56 ≠ 1)
    {st : Nat} {e : Dev} (stages : (d.copied s image).staging a s image = (st, e)) :
    d.firmwareUpdate a s image = (e.svcEnd s 1 0 st).answer [word st] := by
  have goes : ¬(!d.isManager s || !d.awake s) = true := by simp [manager, awake]
  rw [Dev.firmwareUpdate, if_neg goes]
  refine Dev.svc_runs free (Eq.trans ?_ stages)
  rw [Dev.staging, Dev.copied]

/-- The status of a firmware update and the copy that is staged after it. -/
theorem Dev.firmwareUpdate_effect (manager : d.isManager s = true) (awake : d.awake s = true) (free : d.fld s .whSvc 0 0 58 56 ≠ 1)
    {st : Nat} {e : Dev} (stages : (d.copied s image).staging a s image = (st, e)) (codes : st < 8) :
    (d.firmwareUpdate a s image).fld s .whSvc 0 0 58 56 = st ∧
      ((d.firmwareUpdate a s image).wheel s).staged = (e.wheel s).staged := by
  rw [Dev.firmwareUpdate_ends manager awake free stages]
  refine ⟨e.stat_answered s 0 (by decide) codes _, ?_⟩
  rw [Dev.wheel_answer, (e.wheel_svcEnd s 0 st 1 s).2]

end

/-! ### MICROCODE_ROLL_OUT and POD_QUIESCE (R504, R505) -/

section
variable {t : Tables} {d : Dev} {s : Nat}

theorem Dev.rollOut_runs (manifest : (d.wheel s).kept ≠ []) (free : d.fld s .whSvc 0 0 58 56 ≠ 1) {e : Dev}
    (newest : ((d.svcShow s 3 0 1).setFld s .whSvc 0 0 54 48 0).onWheel s (fun w => { w with ucode := manVersion w.kept 2 }) = e) :
    d.rollOut t s = ((e.each (e.enabledPods s) fun x i => x.podQuiesce t s i).svcEnd s 3 0 2).answer [word 2] := by
  have goes : ¬(d.wheel s).kept.isEmpty = true := by simp [manifest]
  subst newest
  rw [Dev.rollOut, if_neg goes]
  exact Dev.svc_runs free rfl

/-- Both cores of a pod that runs stop with their stores drained, and the newest image is written while its router injects nothing. -/
theorem Dev.podQuiesce_running {pod : Nat} (enabled : (d.enabledPods s).contains pod = true) (whole : d.podFenced s pod = false)
    {e f : Dev} (first : (d.core (coreOf (sk s) pod 0)).run = .running)
    (second : ((d.drainAll t (coreOf (sk s) pod 0)).core (coreOf (sk s) pod 1)).run = .running)
    (held : (((d.drainAll t (coreOf (sk s) pod 0)).drainAll t (coreOf (sk s) pod 1)).quiesce t).setFld s .ldMeshCtl (landingOf pod)
      0 4 4 1 = e)
    (written : (e.setReg s .ldPodUcode (landingOf pod) 0 (e.wheel s).ucode).setFld s .ldMeshCtl (landingOf pod) 0 4 4 0 = f) :
    d.podQuiesce t s pod = (f.meshGo t (sk s) (landingOf pod)).bump s .whSvc 0 0 54 48 1 := by
  have goes : ¬(!(d.enabledPods s).contains pod || d.podFenced s pod) = true := by simp only [enabled, whole]; decide
  subst held written
  rw [Dev.podQuiesce, if_neg goes]
  dsimp only
  rw [first]
  dsimp only
  rw [second]

end

/-! ### SPARE_POD_SUBSTITUTION (R506) -/

section
variable {a : Admin} {d : Dev} {s pod : Nat}

theorem podSubstitution_runs (enabled : (d.enabledPods s).contains pod = true) (free : d.fld s .whSvc 0 0 58 56 ≠ 1)
    (idle : a.order = none) {st : Nat} {b : Admin} {e : Dev} (run : substitute a (d.svcShow s 4 pod 1) s pod = (st, b, e)) :
    podSubstitution a d s pod = (b, (e.svcEnd s 4 pod st).answer [word st]) := by
  have there : ((d.svcShow s 4 pod 1).enabledPods s).contains pod = true := by
    rw [Dev.enabledPods, Dev.wheel_svcShow]
    exact enabled
  refine svcTables_runs free idle ?_
  rw [if_pos there, run]

/-- The Wheelhouse substitutes no pod that is not enabled. -/
theorem podSubstitution_refused (disabled : (d.enabledPods s).contains pod = false) (free : d.fld s .whSvc 0 0 58 56 ≠ 1)
    (idle : a.order = none) : podSubstitution a d s pod = (a, ((d.svcShow s 4 pod 1).svcEnd s 4 pod 7).answer [7]) := by
  have absent : ¬((d.svcShow s 4 pod 1).enabledPods s).contains pod = true := by
    rw [Dev.enabledPods, Dev.wheel_svcShow, ← Dev.enabledPods, disabled]
    decide
  refine svcTables_runs free idle ?_
  rw [if_neg absent, svcRefused]

/-- The old slice after its next walk, and whether it is empty then. -/
theorem substitute_eq {x : Bool × Dev} (walked : (if (d.wheel s).replacing = some pod then d else d.substituteStart a.tab s pod).emptySlice
    a.tab (sk s) (fin104 pod) = x) : substitute a d s pod = if x.1 then substituteEnd a x.2 s pod else (svcRunning, a, x.2) := by
  rw [substitute, substituteGo, walked]

theorem substituteEnd_spare {x : Nat} (spare : ((d.setFld s .ldMeshCtl (landingOf pod) 0 4 4 1).onWheel s fun w =>
    { w with replacing := none }).chooseSpare s pod = some x) : ∃ e, substituteEnd a d s pod =
      (2, { a with tab := a.tab.swapPod s pod x, mirror := a.mirror.swapPod s pod x }, e) := by
  rw [substituteEnd, spare]
  exact ⟨_, rfl⟩

theorem substituteEnd_none (none_ : ((d.setFld s .ldMeshCtl (landingOf pod) 0 4 4 1).onWheel s fun w =>
    { w with replacing := none }).chooseSpare s pod = none) : ∃ e, substituteEnd a d s pod = (5, a, e) := by
  rw [substituteEnd, none_]
  exact ⟨_, rfl⟩

/-- What an ended or running substitution shows. -/
theorem podSubstitution_effect (enabled : (d.enabledPods s).contains pod = true) (free : d.fld s .whSvc 0 0 58 56 ≠ 1)
    (idle : a.order = none) {st : Nat} (codes : st < 8) {b : Admin} {e : Dev}
    (run : substitute a (d.svcShow s 4 pod 1) s pod = (st, b, e)) :
    (podSubstitution a d s pod).1 = b ∧ (podSubstitution a d s pod).2.fld s .whSvc 0 0 58 56 = st ∧
      (podSubstitution a d s pod).2.out = [word st] := by
  rw [podSubstitution_runs enabled free idle run]
  exact ⟨rfl, Dev.stat_answered _ _ _ (by decide) codes _, rfl⟩

end

/-! ### CHANNEL_REMOVAL and CHANNEL_RETURN (R510) -/

section
variable {t : Tables} {d : Dev} {s ch : Nat}

theorem Dev.channelOut_waits (copying : ((d.farUnit s ch).all fun u => d.redirects s (ch / 6) u.1) = false) :
    d.channelOut s ch = (1, d) := by
  rw [Dev.channelOut, copying]
  rfl

/-- A channel whose runs all redirect stops in self-refresh. -/
theorem Dev.channelOut_stops (copied : ((d.farUnit s ch).all fun u => d.redirects s (ch / 6) u.1) = true) :
    (d.channelOut s ch).1 = 2 ∧ (d.channelOut s ch).2.fld s .fmChCfg ch 0 63 60 = 4 ∧
      ((d.channelOut s ch).2.chan s ch).selfRefresh = true := by
  rw [Dev.channelOut, if_pos copied]
  refine ⟨rfl, ?_, ?_⟩
  · rw [Dev.fld_onChan, Dev.fld_setFld_same _ s (by decide) (by decide) (by decide)]
  · rw [Dev.chan_onChan_same]

theorem Dev.channelIn_ready (back : ((d.farUnit s ch).any fun u => d.hasRun s (ch / 6) u.1) = false) : d.channelIn s ch = (2, d) := by
  rw [Dev.channelIn, back]
  rfl

variable (hch : ch < 12) (free : d.fld s .whSvc 0 0 58 56 ≠ 1)
include hch free

theorem Dev.channelRemoval_full (live : 2 ≤ d.fld s .fmChCfg ch 0 63 60) (full : (((d.svcShow s 5 ch 1).farUnit s ch).all fun u =>
    (d.svcShow s 5 ch 1).canEvacuate t s (ch / 6) u.1 u.2) = false) :
    d.channelRemoval t s ch = ((d.svcShow s 5 ch 1).svcEnd s 5 ch 6).answer [word 6] := by
  refine Dev.svc_runs free ?_
  rw [d.fld_svcShow s 5 ch 1 (r := .fmChCfg) (by decide) hch (by decide)]
  have running : ¬(decide (d.fld s .fmChCfg ch 0 63 60 = 0) || decide (d.fld s .fmChCfg ch 0 63 60 = 1)) = true := by
    simp only [Bool.or_eq_true, decide_eq_true_eq]
    omega
  dsimp only
  rw [if_neg running, full, if_pos (by decide), svcNoCapacity]

theorem Dev.channelRemoval_room (live : 2 ≤ d.fld s .fmChCfg ch 0 63 60) (room : (((d.svcShow s 5 ch 1).farUnit s ch).all fun u =>
    (d.svcShow s 5 ch 1).canEvacuate t s (ch / 6) u.1 u.2) = true) {e : Dev}
    (moved : ((d.svcShow s 5 ch 1).farUnit s ch).foldl (fun x u => x.evacuate t s (ch / 6) u.1 u.2) (d.svcShow s 5 ch 1) = e) :
    d.channelRemoval t s ch = ((e.channelOut s ch).2.svcEnd s 5 ch (e.channelOut s ch).1).answer [word (e.channelOut s ch).1] := by
  refine Dev.svc_runs free ?_
  rw [d.fld_svcShow s 5 ch 1 (r := .fmChCfg) (by decide) hch (by decide)]
  have running : ¬(decide (d.fld s .fmChCfg ch 0 63 60 = 0) || decide (d.fld s .fmChCfg ch 0 63 60 = 1)) = true := by
    simp only [Bool.or_eq_true, decide_eq_true_eq]
    omega
  dsimp only
  rw [if_neg running, room, if_neg (by decide), moved]

theorem Dev.channelReturn_refused {dimms : List Dimm} {trained : Bool}
    (other : d.fld s .fmChCfg ch 0 63 60 ≠ 4 ∨ (d.chan s ch).dimms ≠ dimms ∨ trained = false) :
    d.channelReturn t s ch dimms trained = ((d.svcShow s 6 ch 1).svcEnd s 6 ch 7).answer [word 7] := by
  refine Dev.svc_runs free ?_
  rw [d.fld_svcShow s 6 ch 1 (r := .fmChCfg) (by decide) hch (by decide), Dev.chan_svcShow, svcRefused, if_pos]
  rcases other with stopped | different | untrained
  · simp [stopped]
  · simp [different]
  · simp [untrained]

theorem Dev.channelReturn_trains {dimms : List Dimm} (removed : d.fld s .fmChCfg ch 0 63 60 = 4) (same : (d.chan s ch).dimms = dimms)
    (some_ : dimms ≠ []) {e f : Dev}
    (ready : ((d.svcShow s 6 ch 1).setFld s .fmChCfg ch 0 63 60 2).onChan s ch (fun x => { x with selfRefresh := false }) = e)
    (reverted : (e.farUnit s ch).foldl (fun x u => x.revertRuns t s (ch / 6) u.1) e = f) :
    d.channelReturn t s ch dimms true = ((f.channelIn s ch).2.svcEnd s 6 ch (f.channelIn s ch).1).answer [word (f.channelIn s ch).1] := by
  refine Dev.svc_runs free ?_
  have goes : ¬(decide (d.fld s .fmChCfg ch 0 63 60 ≠ 4) || decide ((d.chan s ch).dimms ≠ dimms) || dimms.isEmpty || !true) = true := by
    simp [removed, same, some_]
  rw [d.fld_svcShow s 6 ch 1 (r := .fmChCfg) (by decide) hch (by decide), Dev.chan_svcShow, if_neg goes]
  dsimp only
  rw [ready, reverted]

end

/-! ### EXPANDER_REMOVAL (R321, R511) -/

section
variable {t : Tables} {d : Dev} {s p : Nat} (hp : p < 4)
include hp

theorem cxlRoot_lt : cxlRoot p < 32 := by
  interval_cases p <;> decide

/-- A removed expander leaves the pool. -/
theorem Dev.expanderOut_leaves (done : (d.expanderOut t s p).1 = 2) :
    (d.expanderOut t s p).2.fld s .fmCxl (p / 2) (p % 2) 63 60 = 0 ∧ (d.expanderOut t s p).2.fld s .fmCxl (p / 2) (p % 2) 44 32 = 0 ∧
      ((d.expanderOut t s p).2.port s (cxlRoot p)).present = false := by
  have hub : p / 2 < Reg.fmCxl.place.c1 := by show p / 2 < 2; omega
  have port : p % 2 < Reg.fmCxl.place.c2 := by show p % 2 < 2; omega
  unfold Dev.expanderOut at done ⊢
  dsimp only at done ⊢
  split at done
  case isTrue => cases done
  case isFalse go =>
    rw [if_neg go]
    refine ⟨?_, ?_, ?_⟩
    · rw [Dev.fld, Dev.reg_setReg_other _ s s (by decide) hub port (cxlRoot_lt hp) (by decide), Dev.reg_onPort, Dev.reg_setReg_same]
      exact bits_putBits_same _ (by decide) (by decide) (by decide)
    · rw [Dev.fld, Dev.reg_setReg_other _ s s (by decide) hub port (cxlRoot_lt hp) (by decide), Dev.reg_onPort, Dev.reg_setReg_same,
        bits_putBits_apart _ _ (by decide) (by decide) (.inr (by decide)),
        bits_putBits_apart _ _ (by decide) (by decide) (.inr (by decide))]
      exact bits_putBits_same _ (by decide) (by decide) (by decide)
    · rw [Dev.port_setReg, Dev.port_onPort_same]

/-- The register of a port's expanders while WH_SVC shows an operation. -/
theorem Dev.reg_fmCxl_svcShow (op arg : Nat) : (d.svcShow s op arg 1).reg s .fmCxl (p / 2) (p % 2) = d.reg s .fmCxl (p / 2) (p % 2) :=
  d.reg_svcShow s op arg 1 (by decide) (by show p / 2 < 2; omega) (by show p % 2 < 2; omega) s

variable (free : d.fld s .whSvc 0 0 58 56 ≠ 1)
include free

theorem Dev.expanderRemoval_refused (absent : bits (d.reg s .fmCxl (p / 2) (p % 2)) 63 60 ≠ 2) :
    d.expanderRemoval t s p = ((d.svcShow s 7 p 1).svcEnd s 7 p 7).answer [word 7] := by
  refine Dev.svc_runs free ?_
  rw [d.reg_fmCxl_svcShow hp]
  dsimp only
  rw [if_pos absent, svcRefused]

section
variable (there : bits (d.reg s .fmCxl (p / 2) (p % 2)) 63 60 = 2) {gibs : Nat} (size : bits (d.reg s .fmCxl (p / 2) (p % 2)) 44 32 = gibs)
  {held : Bool} (owned : (!(t.owners (cxlBase s p) (cxlBase s p + gibs * gib)).isEmpty) = held)
include there size owned

theorem Dev.expanderRemoval_full (holds : held = true) (full : (d.svcShow s 7 p 1).canEvacuate t s (p / 2) (cxlGib p) gibs = false) :
    d.expanderRemoval t s p = ((d.svcShow s 7 p 1).svcEnd s 7 p 6).answer [word 6] := by
  refine Dev.svc_runs free ?_
  rw [d.reg_fmCxl_svcShow hp]
  dsimp only
  rw [if_neg (by simp [there]), size, owned, full, holds, if_pos (by decide), svcNoCapacity]

theorem Dev.expanderRemoval_room (room : held = false ∨ (d.svcShow s 7 p 1).canEvacuate t s (p / 2) (cxlGib p) gibs = true) {e f : Dev}
    (leaving : (d.svcShow s 7 p 1).setFld s .fmCxl (p / 2) (p % 2) 63 60 3 = e)
    (moved : (if held then e.evacuate t s (p / 2) (cxlGib p) gibs else e) = f) :
    d.expanderRemoval t s p = ((f.expanderOut t s p).2.svcEnd s 7 p (f.expanderOut t s p).1).answer [word (f.expanderOut t s p).1] := by
  refine Dev.svc_runs free ?_
  have goes : ¬(held && !(d.svcShow s 7 p 1).canEvacuate t s (p / 2) (cxlGib p) gibs) = true := by
    rcases room with none_ | room
    · simp [none_]
    · simp [room]
  rw [d.reg_fmCxl_svcShow hp]
  dsimp only
  rw [if_neg (by simp [there]), size, owned, if_neg goes, leaving, moved]

end

end

/-! ### RE_ADMISSION (R512) -/

section
variable {t : Tables} {d : Dev} {s n : Nat} (hn : n < 512) (free : d.fld s .whSvc 0 0 58 56 ≠ 1)
include hn free

theorem Dev.reAdmission_admits (permanent : d.fld s .fcFenceA n 0 63 62 = 3) :
    d.reAdmission t s n true = (((d.svcShow s 8 n 1).admitEntry t s n).svcEnd s 8 n 2).answer [word 2] := by
  refine Dev.svc_runs free ?_
  rw [Dev.readmit, d.fld_svcShow s 8 n 1 (r := .fcFenceA) (by decide) hn (by decide), if_neg (by simp [permanent])]
  rfl

theorem Dev.reAdmission_refused {passed : Bool} (other : d.fld s .fcFenceA n 0 63 62 ≠ 3 ∨ passed = false) :
    d.reAdmission t s n passed = ((d.svcShow s 8 n 1).svcEnd s 8 n 7).answer [word 7] := by
  refine Dev.svc_runs free ?_
  rw [Dev.readmit, d.fld_svcShow s 8 n 1 (r := .fcFenceA) (by decide) hn (by decide), if_pos (by simpa using other)]
  rfl

end

end Sys2Proof.Machine
end

section
/-! ACTIVATE (R502), the management port (R525, R526) and JTAG's request to enter TEST (R472). -/

namespace Sys2Proof.Machine

/-! ### ACTIVATE: each socket restarts its Wheelhouse onto the staged copy -/

@[simp] theorem Dev.wheel_setReg (d : Dev) (s : Nat) (r : Reg) (i j : Nat) (v : Word) (t : Nat) :
    (d.setReg s r i j v).wheel t = d.wheel t :=
  Dev.setReg_keeps Socket.wheel (fun _ _ => rfl) (fun _ _ => rfl) d s r i j v t

/-- What a WHR clears is no part of the Wheelhouse's memory. -/
@[simp] theorem Dev.wheel_whrClear (d : Dev) (s t : Nat) : (d.whrClear s).wheel t = d.wheel t := by
  unfold Dev.whrClear Dev.startWheel
  refine (foldl_keeps (fun x : Dev => x.wheel t) (fun x i _ => ?_) _).trans ?_
  · exact Dev.onSock_keeps Socket.wheel x _ _ (by intro k; rfl) t
  · exact Dev.onSock_keeps Socket.wheel d s _ (by intro k; rfl) t

section
variable {a : Admin} {d : Dev} {s : Nat} {m : List Byte}

/-- A copy that verifies again becomes the running one. -/
theorem wheelRestart_verified (staged : (d.wheel s).staged = m) (some_ : m ≠ []) (verified : manStatus (d.wheel s).fuses m = bootOk) :
    ((wheelRestart a d s true).2.wheel s).kept = m ∧ ((wheelRestart a d s true).2.wheel s).staged = [] := by
  have there : ¬m.isEmpty = true := by simpa using some_
  have good : ¬(!true || decide (manStatus (d.wheel s).fuses m ≠ bootOk)) = true := by simp [verified]
  unfold wheelRestart
  dsimp only
  rw [staged, if_neg there, if_neg good]
  split
  · simp
  · split
    · simp [Wheel.newJournal, Wheel.flashWrite, Wheel.flashErase]
    · simp [Wheel.newJournal, Wheel.flashWrite, Wheel.flashErase]

/-- A restart is one socket's. -/
theorem wheelRestart_other {t : Nat} (other : t ≠ s) (verified : Bool) : (wheelRestart a d s verified).2.wheel t = d.wheel t := by
  unfold wheelRestart
  dsimp only
  repeat' split
  all_goals simp [Dev.wheel_onWheel_ne _ _ other]

/-- A socket stages a copy and restarts its Wheelhouse onto it. -/
def restartOnto (m : List Byte) (x : Admin × Dev) (t : Nat) : Admin × Dev :=
  wheelRestart x.1 (x.2.onWheel t fun w => { w with staged := m }) t true

theorem restartOnto_same (some_ : m ≠ []) (x : Admin × Dev) {t : Nat} (verified : manStatus (x.2.wheel t).fuses m = bootOk) :
    ((restartOnto m x t).2.wheel t).kept = m ∧ ((restartOnto m x t).2.wheel t).staged = [] :=
  wheelRestart_verified (by rw [Dev.wheel_onWheel_same]) some_ (by rw [Dev.wheel_onWheel_same]; exact verified)

theorem restartOnto_other (x : Admin × Dev) {t u : Nat} (other : t ≠ u) : (restartOnto m x u).2.wheel t = x.2.wheel t := by
  rw [restartOnto, wheelRestart_other other, Dev.wheel_onWheel_ne _ _ other]

/-- Every socket of a turn runs the copy at the end, when it verifies there. -/
theorem restarts_run (some_ : m ≠ []) {turn : List Nat} (once : turn.Nodup) (x : Admin × Dev) {t : Nat} (listed : t ∈ turn)
    (verified : manStatus (x.2.wheel t).fuses m = bootOk) :
    ((turn.foldl (restartOnto m) x).2.wheel t).kept = m ∧ ((turn.foldl (restartOnto m) x).2.wheel t).staged = [] := by
  obtain ⟨y, before, after⟩ := foldl_visits (fun x : Admin × Dev => x.2.wheel t) listed once
    (fun x u _ other => restartOnto_other x (Ne.symm other)) x
  rw [after]
  exact restartOnto_same some_ y (by rw [before]; exact verified)

end

/-- The order of the restarts: workers, then standby managers, and the manager last. -/
def Dev.restartTurn (d : Dev) (m : Nat) : List Nat :=
  let others := (d.members m).filter fun t => t ≠ m
  let st := d.fld m .whSystem 0 0 31 16
  (others.filter fun t => !st.testBit t) ++ (others.filter fun t => st.testBit t) ++ [m]

theorem Dev.mem_restartTurn {d : Dev} {m t : Nat} : t ∈ d.restartTurn m ↔ t = m ∨ t ∈ d.members m := by
  by_cases manager : t = m
  · simp [Dev.restartTurn, manager]
  · cases standby : (d.fld m .whSystem 0 0 31 16).testBit t <;> simp [Dev.restartTurn, manager, standby]

theorem Dev.nodup_restartTurn (d : Dev) (m : Nat) : (d.restartTurn m).Nodup := by
  have once : ((d.members m).filter fun t => t ≠ m).Nodup := (List.nodup_range.filter _).filter _
  unfold Dev.restartTurn
  refine List.nodup_append.2 ⟨List.nodup_append.2 ⟨once.filter _, once.filter _, ?_⟩, List.nodup_singleton _, ?_⟩
  · rintro t worker u standby rfl
    simp_all
  · rintro t other u manager rfl
    simp_all

section
variable {a : Admin} {d : Dev} {s : Nat} {m : List Byte} (manager : d.isManager s = true) (awake : d.awake s = true)
  (free : d.fld s .whSvc 0 0 58 56 ≠ 1) (idle : a.order = none) (staged : (d.wheel s).staged = m) (some_ : m ≠ [])
include manager awake free idle staged some_

/-- The sockets when every one has restarted its Wheelhouse. -/
theorem activate_runs {x : Admin × Dev}
    (restarted : ((d.svcShow s 2 0 1).restartTurn s).foldl (restartOnto m) (a, d.svcShow s 2 0 1) = x)
    (all_ : ∀ t ∈ (d.svcShow s 2 0 1).restartTurn s, (x.2.wheel t).kept = m) :
    activate a d s = (x.1, (x.2.svcEnd s 2 0 2).answer [2]) := by
  have goes : ¬(!d.isManager s || !d.awake s || (d.wheel s).staged.isEmpty) = true := by simp [manager, awake, staged, some_]
  have done : (((d.svcShow s 2 0 1).restartTurn s).all fun t => decide ((x.2.wheel t).kept = m)) = true := by
    simpa using all_
  rw [activate, if_neg goes]
  refine svcTables_runs free idle ?_
  rw [Dev.wheel_svcShow, staged]
  show (if ((d.svcShow s 2 0 1).restartTurn s).all (fun t =>
    decide (((((d.svcShow s 2 0 1).restartTurn s).foldl (restartOnto m) (a, d.svcShow s 2 0 1)).2.wheel t).kept = m)) then svcDone
      else svcVerify, (((d.svcShow s 2 0 1).restartTurn s).foldl (restartOnto m) (a, d.svcShow s 2 0 1)).1,
      (((d.svcShow s 2 0 1).restartTurn s).foldl (restartOnto m) (a, d.svcShow s 2 0 1)).2) = _
  rw [restarted, done]
  rfl

/-- The staged copy runs on every socket, where it verifies on each. -/
theorem activate_effect (verified : ∀ t, t = s ∨ t ∈ d.members s → manStatus (d.wheel t).fuses m = bootOk) :
    (activate a d s).2.fld s .whSvc 0 0 58 56 = 2 ∧ (activate a d s).2.out = [2] ∧
      ∀ t ∈ d.members s, ((activate a d s).2.wheel t).kept = m ∧ ((activate a d s).2.wheel t).staged = [] := by
  obtain ⟨x, restarted⟩ : ∃ x, ((d.svcShow s 2 0 1).restartTurn s).foldl (restartOnto m) (a, d.svcShow s 2 0 1) = x := ⟨_, rfl⟩
  have ran (t : Nat) (listed : t ∈ (d.svcShow s 2 0 1).restartTurn s) : (x.2.wheel t).kept = m ∧ (x.2.wheel t).staged = [] := by
    have member := Dev.mem_restartTurn.1 listed
    rw [Dev.members_svcShow] at member
    rw [← restarted]
    exact restarts_run some_ (Dev.nodup_restartTurn ..) _ listed (by rw [Dev.wheel_svcShow]; exact verified t member)
  rw [activate_runs manager awake free idle staged some_ restarted fun t listed => (ran t listed).1]
  refine ⟨x.2.stat_answered s 0 (by decide) (by decide) _, rfl, fun t member => ?_⟩
  obtain ⟨kept, stagedCopy⟩ := x.2.wheel_svcEnd s 0 2 2 t
  have listed : t ∈ (d.svcShow s 2 0 1).restartTurn s := Dev.mem_restartTurn.2 (.inr (by rwa [Dev.members_svcShow]))
  rw [Dev.wheel_answer, kept, stagedCopy]
  exact ran t listed

end

/-! ### The management port (R526) -/

section
variable {a : Admin} {d : Dev} {s : Nat}

/-- In OFF and TEST the port answers nothing. -/
theorem port_silent (off : ¬d.i3c s = true) (req op arg unit_ : Nat) (b : Board) :
    powerRequest a d s req b = (a, d.answer []) ∧ d.serviceRequest a s op arg = d.answer [] ∧ d.statusRequest s = d.answer [] ∧
      d.faultsRequest s = d.answer [] ∧ d.identityRequest s = d.answer [] ∧ d.trainingRequest s unit_ = d.answer [] := by
  have silent : (!d.i3c s) = true := by simpa using off
  refine ⟨?_, ?_, ?_, ?_, ?_, ?_⟩
  · exact if_pos silent
  · rw [Dev.serviceRequest, if_pos silent]
  · rw [Dev.statusRequest, if_pos silent]
  · rw [Dev.faultsRequest, if_pos silent]
  · rw [Dev.identityRequest, if_pos silent]
  · rw [Dev.trainingRequest, if_pos silent]

variable (up : d.i3c s = true)
include up

theorem answers_of_up : ¬(!d.i3c s) = true := by simp [up]

theorem powerRequest_on_off (standby : d.mode s = 1) (off : (d.wheel s).sleeping = false) (b : Board) :
    powerRequest a d s 1 b = ((coldReset a d s { b with autoOn := true }).1,
      (coldReset a d s { b with autoOn := true }).2.answer [ccOk]) := by
  simp only [powerRequest, if_neg (answers_of_up up), standby, off, ne_eq, not_true, if_false, Bool.false_eq_true]

theorem powerRequest_on_asleep (standby : d.mode s = 1) (asleep : (d.wheel s).sleeping = true) (b : Board) :
    powerRequest a d s 1 b = ((warmReset a d s b.farTrained b.nearTrained).1,
      (warmReset a d s b.farTrained b.nearTrained).2.answer [ccOk]) := by
  simp only [powerRequest, if_neg (answers_of_up up), standby, asleep, ne_eq, not_true, if_false, if_true]

theorem powerRequest_sleep (awake : d.runs s = true ∨ d.mode s = modeMaintain) (b : Board) :
    powerRequest a d s 2 b = ((sleepSocket a d s).1, (sleepSocket a d s).2.answer [ccOk]) := by
  have sleeps : (d.runs s || decide (d.mode s = modeMaintain)) = true := by simpa using awake
  simp only [powerRequest, if_neg (answers_of_up up), sleeps, if_true]

theorem powerRequest_cold (b : Board) : powerRequest a d s 3 b = ((coldReset a d s b).1, (coldReset a d s b).2.answer [ccOk]) := by
  rw [powerRequest, if_neg (answers_of_up up)]

theorem powerRequest_warm (b : Board) : powerRequest a d s 4 b = ((warmReset a d s b.farTrained b.nearTrained).1,
    (warmReset a d s b.farTrained b.nearTrained).2.answer [ccOk]) := by
  rw [powerRequest, if_neg (answers_of_up up)]

/-- A request outside 1 to 4 is none, a power-on is one in STANDBY alone, and a sleep in RUN and MAINTAIN. -/
theorem powerRequest_refused {req : Nat} (other : req = 0 ∨ 4 < req ∨ (req = 1 ∧ d.mode s ≠ 1) ∨
    (req = 2 ∧ d.runs s = false ∧ d.mode s ≠ modeMaintain)) (b : Board) : powerRequest a d s req b = (a, d.answer [ccRefused]) := by
  refine (if_neg (answers_of_up up)).trans ?_
  rcases other with rfl | above | ⟨rfl, mode⟩ | ⟨rfl, stopped, mode⟩
  · rfl
  · obtain ⟨n, rfl⟩ : ∃ n, req = n + 5 := ⟨req - 5, by omega⟩
    rfl
  · exact if_pos mode
  · exact if_neg (by simp [stopped, mode])

theorem Dev.serviceRequest_starts {op : Nat} (from_ : 4 ≤ op) (upto : op ≤ 9) (free : d.fld s .whSvc 0 0 58 56 ≠ 1)
    (idle : op = 4 ∨ op = 9 → a.order = none) (arg : Nat) :
    d.serviceRequest a s op arg = (d.svcShow s op arg 1).answer [ccOk] := by
  have low : ¬op < 4 := by omega
  have high : ¬9 < op := by omega
  have starts : ¬(decide (op < 4) || decide (9 < op) || decide (d.fld s .whSvc 0 0 58 56 = svcRunning) ||
      ((decide (op = 4) || decide (op = 9)) && a.order.isSome)) = true := by
    by_cases tables : op = 4 ∨ op = 9
    · simp [low, high, svcRunning, free, idle tables]
    · obtain ⟨four, nine⟩ := not_or.1 tables
      simp [low, high, svcRunning, free, four, nine]
  rw [Dev.serviceRequest, if_neg (answers_of_up up)]
  dsimp only
  rw [if_neg starts, svcRunning]

theorem Dev.serviceRequest_busy (busy : d.fld s .whSvc 0 0 58 56 = 1) (op arg : Nat) :
    d.serviceRequest a s op arg = d.answer [ccRefused] := by
  rw [Dev.serviceRequest, if_neg (answers_of_up up)]
  dsimp only
  rw [if_pos (by simp [busy, svcRunning])]

theorem Dev.trainingRequest_ready {ch : Nat} (hch : ch < 12) (ready : d.fld s .fmChCfg ch 0 63 60 = 2) :
    d.trainingRequest s (0x210 + ch) = d.free.2.answer [ccOk, Config.freeValue d.fresh] := by
  have unit : 0x210 ≤ 0x210 + ch ∧ 0x210 + ch < 0x21C := by omega
  have within : (decide (0x210 ≤ 0x210 + ch) && decide (0x210 + ch < 0x21C)) = true := by simpa using unit
  unfold Dev.trainingRequest
  dsimp only
  rw [if_neg (answers_of_up up)]
  simp only [if_pos within, Nat.add_sub_cancel_left, ready, decide_true, Bool.not_true, Bool.false_eq_true, if_false, Dev.free]

end

/-- A socket asleep is in STANDBY. -/
theorem sleepSocket_standby (a : Admin) (d : Dev) (s : Nat) :
    (sleepSocket a d s).2.mode s = 1 ∧ ((sleepSocket a d s).2.wheel s).sleeping = true := by
  unfold sleepSocket
  dsimp only
  rw [Dev.mode_onWheel, Dev.wheel_onWheel_same, Dev.mode]
  exact ⟨Dev.fld_setFld_same _ s (by decide) (by decide) (by decide), rfl⟩

/-- JTAG enters TEST, whose domain comes on. -/
theorem Dev.enterTest_effect (d : Dev) (s : Nat) : (d.enterTest s).mode s = 7 ∧ (d.enterTest s).fld s .pwDom 0 0 59 59 = 1 := by
  unfold Dev.enterTest
  refine ⟨Dev.fld_setFld_same _ s (by decide) (by decide) (by decide), ?_⟩
  rw [Dev.fld_setFld_other _ s s (by decide) (by decide) (by decide) (by decide) (by decide), Dev.fld, Dev.reg_setReg_same, putBit,
    bits_putBits_same _ (by decide) (by decide) (by decide)]
  rfl

/-! ### The commands -/

section
variable {s : State} {so : Sock}

theorem exec_power {req : Byte} {b : Board} {r : Admin × Dev} (answers : powerRequest s.adm s.dev so.val req.toNat b = r) :
    exec (.power so req b) s = .next (s.tabled r) :=
  State.next_tabled answers

/-- In OFF and TEST the management port answers nothing. -/
theorem exec_port_silent (off : ¬s.dev.i3c so.val = true) (req : Byte) (b : Board) (op : BitVec 4) (arg : BitVec 16) (unit_ : BitVec 12) :
    exec (.power so req b) s = .next (s.tabled (s.adm, s.dev.answer [])) ∧
      exec (.service so op arg) s = .next (s.withDev (s.dev.answer [])) ∧
      exec (.status so) s = .next (s.withDev (s.dev.answer [])) ∧ exec (.faults so) s = .next (s.withDev (s.dev.answer [])) ∧
      exec (.identity so) s = .next (s.withDev (s.dev.answer [])) ∧
      exec (.training so unit_) s = .next (s.withDev (s.dev.answer [])) := by
  obtain ⟨power, service, status, faults, identity, training⟩ := port_silent (a := s.adm) off req.toNat op.toNat arg.toNat unit_.toNat b
  exact ⟨exec_power power, State.next_withDev service, State.next_withDev status, State.next_withDev faults,
    State.next_withDev identity, State.next_withDev training⟩

end

/-- Settles O55: each operation runs when WH_SVC shows none, and ends with the status of its own branch. -/
theorem managementPortAndService : Obligations.ManagementPortAndService := by
  unfold Obligations.ManagementPortAndService
  intro s so req board op arg unit_ image pod ch dimms trained p n passed d a k stat ok ends up free m d1 d2 staged d3 h0 h1 land d4 d4
    ds dx dy d5 d6 d7 d8 st units room e5 t6 e6 cxl gibs lo held room7 t7 e7
  refine ⟨fun off => exec_port_silent off .., fun on => ⟨?powerOn, ?powerOnAsleep, ?sleep, ?cold, ?warm, ?powerRefused, ?service,
    ?serviceBusy, ?status, ?faults, ?identity, ?training⟩, ?jtag, ?jtagRefused, ?firmwareUpdate, ?activate, ?rollOut, ?podQuiesce,
    ?substitution, ?substitutionRefused, ?removalFull, ?removal, ?channelReturn, ?channelReturnRefused, ?expanderRefused, ?expanderFull,
    ?expander, ?reAdmission, ?reAdmissionRefused⟩
  case powerOn => exact fun standby off => exec_power (powerRequest_on_off on standby off board)
  case powerOnAsleep => exact fun standby asleep => exec_power (powerRequest_on_asleep on standby asleep board)
  case sleep => exact fun awake => ⟨exec_power (powerRequest_sleep on awake board), sleepSocket_standby a d k⟩
  case cold => exact exec_power (powerRequest_cold on board)
  case warm => exact exec_power (powerRequest_warm on board)
  case powerRefused =>
    intro other
    refine exec_power (powerRequest_refused on ?_ board)
    rcases other with none_ | above | ⟨rfl, mode⟩ | ⟨rfl, mode⟩
    · exact .inl none_
    · exact .inr (.inl above)
    · exact .inr (.inr (.inl ⟨rfl, mode⟩))
    · exact .inr (.inr (.inr ⟨rfl, mode⟩))
  case service =>
    intro from_ upto ended idle
    refine State.next_withDev (Dev.serviceRequest_starts on from_ upto ended (fun tables => idle ?_) arg.toNat)
    exact tables.imp (fun four => BitVec.eq_of_toNat_eq four) fun nine => BitVec.eq_of_toNat_eq nine
  case serviceBusy => exact fun busy => State.next_withDev (Dev.serviceRequest_busy on (not_not.1 busy) op.toNat arg.toNat)
  case status => exact State.next_withDev (if_neg (answers_of_up on))
  case faults => exact State.next_withDev (if_neg (answers_of_up on))
  case identity => exact State.next_withDev (if_neg (answers_of_up on))
  case training =>
    intro unit ready
    refine State.next_withDev ?_
    rw [unit]
    exact Dev.trainingRequest_ready on ch.isLt ready
  case jtag => exact fun load => ⟨d.enterTest k, State.next_withDev (if_neg (not_not.2 load)), d.enterTest_effect k⟩
  case jtagRefused => exact fun other => State.next_withDev (if_pos other)
  case firmwareUpdate =>
    intro manager awake ended
    have fuses : (d2.wheel k).fuses = (d.wheel k).fuses := d.fuses_copied k image
    have kept : (d2.wheel k).staged = staged := d.staged_copied k image
    refine ⟨d.firmwareUpdate a k image, State.next_withDev rfl, fun bad => ?_, fun good other => ?_, fun good fits => ?_⟩
    · have stages : d2.staging a k image = (4, d2) := if_pos (by rw [fuses]; exact bad)
      rw [← kept]
      exact Dev.firmwareUpdate_effect manager awake ended stages (by decide)
    · have stages : d2.staging a k image = (3, d2) :=
        (if_neg (by rw [fuses]; exact not_not.2 good)).trans (if_pos (by rw [other]; rfl))
      rw [← kept]
      exact Dev.firmwareUpdate_effect manager awake ended stages (by decide)
    · have stages : d2.staging a k image = (2, d2.onWheel k fun w => { w with staged := m }) :=
        (if_neg (by rw [fuses]; exact not_not.2 good)).trans (if_neg (by rw [fits]; decide))
      have effect := Dev.firmwareUpdate_effect manager awake ended stages (by decide)
      rw [Dev.wheel_onWheel_same] at effect
      exact effect
  case activate =>
    intro manager awake ended idle some_ here verified
    refine ⟨activate a d k, State.next_tabled rfl, activate_effect manager awake ended idle rfl some_ ?_⟩
    rintro t (rfl | member)
    · exact here
    · exact verified t member
  case rollOut => exact fun manifest ended => State.next_ended (Dev.rollOut_runs manifest ended rfl)
  case podQuiesce =>
    exact fun enabled whole first second => State.next_ended (Dev.podQuiesce_running enabled whole first second rfl rfl)
  case substitution =>
    intro enabled ended idle
    have walked : substitute a ds k pod.val = if dx.1 then substituteEnd a dx.2 k pod.val else (svcRunning, a, dx.2) := substitute_eq rfl
    refine ⟨podSubstitution a d k pod.val, State.next_tabled rfl, fun fills => ?_, fun empty x spare => ?_, fun empty none_ => ?_⟩
    · rw [fills, if_neg (by decide)] at walked
      exact podSubstitution_effect enabled ended idle (by decide) walked
    · obtain ⟨e, ends⟩ := substituteEnd_spare (a := a) spare
      rw [empty, if_pos rfl, ends] at walked
      exact podSubstitution_effect enabled ended idle (by decide) walked
    · obtain ⟨e, ends⟩ := substituteEnd_none (a := a) none_
      rw [empty, if_pos rfl, ends] at walked
      exact podSubstitution_effect enabled ended idle (by decide) walked
  case substitutionRefused => exact fun disabled ended idle => State.next_tabled (podSubstitution_refused disabled ended idle)
  case removalFull => exact fun ended live full => State.next_ended (Dev.channelRemoval_full ch.isLt ended live full)
  case removal =>
    exact fun ended live there => ⟨State.next_ended (Dev.channelRemoval_room ch.isLt ended live there rfl),
      Dev.channelOut_waits, Dev.channelOut_stops⟩
  case channelReturn =>
    rintro ended removed same some_ rfl
    refine ⟨?_, State.next_ended (Dev.channelReturn_trains ch.isLt ended removed same some_ rfl rfl), Dev.channelIn_ready⟩
    exact (Dev.fld_onChan ..).trans (Dev.fld_setFld_same _ k (by decide) (by decide) (by decide))
  case channelReturnRefused => exact fun ended other => State.next_ended (Dev.channelReturn_refused ch.isLt ended other)
  case expanderRefused => exact fun ended absent => State.next_ended (Dev.expanderRemoval_refused p.isLt ended absent)
  case expanderFull => exact fun ended there holds full => State.next_ended (Dev.expanderRemoval_full p.isLt ended there rfl rfl holds full)
  case expander =>
    intro ended there space
    refine ⟨State.next_ended (Dev.expanderRemoval_room p.isLt ended there rfl rfl space rfl rfl), ?_⟩
    rintro done y rfl
    exact Dev.expanderOut_leaves p.isLt done
  case reAdmission => exact fun ended permanent => State.next_ended (Dev.reAdmission_admits n.isLt ended permanent)
  case reAdmissionRefused => exact fun ended other => State.next_ended (Dev.reAdmission_refused n.isLt ended other)

end Sys2Proof.Machine
end
